-- ==== Sys2Proof/Word.lean ====
section
/-! DEFINITION. The word types of the part and their plainest arithmetic. -/

namespace Sys2Proof

/-- A control-space word, a command word or a 32-bit element. -/
abbrev Word := BitVec 32

/-- One byte of Tarn, Mere, flash or a message. -/
abbrev Byte := BitVec 8

/-- A scalar-pipe register. -/
abbrev DWord := BitVec 64

/-- The word of a number, modulo 2^32. -/
abbrev Word.ofNat (n : Nat) : Word := BitVec.ofNat 32 n

/-- The byte of a number, modulo 2^8. -/
abbrev Byte.ofNat (n : Nat) : Byte := BitVec.ofNat 8 n

end Sys2Proof
end

