-- ==== Sys2Proof/Syntax.lean ====
section
/-! DEFINITION. The commands of the block: one constructor per row of spec/opcode_table.json. An operand is what only the
outside (a register writer, a peer, a pin, the order of arrival) can supply; everything else the step takes from State. -/

namespace Sys2Proof

/-- Core number n (R13). -/
abbrev CoreId := Fin 12
/-- Array a of a core. -/
abbrev ArrId := Fin 4
/-- Scalar pipe of a core. -/
abbrev PipeId := Fin 8
/-- Stack number s (R15). -/
abbrev StackId := Fin 24
/-- Fabric port p. -/
abbrev PortId := Fin 12
/-- Ring lane b (R347). -/
abbrev LaneId := Fin 5
/-- Task number t. -/
abbrev TaskId := Fin 64

/-- Who makes a control-space access (R497). -/
inductive Requester where
  | weast
  | config (qp : Nat)
  | spu
deriving DecidableEq, Repr

/-- The two engines that move data (R196). -/
inductive Engine where
  | fxe
  | sxe
deriving DecidableEq, Repr

/-- What the code of one access unit found (R224). -/
inductive Ecc where
  | clean
  | corrected
  | uncorrectable
deriving DecidableEq, Repr

/-- Bytes in error of each of the two interleaved codewords of an access unit (R224). -/
structure UnitErr where
  even : Nat
  odd : Nat
deriving DecidableEq, Repr

/-- What the code finds in the access units that a command touches: unit numbers (Mere address / 256) with what is found there;
a unit not named is clean. -/
abbrev EccMap := List (Nat × UnitErr)

/-- Symbols in error of each of the two codewords of a link block (R309, R312). -/
structure Fec where
  first : Nat
  second : Nat
deriving DecidableEq, Repr

/-- Why a port leaves UP for RETRAIN (R315): NAKs with no progress, a lane of whose last 64 words so many failed the inner code's
check (R309), or a request. -/
inductive RetrainCause where
  | naks
  | laneLoss (lane : Fin 8) (words : Nat)
  | request
deriving DecidableEq, Repr

/-- How a retrain ends (R315). -/
inductive RetrainEnd where
  | locked
  | failed
deriving DecidableEq, Repr

/-- One request at a Tarn bank in a core cycle (R184): its port, numbered in the order of the table of Tarn ports (0 to 3 activation
feeders, 4 to 7 weight feeders, 8 VXE reads, 9 RDU, 10 VXE writes, 11 SPU, 12 SXE source reads, 13 mesh reads, 14 FXE landing, 15
ingress, 16 Weast), its row, and whether it writes. -/
structure TarnReq where
  port : Nat
  bank : Nat
  line : Nat
  isWrite : Bool
deriving DecidableEq, Repr

/-- The kinds of unit that send on the mesh, as MESH_PRIO tells them apart (R284). -/
inductive MeshUnit where
  | core
  | lse
  | ore
  | stack
  | fabric
  | move
  | weast
deriving DecidableEq, Repr

/-- A flit at the head of an input of a router, in one virtual channel, and what sent it (R282, R284). -/
structure MeshHead where
  input : Nat
  vc : Nat
  sender : MeshUnit
deriving DecidableEq, Repr

/-- A read or a write that arrives at a core's Tarn (R190). -/
inductive Access where
  | rd (len : Nat)
  | wr (data : List Byte)
deriving DecidableEq, Repr

/-- A fabric packet: the fields of its header (R325) and its data. -/
structure Packet where
  dest : Nat := 0
  cls : Nat := 0
  d : Bool := false
  dim : Nat := 3
  src : Nat := 0
  task : Nat := 0
  op : Nat := 0
  lastx : Bool := false
  rsen : Bool := false
  hops : Nat := 0
  tag : Nat := 0
  addr : Nat := 0
  rfcore : Nat := 0
  rflag : Nat := 0
  len : Nat := 0
  rcnt : Nat := 0
  cmdid : Nat := 0
  status : Nat := 0
  atype : Nat := 0
  data : List Byte := []
deriving DecidableEq, Repr

/-- What a peer sends in the handshake of R321. -/
structure PeerHello where
  coord : Nat
  port : Nat
  nonce : List Byte
  ephX : Nat
  ephY : Nat
  devX : Nat
  devY : Nat
  sigR : Nat
  sigS : Nat
deriving DecidableEq, Repr

/-- One PTP message that the part takes as a slave (R298). -/
inductive PtpMessage where
  | announce
  | sync (arrived : Nat)
  | followUp (origin : Nat)
  | delayReqSent (left : Nat)
  | delayResp (received : Nat)
deriving DecidableEq, Repr

/-- One sample of every sensor (R489). -/
structure Sample where
  vinMv : Nat
  iinMa : Nat
  pinDw : Nat
  pin10Dw : Nat
  coolIn : Int
  coolOut : Int
  flow : Nat
  leak : Bool
  lowFlowMs : Nat
  tcore : List Int
  tstack : List Int
deriving DecidableEq, Repr

/-- A datagram as it reaches the OHT engine: the sender's address and UDP port, and the bytes. -/
structure Datagram where
  addr : Nat
  port : Nat
  bytes : List Byte
deriving DecidableEq, Repr

/-- Why an Ethernet frame is dropped at the host port (R373, R374). -/
inductive DropCause where
  | tooLong
  | fragment
  | protocol
  | header (m : Datagram)
deriving DecidableEq, Repr

/-- The commands, in the order of the table. An operand left out is the plain case: no unit of Mere read with an error, no event of
the same control cycle, no flit waiting. -/
inductive Instr where
  -- the instruction stream
  | go (rq : Requester) (strict : Bool)
  | stepBeginAfterSettle
  | abort
  | bundleFetch (ecc : EccMap := [])
  | dispatch
  | bundleIssue
  | tokenGrant
  | issueTimeAdvance
  | skippedCommand (core : CoreId) (unit : Fin 12)
  | flagAddHeld (core : CoreId) (flag : Fin 4096)
  | deadlockWalk
  | overrun
  | stepEnd
  | syncSet (n : Nat)
  | syncWait (n : Nat)
  -- matrix arrays
  | mxaNop (core : CoreId) (a : ArrId)
  | mxaLoadw (core : CoreId) (a : ArrId)
  | mxaStream (core : CoreId) (a : ArrId)
  | mxaZacc (core : CoreId) (a : ArrId)
  | shadowFill (core : CoreId) (a : ArrId)
  | stagedRead (core : CoreId) (a : ArrId) (ecc : EccMap)
  -- vector engine, reduction unit, scalar pipes
  | vxeNop (core : CoreId)
  | vxeLdprog (core : CoreId)
  | vxeLane (core : CoreId)
  | vxeQconv (core : CoreId)
  | vxePmerge (core : CoreId)
  | vxeTrans (core : CoreId)
  | vxeMmov (core : CoreId)
  | rduNop (core : CoreId)
  | rduRed (core : CoreId)
  | spuNop (core : CoreId)
  | spuRun (core : CoreId)
  | spuRdreg (core : CoreId)
  | spuCutoff (core : CoreId) (p : PipeId)
  | halt (core : CoreId) (p : PipeId)
  | li (core : CoreId) (p : PipeId)
  | lui (core : CoreId) (p : PipeId)
  | add (core : CoreId) (p : PipeId)
  | sub (core : CoreId) (p : PipeId)
  | mul (core : CoreId) (p : PipeId)
  | addi (core : CoreId) (p : PipeId)
  | and (core : CoreId) (p : PipeId)
  | or (core : CoreId) (p : PipeId)
  | xor (core : CoreId) (p : PipeId)
  | shl (core : CoreId) (p : PipeId)
  | shr (core : CoreId) (p : PipeId)
  | sar (core : CoreId) (p : PipeId)
  | min (core : CoreId) (p : PipeId)
  | max (core : CoreId) (p : PipeId)
  | slt (core : CoreId) (p : PipeId)
  | sltu (core : CoreId) (p : PipeId)
  | sel (core : CoreId) (p : PipeId)
  | ld1 (core : CoreId) (p : PipeId)
  | ld2 (core : CoreId) (p : PipeId)
  | ld4 (core : CoreId) (p : PipeId)
  | ld8 (core : CoreId) (p : PipeId)
  | st1 (core : CoreId) (p : PipeId)
  | st2 (core : CoreId) (p : PipeId)
  | st4 (core : CoreId) (p : PipeId)
  | st8 (core : CoreId) (p : PipeId)
  | fadd (core : CoreId) (p : PipeId)
  | fmul (core : CoreId) (p : PipeId)
  | flt (core : CoreId) (p : PipeId)
  | i2f (core : CoreId) (p : PipeId)
  | f2i (core : CoreId) (p : PipeId)
  | fexp2 (core : CoreId) (p : PipeId)
  | flog2 (core : CoreId) (p : PipeId)
  | rand (core : CoreId) (p : PipeId)
  | blt (core : CoreId) (p : PipeId)
  | beq (core : CoreId) (p : PipeId)
  | bne (core : CoreId) (p : PipeId)
  | j (core : CoreId) (p : PipeId)
  -- fetch and store engines
  | fxeNop (core : CoreId)
  | fxeFetch (core : CoreId)
  | fxeStream (core : CoreId)
  | fxeGather (core : CoreId)
  | fxeTpwr (core : CoreId)
  | sxeNop (core : CoreId)
  | sxeStore (core : CoreId)
  | sxeScatter (core : CoreId)
  | sxeScadd (core : CoreId)
  | transferIssue (core : CoreId) (e : Engine) (ch : Fin 8)
  | transferLand (core : CoreId) (e : Engine) (n : Nat) (ecc : EccMap)
  | tarnArrival (core : CoreId) (task : TaskId) (addr : Nat) (acc : Access)
  | tarnStarve (core : CoreId) (req : TarnReq) (others : List TarnReq)
  | segmentStateChange (core : CoreId) (seg : Fin 24)
  | segmentWake (core : CoreId) (seg : Fin 24)
  -- Loess and the stacks
  | lseNop (core : CoreId)
  | lseAttn (core : CoreId)
  | lseMove (core : CoreId)
  | subCommand (s : StackId) (ecc : EccMap)
  | stackPortWindow (s : StackId) (dv dl : Nat) (meets : Nat := 0)
  | bankRefresh (s : StackId) (bank : Fin 512) (delays : List Nat) (ecc : UnitErr)
  | rowerrTableClear
  | selfrefEnter (s : StackId)
  | stackWake (s : StackId)
  | remapRow (s : StackId) (bank : Fin 512) (row : Nat) (ecc : EccMap := [])
  | spareBank (s : StackId) (bank : Fin 512)
  | bankChangeover (s : StackId)
  -- the Oxbow ring
  | oreNop
  | oreRev
  | grant (port : PortId) (revno : Word) (credits : Nat)
  | shardArrival (port : PortId) (revno : Word) (seq : Nat) (shard : List Byte)
  | ringCredit (port : PortId) (revno : Word)
  | ringAck (port : PortId) (revno : Word) (seq : Nat)
  | resend (port : PortId) (revno : Word) (seq : Nat)
  | springFetch (b : LaneId) (shard : List Byte)
  | shardInject (b : LaneId) (ecc : EccMap := [])
  | shardForward (b : LaneId)
  | snakeTile
  | tileAccept (core : CoreId)
  | shardTimeout (b : LaneId)
  | fill (value : Word)
  | modelActivate (m : Fin 16) (value : Word)
  | revnoWrite (value : Word)
  -- mesh, clocks and time
  | meshStarve (r : Fin 12) (out : Fin 9) (cycle : Nat := 0) (heads : List MeshHead := [])
  | meshTblDataWrite (value : Word)
  | seamDrift (i : Fin 16)
  | clockSlow (core : CoreId) (pct cycles : Nat)
  | timeSet (high : Word)
  | ptpMessage (m : PtpMessage)
  | timeExchange (t1 t2 t3 t4 : Nat)
  | timeLock
  | timeLockLoss
  -- the fabric
  | linkSignal (p : PortId)
  | authHandshake (p : PortId) (hello : PeerHello)
  | linkBlock (p : PortId) (fec : Fec) (block : List Byte)
  | nakRepeat (p : PortId)
  | replay (p : PortId)
  | retrain (p : PortId) (cause : RetrainCause) (result : RetrainEnd)
  | rekey (p : PortId) (hello : PeerHello)
  | packetSend (p : PortId)
  | packetRoute (pkt : Packet)
  | remoteWrite (pkt : Packet) (ecc : EccMap)
  | remoteRead (pkt : Packet) (ecc : EccMap)
  | remoteAdd (pkt : Packet) (ecc : EccMap)
  | transferData (pkt : Packet)
  | transferAck (pkt : Packet)
  | transferTimeout (core : CoreId) (e : Engine) (n : Nat)
  | switch
  | fabSelfWrite (value : Word)
  -- the host transport
  | submit (m : Datagram)
  | ack (m : Datagram)
  | credit (m : Datagram)
  | config (m : Datagram)
  | load (m : Datagram)
  | spillin (m : Datagram)
  | ohtResend (q : Nat)
  | ohtDead (q : Nat)
  | arpRequest (target sender : Nat) (mac : Nat)
  | neighbourSolicitation (target sender : Nat) (mac : Nat)
  | echoRequest (sender : Nat) (payload : List Byte)
  | pfcFrame (prio quanta : Nat)
  -- requests and sessions
  | generate (q : Nat)
  | cancel (q : Nat)
  | park (q : Nat)
  | close (q : Nat)
  | spillinRequest (q : Nat)
  | stepBuild (task : TaskId)
  | ringStepStart (task : TaskId)
  | segmentResult (seg : Nat) (step : Nat) (ok : Bool)
  | stepCommit
  | commitTimeout
  | accountingBoundary
  | hotIdlePark (slot : Nat)
  | sessionExpiry (slot : Nat)
  | sessionMoveDone (slot : Nat) (ok : Bool)
  | vecPendClear (tenant : Fin 256) (high : Bool) (value : Word) (same : Word := 0)
  | qpStateWrite (q : Nat) (value : Word)
  | qpOff (q : Nat)
  -- the loader
  | ldrLoad (value : Word) (ecc : EccMap := [])
  | ldrUnload (value : Word)
  -- faults and recovery
  | faultRecord
  | brokenWire (source : Nat)
  | recoveryReset
  | recoveryRestore
  | recoveryLeave
  | recover
  | release
  | logTailWrite (value : Word)
  | ageingMeasure
  | injectRaise (source cause : Nat)
  | injectRailsHigh (source : Nat)
  | injectRailsLow (source : Nat)
  | injectBitFlip (source : Nat)
  | injectRelease
  -- the security mailbox
  | report (rq : Requester) (value : Word) (ecc : EccMap := [])
  | cert (rq : Requester) (value : Word) (ecc : EccMap := [])
  | keyInstall (rq : Requester) (value : Word) (ecc : EccMap := [])
  | keyDelete (rq : Requester) (value : Word)
  | trustWrite (rq : Requester) (value : Word) (ecc : EccMap := [])
  | ownerSet (rq : Requester) (value : Word) (ecc : EccMap := [])
  | ownerClear (rq : Requester) (value : Word)
  | fwUpdate (rq : Requester) (value : Word) (ecc : EccMap := [])
  | svnCommit (rq : Requester) (value : Word)
  -- the module
  | powerOn
  | boot
  | ready
  | powerDown
  | resetAssert
  | resetRelease
  | vinFault (mv : Nat) (us : Nat)
  | railsOff (mv : Nat)
  | vinRestart (mv : Nat)
  | sensorSample (v : Sample)
  | thermalShutdown (hotSpot : Int)
  | writeEnable
  | statusRead
  | read (addr : Nat) (len : Nat)
  | pageProgram (addr : Nat) (data : List Byte)
  | sectorErase (addr : Nat)
  | bypass (tdi : Bool)
  | idcode
  | samplePreload (preload : Option Nat)
  | extest (enter : Bool)
  -- the control space
  | registerWrite (rq : Requester) (addr : Nat) (value : Word) (same : Word := 0)
  | readClear (rq : Requester) (addr : Nat)
  | latchedRead (rq : Requester) (addr : Nat)
  | unassignedAccess (rq : Requester) (addr : Nat) (write : Option Word)
  | securityReadDenied (rq : Requester) (addr : Nat)
  | droppedFrame (why : DropCause)
  | portDisabled (p : PortId)
deriving DecidableEq, Repr

end Sys2Proof
end

