-- ==== Sys2Proof/Decode.lean ====
section
/-! DEFINITION. Decoding of command words by the opcode table's bits. The table gives no row any bits: the block takes its
commands as register accesses, messages and events, and no word spells one. -/

namespace Sys2Proof

/-- The command that a word of the table's bits spells: none, for every row of the table has an empty list of fields. -/
def decodeTableWord (_nbits _w : Nat) : Option Instr := none

end Sys2Proof
end

