-- ==== Sys2Proof/Config.lean ====
section
/-! DEFINITION. What the manual leaves to an implementation, or leaves without a value: constants with no body, so that no
proof can rest on a value of them. -/

namespace Sys2Proof

/-- A fresh value where a rule leaves a stored value undefined (R121, R200, R226, R241, R246); applied to
State.fresh. Log entry 5. -/
opaque Config.freeByte : Nat → Byte

/-- Which of the results a 2-ulp (EXP2, LOG2) or 1-ulp (RCP, RSQRT) bound allows, as a function of the operation and
its operand (R153). Log entry 6. -/
opaque Config.ulpChoice : Nat → Word → Nat

/-- The order in which an engine takes returned pages, or adds meet, in throughput mode (R243, R105): a choice among
what is ready; applied to State.fresh. Log entry 7. -/
opaque Config.freeOrder : Nat → Nat

/-- The random numbers of the on-die generator (R321, R453): nonces, ephemeral and wrap keys, signature nonces; applied
to State.fresh. Log entry 8. -/
opaque Config.random : Nat → Nat

/-- Steering of the time clock, in parts per billion, at a measured offset in ps: the law is not stated, only its bound
(R297). Log entry 9. -/
opaque Config.steer : Int → Int

/-- The secret scalar of the device key (R451). -/
opaque Config.deviceKey : Nat

/-- Fields of the firmware image header, whose layout the manual does not give (R454), as functions of the bytes of the
image: header length, image length, firmware version, security version, the image's SHA-384 as a number, signer's key X, Y and
signature r, s. -/
opaque Config.fwHeader : List Byte → List Nat

/-- SHA-384 digests of the four firmware keys fused into the die (R454). -/
opaque Config.fwKeyDigest : Nat → List Byte

/-- The boot ROM measurement (R454). -/
opaque Config.romMeasure : List Byte

/-- Whether firmware key k's revoke fuse is blown (R454). -/
opaque Config.fwKeyRevoked : Nat → Bool

/-- The MAC address that the factory wrote in module flash, as a function of the region's bytes, whose layout the manual does
not give (R491). -/
opaque Config.moduleMac : List Byte → Nat

/-- The fused identity of the part (R450): word w of the identity record, for the fields fixed at test. -/
opaque Config.idRecord : Nat → Word

/-- The silicon stepping fused at test (ID_PART.STEP). -/
opaque Config.stepping : Nat

/-- Which spare rows and columns array a of core n uses, fused at test (R133). -/
opaque Config.spare : Nat → Nat

/-- The bytes that the factory wrote in its regions of module flash (R491). -/
opaque Config.factoryByte : Nat → Byte

/-- The DER bytes of the device certificate followed by those of the intermediate certificate (R452). -/
opaque Config.certificates : List Byte

/-- Slack, in ps, of monitor k of core n at frequency f MHz and voltage step v, at measurement m (R444, R445). -/
opaque Config.slack : Nat → Nat → Nat → Nat → Nat → Int

end Sys2Proof
end

