-- ==== Sys2Proof/Machine/Bits.lean ====
section
/-! DEFINITION. Bit fields, sign extension, byte order, and the sparse stores in their one canonical form. -/

namespace Sys2Proof.Machine

/-- Bits [lo+n-1:lo] of a word, as a number. -/
def fld (w : Word) (lo n : Nat) : Nat := (w.toNat >>> lo) % 2 ^ n

/-- The word with bits [lo+n-1:lo] replaced by the low n bits of v. -/
def setFld (w : Word) (lo n v : Nat) : Word :=
  Word.ofNat (w.toNat - ((w.toNat >>> lo) % 2 ^ n) <<< lo + (v % 2 ^ n) <<< lo)

/-- Bit i of a word. -/
def bitOf (w : Word) (i : Nat) : Bool := w.toNat.testBit i

/-- The n-bit two's-complement number v. -/
def sx (n v : Nat) : Int := if v % 2 ^ n < 2 ^ (n - 1) then (v % 2 ^ n : Nat) else ((v % 2 ^ n : Nat) : Int) - (2 ^ n : Nat)

/-- The low n bits of an integer. -/
def ux (n : Nat) (v : Int) : Nat := (v % ((2 ^ n : Nat) : Int)).toNat

/-- Rounding up to a whole number of units. -/
def ceilDiv (a b : Nat) : Nat := (a + b - 1) / b

/-- Little-endian number of a byte list (R85). -/
def leNat : List Byte → Nat
  | [] => 0
  | b :: r => b.toNat + 256 * leNat r

/-- The n low bytes of v, little-endian. -/
def leBytes : Nat → Nat → List Byte
  | 0, _ => []
  | n + 1, v => Byte.ofNat v :: leBytes n (v / 256)

/-- Big-endian number of a byte list. -/
def beNat (l : List Byte) : Nat := l.foldl (fun a b => a * 256 + b.toNat) 0

/-- The n low bytes of v, big-endian. -/
def beBytes (n v : Nat) : List Byte := (leBytes n v).reverse

/-- Bytes off to off + n - 1 of a list, with zeros past its end. -/
def slice (off n : Nat) (l : List Byte) : List Byte :=
  let t := (l.drop off).take n
  t ++ List.replicate (n - t.length) 0

/-- Little-endian field of n bytes at off. -/
def leAt (l : List Byte) (off n : Nat) : Nat := leNat (slice off n l)

/-- Little-endian 32-bit words of a byte list whose length is a multiple of 4. -/
def wordsOf (n : Nat) (l : List Byte) : List Word := (List.range n).map fun i => Word.ofNat (leAt l (4 * i) 4)

/-- Bytes of words, little-endian. -/
def bytesOf (l : List Word) : List Byte := l.flatMap fun w => leBytes 4 w.toNat

/-- One byte of the reflected CRC-32C (polynomial 0x1EDC6F41). -/
def crcByte (c : Nat) (b : Byte) : Nat :=
  (List.range 8).foldl (fun c _ => if c % 2 = 1 then (c / 2) ^^^ 0x82F63B78 else c / 2) (c ^^^ b.toNat)

/-- CRC-32C of a byte list. -/
def crc32c (l : List Byte) : Nat := (l.foldl crcByte 0xFFFFFFFF) ^^^ 0xFFFFFFFF

/-- What key k of a sparse store reads, where d gives what unlisted keys read. -/
def sget {α : Type} (d : Nat → α) (k : Nat) : List (Nat × α) → α
  | [] => d k
  | (j, v) :: r => if k = j then v else if k < j then d k else sget d k r

/-- A sparse store with key k changed to v; the value an unlisted key reads as removes the entry. -/
def sset {α : Type} [DecidableEq α] (d : Nat → α) (k : Nat) (v : α) : List (Nat × α) → List (Nat × α)
  | [] => if v = d k then [] else [(k, v)]
  | (j, w) :: r =>
    if k = j then (if v = d k then r else (k, v) :: r)
    else if k < j then (if v = d k then (j, w) :: r else (k, v) :: (j, w) :: r)
    else (j, w) :: sset d k v r

/-- Keys strictly rising from b on, and no value equal to what an unlisted key reads as. -/
def swfFrom {α : Type} [DecidableEq α] (d : Nat → α) : Nat → List (Nat × α) → Bool
  | _, [] => true
  | b, (j, v) :: r => decide (b ≤ j) && decide (v ≠ d j) && swfFrom d (j + 1) r

/-- The canonical form of a sparse store. -/
def swf {α : Type} [DecidableEq α] (d : Nat → α) (l : List (Nat × α)) : Bool := swfFrom d 0 l

/-- A run of values written from key k on. -/
def ssetMany {α : Type} [DecidableEq α] (d : Nat → α) : Nat → List α → List (Nat × α) → List (Nat × α)
  | _, [], l => l
  | k, v :: r, l => ssetMany d (k + 1) r (sset d k v l)

/-- n values read from key k on. -/
def sgetMany {α : Type} (d : Nat → α) (k n : Nat) (l : List (Nat × α)) : List α :=
  (List.range n).map fun i => sget d (k + i) l

/-- Removes every key that a test picks. -/
def sdrop {α : Type} (p : Nat → Bool) (l : List (Nat × α)) : List (Nat × α) := l.filter fun e => !p e.1

/-- Changes element i of a list. -/
def updAt {α : Type} (f : α → α) : Nat → List α → List α
  | _, [] => []
  | 0, x :: r => f x :: r
  | i + 1, x :: r => x :: updAt f i r

/-- Insertion of an element before the first that it does not follow. -/
def insBy {α : Type} (le : α → α → Bool) (x : α) : List α → List α
  | [] => [x]
  | y :: r => if le x y then x :: y :: r else y :: insBy le x r

/-- A stable sort. -/
def sortBy {α : Type} (le : α → α → Bool) : List α → List α
  | [] => []
  | x :: r => insBy le x (sortBy le r)

/-- Runs f over 0 to n - 1, carrying a value. -/
def iter {α : Type} (n : Nat) (f : Nat → α → α) (a : α) : α := (List.range n).foldl (fun a i => f i a) a

/-- Removes the first element that a test picks. -/
def dropFirst {α : Type} (p : α → Bool) : List α → List α
  | [] => []
  | x :: r => if p x then r else x :: dropFirst p r

end Sys2Proof.Machine
end

