-- ==== Sys2Proof/Machine/Regs.lean ====
section
/-! DEFINITION. The register map (ch. 17 and the register tables of every chapter): for each register its address, its
writable, read-clear and write-one-to-clear bits, and its reset value. -/

namespace Sys2Proof.Machine

/-- One row: addresses base + i × stride for i < count. -/
structure RegRow where
  base : Nat
  stride : Nat := 4
  count : Nat := 1
  rw : Nat := 0
  rc : Nat := 0
  w1c : Nat := 0
  reset : Nat := 0
deriving DecidableEq, Repr

/-- The row covers an address. -/
def RegRow.has (r : RegRow) (a : Nat) : Bool :=
  decide (r.base ≤ a) && decide ((a - r.base) % r.stride = 0) && decide ((a - r.base) / r.stride < r.count)

/-- Every bit of a word. -/
abbrev all32 : Nat := 0xFFFFFFFF

/-- A read-only row. -/
def ro (base : Nat) (reset : Nat := 0) (count : Nat := 1) (stride : Nat := 4) : RegRow :=
  { base := base, stride := stride, count := count, reset := reset }

/-- A 32-bit read-clear counter row. -/
def rcnt (base : Nat) (count : Nat := 1) (stride : Nat := 4) : RegRow :=
  { base := base, stride := stride, count := count, rc := all32 }

/-- A writable row. -/
def rwr (base rw : Nat) (reset : Nat := 0) (count : Nat := 1) (stride : Nat := 4) : RegRow :=
  { base := base, stride := stride, count := count, rw := rw, reset := reset }

/-- Identity and feature region (R499–R502). -/
def idRows : List RegRow :=
  [ro 0x0 0x020E6B, ro 0x4 0x2412, ro 0x8, ro 0xC 0x010C0000, ro 0x10 0, ro 0x14 0xFFF, ro 0x18 0x06000000,
   ro 0x20 0 9, ro 0x80 0 48, ro 0x200 0x22040A84, ro 0x204 0x2108198C, ro 0x208 0xF8080, ro 0x20C 0x2118E,
   ro 0x210 0x1FFF, ro 0x400 0 64]

/-- Time, determinism, mesh, tokens, audit and sensors (ch. 9, 13, 16). -/
def clockRows : List RegRow :=
  [ro 0x10000 0 2, rwr 0x10008 0x3F, ro 0x1000C, ro 0x10010, rcnt 0x10014, rwr 0x10018 all32 0 2, rcnt 0x10020,
   rwr 0x11000 1, ro 0x11004 2,
   rwr 0x12000 1, rwr 0x12004 0x7FF 1, rwr 0x12008 0xFFF 0x916, ro 0x1200C, rwr 0x12010 0x1FFFFC, rwr 0x12014 all32,
   rcnt 0x12100 12 0x20, rcnt 0x12104 12 0x20, rcnt 0x12108 12 0x20, rcnt 0x1210C 12 0x20, rcnt 0x12110 12 0x20,
   rwr 0x13000 0x3FF 890, ro 0x13004 0 3, { base := 0x13010, rc := 0x3FF }, rcnt 0x13014, ro 0x13018 (20 + 420 * 256),
   { base := 0x14000, w1c := 0x7FF }, rcnt 0x14004 2,
   ro 0x15000 0x100, ro 0x15004 0 4, { base := 0x15014, rc := all32 }, ro 0x15018 0 5, rcnt 0x1502C,
   rwr 0x15040 0xFFFF 10500, rwr 0x15044 0xFFFF 9000, rwr 0x15048 0xFFFF 4200, rwr 0x1504C 0xFFFF 2700,
   rwr 0x15050 0xFFFF 24000, ro 0x15100 0 12, ro 0x15140 0 24]

/-- The SSQ (ch. 2). -/
def ssqRows : List RegRow :=
  [ro 0x18000 0x0240C886, rwr 0x18004 2, ro 0x18008, rwr 0x1800C 0x3F, rwr 0x18010 all32, rwr 0x18014 0xFFFFFF 0x10000,
   rwr 0x18018 0x80FFFFFF 0x80004000, ro 0x18020 0 4, rcnt 0x18030 13, ro 0x18100 0 32, rwr 0x18400 3 0 64]

/-- The FCL (ch. 14). -/
def fclRows : List RegRow :=
  [ro 0x20000, rwr 0x20004 0, rwr 0x20008 0xFFFF 50, ro 0x2000C, rwr 0x20010 0xFF 4, rwr 0x20014 0xFFFFFF 3600,
   rwr 0x20018 0xF 2, rwr 0x2001C 0xFFFF 100, rcnt 0x20020 6, ro 0x20038 0 3, { base := 0x20044, w1c := 0x3F },
   ro 0x20048, rwr 0x2004C 0x1FF, rwr 0x20050 0xFF 40, rwr 0x20060 0x07FFFFFF, ro 0x21000 0 2048]

/-- Security (ch. 15). -/
def secRows : List RegRow :=
  [ro 0x30000 0 3, rwr 0x30010 0x103FFE, rwr 0x30014 0x1FFFFFF, rwr 0x30018 0xFFFFFF00, rwr 0x3001C 0x3FF, rcnt 0x30020 2,
   ro 0x31000 0 512, ro 0x32000 0 512, ro 0x34000 0 16384, rwr 0x48000 all32 0 4096]

/-- A core's block, by offset (ch. 2 to 9, 14). -/
def coreRows : List RegRow :=
  [ro 0x8000 0 2048, ro 0xA000 0 10, rwr 0xA080 0x7FFFFFF, rwr 0xA084 0xFFFF, rwr 0xA088 0x7FFFF80, rwr 0xA08C 0x1FFFF,
   rcnt 0xA090 3,
   ro 0xB000 0 4 0x40, ro 0xB004 0 4 0x40, rcnt 0xB008 4 0x40, rcnt 0xB00C 4 0x40, rcnt 0xB010 4 0x40, rcnt 0xB014 4 0x40,
   rcnt 0xB018 4 0x40, rcnt 0xB01C 4 0x40, rcnt 0xB020 4 0x40, rcnt 0xB024 4 0x40, rcnt 0xB028 4 0x40,
   rcnt 0xB02C 4 0x40, rcnt 0xB030 4 0x40,
   ro 0xB100, rcnt 0xB104 5, ro 0xB118 0 2, rcnt 0xB120 3, ro 0xB140, rcnt 0xB144 3, ro 0xB160, rcnt 0xB164 2,
   rwr 0xB16C 0xFFFFFF 0x10000, rwr 0xB408 all32 0x3F800000 63 8, rcnt 0xB40C 63 8, rwr 0xB604 0xFFFFF1FF 2 63,
   ro 0xB704 0 63,
   rcnt 0xC000 4, ro 0xC010 0 2, ro 0xC020, rcnt 0xC024 4, ro 0xC040, rcnt 0xC044 3, ro 0xC100 0 32,
   rwr 0xC400 0x7FFF000 0 64 8, rwr 0xC404 0xFFFF000 0 64 8,
   ro 0xD000, rcnt 0xD004 3, ro 0xD100 0 16, ro 0xD140 2250, ro 0xD144 0x7FFF]

/-- A stack's block, by offset (ch. 7). -/
def stackRows : List RegRow :=
  [ro 0x0, rwr 0x4 3 2, rwr 0x8 0x7F 64, rwr 0xC 0xFF 8, rcnt 0x10 8, rwr 0x30 0x0FFFFFFF, ro 0x34 0x3FF0000, ro 0x38,
   rcnt 0x3C 3, ro 0x48, rcnt 0x4C 2, ro 0x100 0 128]

/-- Pool formats (ch. 7): 16 formats of words 0 to 6. The reserved word 7 reads 0 and is not counted as unassigned: DESIGN CHOICE, log
entry 60. -/
def fmtRows : List RegRow :=
  [rwr 0x260000 0x81FFFFFF 0 16 0x20, rwr 0x260004 0x3F1FFF 0 16 0x20, rwr 0x260008 0x1FFFFF 0 16 0x20,
   rwr 0x26000C 0x1FFFFF 0 16 0x20, rwr 0x260010 all32 0 16 0x20, rwr 0x260014 0x1FFFFF 0 16 0x20,
   rwr 0x260018 0x1FFFFF 0 16 0x20, ro 0x26001C 0 16 0x20]

/-- A fabric port's block, by offset (ch. 10). -/
def portRows : List RegRow :=
  [ro 0x0, rwr 0x4 1 1, ro 0x8 0 2, rwr 0x10 0x3F 32, rcnt 0x14 8, rcnt 0x40 22]

/-- Fabric-wide registers, routing tables and the ring (ch. 10, 11). -/
def fabRows : List RegRow :=
  [rwr 0x400000 0x8003FFFF, ro 0x400004, rwr 0x400008 1, { base := 0x40000C, rc := 2, reset := 1 },
   rwr 0x400010 0xFFFFF 1000, rwr 0x400014 0xFF 96, rcnt 0x400018 6,
   rwr 0x401000 0x3FFF 0 64, rwr 0x401100 0x3FFF 0 64, rwr 0x401200 0x3FFF 0 64,
   rwr 0x401400 0x3FFF 0 64, rwr 0x401500 0x3FFF 0 64, rwr 0x401600 0x3FFF 0 64,
   ro 0x402000, rwr 0x402004 0x7FFFFF, rwr 0x402008 all32, rwr 0x40200C 0xFFFFF 1000, rcnt 0x402010 12,
   rwr 0x402040 0x3E, rcnt 0x402044, rwr 0x402080 0x800000FF 0 5,
   rwr 0x402100 all32 0 16 0x20, rwr 0x402104 all32 0 16 0x20, rwr 0x402108 0xFFFFFF 0 16 0x20,
   rwr 0x40210C 0xC07FFFFF 0 16 0x20, rwr 0x402110 0xFFFFFF00 0 16 0x20, rwr 0x402114 0x3FFFFFF 0 16 0x20,
   rwr 0x402118 0xFFFFFF 0 16 0x20, ro 0x40211C 0 16 0x20, rwr 0x403000 0x8003FFFF 0 1024]

/-- Host port, OHT and loader (ch. 12, 13). -/
def hostRows : List RegRow :=
  [rwr 0x500000 0x3FF 0x11B, rwr 0x500004 0x7FFF, rwr 0x500008 0xFFFF 20308, rwr 0x50000C all32, rwr 0x500010 0xFFFF,
   rwr 0x500014 all32 0 5, rwr 0x500028 0xFFFF 100, rwr 0x50002C 0xFFFF 1000, rwr 0x500030 0xFFFF 1000, rwr 0x500034 3 1,
   rwr 0x500038 0xFFFFF 2000, rcnt 0x500040 7,
   rwr 0x500200 0xFE, ro 0x500204, rwr 0x500208 0xFFFFFF00, rwr 0x50020C 0x3FF, rwr 0x500210 0xFFFFFFFC, rwr 0x500214 0x3FF,
   rwr 0x500218 0xFFFF 0 2, ro 0x500400 0 128, ro 0x500600 0 64,
   rwr 0x501000 all32 0 64 0x20, rwr 0x501004 all32 0 64 0x20, rwr 0x501008 all32 0 64 0x20, rwr 0x50100C all32 0 64 0x20,
   rwr 0x501010 0xFFFF0003 0 64 0x20]

/-- A queue context, by offset (ch. 12). Its reserved words read 0 and are not counted as unassigned: DESIGN CHOICE, log entry 60. -/
def qctxRows : List RegRow :=
  [rwr 0x0 0x3F3FFF03, rwr 0x4 0x3FFFFF 0x100000, ro 0x8 0 4, rwr 0x18 0xFF, ro 0x1C 0 9]

/-- A tenant entry, by offset (ch. 12). -/
def tenantRows : List RegRow :=
  [rwr 0x0 7, rwr 0x4 0x7FFF3FFF, rwr 0x8 all32 0 2, rwr 0x10 0x1FFFF, rwr 0x14 all32 3600, rwr 0x18 all32, ro 0x1C 0 2,
   rwr 0x24 0xFFFF 0x101, rwr 0x28 all32, rwr 0x2C 0x3FFF3FFF, rwr 0x30 0xFFFF 1000, rwr 0x34 all32 0 2,
   { base := 0x3C, w1c := all32 },
   rwr 0x40 0xFFFFFF00 0 8 0x10, rwr 0x44 0x3FF 0 8 0x10, rwr 0x48 0xFFFFFF00 0 8 0x10, rwr 0x4C 0x800003FF 0 8 0x10,
   { base := 0xC0, w1c := all32 }]

/-- Statistics (ch. 12). -/
def statRows : List RegRow := [ro 0x1010000 0 4, ro 0x1010084]

/-- Row of an address in a list of rows. -/
def rowIn (l : List RegRow) (a : Nat) : Option RegRow := l.find? fun r => r.has a

/-- The row of an address, with the reset values that single entries have (R396, ch. 12: queue pair 0 and tenant 0); none
for an unassigned address (R12, R494, R498). -/
def regRow (a : Nat) : Option RegRow :=
  if a % 4 ≠ 0 then none
  else if a < 0x10000 then rowIn idRows a
  else if a < 0x18000 then rowIn clockRows a
  else if a < 0x20000 then rowIn ssqRows a
  else if a < 0x30000 then rowIn fclRows a
  else if a < 0x50000 then rowIn secRows a
  else if a < 0x100000 then none
  else if a < 0x1C0000 then rowIn coreRows (a % 0x10000)
  else if a < 0x200000 then none
  else if a < 0x260000 then rowIn stackRows (a % 0x4000)
  else if a < 0x300000 then rowIn fmtRows a
  else if a < 0x30C000 then rowIn portRows (a % 0x1000)
  else if a < 0x400000 then none
  else if a < 0x500000 then rowIn fabRows a
  else if a < 0x600000 then rowIn hostRows a
  else if a < 0x700000 then
    (rowIn qctxRows (a % 64)).map fun r => if a = 0x600000 then { r with reset := 1 } else r
  else if a < 0x800000 then none
  else if a < 0x810000 then
    (rowIn tenantRows (a % 0x100)).map fun r =>
      if a = 0x800000 then { r with reset := 1 } else if a = 0x800004 then { r with reset := 0x10000 } else r
  else if a < 0x1000000 then none
  else if a < 0x1010000 then
    if a % 0x80 < 0x40 then some (ro 0) else none
  else rowIn statRows a

/-- The value of a control-space word that nothing has written. -/
def resetWord (a : Nat) : Word :=
  match regRow a with
  | some r => Word.ofNat r.reset
  | none => 0

end Sys2Proof.Machine
end

