-- ==== Sys2Proof/Machine/State.lean ====
section
/-! DEFINITION. The state of the part, as plain data. Large stores (control space, Tarn, Mere, accumulators, flags and the
like) are sparse lists of (key, value) pairs in one canonical form: keys strictly rising, and no value equal to what an
unlisted key reads as. -/

namespace Sys2Proof.Machine

/-- Faults of a step. The part itself never stops a command with an error of this kind: every error the manual describes
is a record of the fault collector, which is state. -/
inductive Fault where
  /-- Raised by no meaning. Safe: a claim about a fault is then never used to hide a step. -/
  | none
deriving DecidableEq, Repr

/-- Refusals of a step. -/
inductive Refusal where
  /-- Raised by an arm of exec that has no meaning yet. Safe: nothing can be proved of such a step. -/
  | notModelled (mnemonic : String)
deriving DecidableEq, Repr

/-- A sparse store. -/
abbrev Sparse (α : Type) := List (Nat × α)

/-- The eight words of a command (table of command fields, ch. 2). -/
structure Cmd where
  w0 : Word := 0
  w1 : Word := 0
  w2 : Word := 0
  w3 : Word := 0
  w4 : Word := 0
  w5 : Word := 0
  w6 : Word := 0
  w7 : Word := 0
deriving DecidableEq, Repr

/-- A command of the running step that has been dispatched, or that the SSQ holds. -/
structure QCmd where
  cmd : Cmd := {}
  /-- The target core; 15 for a command that the SSQ holds for every live core. -/
  core : Nat := 0
  tag : Nat := 0
  slot : Nat := 0
  /-- The issue time of its bundle (R37). -/
  issue : Nat := 0
  bundle : Nat := 0
  /-- Place in stream order. -/
  seq : Nat := 0
  /-- Skip reason found at dispatch; 0 for none. -/
  refused : Nat := 0
  /-- Number k of this tapping command on its unit in the step (R172); 0 for none. -/
  tapNo : Nat := 0
  /-- Tokens already taken for it from its bundle's grant and by a direct draw (R40). -/
  drawn : Nat := 0
  /-- It has asked for a direct draw. -/
  asked : Bool := false
  /-- Its wait on a scoreboard has been counted in SSQ_HAZ (R65). -/
  hazed : Bool := false
deriving DecidableEq, Repr

/-- A descriptor as read at a command's start (R81), its origin and count resolved. -/
structure Desc where
  kind : Nat := 0
  dtype : Nat := 0
  rank : Nat := 1
  pk1 : Bool := false
  piece : Bool := false
  dyn : Bool := false
  base : Int := 0
  dorg : Nat := 0
  ext : List Nat := []
  stride : List Int := []
  shape : List Nat := []
  origin : List Nat := []
  pext : List Nat := []
  row0 : Nat := 0
  colb : Nat := 0
  array : Nat := 0
  reg0 : Nat := 0
  count : Nat := 0
  dcnt : Bool := false
  caddr : Nat := 0
  nc : Nat := 0
  cw : Nat := 0
deriving DecidableEq, Repr

/-- A loop nest (table of the loop-nest entry, ch. 2): counts of levels 1 to LEVELS and increments per level and
operand. -/
structure Nest where
  waitLv : Nat := 0
  setLv : Nat := 0
  counts : List Nat := []
  incs : List (List Int) := []
deriving DecidableEq, Repr

/-- A scoreboard range (R65): the storage it lies in, its first and last unit, and whether it is written. -/
structure Claim where
  space : Nat
  lo : Int
  hi : Int
  write : Bool
deriving DecidableEq, Repr

/-- One end of a transfer. -/
inductive Loc where
  | tarn (core : Nat) (addr : Nat)
  | mere (addr : Nat)
  | part (ep : Nat) (addr : Nat)
  | zeros
deriving DecidableEq, Repr

/-- A transfer of one run (R197). -/
structure Xfer where
  src : Loc
  dst : Loc
  len : Nat
  /-- Sequence number of the owning command, and the iteration it belongs to. -/
  seq : Nat := 0
  it : Nat := 0
  /-- Scatter-add: source and target DTYPE plus 1; 0 for a copy. -/
  addSrc : Nat := 0
  addDst : Nat := 0
  /-- Transfer tag and the tick its first packet was sent, for a transfer to another part. -/
  tag : Nat := 0
  sent : Nat := 0
  rsen : Bool := false
  failed : Bool := false
  /-- Bytes of a remote read that have arrived (R331). -/
  got : Nat := 0
deriving DecidableEq, Repr

/-- A started command, held by its unit until it retires (R52). -/
structure Run where
  q : QCmd := {}
  /-- Skip reason; 0 for a command that runs. -/
  skipped : Nat := 0
  desc : List Desc := []
  nest : Nest := {}
  /-- Iterations completed, and iterations in all. -/
  it : Nat := 0
  total : Nat := 1
  /-- The wait of iteration `it` has been met. -/
  waited : Bool := false
  /-- Some operand has zero elements (R94). -/
  empty : Bool := false
  claims : List Claim := []
  tokens : Nat := 0
  chan : Nat := 0
  /-- Transfers of the present iteration not yet issued, and outstanding. -/
  todo : List Xfer := []
  open_ : Bool := false
  /-- Stacks whose sub-commands of the present iteration are still to be sent (R237). -/
  unsent : List Nat := []
  /-- Matrix arrays: iterations below this one need no further load. -/
  aux : Nat := 0
  /-- Matrix arrays: iterations below this one have had their waits met (R128). -/
  met : Nat := 0
  /-- Uncorrectable units met, or failed transfers (R121, R200). -/
  fails : Nat := 0
  /-- Completed; its last set may still be held (R57). -/
  ended : Bool := false
  /-- Under an abort: ends at its iteration boundary. -/
  err : Bool := false
  /-- LSE.MOVE: entries of the present iteration whose destination is undefined (R226). -/
  lost : List Nat := []
deriving DecidableEq, Repr

/-- The queue of a unit and the commands it has started. -/
structure UnitSt where
  queue : List QCmd := []
  running : List Run := []
deriving DecidableEq, Repr

/-- A flag add held until the flag has room (R57); `unit` and `seq` name the setting command. -/
structure HeldAdd where
  core : Nat
  flag : Nat
  n : Nat
  unit : Nat
  seq : Nat
deriving DecidableEq, Repr

/-- A fetched bundle of the running step. -/
structure Bundle where
  id : Nat := 0
  /-- The bundle whose tokens its commands use: its own, or the first of those at its issue time that it is one with (R37). -/
  lead : Nat := 0
  issue : Nat := 0
  tag : Nat := 0
  fence : Nat := 0
  tokens : Nat := 0
  /-- Its tokens have been asked for (R40). -/
  asked : Bool := false
  /-- Commands not yet dispatched, with their slots. -/
  cmds : List (Nat × Cmd) := []
  /-- Its issue time has been reached and its fences met. -/
  issued : Bool := false
  granted : Bool := false
  /-- Tokens of its grant not yet spent. -/
  grant : Nat := 0
deriving DecidableEq, Repr

/-- The stack sequencer (ch. 2). -/
structure Ssq where
  run : Bool := false
  held : Bool := false
  halt : Bool := false
  strict : Bool := false
  deadlock : Bool := false
  stepDone : Bool := false
  freeze : Bool := false
  result : Nat := 0
  task : Nat := 0
  lastTask : Option Nat := none
  oa : Bool := false
  began : Nat := 0
  issue : Nat := 0
  freezeTicks : Nat := 0
  fetchOff : Nat := 0
  lastIssue : Nat := 0
  nextSeq : Nat := 0
  nextBundle : Nat := 0
  bundles : List Bundle := []
  holds : List QCmd := []
  endSeen : Bool := false
  /-- The step is ending as by ABORT and waits for running commands (R70). -/
  aborting : Bool := false
  lastRetire : Nat := 0
  skips : List (Word × Word) := []
  tapV : Sparse Nat := []
  tapR : Sparse Nat := []
deriving DecidableEq, Repr

/-- A request at the PGV (R408): a bundle grant, or a direct draw of the command `seq` on `unit`. -/
structure PgvReq where
  bundle : Nat
  isDraw : Bool
  unit : Nat
  seq : Nat
  amount : Nat
deriving DecidableEq, Repr

/-- The token pool (R407–R409). -/
structure Pgv where
  held : Nat := 0
  taken : Word := 0
  returned : Word := 0
  reqs : List PgvReq := []
deriving DecidableEq, Repr

/-- A weight tile: shape, type, raw codes and band scales by column, and column sums (R109, R116). A zero tile has
`k` = 0. -/
structure Tile where
  dt : Nat := 0
  k : Nat := 0
  n : Nat := 0
  codes : List (List Nat) := []
  scales : List (List Nat) := []
  csum : List Word := []
deriving DecidableEq, Repr

/-- A matrix array's registers (R109, R117, R121). A staged tile carries the sequence number and iteration it is for. -/
structure ArraySt where
  active : Tile := {}
  shadow : Option Tile := none
  staged : List (Nat × Nat × Tile) := []
deriving DecidableEq, Repr

/-- A Tarn segment (R192–R194): state 0 on, 1 retention, 2 off; the state asked for, and whether the change to it or a wake is in
progress; its outstanding writes. -/
structure Seg where
  st : Nat := 0
  target : Option Nat := none
  changing : Bool := false
  waking : Bool := false
  owc : Nat := 0
deriving DecidableEq, Repr

/-- A request at a Tarn bank that has not been granted, and how many core cycles have refused it (R185, R186). -/
structure TarnWait where
  req : TarnReq
  refused : Nat := 0
deriving DecidableEq, Repr

/-- A read or a write that a core's ingress has taken and that waits for its segment (R193, R194). -/
structure Arrival where
  core : Nat
  addr : Nat
  acc : Access
deriving DecidableEq, Repr

/-- A head flit that waits for an output of its router, and how many mesh cycles with credit have refused it (R283). -/
structure MeshWait where
  head : MeshHead
  refused : Nat := 0
deriving DecidableEq, Repr

/-- A scalar pipe's run (R174–R176). -/
structure PipeRun where
  seq : Nat := 0
  prog : Nat := 0
  nins : Nat := 0
  pc : Nat := 0
  winLo : Nat := 0
  winHi : Nat := 0
  count : Nat := 0
deriving DecidableEq, Repr

/-- A sub-command at a Loess engine (R237): an attention partial or a move, with its operands of the iteration. -/
structure Sub where
  core : Nat
  seq : Nat
  attn : Bool
  fmt : Nat
  layer : Nat := 0
  qscale : Word := 0
  /-- Index p of the partial it writes (R240). -/
  part : Nat := 0
  ops : List Desc := []
deriving DecidableEq, Repr

/-- A DRAM stack and its Loess engine (ch. 7). -/
structure StackSt where
  subs : List Sub := []
  carryV : Nat := 0
  carryL : Nat := 0
  /-- Row-error table: bank, row, count (R225). -/
  rowErr : List (Nat × Nat × Nat) := []
  /-- Remapped rows: bank, row (R227). -/
  remaps : List (Nat × Nat) := []
  spared : Option Nat := none
  /-- The bank that is to go over to the spare bank, and the access units of it still to copy (R228). -/
  copying : Option Nat := none
  copyLeft : Nat := 0
  /-- Rows with uncorrectable units: bank, row (R228). -/
  ueRows : List (Nat × Nat) := []
  /-- Next unit to scrub, by bank (R220). -/
  scrubAt : Sparse Nat := []
deriving DecidableEq, Repr

/-- One shard in a ring slot (R355): its lane sequence number as received (or as sent, for an own shard), its send index,
its bytes, and what has happened to it. -/
structure Slot where
  seq : Nat
  js : Nat
  bytes : List Byte := []
  own : Bool := false
  verified : Bool := false
  delivered : Bool := false
  sent : Bool := false
  acked : Bool := false
deriving DecidableEq, Repr

/-- A ring lane during a revolution or fill. -/
structure LaneSt where
  granted : Bool := false
  credits : Nat := 0
  slots : List Slot := []
  /-- Every sequence number below `recvSeq`, and those of `taken`, have been taken. -/
  recvSeq : Nat := 0
  taken : List Nat := []
  /-- Resends asked for, by sequence number; sequence numbers asked of the spring (R366). -/
  resends : List (Nat × Nat) := []
  asking : List Nat := []
  /-- Tick since when it waits for the next expected shard, and ticks waited before with no break by a full lane (R368). -/
  since : Nat := 0
  waited : Nat := 0
deriving DecidableEq, Repr

/-- The ring engine (ch. 11). `key` is the weight key looked up when the command or fill started (R351). -/
structure Ore where
  rev : Bool := false
  filling : Bool := false
  ended : Bool := false
  /-- This part is the seed of the fill; the fill's stream has ended here (R370). -/
  seed : Bool := false
  last : Bool := false
  model : Nat := 0
  revno : Nat := 0
  key : Nat := 0
  keyOk : Bool := false
  lanes : List LaneSt := []
  /-- GRANTs of the next revolution that arrived before it began: lane, revolution number, credits (R357). -/
  early : List (Nat × Nat × Nat) := []
  /-- Sends made; own shards returned or counted failed; tiles entered into the snake. -/
  sends : Nat := 0
  returned : Nat := 0
  tiles : Nat := 0
  /-- The tile in the snake: its plain bytes and the eight record words; none when the snake is empty. -/
  snake : Option (List Byte × List Word) := none
  /-- Tiles accepted so far, by core. -/
  accepted : Sparse Nat := []
  /-- Bytes of the host's model image stream not yet a whole shard, and whole shards waiting for a lane (R370). -/
  fillPart : List Byte := []
  fillQ : List (List Byte) := []
  /-- Models with a shard kept to Tarn since their last load (R432). -/
  tarnKept : List Nat := []
deriving DecidableEq, Repr

/-- A data block that a port has sent (R314): its sequence number, whether it holds a packet of classes 0 to 4 (R340), and its
payload in the clear. -/
structure SentBlock where
  seq : Nat
  held : Bool
  payload : List Byte
deriving DecidableEq, Repr

/-- A fabric port engine (ch. 10). -/
structure PortSt where
  state : Nat := 0
  lock : Nat := 0
  cause : Nat := 0
  peerValid : Bool := false
  peerCoord : Nat := 0
  peerPort : Nat := 0
  keyed : Bool := false
  kp : Bool := false
  rkp : Bool := false
  txKey : Nat := 0
  txSalt : Nat := 0
  txCount : Nat := 0
  rxKey : Nat := 0
  rxSalt : Nat := 0
  rxCount : Nat := 0
  oldRx : Option (Nat × Nat × Nat) := none
  nextSeq : Nat := 0
  lastAcked : Nat := 4095
  expect : Nat := 0
  replayBuf : List SentBlock := []
  resendDue : Bool := false
  nak : Bool := false
  waiting : Bool := false
  nakAt : Nat := 0
  naksNoAck : Nat := 0
  retrainFails : Nat := 0
  tagFails : List Nat := []
  heldOff : Nat := 0
  holding : Nat := 0
  rxBytes : List Byte := []
  rxOcc : List Nat := []
  txq : List (Nat × Packet) := []
  /-- Bytes of packets begun and not yet in a block, each stretch with whether its packet is of classes 0 to 4 (R311). -/
  txRest : List (Bool × List Byte) := []
  /-- Bytes of channel v sent and not acknowledged, with the block that ends them. -/
  unacked : List (Nat × Nat × Nat) := []
  broken : Bool := false
  /-- A retrain or a re-key has been asked for by a register write (table of fabric registers). -/
  retrainReq : Bool := false
  rekeyReq : Bool := false
deriving DecidableEq, Repr

/-- An open region of cross-part adds in reproducible mode (R332): core or 16 for Mere, region number, its opener and the
transfer whose ACK closes it. -/
structure Region where
  space : Nat
  region : Nat
  src : Nat
  cmdid : Nat
  tag : Nat
deriving DecidableEq, Repr

/-- A session slot (table of session states, ch. 12): 0 FREE, 1 BUSY, 2 HOT, 3 PARKING, 4 COLD, 5 RESTORING,
6 SPILLING. -/
structure Session where
  st : Nat := 0
  tenant : Nat := 0
  cmodel : Nat := 0
  fmt : Nat := 0
  pos : Nat := 0
  s0 : Nat := 0
  ttl : Nat := 0
  deadline : Nat := 0
  idle : Nat := 0
  cold : Nat := 0
  last : Word := 0
  /-- Stripes that have a frame of the hot pool (R234, R385). -/
  alloc : Nat := 0
deriving DecidableEq, Repr

/-- A request held by Weast (table of request states, ch. 12): 1 QUEUED, 2 RESTORE, 3 PREFILL, 4 DECODE,
5 CANCELLING. -/
structure Request where
  q : Nat := 0
  cid : Nat := 0
  /-- Acceptance number, unique over the part, and the time counter at its acceptance. -/
  acc : Nat := 0
  tick : Nat := 0
  st : Nat := 1
  tenant : Nat := 0
  slot : Nat := 0
  cmodel : Nat := 0
  task : Nat := 0
  toks : List Word := []
  fed : Nat := 0
  maxnew : Nat := 0
  temp : Word := 0
  topp : Word := 0
  topk : Nat := 0
  stopset : Nat := 0
  prio : Nat := 0
  seed : DWord := 0
  ttl : Nat := 0
  keep : Bool := false
  stream : Bool := false
  nout : Nat := 0
  charged : Nat := 0
  reserved : Nat := 0
  retries : Nat := 0
  /-- Tick of its first consequential step failure (R442). -/
  graceAt : Option Nat := none
  inStep : Bool := false
deriving DecidableEq, Repr

/-- A completion entry (table of completion entry fields), with its acceptance number. -/
structure Completion where
  q : Nat := 0
  acc : Nat := 0
  cid : Nat := 0
  status : Nat := 0
  flags : Nat := 0
  session : Nat := 0
  nout : Nat := 0
  pos : Nat := 0
  charged : Nat := 0
  segmask : Nat := 0
  tdone : Nat := 0
deriving DecidableEq, Repr

/-- A submission entry in a ring: its acceptance number, the time counter at its acceptance, its 64 bytes, and the token area of
its message. -/
structure Entry where
  acc : Nat
  tick : Nat
  bytes : List Byte
  toks : List Word
deriving DecidableEq, Repr

/-- A message of the part before it is numbered: its type and data, an ACK's NAK, the entries of a COMPLETE, and the session
slot whose spill it ends. -/
structure OutItem where
  ty : Nat
  data : List Byte := []
  nak : Bool := false
  comps : List Completion := []
  spill : Option Nat := none
deriving DecidableEq, Repr

/-- A message sent and not acknowledged (R376): its PSN, what it holds, and its bytes as sealed. -/
structure SentMsg where
  psn : Nat
  item : OutItem
  bytes : List Byte
deriving DecidableEq, Repr

/-- What QEN and the OHT engine hold of a queue pair beside its context. -/
structure QpSt where
  ring : List Entry := []
  /-- A SUBMIT whose continuations are still to come: how many entries at the ring's end are its own, and its token words so
  far. -/
  asm : Option (Nat × List Word) := none
  /-- Messages sent and not acknowledged; messages that wait to be numbered. -/
  sent : List SentMsg := []
  outq : List OutItem := []
  /-- Ticks since which no APSN has advanced, and since which nothing has been resent. -/
  lastAdvance : Nat := 0
  lastSend : Nat := 0
  wrapsTx : Nat := 0
  wrapsRx : Nat := 0
  /-- Completions queued and not sent. -/
  queued : List Completion := []
  /-- Acceptance numbers of its fences (R440). -/
  fences : List Nat := []
  /-- A write of OFF waits for INFLIGHT to reach 0 (R396). -/
  offPend : Bool := false
  srcAddr : Nat := 0
  srcPort : Nat := 0
  lastEpochAck : Option Nat := none
  /-- Bytes of a spilled image that has come back (R386). -/
  inImage : List Byte := []
deriving DecidableEq, Repr

/-- A customer model (ch. 12). -/
structure CModel where
  valid : Bool := false
  tenant : Nat := 0
  task : Nat := 0
  fmt : Nat := 0
  ore : Option Nat := none
  expt : Nat := 0
  active : Bool := false
  stops : List (List Nat) := []
deriving DecidableEq, Repr

/-- The step that Weast has built (R388): task, step number, member requests, segment results, and the step's own. -/
structure Batch where
  task : Nat := 0
  k : Nat := 0
  decode : List Nat := []
  prefill : List (Nat × Nat) := []
  nseg : Nat := 1
  self : Nat := 0
  segs : List (Nat × Bool) := []
  /-- Tick at which the step ended here. -/
  ended : Option Nat := none
  /-- Contained records since the step began, with CONSEQ 1 and with CONSEQ 0 (R442); session slots that records name (R390). -/
  conseq : Bool := false
  plain : Bool := false
  named : List Nat := []
  /-- A contained record has failed the step (R423). -/
  failed : Bool := false
deriving DecidableEq, Repr

/-- What the loader keeps of a loaded task (R401, R405). -/
structure TaskImg where
  src : Nat := 0
  tenant : Nat := 0
  flags : Nat := 0
  coreSet : Nat := 0
  digest : List Byte := []
  serve : List Byte := []
  nseg : Nat := 1
  /-- Lane-program and scale slots assigned; the maps of the load (R405, R406). -/
  progs : List Nat := []
  scales : List Nat := []
  fmtMap : Nat := 0
  modMap : Nat := 0
  segMap : Nat := 0
deriving DecidableEq, Repr

/-- An error that a source asserts and the FCL has not yet recorded (R416, R417). -/
structure Pend where
  source : Nat
  cause : Nat
  detail : Nat := 0
  conseq : Bool := false
  inj : Bool := false
  merge : Nat := 0
  /-- The step that ran when it arose, unless the error is one that ends it (R425). -/
  step : Option Nat := none
deriving DecidableEq, Repr

/-- What the FCL and Weast keep of recoveries (ch. 14). Phase is in FCL_STATUS. -/
structure Recov where
  /-- Ticks of the first record of the recovery, of its last part-class record, and at which it or its last restart began. -/
  firstAt : Nat := 0
  lastAt : Nat := 0
  curAt : Nat := 0
  resetDone : Bool := false
  restoreDone : Bool := false
  /-- Ticks at which recoveries and restarts began (R438). -/
  history : List Nat := []
  /-- Core sources named by part-class records, with the tick at which that recovery or restart began (R437). -/
  named : List (Nat × Nat) := []
  /-- Cores named by an ageing floor record of this recovery. -/
  floor : List Nat := []
  /-- Sources read as broken, and sources whose rails injection holds. -/
  broken : List Nat := []
  railsHeld : List Nat := []
  /-- FCL_DOWN_TICKS runs since this tick (R448). -/
  downSince : Option Nat := none
  downTicks : Nat := 0
  /-- Next place in the flash ring of records (R429), and whether a fatal record has been made since power-on. -/
  ringAt : Nat := 0
  fatalLast : Bool := false
  ageAt : Nat := 0
  measures : Nat := 0
  /-- The control space as it stood when the recovery began: what writes deferred to its end leave in force (R449). -/
  eff : Sparse Word := []
  /-- A fatal record of QEN, the OHT engine or Weast: the part sends nothing further (R426). -/
  silent : Bool := false
deriving DecidableEq, Repr

/-- Keys (ch. 15). -/
structure Key where
  key : Nat := 0
  id : Word := 0
  tenant : Nat := 0
  valid : Bool := false
deriving DecidableEq, Repr

/-- Security state outside the control space (ch. 15). -/
structure Sec where
  wkeys : Sparse Key := []
  okeys : Sparse Key := []
  wrapPriv : Nat := 0
  mfw : List Byte := []
  trust : List (List Byte) := []
  owned : Bool := false
  seed : List Byte := []
  /-- Effect at the next power-on (R468): a new seed, or the erase of seed and trust list. -/
  nextSeed : Option (List Byte) := none
  nextClear : Bool := false
  svnMin : Nat := 0
  svnRaises : Nat := 0
  fwVersion : Nat := 0
  bootCnt : Nat := 0
  bootStage : Nat := 0
deriving DecidableEq, Repr

/-- The life of the module between power-off and service. -/
inductive Life where
  | off
  | starting
  | booted
  | ready
  | bootFailed
  | inReset
deriving DecidableEq, Repr

/-- Pins and standby controller (ch. 16). -/
structure Module where
  life : Life := .starting
  /-- VIN as last judged, in mV, and the tick at which it was found outside its limits with a record made. -/
  vinMv : Nat := 72000
  vinBadAt : Option Nat := none
  /-- Pins: PWR_EN, FP_SEL, PRSNT_N mated, RESET_N, TEST_EN. -/
  pwrEn : Bool := true
  fpSel : Bool := false
  prsnt : Bool := true
  resetN : Bool := true
  testEn : Bool := false
  /-- TEST_EN as sampled (R447). -/
  testMode : Bool := false
  /-- A new rise of PWR_EN is needed before the module starts again (R488). -/
  needRise : Bool := false
  /-- The rails were turned off by supply or cooling protection (STAT 7). -/
  protOff : Bool := false
  /-- Tick at which PWR_OK last fell; STAT, SEC_STATUS and SEC_BOOTCNT when the rails last went off (R492). -/
  offAt : Option Nat := none
  lastStat : Nat := 0
  lastSec : Word := 0
  lastBoot : Word := 0
  /-- Tenths of a millijoule not yet in SNS_ENERGY. -/
  energyRem : Nat := 0
  /-- Ticks of the cooling shutdown record and of the leak that followed or made it (R488); every quantity of R487 is within its
  operating range. -/
  coolAt : Option Nat := none
  leakAt : Option Nat := none
  coolOk : Bool := true
  /-- Flash programming interface: write-enable latch, and what it last drove (R492). -/
  wel : Bool := false
  spiOut : List Byte := []
  /-- JTAG: the instruction (0 BYPASS, 1 IDCODE, 2 SAMPLE/PRELOAD, 3 EXTEST), the bypass bit, what was last shifted out, and the
  preloaded boundary. -/
  jtag : Nat := 1
  bypass : Bool := false
  tdo : Nat := 0
  boundary : Nat := 0
deriving DecidableEq, Repr

/-- The time counter's steering (R297–R300), and the core oscillators (R294, R296, R301). -/
structure TimeSt where
  setDone : Bool := false
  loadedOnce : Bool := false
  syncArrived : Nat := 0
  syncOrigin : Nat := 0
  delayLeft : Nat := 0
  sourceAt : Nat := 0
  goodSince : Option Nat := none
  steerPpb : Int := 0
  /-- A lock has been lost and not regained. -/
  lost : Bool := false
  /-- Number of the next delay request. -/
  ptpSeq : Nat := 0
  /-- The oscillators have settled for reproducible mode. -/
  osc : Bool := false
  /-- Cores slowed: core, per cent, and the tick at which it is back at its target. -/
  slow : List (Nat × Nat × Nat) := []
  /-- Time counter minus ticks since power-on. -/
  offset : Int := 0
deriving DecidableEq, Repr

/-- What leaves the part: an OHT message sealed for a queue pair, a link block, a link-local hello, an answer of the host
port, the answer to an arrival at a core's Tarn, a time request. -/
inductive OutMsg where
  | oht (q : Nat) (addr port : Nat) (bytes : List Byte)
  | block (port : Nat) (bytes : List Byte)
  | hello (port : Nat) (h : PeerHello)
  | arp (mac ip target dest : Nat)
  | echo (target : Nat) (payload : List Byte)
  | pfc (prio : Nat)
  | tarnData (core : Nat) (ok : Bool) (bytes : List Byte)
  | delayReq (vlan udp : Nat) (bytes : List Byte)
deriving DecidableEq, Repr

/-- The whole state. -/
structure State where
  /-- Commands waiting, first in, first out. -/
  pending : List Instr
  /-- The control space: words by byte address, against the reset values of Regs. -/
  csr : Sparse Word
  /-- The control space as it stood when the running step began: what writes deferred to the next step leave in force. -/
  eff : Sparse Word
  /-- High-word latches by requester (R497). -/
  latches : Sparse Word
  /-- The word that the last control-space read returned. -/
  readData : Word
  /-- Tarn bytes, at core × 2^27 + address. -/
  tarn : List Host.Cell
  /-- Mere bytes, at the 42-bit address. -/
  mere : List Host.Cell
  /-- Accumulators, at ((core × 4 + array) × 1024 + row) × 256 + column. -/
  acc : Sparse Word
  /-- Tile registers, at (core × 64 + register) × 1024 + element. -/
  treg : Sparse Word
  /-- Mask tiles, at (core × 16 + tile) × 32 + word. -/
  mask : Sparse Word
  /-- Lane-program images, at (core × 64 + slot) × 64 + word. -/
  progs : Sparse Word
  /-- SPU registers, at (core × 8 + pipe) × 32 + register. -/
  spu : Sparse DWord
  pipes : Sparse PipeRun
  arrays : Sparse ArraySt
  /-- Sync flags, at core × 4096 + flag. -/
  flags : Sparse (BitVec 16)
  heldAdds : List HeldAdd
  /-- Unit queues and running commands, at core × 16 + unit code; the ORE at 203. -/
  units : Sparse UnitSt
  /-- Transfers issued and not completed, by core × 2 + engine (0 FXE, 1 SXE). -/
  outst : Sparse (List Xfer)
  /-- Command that issued the last transfer of an engine (its sequence number plus 1), by core × 2 + engine (R198). -/
  turns : Sparse Nat
  segs : Sparse Seg
  ssq : Ssq
  pgv : Pgv
  stackSt : Sparse StackSt
  ore : Ore
  ports : Sparse PortSt
  /-- Packets at this part that wait for a routing decision, with the port they came in by (12 for the part's own units),
  and packets delivered to a unit here. -/
  transit : List (Nat × Packet)
  inbox : List Packet
  regions : List Region
  /-- Transfers of other parts of which a packet has failed: source, tag, status (R329, R330). -/
  remoteBad : List (Nat × Nat × Nat)
  /-- Acknowledgements that wait for a held flag add, by the add's number (R57, R330). -/
  heldAcks : List (Nat × Packet)
  /-- Packets of the part's own units that FAB_QCTL.HOLD keeps back (R339). -/
  fabWait : List Packet
  /-- Packets that Weast and the port engines have taken in (R333, R344). -/
  mail : List Packet
  /-- Tag of the next transfer to another part; tags of failed transfers with their ticks (R331). -/
  nextTag : Nat
  failedTags : List (Nat × Nat)
  /-- Mesh slot tables, at (router × 9 + port) × 8192 + entry, and as the running step uses them (R286, R289). -/
  meshTbl : Sparse Byte
  meshEff : Sparse Byte
  /-- Arrivals that wait for their segments, in order (R193, R194). -/
  ingress : List Arrival
  /-- Requests that wait at the Tarn banks of a core, and those that its last cycle granted, in bank order (R185, R186). -/
  tarnWait : Sparse (List TarnWait)
  granted : Sparse (List TarnReq)
  /-- Heads that wait for an output, and the input that it last granted, at router × 9 + output (R283). -/
  meshWait : Sparse (List MeshWait)
  meshLast : Sparse Nat
  /-- Flits that an input along a link holds, at (router × 9 + input) × 4 + virtual channel (R282). -/
  meshHeld : Sparse Nat
  now : Nat
  time : TimeSt
  pend : List Pend
  recov : Recov
  qps : Sparse QpSt
  sessions : Sparse Session
  requests : List Request
  cmodels : Sparse CModel
  batch : Option Batch
  stepNo : Nat
  /-- Acceptance number of the next submission entry. -/
  nextReq : Nat
  /-- ACCT_PERIOD in force in ms, and the time counter at the last accounting boundary (R394). -/
  acctP : Nat
  acctAt : Nat
  /-- Units charged in the present period, by tenant (R393), and the REFILL in force. -/
  charged : Sparse Nat
  refill : Sparse Nat
  /-- Firings of a vector since its last record, at tenant × 64 + vector (R383). -/
  fired : Sparse Nat
  tasks : Sparse TaskImg
  sec : Sec
  flash : List Host.Cell
  /-- Field core record: cores lost so far (R2). -/
  coreRecord : Nat
  modul : Module
  pfcPaused : Sparse Nat
  out : List OutMsg
  /-- The model's own counter that numbers the free values drawn so far; not the manual's. -/
  fresh : Nat
deriving DecidableEq, Repr

/-- The part as PWR_OK rises on an OM-2412 with every core live: every register at its reset value, nothing booted. -/
def State.reset : State where
  pending := []
  csr := []
  eff := []
  latches := []
  readData := 0
  tarn := []
  mere := []
  acc := []
  treg := []
  mask := []
  progs := []
  spu := []
  pipes := []
  arrays := []
  flags := []
  heldAdds := []
  units := []
  outst := []
  turns := []
  segs := []
  ssq := {}
  pgv := {}
  stackSt := []
  ore := {}
  ports := []
  transit := []
  inbox := []
  regions := []
  remoteBad := []
  heldAcks := []
  fabWait := []
  mail := []
  failedTags := []
  nextTag := 0
  meshTbl := []
  meshEff := []
  ingress := []
  tarnWait := []
  granted := []
  meshWait := []
  meshLast := []
  meshHeld := []
  now := 0
  time := {}
  pend := []
  recov := {}
  qps := []
  sessions := []
  requests := []
  cmodels := []
  batch := none
  stepNo := 0
  nextReq := 0
  acctP := 1000
  acctAt := 0
  charged := []
  refill := []
  fired := []
  tasks := []
  sec := {}
  flash := []
  coreRecord := 0
  modul := {}
  pfcPaused := []
  out := []
  fresh := 0

end Sys2Proof.Machine
end

