-- ==== Sys2Proof/Machine/Ops.lean ====
section
/-! DEFINITION. The named operations over the state that the meanings share: control-space words, Tarn, Mere, flash and
engine storage, unit queues, errors raised to the FCL, power tokens, and free values. Meanings change State only through
these and through record updates of the fields of their own block. -/

namespace Sys2Proof.Machine

/-! ## Control space -/

/-- The word at a control-space address (its one home). -/
def rd (s : State) (a : Nat) : Word := sget resetWord a s.csr

/-- Stores a word. -/
def wr (a : Nat) (v : Word) (s : State) : State := { s with csr := sset resetWord a v s.csr }

/-- A register whose writes are deferred to the next step (R79, R108, R161, R180, R248, R276, R289, R304, R409): the value
in force. -/
def cfg (s : State) (a : Nat) : Word := if s.ssq.run then sget resetWord a s.eff else rd s a

/-- A field of a word. -/
def rdF (s : State) (a lo n : Nat) : Nat := fld (rd s a) lo n

/-- Changes a field of a word. -/
def wrF (a lo n v : Nat) (s : State) : State := wr a (setFld (rd s a) lo n v) s

/-- Adds to a counter that stops at 0xFFFF_FFFF (R78 and its likes). -/
def bump (a n : Nat) (s : State) : State := wr a (Word.ofNat (min ((rd s a).toNat + n) 0xFFFFFFFF)) s

/-- Sets a bit of a word. -/
def setBit (a i : Nat) (s : State) : State := wrF a i 1 1 s

/-- A 64-bit pair. -/
def rd64 (s : State) (a : Nat) : Nat := (rd s a).toNat + 2 ^ 32 * (rd s (a + 4)).toNat

/-- Stores a 64-bit pair. -/
def wr64 (a v : Nat) (s : State) : State := wr (a + 4) (Word.ofNat (v / 2 ^ 32)) (wr a (Word.ofNat v) s)

/-- Address of a core's register (ch. 17). -/
def coreReg (n off : Nat) : Nat := 0x100000 + n * 0x10000 + off
/-- Address of a stack's register. -/
def stkReg (n off : Nat) : Nat := 0x200000 + n * 0x4000 + off
/-- Address of a port's register. -/
def portReg (n off : Nat) : Nat := 0x300000 + n * 0x1000 + off
/-- Address of a queue context's word. -/
def qctx (q w : Nat) : Nat := 0x600000 + 64 * q + 4 * w
/-- Address of a tenant entry's word. -/
def tenReg (t w : Nat) : Nat := 0x800000 + 0x100 * t + 4 * w
/-- Address of a tenant's live statistics counter. -/
def statReg (t c : Nat) : Nat := 0x1000000 + 0x100 * t + 4 * c

abbrev rMaskFused : Nat := 0x10
abbrev rMaskLive : Nat := 0x14
abbrev rTarnSize : Nat := 0x18
abbrev rSsqFeatures : Nat := 0x18000
abbrev rSsqCtl : Nat := 0x18004
abbrev rSsqTask : Nat := 0x1800C
abbrev rSsqEntry : Nat := 0x18010
abbrev rRunahead : Nat := 0x18014
abbrev rStepLimit : Nat := 0x18018
abbrev rLate : Nat := 0x18030
abbrev rHazTarn : Nat := 0x18048
abbrev rHazAcc : Nat := 0x1804C
abbrev rHazMere : Nat := 0x18050
abbrev rSkipCount : Nat := 0x18054
abbrev rDeadlockCount : Nat := 0x18058
abbrev rFlagResidue : Nat := 0x1805C
abbrev rFlagHold : Nat := 0x18060
abbrev rCompat : Nat := 0x18400
abbrev rDetCtl : Nat := 0x11000
abbrev rDetStatus : Nat := 0x11004
abbrev rPool : Nat := 0x13000
abbrev rPgvPeak : Nat := 0x13010
abbrev rPgvClamp : Nat := 0x13014
abbrev rFclStatus : Nat := 0x20000

/-- Core n is live (R2, R3). -/
def live (s : State) (n : Nat) : Bool := decide (n < 12) && bitOf (rd s rMaskLive) n

/-- The live cores, in ascending number. -/
def liveCores (s : State) : List Nat := (List.range 12).filter (live s)

/-- State of the FCL: 0 RUN, 1 RECOVER, 2 HOLD, 3 FATAL. -/
def fclState (s : State) : Nat := rdF s rFclStatus 0 2

/-- The module has its rails up and is out of reset. -/
def powered (s : State) : Bool := s.modul.life == .booted || s.modul.life == .ready

/-- Engines run: powered, and no fatal record has stopped them (R426). -/
def engines (s : State) : Bool := powered s && fclState s != 3

/-- OA behaviour holds for the running step (R76). -/
def oa (s : State) : Bool := s.ssq.oa

/-- Reproducible mode of the running or last step (R301). -/
def repro (s : State) : Bool := bitOf (rd s rDetStatus) 0

/-- The 64-bit time counter (R297). -/
def timeCounter (s : State) : Nat := ux 64 ((s.now : Int) + s.time.offset)

/-! ## Free values -/

/-- The next free value's number, drawn. -/
def drawn (s : State) : State := { s with fresh := s.fresh + 1 }

/-- n undefined bytes (log entry 5), and the state after drawing them. -/
def freeBytes (n : Nat) (s : State) : List Byte × State :=
  ((List.range n).map fun i => Config.freeByte (s.fresh + i), { s with fresh := s.fresh + n })

/-- Adds to a counter some number of meetings, up to n: which accesses meet in one cycle is not for the commands to tell (log
entry 78). -/
def bumpMeets (a n : Nat) (s : State) : State := if n = 0 then s else bump a (Config.freeOrder s.fresh % (n + 1)) (drawn s)

/-- n random bits (R453, log entry 8). -/
def randomBits (n : Nat) (s : State) : Nat × State := (Config.random s.fresh % 2 ^ n, drawn s)

/-! ## Memories -/

/-- Unlisted Tarn and Mere bytes read zero (R195; Mere: log entry 2). -/
def zero8 : Nat → Byte := fun _ => 0
/-- Unlisted flash bytes read as erased (log entry 3). -/
def erased : Nat → Byte := fun _ => 0xFF
/-- Unlisted words read zero. -/
def zero32 : Nat → Word := fun _ => 0
/-- Unlisted mask words read all ones (R138). -/
def ones32 : Nat → Word := fun _ => 0xFFFFFFFF

/-- Place of a core's Tarn byte. -/
def tarnKey (c a : Nat) : Nat := c * 2 ^ 27 + a

/-- n Tarn bytes of core c from address a. -/
def tarnRead (s : State) (c a n : Nat) : List Byte := sgetMany zero8 (tarnKey c a) n s.tarn

/-- Writes Tarn bytes of core c from address a. -/
def tarnWrite (c a : Nat) (l : List Byte) (s : State) : State := { s with tarn := ssetMany zero8 (tarnKey c a) l s.tarn }

/-- Little-endian Tarn word of n bytes. -/
def tarnLe (s : State) (c a n : Nat) : Nat := leNat (tarnRead s c a n)

/-- n Mere bytes from a 42-bit address. -/
def mereRead (s : State) (a n : Nat) : List Byte := sgetMany zero8 a n s.mere

/-- Writes Mere bytes. -/
def mereWrite (a : Nat) (l : List Byte) (s : State) : State := { s with mere := ssetMany zero8 a l s.mere }

/-- Little-endian Mere word of n bytes. -/
def mereLe (s : State) (a n : Nat) : Nat := leNat (mereRead s a n)

/-- n bytes of module flash. -/
def flashRead (s : State) (a n : Nat) : List Byte := sgetMany erased a n s.flash

/-- Writes bytes of module flash. -/
def flashWrite (a : Nat) (l : List Byte) (s : State) : State := { s with flash := ssetMany erased a l s.flash }

/-- Place of accumulator (array, row, column) of core c. -/
def accKey (c a row col : Nat) : Nat := ((c * 4 + a) * 1024 + row) * 256 + col
/-- An accumulator word. -/
def accAt (s : State) (c a row col : Nat) : Word := sget zero32 (accKey c a row col) s.acc
/-- Writes an accumulator word. -/
def accSet (c a row col : Nat) (v : Word) (s : State) : State := { s with acc := sset zero32 (accKey c a row col) v s.acc }

/-- A tile-register element. -/
def tregAt (s : State) (c r e : Nat) : Word := sget zero32 ((c * 64 + r) * 1024 + e) s.treg
/-- Writes a tile-register element. -/
def tregSet (c r e : Nat) (v : Word) (s : State) : State := { s with treg := sset zero32 ((c * 64 + r) * 1024 + e) v s.treg }

/-- Word i of mask tile m of core c. -/
def maskWord (s : State) (c m i : Nat) : Word := sget ones32 ((c * 16 + m) * 32 + i) s.mask
/-- Writes a mask word. -/
def maskSet (c m i : Nat) (v : Word) (s : State) : State := { s with mask := sset ones32 ((c * 16 + m) * 32 + i) v s.mask }
/-- Bit of element e of mask tile m. -/
def maskBit (s : State) (c m e : Nat) : Bool := bitOf (maskWord s c m (e / 32)) (e % 32)

/-- An SPU register. -/
def spuReg (s : State) (c p r : Nat) : DWord := sget (fun _ => 0) ((c * 8 + p) * 32 + r) s.spu
/-- Writes an SPU register. -/
def spuSet (c p r : Nat) (v : DWord) (s : State) : State :=
  { s with spu := sset (fun _ => 0) ((c * 8 + p) * 32 + r) v s.spu }

/-- A matrix array. -/
def arr (s : State) (c a : Nat) : ArraySt := sget (fun _ => {}) (c * 4 + a) s.arrays
/-- Changes a matrix array. -/
def setArr (c a : Nat) (v : ArraySt) (s : State) : State := { s with arrays := sset (fun _ => {}) (c * 4 + a) v s.arrays }

/-- A Tarn segment. -/
def segOf (s : State) (c g : Nat) : Seg := sget (fun _ => {}) (c * 32 + g) s.segs
/-- Changes a Tarn segment. -/
def setSeg (c g : Nat) (v : Seg) (s : State) : State := { s with segs := sset (fun _ => {}) (c * 32 + g) v s.segs }

/-- A stack. -/
def stk (s : State) (n : Nat) : StackSt := sget (fun _ => {}) n s.stackSt
/-- Changes a stack. -/
def setStk (n : Nat) (v : StackSt) (s : State) : State := { s with stackSt := sset (fun _ => {}) n v s.stackSt }

/-- A fabric port. -/
def port (s : State) (p : Nat) : PortSt := sget (fun _ => {}) p s.ports
/-- Changes a fabric port. -/
def setPort (p : Nat) (v : PortSt) (s : State) : State := { s with ports := sset (fun _ => {}) p v s.ports }

/-- A queue pair beside its context. -/
def qpOf (s : State) (q : Nat) : QpSt := sget (fun _ => {}) q s.qps
/-- Changes a queue pair. -/
def setQp (q : Nat) (v : QpSt) (s : State) : State := { s with qps := sset (fun _ => {}) q v s.qps }

/-- A session slot. -/
def sess (s : State) (k : Nat) : Session := sget (fun _ => {}) k s.sessions
/-- Changes a session slot. -/
def setSess (k : Nat) (v : Session) (s : State) : State := { s with sessions := sset (fun _ => {}) k v s.sessions }

/-- What leaves the part. -/
def send (m : OutMsg) (s : State) : State := { s with out := s.out ++ [m] }

/-- FAB_QCTL.HOLD in force: a 1 written during a step waits for its end (R339). -/
def fabHeld (s : State) : Bool := bitOf (rd s 0x400008) 0 && bitOf (cfg s 0x400008) 0

/-- Endpoint of a unit of this part (R308). -/
def selfEp (s : State) (unit : Nat) : Nat := rdF s 0x400000 0 18 + unit * 2 ^ 18

/-- A packet joins a port's transmit queue, in its virtual channel. -/
def queueTx (p v : Nat) (k : Packet) (s : State) : State := setPort p { port s p with txq := (port s p).txq ++ [(v, k)] } s

/-- A packet of this part's own joins those that wait for their way. -/
def ownPacket (k : Packet) (s : State) : State := { s with transit := s.transit ++ [(12, k)] }

/-- A new packet of classes 0 to 4 of a unit other than an engine; FAB_QCTL.HOLD keeps it back (R339). -/
def freshPacket (k : Packet) (s : State) : State := if fabHeld s then { s with fabWait := s.fabWait ++ [k] } else ownPacket k s

/-- The hold is over: what it kept back goes. -/
def releaseFab (s : State) : State :=
  if fabHeld s then s else { s with transit := s.transit ++ s.fabWait.map fun k => (12, k), fabWait := [] }

/-! ## Units -/

/-- Key of unit u of core c; the ORE is unit 11 at core 12 (table of unit codes). -/
def unitKey (c u : Nat) : Nat := if u = 11 then 203 else c * 16 + u

/-- A unit's queue and running commands. -/
def unitOf (s : State) (k : Nat) : UnitSt := sget (fun _ => {}) k s.units
/-- Changes a unit. -/
def setUnit (k : Nat) (v : UnitSt) (s : State) : State := { s with units := sset (fun _ => {}) k v s.units }
/-- Head of a unit's queue. -/
def headOf (s : State) (k : Nat) : Option QCmd := (unitOf s k).queue.head?
/-- Changes every running command of a unit that bears a sequence number. -/
def updRun (k seq : Nat) (f : Run → Run) (s : State) : State :=
  setUnit k { unitOf s k with running := (unitOf s k).running.map fun r => if r.q.seq = seq then f r else r } s
/-- A running command of a unit. -/
def runOf (s : State) (k seq : Nat) : Option Run := (unitOf s k).running.find? fun r => r.q.seq == seq
/-- Every running command of the part, with its unit. -/
def allRuns (s : State) : List (Nat × Run) := s.units.flatMap fun (k, u) => u.running.map fun r => (k, r)
/-- Outstanding transfers of an engine: 0 FXE, 1 SXE. -/
def outstOf (s : State) (c e : Nat) : List Xfer := sget (fun _ => []) (c * 2 + e) s.outst
/-- Changes the outstanding transfers of an engine. -/
def setOutst (c e : Nat) (v : List Xfer) (s : State) : State := { s with outst := sset (fun _ => []) (c * 2 + e) v s.outst }

/-! ## Errors (R416, R417, R419) -/

/-- A source number. -/
def srcOf (kind inst sub : Nat) : Nat := kind * 4096 + inst * 64 + sub

/-- Spare rows and spare columns that array i of the die uses, each 0 to 4, as MXA_SPARE holds them (R133). -/
def spareOf (i : Nat) : Nat := Config.spare i % 5 + Config.spare i / 8 % 5 * 8

/-- A source asserts an error: a further error of a cause it already holds merges (R417). It belongs to the running step; a stream
fault, a halt, a deadlock and an overrun end the step themselves (R425). -/
def raisePend (p : Pend) (s : State) : State :=
  if s.pend.any fun x => x.source == p.source && x.cause == p.cause then
    { s with pend := s.pend.map fun x =>
        if x.source == p.source && x.cause == p.cause then { x with merge := min (x.merge + 1) 0xFFFF } else x }
  else { s with pend := s.pend ++ [{ p with step := if s.ssq.run && (decide (p.cause < 0x10) || decide (0x13 < p.cause)) then some s.stepNo else none }] }

/-- A source asserts an error that is not consequential. -/
def raise (source cause detail : Nat) (s : State) : State := raisePend { source := source, cause := cause, detail := detail } s

/-! ## Power tokens (R407–R409) -/

/-- Pool size in force: 128 to 990 (R409). -/
def poolSize (s : State) : Nat := max 128 (min 990 (fld (cfg s rPool) 0 10))

/-- Takes n tokens from the pool; PGV_PEAK holds the highest held (R414). -/
def takeTokens (n : Nat) (s : State) : State :=
  let h := s.pgv.held + n
  wr rPgvPeak (Word.ofNat (max (rd s rPgvPeak).toNat h))
    { s with pgv := { s.pgv with held := h, taken := s.pgv.taken + Word.ofNat n } }

/-- Returns n tokens. -/
def returnTokens (n : Nat) (s : State) : State :=
  { s with pgv := { s.pgv with held := s.pgv.held - n, returned := s.pgv.returned + Word.ofNat n } }

/-! ## Tasks and windows -/

/-- The running step is of a task of tenant n, by the tenant entries that it holds in force. -/
def tenantRuns (s : State) (n : Nat) : Bool :=
  let e := fun w => sget resetWord (tenReg n w) s.eff
  s.ssq.run && bitOf (e 0) 0 && bitOf (e (2 + s.ssq.task / 32)) (s.ssq.task % 32)

/-- Word w (0 to 5, or of a window) of tenant n in force: a write during a step of one of its tasks waits for the step
boundary (R397). -/
def tenCfg (s : State) (n w : Nat) : Word := if tenantRuns s n then sget resetWord (tenReg n w) s.eff else rd s (tenReg n w)

/-- The tenant whose TASKS names task t: the lowest such valid tenant (R24, ch. 12). -/
def tenantOfTask (s : State) (t : Nat) : Option Nat :=
  (List.range 256).find? fun n =>
    bitOf (tenCfg s n 0) 0 && bitOf (tenCfg s n (2 + t / 32)) (t % 32)

/-- The Tarn window of task t on core c: first byte and limit (R189). -/
def tarnWindow (s : State) (c t : Nat) : Nat × Nat :=
  (fld (cfg s (coreReg c (0xC400 + 8 * t))) 12 15 * 4096,
   min (fld (cfg s (coreReg c (0xC404 + 8 * t))) 12 16 * 4096) (rd s rTarnSize).toNat)

/-- A range of Tarn bytes lies wholly in task t's window on core c (R90, R91). -/
def inTarn (s : State) (c t : Nat) (lo hi : Int) : Bool :=
  let w := tarnWindow s c t
  decide ((w.1 : Int) ≤ lo) && decide (hi < (w.2 : Int))

/-- Mere window i of tenant n: first byte and limit, when in use (ch. 12). -/
def mereWindow (s : State) (n i : Nat) : Option (Nat × Nat) :=
  let g := fun j => (tenCfg s n (16 + 4 * i + j)).toNat
  if (g 3).testBit 31 then some (g 0 / 256 * 256 + g 1 % 1024 * 2 ^ 32, g 2 / 256 * 256 + g 3 % 1024 * 2 ^ 32) else none

/-- A range of Mere bytes lies wholly in one of the tenant's windows, and in stacks that exist (R90, R91). -/
def inMereOf (s : State) (n : Nat) (lo hi : Int) : Bool :=
  decide (0 ≤ lo) && decide (hi < (24 * 2 ^ 37 : Nat)) &&
  (List.range 8).any fun i => match mereWindow s n i with
    | some (b, l) => decide ((b : Int) ≤ lo) && decide (hi < (l : Int))
    | none => false

/-- The same for the tenant of task t. -/
def inMere (s : State) (t : Nat) (lo hi : Int) : Bool :=
  match tenantOfTask s t with
  | some n => inMereOf s n lo hi
  | none => false

/-! ## Command fields (table of command fields, ch. 2) -/

def Cmd.opcode (c : Cmd) : Nat := fld c.w0 0 12
def Cmd.core (c : Cmd) : Nat := fld c.w0 12 4
def Cmd.unit (c : Cmd) : Nat := fld c.w0 16 4
def Cmd.wflag (c : Cmd) : Nat := fld c.w0 20 12
def Cmd.sflag (c : Cmd) : Nat := fld c.w1 0 12
def Cmd.desc (c : Cmd) : Nat := fld c.w1 12 16
def Cmd.wen (c : Cmd) : Bool := bitOf c.w1 28
def Cmd.sen (c : Cmd) : Bool := bitOf c.w1 29
def Cmd.loopIx (c : Cmd) : Nat := fld c.w2 0 16
def Cmd.wcnt (c : Cmd) : Nat := fld c.w2 16 16
def Cmd.scnt (c : Cmd) : Nat := fld c.w3 0 16
def Cmd.score (c : Cmd) : Nat := fld c.w3 16 4

/-- The command of eight words in memory, little-endian. -/
def Cmd.ofBytes (l : List Byte) : Cmd :=
  let w := fun i => Word.ofNat (leAt l (4 * i) 4)
  { w0 := w 0, w1 := w 1, w2 := w 2, w3 := w 3, w4 := w 4, w5 := w 5, w6 := w 6, w7 := w 7 }

end Sys2Proof.Machine
end

