-- ==== Sys2Proof/Machine/Ecc.lean ====
section
/-! DEFINITION. What the code of a Mere access unit finds, and what the stack does of it (R224–R226). -/

namespace Sys2Proof.Machine

/-- Stack, bank and bank row of a Mere address (ch. 7, table of address fields). -/
def stackNo (a : Nat) : Nat := a / 2 ^ 37
def bankNo (a : Nat) : Nat := a / 2 ^ 8 % 512
def bankRow (a : Nat) : Nat := a / 2 ^ 20 % 2 ^ 17

/-- Enters a correction, or a count of 255, for a row in the table of a stack (R225, R226): a full table gives up the row
with the lowest count. -/
def noteRow (t : List (Nat × Nat × Nat)) (b r n : Nat) (force : Bool) : List (Nat × Nat × Nat) :=
  if t.any fun e => e.1 == b && e.2.1 == r then
    t.map fun e => if e.1 = b ∧ e.2.1 = r then (b, r, if force then 255 else min 255 (e.2.2 + n)) else e
  else
    let new := (b, r, if force then 255 else n)
    if t.length < 64 then t ++ [new]
    else
      let low := t.foldl (fun m e => min m e.2.2) 256
      let i := t.findIdx fun e => e.2.2 == low
      t.set i new

/-- Count of a row in the table. -/
def rowCount (t : List (Nat × Nat × Nat)) (b r : Nat) : Nat :=
  match t.find? fun e => e.1 == b && e.2.1 == r with
  | some e => e.2.2
  | none => 0

/-- Detail of a record that names a bank row (R508). -/
def rowDetail (b r : Nat) : Nat := b + r * 512

/-- A unit corrected at Mere address a: counted, its row noted, and a corrected record at the limit (R225). -/
def corrected (a : Nat) (s : State) : State :=
  let n := stackNo a
  let st := stk s n
  let t := noteRow st.rowErr (bankNo a) (bankRow a) 1 false
  let s := setStk n { st with rowErr := t } (bump (stkReg n 0x10) 1 s)
  let lim := max 1 (fld (cfg s (stkReg n 0xC)) 0 8)
  if rowCount t (bankNo a) (bankRow a) = lim ∧ rowCount st.rowErr (bankNo a) (bankRow a) ≠ lim then
    raise (srcOf 1 n 0) 0x01 (rowDetail (bankNo a) (bankRow a)) s
  else s

/-- Spare rows that a bank has in use. -/
def sparesUsed (st : StackSt) (bank : Nat) : Nat := (st.remaps.filter fun p => p.1 == bank).length

/-- A bank has used all its spare rows, or has shown uncorrectable units in 4 rows (R228). -/
def qualifies (st : StackSt) (bank : Nat) : Bool :=
  decide (64 ≤ sparesUsed st bank) || decide (4 ≤ (st.ueRows.filter fun p => p.1 == bank).length)

/-- The stack is degraded: a part-class fault and DEGRADED (R229). -/
def degrade (n : Nat) (s : State) : State := raise (srcOf 1 n 3) 0x23 0 (setBit 0x20044 2 (setBit (stkReg n 0) 2 s))

/-- A bank that comes to qualify while the spare bank is in use for another degrades the stack (R229). -/
def checkBank (n bank : Nat) (old : StackSt) (s : State) : State :=
  let st := stk s n
  if qualifies st bank && !(qualifies old bank) && (st.spared.isSome || st.copying.isSome) && st.copying != some bank then degrade n s
  else s

/-- Notes a row as holding an uncorrectable unit (R226, R228, R229). -/
def noteUe (a : Nat) (s : State) : State :=
  let n := stackNo a
  let st := stk s n
  let row := (bankNo a, bankRow a)
  checkBank n row.1 st
    (setStk n { st with rowErr := noteRow st.rowErr row.1 row.2 0 true
                        ueRows := if st.ueRows.contains row then st.ueRows else st.ueRows ++ [row] } s)

/-- A unit beyond correction at Mere address a: counted, its row noted, and a contained record that names it (R226, R508). -/
def uncorrectable (a : Nat) (s : State) : State :=
  raise (srcOf 1 (stackNo a) 0) 0x17 (a / 256 % 2 ^ 29) (noteUe a (bump (stkReg (stackNo a) 0x14) 1 s))

/-- The effect of one access unit's code. -/
def eccNote (e : Ecc) (a : Nat) (s : State) : State :=
  match e with
  | .clean => s
  | .corrected => corrected a s
  | .uncorrectable => uncorrectable a s

/-- What the code finds: each codeword corrects up to 4 bytes, and an error beyond that is detected (R224, log entry 19). -/
def eccOf (e : UnitErr) : Ecc :=
  if e.even = 0 ∧ e.odd = 0 then .clean else if e.even ≤ 4 ∧ e.odd ≤ 4 then .corrected else .uncorrectable

/-- What the code finds in unit u. -/
def unitEcc (m : EccMap) (u : Nat) : Ecc := ((m.find? fun e => e.1 == u).map fun e => eccOf e.2).getD .clean

/-- Numbers of the access units that n bytes from a touch. -/
def unitsOf (a n : Nat) : List Nat := if n = 0 then [] else (List.range ((a + n - 1) / 256 + 1 - a / 256)).map fun i => a / 256 + i

/-- Some unit of a list is beyond correction. -/
def anyUe (m : EccMap) (us : List Nat) : Bool := us.any fun u => unitEcc m u == .uncorrectable

/-- The effect of the code of each unit of a list, in order. -/
def noteUnits (m : EccMap) (us : List Nat) (s : State) : State := us.foldl (fun s u => eccNote (unitEcc m u) (u * 256) s) s

/-- Bytes from address a, with those in a unit of `us` that is beyond correction taken from another list. -/
def maskUe (m : EccMap) (us : List Nat) (a : Nat) (l other : List Byte) : List Byte :=
  ((l.zip other).zipIdx).map fun (p, i) =>
    let u := (a + i) / 256
    if us.contains u && unitEcc m u == .uncorrectable then p.2 else p.1

/-- An access to a stack in self-refresh wakes it (R221). -/
def wakeStack (n : Nat) (s : State) : State :=
  if n < 24 ∧ bitOf (rd s (stkReg n 4)) 0 then bump (stkReg n 0x24) 1 (wrF (stkReg n 4) 0 1 0 s) else s

/-- Accesses to Mere units wake every stack that they reach (R221). -/
def wakeUnits (us : List Nat) (s : State) : State :=
  ((us.map fun u => stackNo (u * 256)).eraseDups).foldl (fun s n => wakeStack n s) s

/-- An access to n bytes at a Mere address: the stacks it reaches wake, and its units' code is noted (R221, R224). A read that an
uncorrectable unit spoils returns the data as they are stored (R226). -/
def reachMere (m : EccMap) (a n : Nat) (s : State) : State := noteUnits m (unitsOf a n) (wakeUnits (unitsOf a n) s)

end Sys2Proof.Machine
end

