-- ==== Sys2Proof/Machine/Mesh.lean ====
section
/-! DEFINITION. The mesh, the core oscillators and the time counter (ch. 9), as far as commands and registers show them. -/

namespace Sys2Proof.Machine

/-! ## Mesh -/

/-- Router r has a port of a code, as input and as output (R277). -/
def hasMeshPort (r p : Nat) : Bool :=
  decide (r < 12) &&
  match p with
  | 0 => decide (r % 4 ≠ 0)
  | 1 => decide (r % 4 ≠ 3)
  | 2 => decide (4 ≤ r)
  | 3 => decide (r < 8)
  | 4 => true
  | 5 => true
  | 6 => true
  | 7 => true
  | 8 => decide (r = 5) || decide (r = 6)
  | _ => false

/-- A router's counter. -/
def meshReg (r off : Nat) : Nat := 0x12100 + 0x20 * r + off

/-- The mesh is scheduled (R289). -/
def meshScheduled (s : State) : Bool := repro s || bitOf (cfg s 0x12000) 0

/-- Frames per timetable period. -/
def schedPeriod (s : State) : Nat := max 1 (min 1024 (fld (cfg s 0x12004) 0 11))

/-! ### Paths (R277–R280, R290) -/

/-- A place on the mesh: a router and the code of one of its ports. -/
abbrev MeshEnd := Nat × Nat

/-- Where core c, stack n, fabric port p and Weast join the mesh (R24, R277). -/
def coreEnd (c : Nat) : MeshEnd := (c, 4)
def stackEnd (n : Nat) : MeshEnd := (n / 2, 5 + n % 2)
def portEnd (p : Nat) : MeshEnd := (p, 7)
def weastEnd : MeshEnd := (6, 8)

/-- Output by which a packet for router b leaves router r: along x until x matches, then along y; none at b (R278). -/
def meshOut (r b : Nat) : Option Nat :=
  if b % 4 < r % 4 then some 0
  else if r % 4 < b % 4 then some 1
  else if b / 4 < r / 4 then some 2
  else if r / 4 < b / 4 then some 3
  else none

/-- The router and its input that an output leads to; none for a port that leaves the mesh. -/
def meshLink (r p : Nat) : Option MeshEnd :=
  if !(hasMeshPort r p) then none
  else match p with
  | 0 => some (r - 1, 1)
  | 1 => some (r + 1, 0)
  | 2 => some (r - 4, 3)
  | 3 => some (r + 4, 2)
  | _ => none

/-- Every hop of a packet that enters at one place and leaves at another: router, input and output. -/
def meshHops (a b : MeshEnd) : Nat → List (Nat × Nat × Nat)
  | 0 => []
  | n + 1 =>
    match meshOut a.1 b.1 with
    | none => [(a.1, a.2, b.2)]
    | some o => match meshLink a.1 o with
      | none => []
      | some x => (a.1, a.2, o) :: meshHops x b n

/-- The one path between two places (R278): at most five links. -/
def meshPath (a b : MeshEnd) : List (Nat × Nat × Nat) := meshHops a b 6

/-- Virtual channels (R282). -/
abbrev vcRequest : Nat := 0
abbrev vcReply : Nat := 1
abbrev vcStream : Nat := 2
abbrev vcManage : Nat := 3

/-- Flits of a packet of n bytes of data; a request or an acknowledgement takes one (log entry 82). -/
def flitsOf (n : Nat) : Nat := max 1 (ceilDiv n 512)

/-- Flits leave a router (R304). -/
def countFlits (r n : Nat) (s : State) : State := bump (meshReg r 0) n s

/-- A packet of so many flits crosses the die; one between a core and its own stacks does not enter the mesh (R17, R277). -/
def meshSend (a b : MeshEnd) (n : Nat) (s : State) : State :=
  if a.1 = b.1 ∧ (a.2 = 4 ∨ b.2 = 4) ∧ (a.2 = 5 ∨ a.2 = 6 ∨ b.2 = 5 ∨ b.2 = 6 ∨ a.2 = b.2) then s
  else (meshPath a b).foldl (fun s h => countFlits h.1 n s) s

/-- Copies of a multicast packet from router a that router r sends on: along a's row both ways, from each router of that row along its
column both ways, and one out at each place named (R280). -/
def treeCopies (a : Nat) (ends : List MeshEnd) (r : Nat) : Nat :=
  let n := fun (b : Bool) (p : Nat) => if b && hasMeshPort r p then 1 else 0
  let row := r / 4 == a / 4
  (ends.filter fun e => e.1 == r).length
    + n (row && decide (r % 4 ≤ a % 4)) 0 + n (row && decide (a % 4 ≤ r % 4)) 1
    + n (decide (r / 4 ≤ a / 4)) 2 + n (decide (a / 4 ≤ r / 4)) 3

/-- A multicast packet crosses the die. -/
def meshCast (a : Nat) (ends : List MeshEnd) (n : Nat) (s : State) : State :=
  iter 12 (fun r s => countFlits r (n * treeCopies a ends r) s) s

/-! ### A mesh cycle (R282–R284, R287, R293) -/

/-- Index of input p, virtual channel v of router r. -/
def bufKey (r p v : Nat) : Nat := (r * 9 + p) * 4 + v

/-- Flits that an input holds (R282). -/
def flitsHeld (s : State) (r p v : Nat) : Nat := sget (fun _ => 0) (bufKey r p v) s.meshHeld

/-- The seam crossing of an output along y: y link i and direction d, 0 south (R293; log entry 83). -/
def seamOf (r p : Nat) : Option Nat := if p = 3 then some (2 * r) else if p = 2 then some (2 * (r - 4) + 1) else none

/-- A flit of a virtual channel has credit at an output: the next input has room for it, and a seam it crosses is trained. -/
def hasCredit (s : State) (r p v : Nat) : Bool :=
  match meshLink r p with
  | none => true
  | some x => decide (flitsHeld s x.1 x.2 v < 16) && match seamOf r p with
    | some i => bitOf (rd s 0x1200C) i
    | none => true

/-- Priority of a flit by the kind of unit that sent it; Weast's is always 3 (R284). -/
def meshPrio (s : State) (u : MeshUnit) : Nat :=
  let f := fun i => fld (cfg s 0x12008) (2 * i) 2
  match u with
  | .core => f 0
  | .lse => f 1
  | .ore => f 2
  | .stack => f 3
  | .fabric => f 4
  | .move => f 5
  | .weast => 3

/-- Refused in 64 mesh cycles one after another while it had credit (R283). -/
def meshStarved (w : MeshWait) : Bool := decide (64 ≤ w.refused)

/-- Inputs passed from the one after that last granted, in turn. -/
def turnOf (last p : Nat) : Nat := (p + 8 - last % 9) % 9

/-- a comes before b at an output that last granted an input (R283). -/
def meshAhead (s : State) (last : Nat) (a b : MeshWait) : Bool :=
  if meshStarved a != meshStarved b then meshStarved a
  else
    let x := meshPrio s a.head.sender
    let y := meshPrio s b.head.sender
    if x = y then decide (turnOf last a.head.input < turnOf last b.head.input) else decide (x < y)

/-- The first of some heads in that order. -/
def meshFirst (s : State) (last : Nat) : List MeshWait → Option MeshWait
  | [] => none
  | x :: l => some (l.foldl (fun w y => if meshAhead s last y w then y else w) x)

/-- Entry of the slot table that the mesh cycle `cyc` of the present frame uses at an output: its input and virtual channel, when the
slot is owned (R285–R287). Cycles from 8 on are guard cycles. -/
def slotOwner (s : State) (r p cyc : Nat) : Option (Nat × Nat) :=
  let e := (sget (fun _ => 0) ((r * 9 + p) * 8192 + 8 * (s.ssq.issue / 4 % schedPeriod s) + cyc) s.meshEff).toNat
  if cyc < 8 ∧ e.testBit 6 ∧ hasMeshPort r (e % 16) then some (e % 16, e / 16 % 4) else none

/-- May be granted a leftover cycle: neither management nor a cold-pool move (R287, R288). -/
def takesLeftover (w : MeshWait) : Bool := decide (w.head.vc < 3) && w.head.sender != .move

/-- The head that an output grants of those that have credit, and whether the cycle is a leftover one (R283, R287). -/
def meshGrant (s : State) (r p cyc : Nat) (l : List MeshWait) : Option (MeshWait × Bool) :=
  let last := sget (fun _ => 8) (r * 9 + p) s.meshLast
  if !(meshScheduled s) then (meshFirst s last l).map fun w => (w, false)
  else
    match (slotOwner s r p cyc).bind fun o => l.find? fun w => w.head.input == o.1 && w.head.vc == o.2 with
    | some w => some (w, false)
    | none => (meshFirst s last (l.filter takesLeftover)).map fun w => (w, true)

/-- Changes what an input along a link holds. -/
def holdFlit (r p v : Nat) (up : Bool) (s : State) : State :=
  let n := flitsHeld s r p v
  { s with meshHeld := sset (fun _ => 0) (bufKey r p v) (if up then n + 1 else n - 1) s.meshHeld }

/-- A granted flit leaves its input, and enters the next one where the output is a link. -/
def moveFlit (r p : Nat) (h : MeshHead) (s : State) : State :=
  let s := if h.input < 4 then holdFlit r h.input h.vc false s else s
  match meshLink r p with
  | some x => holdFlit x.1 x.2 h.vc true s
  | none => s

/-- A head that comes newly to an output: of an input that the router has, not there already, and of a link only when that input
holds a flit. -/
def newHead (s : State) (r : Nat) (l : List MeshWait) (h : MeshHead) : Bool :=
  hasMeshPort r h.input && decide (h.vc < 4) && !(l.any fun w => w.head.input == h.input && w.head.vc == h.vc)
    && (decide (4 ≤ h.input) || decide (0 < flitsHeld s r h.input h.vc))

/-- MESH_STARVE: one mesh cycle `cyc` of the present frame at output p of router r, with the flits that have newly come to the heads
of inputs. One flit that has credit is granted, a starved one first; the others wait on (R282–R284, R287, R288; log entry 83). -/
def meshStarve (r p cyc : Nat) (heads : List MeshHead) (s : State) : State :=
  if !(engines s) || !(hasMeshPort r p) then s
  else
    let k := r * 9 + p
    let l := heads.foldl (fun l h => if newHead s r l h then l ++ [{ head := h }] else l) (sget (fun _ => []) k s.meshWait)
    let able := l.filter fun w => hasCredit s r p w.head.vc
    let g := meshGrant s r p cyc able
    let left := (match g with
      | some w => l.erase w.1
      | none => l).map fun (w : MeshWait) => { w with refused := if hasCredit s r p w.head.vc then w.refused + 1 else 0 }
    let starved := (left.filter fun w => w.refused == 64).length
    let missed := meshScheduled s && (slotOwner s r p cyc).any fun o => left.any fun w => w.head.input == o.1 && w.head.vc == o.2
    let s := bump (meshReg r 4) starved (bump (meshReg r 8) (if missed then 1 else 0)
      { s with meshWait := sset (fun _ => []) k left s.meshWait })
    match g with
    | none => s
    | some w =>
      moveFlit r p w.1.head (bump (meshReg r 0xC) (if w.2 then 1 else 0)
        { s with meshLast := sset (fun _ => 8) k w.1.head.input s.meshLast })

/-! ### What scheduled mode holds back (R24, R288) -/

/-- Some slot of the timetable at an output belongs to an input, in virtual channel v when one is given. -/
def slotFor (s : State) (r i o : Nat) (v : Option Nat) : Bool :=
  s.meshEff.any fun (k, e) =>
    k / 8192 == r * 9 + o && decide (k % 8192 < 8 * schedPeriod s) && e.toNat.testBit 6 && e.toNat % 16 == i
      && match v with
        | some v => e.toNat / 16 % 4 == v
        | none => true

/-- Slots are owned all along a path. -/
def pathOwned (s : State) (a b : MeshEnd) (v : Option Nat) : Bool := (meshPath a b).all fun h => slotFor s h.1 h.2.1 h.2.2 v

/-- The timetable of a running step governs the mesh. -/
def timetabled (s : State) : Bool := s.ssq.run && !s.ssq.held && meshScheduled s

/-- Weast reaches a place on the mesh, there and back, in slots owned by virtual channel 3 (R24, R288). -/
def weastReaches (s : State) (b : MeshEnd) : Bool :=
  !(timetabled s) || (pathOwned s weastEnd b (some vcManage) && pathOwned s b weastEnd (some vcManage))

/-- A cold-pool move goes from one stack to another, in slots owned by the stack ports at each end; within one stack it does not
enter the mesh (R247, R288). -/
def moveReaches (s : State) (a b : Nat) : Bool :=
  !(timetabled s) || a == b || pathOwned s (stackEnd a) (stackEnd b) none

/-! ## Slot tables (R285, R286, R289, R305) -/

/-- Place of the entry that MESH_TBL_ADDR names; none outside the tables (R286, R305). -/
def tblPlace (s : State) : Option Nat :=
  let a := rd s 0x12010
  let e := fld a 0 13
  let p := fld a 13 4
  let r := fld a 17 4
  if hasMeshPort r p ∧ e < 8 * max 1 (min 1024 (rdF s 0x12004 0 11)) then some ((r * 9 + p) * 8192 + e) else none

/-- What MESH_TBL_DATA reads: the entries in effect (R289). -/
def tblRead (s : State) : Word :=
  match tblPlace s with
  | some k => Word.ofNat (leNat (sgetMany (fun _ => 0) k 4 (if s.ssq.run then s.meshEff else s.meshTbl)))
  | none => 0

/-- MESH_TBL_DATA_WRITE: the reserved bit of an entry stays 0 (R286, R305). -/
def meshTblDataWrite (v : Word) (s : State) : State :=
  if !(powered s) then s
  else match tblPlace s with
  | none => s
  | some k =>
    wrF 0x12010 0 13 (rdF s 0x12010 0 13 + 4) { s with meshTbl := ssetMany (fun _ => 0) k ((leBytes 4 v.toNat).map fun b => b &&& 0x7F) s.meshTbl }

/-- Entries used at frame f whose input the router lacks (R286), by router. -/
def badSlots (s : State) (f r : Nat) : Nat :=
  let lo := f % schedPeriod s * 8
  (s.meshEff.filter fun (k, e) =>
    k / 8192 / 9 == r && decide (lo ≤ k % 8192) && decide (k % 8192 < lo + 8) && e.toNat.testBit 6
      && !(hasMeshPort r (e.toNat % 16))).length

/-- A frame begins at each router when issue time reaches a multiple of 4 (R285). -/
def frameBegin (s : State) : State :=
  if meshScheduled s && s.ssq.issue % 4 == 0 then
    iter 12 (fun r s => if badSlots s (s.ssq.issue / 4) r = 0 then s else bump (meshReg r 0x10) (badSlots s (s.ssq.issue / 4) r) s) s
  else s

/-- Every seam crossing is trained (R293). -/
def trainSeams (s : State) : State := wr 0x1200C 0xFFFF s

/-- SEAM_DRIFT: crossing i drifts by more than a quarter of a mesh cycle (R293). -/
def seamDrift (i : Nat) (s : State) : State :=
  if !(powered s) || !(bitOf (rd s 0x1200C) i) then s
  else raise (srcOf 3 (16 + i) 1) 0x20 i (setBit 0x1200C (16 + i) s)

/-! ## Oscillators -/

/-- Frequency of core c's oscillator in MHz when it is not slowed: locked at 1.9 GHz in reproducible mode, else the planned target
(R294, R296). -/
def clkTarget (s : State) (c : Nat) : Nat := if s.time.osc then 1900 else fld (cfg s (coreReg c 0xD140)) 0 12

/-- By how many per cent core c is slowed now (R294). -/
def slowedBy (s : State) (c : Nat) : Nat :=
  match s.time.slow.find? fun x => x.1 == c with
  | some (_, pct, till) => if s.now < till then pct else 0
  | none => 0

/-- Present frequency of core c, to the nearest MHz. -/
def clkMhz (s : State) (c : Nat) : Nat := (clkTarget s c * (100 - slowedBy s c) + 50) / 100

/-- CLOCK_SLOW: core c runs `cycles` core cycles below its target, by pct per cent at the deepest, 12 at most; in reproducible
mode that is a pin slip. A droop that needs more raises a fault (R294–R296). -/
def clockSlow (c pct cycles : Nat) (s : State) : State :=
  if !(powered s) || !(live s c) then s
  else
    let p := min 12 pct
    let till := s.now + ceilDiv (cycles * 1000) (max 1 (clkTarget s c * (100 - p) / 100))
    let s := { s with time := { s.time with slow := (c, p, till) :: s.time.slow.filter fun x => x.1 != c } }
    let s := bump (coreReg c 0xD004) 1 (bump (coreReg c 0xD008) cycles s)
    let s := if repro s then setBit rDetStatus 2 (bump (coreReg c 0xD00C) 1 s) else s
    if 12 < pct then raise (srcOf 0 c 12) 0x21 0 s else s

/-- What CLK_STATUS reads. -/
def clkStatus (s : State) (c : Nat) : Word :=
  if powered s && live s c then
    Word.ofNat ((if s.time.osc then 1 else 0) + (if slowedBy s c = 0 then 0 else 2) + clkMhz s c * 4 + clkTarget s c * 2 ^ 14)
  else 0

/-- DET_STATUS.SETTLED: the core oscillators have settled for the mode selected (R301). -/
def settled (s : State) : Bool := bitOf (cfg s rDetCtl) 0 == s.time.osc

/-! ## Time (R297–R300) -/

abbrev rTimeCtl : Nat := 0x10008
abbrev rTimeStatus : Nat := 0x1000C
abbrev rTimeOffset : Nat := 0x10010

/-- Source selected: 0 free, 1 PTP, 2 fabric. -/
def timeSrc (s : State) : Nat := rdF s rTimeCtl 0 2

/-- The counter has been set since power-on, or a task has been loaded: TIME_SET takes no write (R297). -/
def timeIsSet (s : State) : Bool :=
  s.time.setDone || s.time.loadedOnce || ((List.range 64).any fun t => bitOf (rd s (rCompat + 4 * t)) 1)

/-- A write of TIME_SET's low word. -/
def timeSetLow (v : Word) (s : State) : State := if timeIsSet s then bump 0x10020 1 s else wr 0x10018 v s

/-- TIME_SET: a write of the high word loads the counter once after power-on, before the first task is loaded
(R297). -/
def timeSet (high : Word) (s : State) : State :=
  if !(powered s) then s
  else if timeIsSet s then bump 0x10020 1 s
  else
    let v : Nat := (rd s 0x10018).toNat + high.toNat * 2 ^ 32
    wr 0x1001C high { s with time := { s.time with setDone := true, offset := (v : Int) - s.now } }

/-- The bound of R299 on the offset, in ps. -/
def lockBound (s : State) : Int := if timeSrc s = 1 then 48000 else 40

/-- A measurement of the offset from the source, in ps: it steers the time clock by at most 50 ppm (R297, R298), but
not while the lock is lost (R300). -/
def measured (off : Int) (s : State) : State :=
  let good := decide ((off.natAbs : Int) ≤ lockBound s)
  let since := if good then (match s.time.goodSince with
    | some t => some t
    | none => some s.now) else none
  wr rTimeOffset (Word.ofNat (ux 32 (max (-2 ^ 31) (min (2 ^ 31 - 1) off))))
    (wrF rTimeStatus 1 1 0
      { s with time := { s.time with sourceAt := s.now, goodSince := since
                                     steerPpb := if s.time.lost then s.time.steerPpb else max (-50000) (min 50000 (Config.steer off)) } })

/-- The part's clock identity: its MAC address, widened with FF FE (PRESUMED IEEE 1588; log entry 84). -/
def clockIdentity (s : State) : List Byte :=
  let m := beBytes 6 ((rd s 0x50000C).toNat + 2 ^ 32 * fld (rd s 0x500010) 0 16)
  m.take 3 ++ [0xFF, 0xFE] ++ m.drop 3

/-- A Delay_Req message of the default profile, version 2, 44 bytes (PRESUMED IEEE 1588; log entry 84). -/
def delayReqBytes (s : State) : List Byte :=
  [0x01, 0x02] ++ beBytes 2 44 ++ [0, 0] ++ [0, 0] ++ beBytes 8 0 ++ beBytes 4 0 ++ clockIdentity s ++ beBytes 2 1
    ++ beBytes 2 (s.time.ptpSeq % 2 ^ 16) ++ [1, 0x7F] ++ beBytes 10 0

/-- The delay request leaves over UDP on the OHT VLAN, to the event port 319 (R298). -/
def sendDelayReq (s : State) : State :=
  send (.delayReq (fld (rd s 0x500004) 0 12) 319 (delayReqBytes s)) { s with time := { s.time with ptpSeq := s.time.ptpSeq + 1 } }

/-- PTP_MESSAGE: a message of the PTP master, timestamps in ps (R298). -/
def ptpMessage (m : PtpMessage) (s : State) : State :=
  if !(powered s) || timeSrc s != 1 then s
  else match m with
  | .announce => { s with time := { s.time with sourceAt := s.now } }
  | .sync a => { s with time := { s.time with syncArrived := a, sourceAt := s.now } }
  | .followUp o => { s with time := { s.time with syncOrigin := o } }
  | .delayReqSent l => sendDelayReq { s with time := { s.time with delayLeft := l } }
  | .delayResp r =>
    measured ((((s.time.syncArrived : Int) - s.time.syncOrigin) - ((r : Int) - s.time.delayLeft)) / 2) s

/-- TIME_EXCHANGE: four timestamps with the fabric parent, in ps: its send, this part's receipt, this part's send, its
receipt (R298). -/
def timeExchange (t1 t2 t3 t4 : Nat) (s : State) : State :=
  if !(powered s) || timeSrc s != 2 || (port s (rdF s rTimeCtl 2 4)).state != 3 then s
  else measured ((((t2 : Int) - t1) - ((t4 : Int) - t3)) / 2) s

/-- The source has been lost for 3 s (R300). -/
def sourceLost (s : State) : Bool := decide (s.time.sourceAt + 3000000000 ≤ s.now)

/-- TIME_LOCK: the offset has stayed within its bound for 1 s (R300). -/
def timeLock (s : State) : State :=
  match s.time.goodSince with
  | some t =>
    if powered s && (timeSrc s == 1 || timeSrc s == 2) && decide (t + 1000000000 ≤ s.now) && !(sourceLost s) then
      setBit rTimeStatus 0 { s with time := { s.time with lost := false } }
    else s
  | none => s

/-- TIME_LOCK_LOSS: the source is lost for 3 s, or the offset exceeds 10 µs (R300); a source lost with no lock held only shows in
HOLD. -/
def timeLockLoss (s : State) : State :=
  let far := decide (10000000 < (sx 32 (rd s rTimeOffset).toNat).natAbs)
  let gone := (timeSrc s == 1 || timeSrc s == 2) && sourceLost s
  if !(powered s) then s
  else if bitOf (rd s rTimeStatus) 0 then
    if sourceLost s || far then
      raise (srcOf 4 6 0) 0x03 0 (bump 0x10014 1 (wrF rTimeStatus 0 2 (if sourceLost s then 2 else 0)
        { s with time := { s.time with goodSince := none, lost := true } }))
    else s
  else if gone then wrF rTimeStatus 1 1 1 s
  else s

def execMeshStarve (r : Fin 12) (p : Fin 9) (s : State) (cyc : Nat := 0) (l : List MeshHead := []) :
    Host.Outcome State Fault Refusal :=
  .next (meshStarve r.val p.val cyc l s)
def execMeshTblDataWrite (v : Word) (s : State) : Host.Outcome State Fault Refusal := .next (meshTblDataWrite v s)
def execSeamDrift (i : Fin 16) (s : State) : Host.Outcome State Fault Refusal := .next (seamDrift i.val s)
def execClockSlow (c : CoreId) (pct n : Nat) (s : State) : Host.Outcome State Fault Refusal := .next (clockSlow c.val pct n s)
def execTimeSet (v : Word) (s : State) : Host.Outcome State Fault Refusal := .next (timeSet v s)
def execPtpMessage (m : PtpMessage) (s : State) : Host.Outcome State Fault Refusal := .next (ptpMessage m s)
def execTimeLock (s : State) : Host.Outcome State Fault Refusal := .next (timeLock s)
def execTimeLockLoss (s : State) : Host.Outcome State Fault Refusal := .next (timeLockLoss s)

end Sys2Proof.Machine
end

