-- ==== Sys2Proof/Machine/Numerics.lean ====
section
/-! DEFINITION. Number formats (ch. 8): exact values, one rounding function for every format, conversions with saturation,
FP32 and I32 arithmetic, and the transcendental operations with the freedom their error bounds leave (R153). -/

namespace Sys2Proof.Machine

/-- An exact value: NaN, an infinity, or (−1)^neg × m × 2^e (a zero keeps its sign, R253). -/
inductive FVal where
  | nan
  | inf (neg : Bool)
  | fin (neg : Bool) (m : Nat) (e : Int)
deriving DecidableEq, Repr

/-- A floating-point type: exponent and mantissa bits, bias, and whether its top exponent holds infinities and NaNs (2),
one NaN (1, E4M3) or neither (0) (table of float encodings, R250). -/
structure Fmt where
  eb : Nat
  mb : Nat
  bias : Nat
  special : Nat
deriving DecidableEq, Repr

def fE2M1 : Fmt := { eb := 2, mb := 1, bias := 1, special := 0 }
def fE3M2 : Fmt := { eb := 3, mb := 2, bias := 3, special := 0 }
def fE4M3 : Fmt := { eb := 4, mb := 3, bias := 7, special := 1 }
def fE5M2 : Fmt := { eb := 5, mb := 2, bias := 15, special := 2 }
def fFP16 : Fmt := { eb := 5, mb := 10, bias := 15, special := 2 }
def fBF16 : Fmt := { eb := 8, mb := 7, bias := 127, special := 2 }
def fFP32 : Fmt := { eb := 8, mb := 23, bias := 127, special := 2 }

/-- Format of a floating element type, or of a block type's elements. -/
def fmtOf (dt : Nat) : Option Fmt :=
  if dt = 4 then some fE4M3 else if dt = 5 then some fE5M2 else if dt = 6 then some fBF16 else if dt = 7 then some fFP16
  else if dt = 8 then some fFP32 else if dt = 11 then some fE2M1 else if dt = 12 then some fE3M2 else none

/-- Value of an encoding (R250). -/
def Fmt.decode (f : Fmt) (code : Nat) : FVal :=
  let m := code % 2 ^ f.mb
  let e := code / 2 ^ f.mb % 2 ^ f.eb
  let neg := code.testBit (f.mb + f.eb)
  if f.special = 2 ∧ e = 2 ^ f.eb - 1 then (if m = 0 then .inf neg else .nan)
  else if f.special = 1 ∧ e = 2 ^ f.eb - 1 ∧ m = 2 ^ f.mb - 1 then .nan
  else if e = 0 then .fin neg m (1 - (f.bias : Int) - f.mb)
  else .fin neg (2 ^ f.mb + m) ((e : Int) - f.bias - f.mb)

/-- Largest finite mantissa and exponent of a format. -/
def Fmt.largest (f : Fmt) : Nat × Int :=
  if f.special = 2 then (2 ^ (f.mb + 1) - 1, (2 ^ f.eb - 2 : Nat) - (f.bias : Int) - f.mb)
  else if f.special = 1 then (2 ^ (f.mb + 1) - 2, (2 ^ f.eb - 1 : Nat) - (f.bias : Int) - f.mb)
  else (2 ^ (f.mb + 1) - 1, (2 ^ f.eb - 1 : Nat) - (f.bias : Int) - f.mb)

/-- m × 2^e as a fraction's comparison: m1 × 2^e1 ≤ m2 × 2^e2. -/
def magLe (m1 : Nat) (e1 : Int) (m2 : Nat) (e2 : Int) : Bool :=
  if e1 ≤ e2 then decide (m1 ≤ m2 * 2 ^ (e2 - e1).toNat) else decide (m1 * 2 ^ (e1 - e2).toNat ≤ m2)

/-- m shifted right by k, to nearest with ties to even, or toward zero (R256, R260). -/
def roundShift (trunc : Bool) (m k : Nat) : Nat :=
  let q := m / 2 ^ k
  let r := m % 2 ^ k
  if trunc ∨ k = 0 then q
  else if 2 ^ (k - 1) < r then q + 1
  else if r = 2 ^ (k - 1) ∧ q % 2 = 1 then q + 1
  else q

/-- A magnitude rounded to a format's precision with its exponent unbounded above. -/
def Fmt.roundMag (f : Fmt) (trunc : Bool) (m : Nat) (e : Int) : Nat × Int :=
  if m = 0 then (0, 0)
  else
    let p : Int := (Nat.log2 m : Int) + e
    let q : Int := max p (1 - (f.bias : Int)) - f.mb
    if q ≤ e then (m, e) else (roundShift trunc m (q - e).toNat, q)

/-- Code of a value that the format holds exactly. -/
def Fmt.encodeMag (f : Fmt) (m : Nat) (e : Int) : Nat :=
  if m = 0 then 0
  else
    let p : Int := (Nat.log2 m : Int) + e
    let q : Int := max p (1 - (f.bias : Int)) - f.mb
    let mant := if q ≤ e then m * 2 ^ (e - q).toNat else m / 2 ^ (q - e).toNat
    if p < 1 - (f.bias : Int) then mant else (p + f.bias).toNat * 2 ^ f.mb + (mant - 2 ^ f.mb)

/-- Sign bit of a code. -/
def Fmt.sign (f : Fmt) (neg : Bool) : Nat := if neg then 2 ^ (f.mb + f.eb) else 0

/-- Canonical NaN (R253); formats without NaN take +0 (R258). -/
def Fmt.nanCode (f : Fmt) : Nat :=
  if f.special = 2 then (if f.eb = 5 ∧ f.mb = 2 then 0x7F else (2 ^ f.eb - 1) * 2 ^ f.mb + 2 ^ (f.mb - 1))
  else if f.special = 1 then 0x7F else 0

/-- Code of an infinity, or of the largest finite value. -/
def Fmt.infCode (f : Fmt) (neg : Bool) : Nat := f.sign neg + (2 ^ f.eb - 1) * 2 ^ f.mb
def Fmt.maxCode (f : Fmt) (neg : Bool) : Nat := f.sign neg + f.encodeMag f.largest.1 f.largest.2

/-- Conversion of a value to a float type, and whether it counts as a saturation (R256–R258). -/
def Fmt.conv (f : Fmt) (trunc : Bool) (v : FVal) : Nat × Bool :=
  match v with
  | .nan => (f.nanCode, f.special == 0)
  | .inf neg => if f.special = 2 then (f.infCode neg, false) else (f.maxCode neg, true)
  | .fin neg m e =>
    let r := f.roundMag trunc m e
    if magLe r.1 r.2 f.largest.1 f.largest.2 then (f.sign neg + f.encodeMag r.1 r.2, false) else (f.maxCode neg, true)

/-- Range of an integer type (R252). -/
def intRange (dt : Nat) : Int × Int :=
  if dt = 0 then (-128, 127) else if dt = 1 then (0, 255) else if dt = 3 then (-2, 1) else if dt = 9 then (-2 ^ 31, 2 ^ 31 - 1)
  else (-8, 7)

/-- Storage bits of a plain element's code. -/
def codeBits (dt : Nat) : Nat :=
  if dt = 2 ∨ dt = 10 ∨ dt = 11 then 4 else if dt = 3 then 2 else if dt = 12 then 6 else if dt = 6 ∨ dt = 7 then 16
  else if dt = 8 ∨ dt = 9 then 32 else 8

/-- A value rounded to an integer. -/
def roundInt (trunc : Bool) (neg : Bool) (m : Nat) (e : Int) : Int :=
  let r : Nat := if 0 ≤ e then m * 2 ^ e.toNat else roundShift trunc m (-e).toNat
  if neg then -(r : Int) else r

/-- Conversion to an integer range, and whether it saturates (R257, R258). -/
def convInt (lo hi : Int) (trunc : Bool) (v : FVal) : Int × Bool :=
  match v with
  | .nan => (0, true)
  | .inf neg => (if neg then lo else hi, true)
  | .fin neg m e =>
    let r := roundInt trunc neg m e
    if r < lo then (lo, true) else if hi < r then (hi, true) else (r, false)

/-- Conversion of a value to any plain element type: code and saturation (R159, R259 stage 3). -/
def convTo (dt : Nat) (trunc : Bool) (v : FVal) : Nat × Bool :=
  match fmtOf dt with
  | some f => f.conv trunc v
  | none => let r := convInt (intRange dt).1 (intRange dt).2 trunc v; (ux (codeBits dt) r.1, r.2)

/-- Integer of an integer element's code. -/
def intOf (dt code : Nat) : Int := if dt = 1 then (code : Int) else sx (codeBits dt) code

/-- Exact value of an integer. -/
def ofInt (v : Int) : FVal := .fin (decide (v < 0)) v.natAbs 0

/-- Exact value of an element with its block scale (R250–R254). -/
def elemVal (dt code scale : Nat) : FVal :=
  let v := match fmtOf dt with
    | some f => f.decode code
    | none => ofInt (intOf dt code)
  if isBlockDt dt then
    if scale = 0xFF then .nan
    else match v with
      | .fin n m e => .fin n m (e + (scale : Int) - 127)
      | x => x
  else v
where
  /-- Block types. -/
  isBlockDt (dt : Nat) : Bool := decide (10 ≤ dt) && decide (dt ≤ 12)

/-! ## FP32 arithmetic (R256, R264, R265): overflow gives an infinity -/

/-- Value of an FP32 word. -/
def f32 (w : Word) : FVal := fFP32.decode w.toNat

/-- A value rounded once to FP32, and whether a finite value overflowed. -/
def toF32x (v : FVal) : Word × Bool :=
  match v with
  | .nan => (0x7FC00000, false)
  | .inf neg => (Word.ofNat (fFP32.infCode neg), false)
  | .fin neg m e =>
    let r := fFP32.roundMag false m e
    if magLe r.1 r.2 fFP32.largest.1 fFP32.largest.2 then (Word.ofNat (fFP32.sign neg + fFP32.encodeMag r.1 r.2), false)
    else (Word.ofNat (fFP32.infCode neg), true)

/-- A value rounded once to FP32. -/
def toF32 (v : FVal) : Word := (toF32x v).1

/-- Exact product; ∞ × 0 is NaN. -/
def vmul (a b : FVal) : FVal :=
  match a, b with
  | .nan, _ => .nan
  | _, .nan => .nan
  | .inf x, .inf y => .inf (x != y)
  | .inf x, .fin y m _ => if m = 0 then .nan else .inf (x != y)
  | .fin x m _, .inf y => if m = 0 then .nan else .inf (x != y)
  | .fin x m e, .fin y n d => .fin (x != y) (m * n) (e + d)

/-- Exact sum; ∞ − ∞ is NaN; a zero sum is −0 only from two negative zeros (R253). -/
def vadd (a b : FVal) : FVal :=
  match a, b with
  | .nan, _ => .nan
  | _, .nan => .nan
  | .inf x, .inf y => if x = y then .inf x else .nan
  | .inf x, _ => .inf x
  | _, .inf y => .inf y
  | .fin x m e, .fin y n d =>
    let l := min e d
    let i : Int := (if x then -1 else 1) * ((m * 2 ^ (e - l).toNat : Nat) : Int)
    let j : Int := (if y then -1 else 1) * ((n * 2 ^ (d - l).toNat : Nat) : Int)
    let t := i + j
    if t = 0 then .fin (x && y) 0 0 else .fin (decide (t < 0)) t.natAbs l

/-- Negation. -/
def vneg (a : FVal) : FVal :=
  match a with
  | .nan => .nan
  | .inf x => .inf (!x)
  | .fin x m e => .fin (!x) m e

/-- Magnitude. -/
def vabs (a : FVal) : FVal :=
  match a with
  | .nan => .nan
  | .inf _ => .inf false
  | .fin _ m e => .fin false m e

/-- a < b; false with a NaN. -/
def vlt (a b : FVal) : Bool :=
  match vadd a (vneg b) with
  | .fin neg m _ => neg && m != 0
  | .inf neg => neg
  | .nan => match a, b with
    | .nan, _ => false
    | _, .nan => false
    | .inf x, .inf y => x && !y
    | _, _ => false

/-- a = b; false with a NaN. -/
def veq (a b : FVal) : Bool :=
  match a, b with
  | .nan, _ => false
  | _, .nan => false
  | _, _ => !vlt a b && !vlt b a

/-- The sign of a value that is not NaN. -/
def vneg? (a : FVal) : Bool :=
  match a with
  | .nan => false
  | .inf x => x
  | .fin x _ _ => x

/-- Larger of two; −0 is smaller than +0; a NaN gives NaN (R152, R265). -/
def vmax (a b : FVal) : FVal :=
  match a, b with
  | .nan, _ => .nan
  | _, .nan => .nan
  | _, _ => if vlt a b then b else if vlt b a then a else if vneg? a then b else a

/-- Smaller of two. -/
def vmin (a b : FVal) : FVal :=
  match a, b with
  | .nan, _ => .nan
  | _, .nan => .nan
  | _, _ => if vlt a b then a else if vlt b a then b else if vneg? a then a else b

/-- A quotient of finite values, b nonzero, to more bits than any format holds, with a sticky last bit. -/
def quot (m : Nat) (e : Int) (n : Nat) (d : Int) : Nat × Int :=
  let k := 64 + Nat.log2 n
  let q := m * 2 ^ k / n
  let st := if m * 2 ^ k % n = 0 then 0 else 1
  (2 * q + st, e - d - k - 1)

/-- Correctly roundable quotient (R271). -/
def vdiv (a b : FVal) : FVal :=
  match a, b with
  | .nan, _ => .nan
  | _, .nan => .nan
  | .inf _, .inf _ => .nan
  | .inf x, .fin y _ _ => .inf (x != y)
  | .fin x _ _, .inf y => .fin (x != y) 0 0
  | .fin x m e, .fin y n d =>
    if n = 0 then (if m = 0 then .nan else .inf (x != y))
    else let q := quot m e n d; .fin (x != y) q.1 q.2

def fadd (a b : Word) : Word := toF32 (vadd (f32 a) (f32 b))
def fsub (a b : Word) : Word := toF32 (vadd (f32 a) (vneg (f32 b)))
def fmul (a b : Word) : Word := toF32 (vmul (f32 a) (f32 b))
def fma (a b c : Word) : Word := toF32 (vadd (vmul (f32 a) (f32 b)) (f32 c))
def fmaxW (a b : Word) : Word := toF32 (vmax (f32 a) (f32 b))
def fminW (a b : Word) : Word := toF32 (vmin (f32 a) (f32 b))
/-- I32 or I64 to FP32, one rounding. -/
def i2f (v : Int) : Word := toF32 (ofInt v)
/-- FP32 to a signed integer of n bits, saturating; NaN gives 0. -/
def f2i (n : Nat) (w : Word) : Int := (convInt (-2 ^ (n - 1)) (2 ^ (n - 1) - 1) false (f32 w)).1

/-! ## Transcendental operations (R153, R261) -/

/-- The result as one of the codes that the bound allows: base code and the exact result's side of it; `wide` for 2 ulp,
else 1 ulp. Which one is free (log entry 6): offsets that the bound surely allows. -/
def pick (op : Nat) (a : Word) (wide : Bool) (code : Nat) (above below : Bool) : Nat :=
  let offs : List Int :=
    if wide then [0, 1, -1] ++ (if above then [2] else []) ++ (if below then [-2] else [])
    else [0] ++ (if above then [1] else []) ++ (if below then [-1] else [])
  let o := offs.getD (Config.ulpChoice op a % offs.length) 0
  ((code : Int) + o).toNat

/-- A positive approximation m × 2^e, good to far more bits than FP32 holds, turned into a permitted FP32 magnitude code:
subnormal results are zero, and the neighbours stay among the normal values. -/
def approx (op : Nat) (a : Word) (wide : Bool) (m : Nat) (e : Int) : Nat :=
  let r := fFP32.roundMag false m e
  if !(magLe r.1 r.2 fFP32.largest.1 fFP32.largest.2) then 0x7F800000
  else
    let c := fFP32.encodeMag r.1 r.2
    if c < 0x00800000 then 0
    else
      let ge := magLe r.1 r.2 m e
      let le := magLe m e r.1 r.2
      min (max (pick op a wide c ge le) 0x00800000) 0x7F7FFFFF

/-- A subnormal input reads as zero of its sign (R261). -/
def flush (v : FVal) : FVal :=
  match v with
  | .fin neg m e => if magLe 1 (-126) m e then v else .fin neg 0 0
  | x => x

/-- ln 2 × 2^80. -/
def ln2q : Nat := 837963523372001241319907

/-- 2^f × 2^80 for f/2^80 in [0, 1), by the exponential series. -/
def exp2frac (f : Nat) : Nat :=
  let y := f * ln2q / 2 ^ 80
  ((List.range 32).foldl (fun (a : Nat × Nat) i => let t := a.2 * y / (i + 1) / 2 ^ 80; (a.1 + t, t)) (2 ^ 80, 2 ^ 80)).1

/-- 2^a (R153). -/
def exp2W (a : Word) : Word :=
  match flush (f32 a) with
  | .nan => 0x7FC00000
  | .inf neg => if neg then 0 else 0x7F800000
  | .fin neg m e =>
    if m = 0 then Word.ofNat (approx 1 a true 1 0)
    else if !neg ∧ magLe 128 0 m e then 0x7F800000
    else if neg ∧ !(magLe m e 126 0) then 0
    else
      -- |a| × 2^80, then the floor and fraction of a
      let q : Nat := if -80 ≤ e then m * 2 ^ (e + 80).toNat else m / 2 ^ (-80 - e).toNat
      let v : Int := if neg then -(q : Int) else q
      let i := v / 2 ^ 80
      let f := (v - i * 2 ^ 80).toNat
      Word.ofNat (approx 1 a true (exp2frac f) (i - 80))

/-- Fractional bits of log2 of z/2^80 in [1, 2), by repeated squaring: the fraction × 2^72. -/
def log2frac (z : Nat) : Nat :=
  ((List.range 72).foldl (fun (a : Nat × Nat) _ =>
    let s := a.2 * a.2 / 2 ^ 80
    if 2 ^ 81 ≤ s then (2 * a.1 + 1, s / 2) else (2 * a.1, s)) (0, z)).1

/-- log2 a (R153). -/
def log2W (a : Word) : Word :=
  match flush (f32 a) with
  | .nan => 0x7FC00000
  | .inf neg => if neg then 0x7FC00000 else 0x7F800000
  | .fin neg m e =>
    if m = 0 then 0xFF800000
    else if neg then 0x7FC00000
    else
      let k := Nat.log2 m
      let i : Int := (k : Int) + e
      let z := m * 2 ^ 80 / 2 ^ k
      let v : Int := i * 2 ^ 72 + (log2frac z : Int)
      if v = 0 then 0
      else Word.ofNat ((if v < 0 then 2 ^ 31 else 0) + approx 2 a true v.natAbs (-72))

/-- 1 / a (R153). -/
def rcpW (a : Word) : Word :=
  match flush (f32 a) with
  | .nan => 0x7FC00000
  | .inf neg => Word.ofNat (fFP32.sign neg)
  | .fin neg m e =>
    if m = 0 then Word.ofNat (fFP32.infCode neg)
    else
      let q := quot 1 0 m e
      Word.ofNat (fFP32.sign neg + approx 3 a false q.1 q.2)

/-- Integer square root by bits. -/
def isqrt (n : Nat) : Nat :=
  (List.range 128).foldl (fun r i => let t := r + 2 ^ (127 - i); if t * t ≤ n then t else r) 0

/-- 1 / √a (R153). -/
def rsqrtW (a : Word) : Word :=
  match flush (f32 a) with
  | .nan => 0x7FC00000
  | .inf neg => if neg then 0x7FC00000 else 0
  | .fin neg m e =>
    if m = 0 then Word.ofNat (fFP32.infCode neg)
    else if neg then 0x7FC00000
    else
      -- 1 / (m × 2^e) with an even exponent, then its root, with a sticky bit
      let e2 := if e % 2 = 0 then e else e - 1
      let m2 := if e % 2 = 0 then m else 2 * m
      let n := 2 ^ 160 / m2
      let r := isqrt n
      let exact := decide (r * r = n) && decide (2 ^ 160 % m2 = 0)
      Word.ofNat (approx 4 a false (2 * r + if exact then 0 else 1) (-80 - e2 / 2 - 1))

end Sys2Proof.Machine
end

