-- ==== Sys2Proof/Machine/Flags.lean ====
section
/-! DEFINITION. Sync flags (R55–R58), starting a command (R40, R46, R65), its waits and sets inside a loop nest (R63), and
its retirement (R56). -/

namespace Sys2Proof.Machine

/-- Unlisted flags read zero. -/
def zero16 : Nat → BitVec 16 := fun _ => 0

/-- Count of flag f of core c. -/
def flag (s : State) (c f : Nat) : Nat := (sget zero16 (c * 4096 + f) s.flags).toNat

/-- Gives a flag a count. -/
def setFlag (c f v : Nat) (s : State) : State := { s with flags := sset zero16 (c * 4096 + f) (BitVec.ofNat 16 v) s.flags }

/-- An add to a flag by the command `seq` of unit `k`; one that the flag has no room for is held and counted (R57). -/
def addFlag (c f n k seq : Nat) (s : State) : State :=
  if flag s c f + n ≤ 65535 then setFlag c f (flag s c f + n) s
  else bump rFlagHold 1 { s with heldAdds := s.heldAdds ++ [{ core := c, flag := f, n := n, unit := k, seq := seq }] }

/-- Cores whose flag a set of a command at core c goes to: SCORE, or c when SCORE is 15 or the command is refused for its
SCORE as a broadcast copy; none when that core is not live (R42, R56, R68). -/
def setCores (s : State) (q : QCmd) : List Nat :=
  let n := q.cmd.score
  let tgt := if n = 15 ∨ q.cmd.core = 15 then q.core else n
  if live s tgt then [tgt] else []

/-- The command's set, once (R56). -/
def doSet (k : Nat) (q : QCmd) (s : State) : State :=
  if q.cmd.sen then (setCores s q).foldl (fun s c => addFlag c q.cmd.sflag q.cmd.scnt k q.seq s) s else s

/-- The command's wait is satisfied on core c (R55). -/
def waitOk (s : State) (c : Nat) (q : QCmd) : Bool := !q.cmd.wen || decide (q.cmd.wcnt ≤ flag s c q.cmd.wflag)

/-- Consumes the wait (R55). -/
def consume (c : Nat) (q : QCmd) (s : State) : State :=
  if q.cmd.wen then setFlag c q.cmd.wflag (flag s c q.cmd.wflag - q.cmd.wcnt) s else s

/-! ## Loop nests (R60–R63) -/

/-- Iterations of levels 1 to k - 1: how many passes of the body one iteration of level k makes. -/
def Nest.below (n : Nest) (k : Nat) : Nat := (n.counts.take (k - 1)).foldl (· * ·) 1

/-- Iterations of the whole nest; no level, one. -/
def Nest.total (n : Nest) : Nat := n.counts.foldl (· * ·) 1

/-- A wait comes before iteration i: the level-0 wait before the first, a level-k wait before each of level k (R63). -/
def Nest.waitsAt (n : Nest) (i : Nat) : Bool := if n.waitLv = 0 then i == 0 else i % n.below n.waitLv == 0

/-- A level-k set comes after iteration i (R63). -/
def Nest.setsAt (n : Nest) (i : Nat) : Bool := n.setLv != 0 && (i + 1) % n.below n.setLv == 0

/-- Digit of level k (from 1) of iteration i. -/
def Nest.digit (n : Nest) (i k : Nat) : Nat := i / n.below k % (n.counts.getD (k - 1) 1)

/-- Units by which operand j's base has moved at iteration i (R60). -/
def Nest.offset (n : Nest) (i j : Nat) : Int :=
  (List.range n.counts.length).foldl (fun a k => a + (n.digit i (k + 1) : Int) * ((n.incs.getD k []).getD j 0)) 0

/-- The command waits once at its start, at level 0 (R61; table of the loop-nest entry). A wait at another level comes before an
iteration, in a command that has started (R63). -/
def startWaits (n : Nest) : Bool := n.waitLv == 0

/-! ## Starting (R46) -/

/-- The SSQ lets commands start. -/
def stepOpen (s : State) : Bool :=
  engines s && s.ssq.run && !s.ssq.held && !s.ssq.halt && !s.ssq.aborting

/-- The bundle of a command has been issued: its issue time reached and its fences met (R39, R46). -/
def bundleIssued (s : State) (b : Nat) : Bool :=
  match s.ssq.bundles.find? fun x => x.id == b with
  | some x => x.issued
  | none => true

/-- The bundle's token request has been granted (R40). -/
def bundleGranted (s : State) (b : Nat) : Bool :=
  match s.ssq.bundles.find? fun x => x.id == b with
  | some x => x.granted
  | none => true

/-- What is left of a bundle's grant. -/
def grantLeft (s : State) (b : Nat) : Nat :=
  match s.ssq.bundles.find? fun x => x.id == b with
  | some x => x.grant
  | none => 0

/-- Changes a bundle. -/
def updBundle (b : Nat) (f : Bundle → Bundle) (s : State) : State :=
  { s with ssq := { s.ssq with bundles := s.ssq.bundles.map fun x => if x.id = b then f x else x } }

/-- Some command of the bundle has not yet started. -/
def unstarted (s : State) (b : Nat) : Bool :=
  (s.ssq.bundles.any fun x => x.lead == b && !x.cmds.isEmpty) ||
  (s.ssq.holds.any fun q => q.bundle == b) ||
  (s.units.any fun u => u.2.queue.any fun q => q.bundle == b)

/-- The unspent grant of a bundle returns when its last command has started (R40). -/
def settleBundle (b : Nat) (s : State) : State :=
  if unstarted s b then s
  else if grantLeft s b = 0 then s
  else returnTokens (grantLeft s b) (updBundle b (fun x => { x with grant := 0 }) s)

/-- Two ranges meet, and one of them is written (R65). -/
def Claim.clash (a b : Claim) : Bool :=
  a.space == b.space && decide (a.lo ≤ b.hi) && decide (b.lo ≤ a.hi) && (a.write || b.write)

/-- Command `q` waits on the flag that the earlier command `e` sets (R65). -/
def flagOrders (e q : QCmd) : Bool :=
  e.cmd.sen && q.cmd.wen && e.cmd.sflag == q.cmd.wflag &&
  (if e.cmd.score = 15 ∨ e.cmd.core = 15 then e.core == q.core else e.cmd.score == q.core)

/-- Entries of a scoreboard, by storage: 64 per core for Tarn (spaces 0 to 11), 16 per array, 64 mask bits for tile
registers, 256 for Mere (space 400); mask tiles (300 on) have no scoreboard of their own limit (R65). -/
def sbSize (space : Nat) : Nat :=
  if space < 100 then 64 else if space < 200 then 16 else if space = 400 then 256 else 4096

/-- Both are MXA commands of one array, which the accumulator scoreboard does not order (R126). -/
def sameArray (k k' : Nat) (c : Claim) : Bool :=
  k == k' && decide (k % 16 < 4) && decide (100 ≤ c.space) && decide (c.space < 200)

/-- The first storage whose scoreboard holds the command back, if any (R65). -/
def sbBlock (s : State) (k : Nat) (q : QCmd) (cl : List Claim) : Option Nat :=
  let runs := allRuns s
  let hit := cl.find? fun c => runs.any fun (k', r) =>
    decide (r.q.seq < q.seq) && !flagOrders r.q q && !sameArray k k' c && r.claims.any fun d => c.clash d
  let full := cl.find? fun c =>
    decide (sbSize c.space < (cl.filter fun d => d.space == c.space).length +
      (runs.flatMap fun (_, r) => r.claims.filter fun d => d.space == c.space).length)
  match hit with
  | some c => some c.space
  | none => full.map fun c => c.space

/-- Hazard counter of a storage (table of hazards, ch. 2). -/
def hazReg (space : Nat) : Nat := if space < 100 then rHazTarn else if space = 400 then rHazMere else rHazAcc

/-- Conditions of R46 on issue time and the wait. -/
def reached (s : State) (q : QCmd) : Bool := decide (q.issue ≤ s.ssq.issue) && bundleIssued s q.bundle

/-- The head of unit k leaves its queue and runs. -/
def launch (k : Nat) (q : QCmd) (r : Run) (s : State) : State :=
  let s := if startWaits r.nest then consume q.core q s else s
  let u := unitOf s k
  settleBundle q.bundle (setUnit k { u with queue := u.queue.tail, running := u.running ++ [{ r with q := q, waited := startWaits r.nest, met := if startWaits r.nest then 1 else 0 }] } s)

/-- Starts head `q` of unit `k` as run `r` with its token cost, when every condition of R46 but the unit's own holds. A
command that lacks only tokens asks the PGV for the part its bundle's grant does not cover (R40, R408). A command that may
not start leaves the state as it is. -/
def tryStart (k : Nat) (q : QCmd) (r : Run) (cost : Nat) (s : State) : State :=
  if !(stepOpen s && reached s q && bundleGranted s q.bundle) then s
  else if startWaits r.nest && !waitOk s q.core q then s
  else if (sbBlock s k q r.claims).isSome then s
  else if cost ≤ q.drawn then
    (fun s => if q.drawn = cost then s else returnTokens (q.drawn - cost) s)
      (launch k { q with drawn := 0, asked := false } { r with tokens := cost } s)
  else if q.asked then s
  else
    let g := grantLeft s q.bundle
    let need := cost - q.drawn
    if need ≤ g then
      launch k { q with drawn := 0 } { r with tokens := cost } (updBundle q.bundle (fun x => { x with grant := x.grant - need }) s)
    else
      let u := unitOf s k
      let s := updBundle q.bundle (fun x => { x with grant := 0 })
        (setUnit k { u with queue := { q with asked := true, drawn := q.drawn + g } :: u.queue.tail } s)
      { s with pgv := { s.pgv with
          reqs := s.pgv.reqs ++ [{ bundle := q.bundle, isDraw := true, unit := k, seq := q.seq, amount := need - g }] } }

/-! ## Iterations, completion and retirement -/

/-- A running command may begin its next iteration: its wait there is met, or was already (R63). -/
def iterReady (s : State) (r : Run) : Bool := r.waited || !r.nest.waitsAt r.it || waitOk s r.q.core r.q

/-- Takes the wait of the present iteration, once. -/
def takeWait (k : Nat) (r : Run) (s : State) : State :=
  let s := if !r.waited && r.nest.waitsAt r.it then consume r.q.core r.q s else s
  updRun k r.q.seq (fun r => { r with waited := true }) s

/-- The command leaves its unit: its tokens and scoreboard entries return (R65, R407). -/
def retire (k seq : Nat) (s : State) : State :=
  match runOf s k seq with
  | none => s
  | some r =>
    let u := unitOf s k
    let s := setUnit k { u with running := u.running.filter fun x => x.q.seq != seq } s
    let s := if r.tokens = 0 then s else returnTokens r.tokens s
    { s with ssq := { s.ssq with lastRetire := s.now } }

/-- Some add of the command is still held (R57). -/
def addHeld (s : State) (k seq : Nat) : Bool := s.heldAdds.any fun h => h.unit == k && h.seq == seq

/-- A command with no further iteration: its tokens return, its level-0 set is made, and it retires once no add of it is
held (R56, R57). -/
def complete (k seq : Nat) (s : State) : State :=
  match runOf s k seq with
  | none => s
  | some r =>
    let s := if r.tokens = 0 then s else returnTokens r.tokens s
    let s := updRun k seq (fun r => { r with ended := true, tokens := 0 }) s
    let s := if r.nest.setLv = 0 then doSet k r.q s else s
    if addHeld s k seq then s else retire k seq s

/-- One iteration of a running command has landed: its level-k set, then the next iteration or completion (R63). -/
def endIter (k seq : Nat) (s : State) : State :=
  match runOf s k seq with
  | none => s
  | some r =>
    let s := if r.nest.setsAt r.it then doSet k r.q s else s
    let s := updRun k seq (fun r => { r with it := r.it + 1, waited := false }) s
    if r.total ≤ r.it + 1 then complete k seq s else s

/-- A command of no iterations completes as it starts (R61). -/
def startEmpty (k seq : Nat) (s : State) : State :=
  match runOf s k seq with
  | some r => if r.total = 0 then complete k seq s else s
  | none => s

/-- What a unit makes of a command when it is judged at its start: the run it would become, its token cost, and the
origin sets that clamp (R96). -/
structure Prep where
  run : Run := {}
  cost : Nat := 0
  clamps : Nat := 0
deriving DecidableEq, Repr

/-- A run of unit k bears a sequence number. -/
def started (s : State) (k seq : Nat) : Bool := (runOf s k seq).isSome

/-- Starts a judged command, counting the origin sets clamped (R96), and completes it at once if it has no iteration. -/
def startPrep (k : Nat) (q : QCmd) (p : Prep) (s : State) : State :=
  let s' := tryStart k q p.run p.cost s
  if started s' k q.seq then startEmpty k q.seq (bump (coreReg q.core 0xA090) p.clamps s') else s'

/-! ## Skips (R68) -/

/-- Counts and logs a skip; the log keeps the first 16 of a step. -/
def logSkip (q : QCmd) (reason : Nat) (s : State) : State :=
  let w0 := Word.ofNat (q.tag % 2 ^ 16 + q.slot % 16 * 2 ^ 16 + reason % 256 * 2 ^ 20 + 2 ^ 31)
  let s := bump rSkipCount 1 s
  if s.ssq.skips.length < 16 then
    { s with ssq := { s.ssq with skips := s.ssq.skips ++ [(w0, Word.ofNat q.issue)] } }
  else s

/-- The step has met a skip: strict mode halts it (R69). -/
def strictHalt (q : QCmd) (s : State) : State :=
  raise (srcOf 4 0 0) 0x11 q.tag { s with ssq := { s.ssq with halt := true } }

/-- Marks that the step has skipped a command. -/
def markSkip (s : State) : State := { s with ssq := { s.ssq with result := if s.ssq.result = 0 then 1 else s.ssq.result } }

end Sys2Proof.Machine
end

