-- ==== Sys2Proof/Machine/Operands.lean ====
section
/-! DEFINITION. Operands (ch. 3): the loop-nest entry, descriptors and lists read at a command's start, with the checks of
R503 items 4, 5 and 7; addresses, bounding ranges, windows and the aliasing test; rows of elements in storage. A check
answers the reason with which the command is skipped. -/

namespace Sys2Proof.Machine

/-! ## Element types (R84, R85) -/

/-- Types whose elements come in blocks of 32 with a scale. -/
def isBlock (dt : Nat) : Bool := decide (10 ≤ dt) && decide (dt ≤ 12)

/-- Granule of EXT_0. -/
def granule (dt : Nat) : Nat := if dt = 2 then 2 else if dt = 3 then 4 else if isBlock dt then 32 else 1

/-- Bytes of a run of n elements, n a multiple of the granule: the packed row length, or a coordinate's offset in its row. -/
def rowBytes (dt n : Nat) : Nat :=
  if dt = 2 then n / 2
  else if dt = 3 then n / 4
  else if dt = 6 ∨ dt = 7 then 2 * n
  else if dt = 8 ∨ dt = 9 then 4 * n
  else if dt = 10 ∨ dt = 11 then n / 32 * 17
  else if dt = 12 then n / 32 * 25
  else n

/-- The 32 codes of one block's element bytes. -/
def blockCodes (dt : Nat) (l : List Byte) : List Nat :=
  if dt = 12 then
    (List.range 32).map fun i => leAt l (i / 4 * 3) 3 / 64 ^ (i % 4) % 64
  else (List.range 32).map fun i => leAt l (i / 2) 1 / 16 ^ (i % 2) % 16

/-- Codes and block scales of a row of n elements. -/
def unpackRow (dt n : Nat) (l : List Byte) : List Nat × List Nat :=
  if isBlock dt then
    let bs := rowBytes dt 32
    let blk := fun i => slice (i * bs) bs l
    ((List.range (n / 32)).flatMap fun i => blockCodes dt ((blk i).drop 1), (List.range (n / 32)).map fun i => leAt (blk i) 0 1)
  else if dt = 2 then ((List.range n).map fun i => leAt l (i / 2) 1 / 16 ^ (i % 2) % 16, [])
  else if dt = 3 then ((List.range n).map fun i => leAt l (i / 4) 1 / 4 ^ (i % 4) % 4, [])
  else let w := rowBytes dt 1
    ((List.range n).map fun i => leAt l (i * w) w, [])

/-- Packs g codes of b bits, the first lowest. -/
def packBits (b : Nat) (l : List Nat) : Nat := l.foldr (fun c a => c % 2 ^ b + 2 ^ b * a) 0

/-- Bytes of a row of codes and block scales. -/
def packRow (dt n : Nat) (codes scales : List Nat) : List Byte :=
  let at_ := fun i => codes.getD i 0
  let grp := fun i g => (List.range g).map fun j => at_ (i * g + j)
  if dt = 12 then (List.range (n / 32)).flatMap fun b =>
    Byte.ofNat (scales.getD b 0) :: (List.range 8).flatMap fun i => leBytes 3 (packBits 6 (grp (b * 8 + i) 4))
  else if isBlock dt then (List.range (n / 32)).flatMap fun b =>
    Byte.ofNat (scales.getD b 0) :: (List.range 16).map fun i => Byte.ofNat (packBits 4 (grp (b * 16 + i) 2))
  else if dt = 2 then (List.range (n / 2)).map fun i => Byte.ofNat (packBits 4 (grp i 2))
  else if dt = 3 then (List.range (n / 4)).map fun i => Byte.ofNat (packBits 2 (grp i 4))
  else (List.range n).flatMap fun i => leBytes (rowBytes dt 1) (at_ i)

/-! ## Loop-nest entries (R61, R62, R64) -/

/-- What the loop-nest entry holds before dynamic counts are read. -/
structure RawNest where
  nest : Nest := {}
  dynBase : Nat := 0
  dyn : List Bool := []
  levels : Nat := 0
deriving DecidableEq, Repr

/-- The loop-nest entry of a command with `nops` operands; `none` of the words is looked at with LOOP = 0. -/
def rawNest (s : State) (c loopIx nops : Nat) : Except Nat RawNest :=
  if loopIx = 0 then .ok {}
  else if fld (cfg s (coreReg c 0xA084)) 0 16 ≤ loopIx then .error 0x05
  else
    let e := tarnRead s c (fld (cfg s (coreReg c 0xA080)) 0 27 + 128 * loopIx) 128
    let w := fun o => leAt e o 4
    let lv := w 0 % 8
    let wl := w 0 / 8 % 8
    let sl := w 0 / 64 % 8
    let op := w 0 / 512 % 8
    let cw := fun k => w (8 + 20 * k)
    let inc := fun k j => w (12 + 20 * k + 4 * j)
    let ks := List.range 6
    let js := List.range 4
    if 6 < lv ∨ lv < wl ∨ lv < sl ∨ nops < op ∨ w 0 / 4096 ≠ 0 ∨ w 4 / 2 ^ 27 ≠ 0 then .error 0x05
    else if ks.any fun k => decide (cw k / 2 ^ 25 ≠ 0) || (decide (lv ≤ k) && decide (cw k ≠ 0)) then .error 0x05
    else if ks.any fun k => js.any fun j => decide (inc k j ≠ 0) && (decide (lv ≤ k) || decide (op ≤ j)) then .error 0x05
    else .ok {
      nest := { waitLv := wl, setLv := sl, counts := (List.range lv).map fun k => cw k % 2 ^ 24,
                incs := (List.range lv).map fun k => js.map fun j => sx 32 (inc k j) }
      dynBase := w 4
      dyn := (List.range lv).map fun k => (cw k).testBit 24
      levels := lv }

/-- Reads the dynamic counts (R62, R89). -/
def dynCounts (s : State) (c : Nat) (r : RawNest) : Except Nat Nest :=
  if !(r.dyn.any id) then .ok r.nest
  else if r.dynBase % 4 ≠ 0 then .error 0x06
  else
    let word := fun k => tarnLe s c (r.dynBase + 4 * k) 4
    let ks := List.range r.levels
    if ks.any fun k => r.dyn.getD k false && decide (2 ^ 24 ≤ word k) then .error 0x0C
    else .ok { r.nest with counts := ks.map fun k => if r.dyn.getD k false then word k else r.nest.counts.getD k 0 }

/-- The nest of a command, with the opcode's own rule on it (R503 item 4). -/
def readNest (s : State) (c loopIx nops : Nat) (own : RawNest → Bool) : Except Nat Nest := do
  let r ← rawNest s c loopIx nops
  if own r then dynCounts s c r else .error 0x05

/-- Scoreboard ranges of the loop-nest entry and its dynamic counts (R65): with any dynamic count, the six count words together
(log entry 65). -/
def nestClaims (s : State) (c loopIx nops : Nat) : List Claim :=
  if loopIx = 0 then [] else
    let lo := fld (cfg s (coreReg c 0xA080)) 0 27 + 128 * loopIx
    { space := c, lo := lo, hi := lo + 127, write := false } ::
    (match rawNest s c loopIx nops with
    | .ok r => if r.dyn.any id then [{ space := c, lo := r.dynBase, hi := r.dynBase + 23, write := false }] else []
    | .error _ => [])

/-! ## Descriptors (R80–R89, R97–R99) -/

/-- What an opcode accepts for one operand. -/
structure OpSpec where
  kinds : List Nat
  write : Bool := false
  /-- Declared accumulating (R64). -/
  accum : Bool := false
  /-- A list target, and the paired operand of one. -/
  target : Bool := false
  /-- An ACC operand must name this array (R97). -/
  array : Option Nat := none
  /-- Dimensions of a list target that the list names (R99). -/
  nc : Nat := 0
  /-- Rank, lower extents and types that the paired operand of a list must have (R99). -/
  like_ : Option (Nat × List Nat × List Nat) := none
deriving DecidableEq, Repr

/-- Byte strides S_1 to S_3 of dimensions above 0 (R86). -/
def Desc.strideOf (d : Desc) (k : Nat) : Int :=
  if k = 0 then (rowBytes d.dtype (d.ext.getD 0 0) : Int)
  else d.stride.getD (k - 1) 0

/-- Extent of dimension k, 1 at and above the rank. -/
def Desc.e (d : Desc) (k : Nat) : Nat := if k < d.rank then d.ext.getD k 0 else 1

/-- Access unit of a kind's increments and alignment, in its own measure (R60, R89). -/
def unitBytes (kind : Nat) : Nat := if kind = 2 then 256 else if kind = 3 ∨ kind = 4 then 1 else 64

/-- Words of a descriptor entry. -/
def descWords (s : State) (c ix : Nat) : List Nat :=
  (wordsOf 32 (tarnRead s c (fld (cfg s (coreReg c 0xA088)) 0 27 + 128 * ix) 128)).map BitVec.toNat

/-- A strided descriptor, its form checked (R82 to R84, R86, R96, R99, R106); none when malformed. Every aligned stride is
accepted, −2^31 too (log entry 70). -/
def parseStrided (w : Nat → Nat) (sp : OpSpec) : Option Desc :=
  let kind := w 0 % 16
  let dt := w 0 / 16 % 16
  let rank := w 0 / 256 % 4 + 1
  let pk1 := (w 0).testBit 10
  let piece := (w 0).testBit 11
  let dyn := (w 0).testBit 12
  let ds := List.range 4
  let ext := ds.map fun d => w (4 + d)
  let shape := ds.map fun d => w (12 + d)
  let org := ds.map fun d => w (16 + d)
  let pext := ds.map fun d => w (20 + d)
  let g := fun (l : List Nat) d => l.getD d 0
  let hi := ds.filter fun d => decide (rank ≤ d)
  let lo := List.range rank
  let s1 : Int := if pk1 then (rowBytes dt (g ext 0) : Int) else sx 32 (w 8)
  if decide (12 < dt) || decide (w 0 / 2 ^ 13 ≠ 0) || decide (w 2 / 2 ^ 10 ≠ 0) || decide (w 3 / 2 ^ 27 ≠ 0)
      || decide (w 11 ≠ 0) || (dyn && piece) then none
  else if decide (kind = 1) && (decide (w 1 / 2 ^ 27 ≠ 0) || decide (w 2 ≠ 0)) then none
  else if (ds.any fun d => decide (2 ^ 24 ≤ g ext d) || decide (2 ^ 24 ≤ g shape d) || decide (2 ^ 24 ≤ g org d)
      || decide (2 ^ 24 ≤ g pext d)) || ((List.range 8).any fun i => decide (w (24 + i) ≠ 0)) then none
  else if hi.any fun d => decide (g ext d ≠ 0) || decide (g shape d ≠ 0) || decide (g org d ≠ 0) || decide (g pext d ≠ 0)
      || (decide (1 ≤ d) && decide (w (7 + d) ≠ 0)) then none
  else if !piece && (ds.any fun d => decide (g org d ≠ 0) || decide (g pext d ≠ 0)) then none
  else if decide (g ext 0 % granule dt ≠ 0) || (pk1 && decide (w 8 ≠ 0)) then none
  else if dyn && ((lo.any fun d => decide (g shape d < g ext d)) || decide (g shape 0 % granule dt ≠ 0)) then none
  else if sp.target && (dyn || decide (3 < rank)) then none
  else if sp.target && ((List.range sp.nc).any fun i =>
      let d := rank - 1 - i
      decide (g shape d = 0) || decide (g shape d % g ext d ≠ 0)) then none
  else if (match sp.like_ with
      | some (r, es, dts) => rank != r || !(dts.contains dt) || es.zipIdx.any fun (e, d) => g ext d != e
      | none => false) then none
  else if sp.target && piece && (lo.any fun d => decide (g org d % g ext d ≠ 0) || decide (g pext d % g ext d ≠ 0)
      || decide (g shape d < g org d + g pext d)) then none
  else some {
    kind := kind, dtype := dt, rank := rank, pk1 := pk1, piece := piece, dyn := dyn
    base := ((w 1 + 2 ^ 32 * w 2 : Nat) : Int), dorg := w 3, ext := ext, stride := [s1, sx 32 (w 9), sx 32 (w 10)]
    shape := shape, origin := org, pext := pext }

/-- An ACC or TREG descriptor, its form checked (R97, R139), or a LIST (R98). -/
def parseOther (w : Nat → Nat) (sp : OpSpec) : Option Desc :=
  let kind := w 0 % 16
  let dt := w 0 / 16 % 16
  let zero := fun (l : List Nat) => l.all fun i => w i == 0
  if kind = 3 then
    let colb := w 1 / 1024 % 8
    if decide (w 0 / 256 ≠ 1) || !(dt == 8 || dt == 9) || decide (w 1 / 2 ^ 15 ≠ 0)
        || !(zero ([2, 3, 6] ++ (List.range 25).map (· + 7))) || decide (2 ^ 24 ≤ w 5)
        || decide (w 4 % 32 ≠ 0) || decide (256 - 32 * colb < w 4)
        || (match sp.array with | some a => w 1 / 2 ^ 13 % 4 != a | none => false) then none
    else some { kind := 3, dtype := dt, rank := 2, base := (w 1 % 1024 : Nat), ext := [w 4, w 5, 0, 0], row0 := w 1 % 1024,
                colb := colb, array := w 1 / 2 ^ 13 % 4 }
  else if kind = 4 then
    if decide (w 0 / 256 ≠ 0) || !(dt == 8 || dt == 9) || decide (w 1 / 64 ≠ 0)
        || !(zero ([2, 3, 5, 6] ++ (List.range 25).map (· + 7))) || decide (2 ^ 24 ≤ w 4) then none
    else some { kind := 4, dtype := dt, rank := 1, base := (w 1 : Nat), ext := [w 4, 0, 0, 0], reg0 := w 1 }
  else if kind = 5 then
    if decide (w 0 / 16 ≠ 0) || decide (w 1 / 2 ^ 27 ≠ 0) || decide (w 2 / 2 ^ 25 ≠ 0) || decide (w 3 / 2 ^ 27 ≠ 0)
        || decide (w 4 / 8 ≠ 0) || !(zero ((List.range 27).map (· + 5))) then none
    else some { kind := 5, rank := 1, base := (w 1 : Nat), count := w 2 % 2 ^ 24, dcnt := (w 2).testBit 24, caddr := w 3,
                nc := w 4 % 4 + 1, cw := if (w 4).testBit 2 then 4 else 2 }
  else none

/-- Levels that a loop-nest entry names, as a field check sees them (R113, R503 item 3); none where no entry is read. -/
def peekLevels (s : State) (c loopIx : Nat) : Option Nat :=
  if loopIx = 0 then some 0
  else if fld (cfg s (coreReg c 0xA084)) 0 16 ≤ loopIx then none
  else some (tarnLe s c (fld (cfg s (coreReg c 0xA080)) 0 27 + 128 * loopIx) 4 % 8)

/-- Words of descriptor entry ix where the entry can be read: in the table and in the task's window (R80, R108). -/
def peekWords (s : State) (c task ix : Nat) : Option (List Nat) :=
  let lo := fld (cfg s (coreReg c 0xA088)) 0 27 + 128 * ix
  if fld (cfg s (coreReg c 0xA08C)) 0 17 ≤ ix ∨ !(inTarn s c task lo (lo + 127)) then none else some (descWords s c ix)

/-- A descriptor's form against what the opcode accepts (R82). -/
def parseDesc (w : Nat → Nat) (sp : OpSpec) : Option Desc :=
  if !(sp.kinds.contains (w 0 % 16)) then none
  else if w 0 % 16 = 1 ∨ w 0 % 16 = 2 then parseStrided w sp
  else parseOther w sp

/-- Alignment (R89). -/
def aligned (d : Desc) : Bool :=
  if d.kind = 5 then d.base % 64 == 0 && (!d.dcnt || d.caddr % 4 == 0)
  else if d.kind = 3 ∨ d.kind = 4 then true
  else
    let u : Int := unitBytes d.kind
    d.base % u == 0 && (d.pk1 || d.stride.getD 0 0 % u == 0) && d.stride.getD 1 0 % u == 0 && d.stride.getD 2 0 % u == 0
      && (!d.dyn || d.dorg % 4 == 0)

/-- What a start reads beside a descriptor entry, as the entry's words alone give it: the entry itself, and the origin words or
the count that it names (R54, R81). -/
def entryReads (s : State) (c ix : Nat) : List Claim :=
  let ws := descWords s c ix
  let w := fun i => ws.getD i 0
  let lo := fld (cfg s (coreReg c 0xA088)) 0 27 + 128 * ix
  { space := c, lo := lo, hi := lo + 127, write := false } ::
  (if (w 0 % 16 = 1 ∨ w 0 % 16 = 2) ∧ (w 0).testBit 12 then [{ space := c, lo := w 3, hi := w 3 + 15, write := false }]
   else if w 0 % 16 = 5 ∧ (w 2).testBit 24 then [{ space := c, lo := w 3, hi := w 3 + 3, write := false }]
   else [])

/-- Reads a list's dynamic count (R98). -/
def listCount (s : State) (c : Nat) (d : Desc) : Except Nat Desc :=
  if d.kind = 5 ∧ d.dcnt then
    let w := tarnLe s c d.caddr 4
    if 2 ^ 24 ≤ w then .error 0x0C else .ok { d with count := w }
  else .ok d

/-- Loop-nest range of an increment set over its iterations: lowest and highest displacement, in units. -/
def nestSpan (n : Nest) (j : Nat) : Int × Int :=
  (List.range n.counts.length).foldl (fun (a : Int × Int) k =>
    let r := ((n.counts.getD k 0 : Int) - 1) * ((n.incs.getD k []).getD j 0)
    (a.1 + min 0 r, a.2 + max 0 r)) (0, 0)

/-- Rows or registers of an ACC or TREG operand over all iterations stay in range (R97); a nest of none takes none out
(R61, R94). -/
def rowsFit (n : Nest) (j : Nat) (d : Desc) : Bool :=
  let sp := nestSpan n j
  if n.total = 0 then true
  else if d.kind = 3 then decide (0 ≤ d.base + sp.1) && decide (d.base + sp.2 + max 0 ((d.e 1 : Int) - 1) ≤ 1023)
  else if d.kind = 4 then decide (0 ≤ d.base + sp.1) && decide (d.base + sp.2 + max 0 ((d.e 0 : Int) - 1) ≤ 63)
  else true

/-- Operand j of a command: the checks of R503 item 5, in order; `form` is what the opcode asks of its form besides (R98, R99,
R105). -/
def readOperand (s : State) (c task dix j : Nat) (n : Nest) (sp : OpSpec) (form : Desc → Bool := fun _ => true) :
    Except Nat Desc :=
  let ix := dix + j
  let lo := fld (cfg s (coreReg c 0xA088)) 0 27 + 128 * ix
  if fld (cfg s (coreReg c 0xA08C)) 0 17 ≤ ix then .error 0x04
  else if !(inTarn s c task lo (lo + 127)) then .error 0x0D
  else
    let ws := descWords s c ix
    match parseDesc (fun i => ws.getD i 0) sp with
    | none => .error 0x04
    | some d =>
      if !(rowsFit n j d && form d) then .error 0x04
      else if d.kind = 2 ∧ oa s then .error 0x0A
      else if !(aligned d) then .error 0x06
      else listCount s c d

/-- All operands of a command, in ascending order. -/
def readOperands (s : State) (c task dix : Nat) (n : Nest) (sps : List OpSpec) : Except Nat (List Desc) :=
  (sps.zipIdx).foldl (fun (r : Except Nat (List Desc)) (p : OpSpec × Nat) =>
    match r with
    | .error e => .error e
    | .ok l => match readOperand s c task dix p.2 n p.1 with
      | .error e => .error e
      | .ok d => .ok (l ++ [d])) (.ok [])

/-- Scoreboard ranges of the descriptor entries and the origin and count words read at start (R65, R95). -/
def descClaims (s : State) (c dix : Nat) (ds : List Desc) : List Claim :=
  ((List.range ds.length).filter fun j => (ds.getD j {}).kind != 0).map (fun j =>
    let lo := fld (cfg s (coreReg c 0xA088)) 0 27 + 128 * (dix + j)
    { space := c, lo := lo, hi := lo + 127, write := false }) ++
  ds.flatMap fun d =>
    (if d.dyn then [{ space := c, lo := d.dorg, hi := d.dorg + 15, write := false }] else []) ++
    (if d.kind = 5 ∧ d.dcnt then [{ space := c, lo := d.caddr, hi := d.caddr + 3, write := false }] else [])

/-! ## Dynamic origins (R95, R96) -/

/-- Origin words of a descriptor, as read and as clamped. -/
def originOf (s : State) (c : Nat) (d : Desc) : List Int × List Int :=
  let raw := (List.range d.rank).map fun k => sx 32 (tarnLe s c (d.dorg + 4 * k) 4)
  (raw, raw.zipIdx.map fun (o, k) => max 0 (min o ((d.shape.getD k 0 : Int) - (d.ext.getD k 0 : Int))))

/-- The origin set of a descriptor clamps. -/
def originClamps (s : State) (c : Nat) (d : Desc) : Bool := d.dyn && (originOf s c d).1 != (originOf s c d).2

/-- The descriptor with its base moved to its window (R95, R96). -/
def resolveOrigin (s : State) (c : Nat) (d : Desc) : Desc :=
  if !d.dyn then d
  else
    let o := (originOf s c d).2
    let o0 := ((o.getD 0 0).toNat) / granule d.dtype * granule d.dtype
    let mv := (List.range (d.rank - 1)).foldl (fun a k => a + o.getD (k + 1) 0 * d.strideOf (k + 1)) (rowBytes d.dtype o0 : Int)
    { d with base := d.base + mv, dyn := false }

/-! ## Ranges (R90, R91, R102) -/

/-- An operand has zero elements by an extent (R94). -/
def Desc.zeroElems (d : Desc) : Bool :=
  if d.kind = 5 then d.count == 0 else (List.range d.rank).any fun k => d.ext.getD k 0 == 0

/-- Byte range of a strided operand with extents ext over its coordinates, from its base. -/
def strideSpan (d : Desc) (ext : List Nat) : Int × Int :=
  (List.range (d.rank - 1)).foldl (fun (a : Int × Int) k =>
    let r := ((ext.getD (k + 1) 0 - 1 : Nat) : Int) * d.strideOf (k + 1)
    (a.1 + min 0 r, a.2 + max 0 r)) (0, (rowBytes d.dtype (ext.getD 0 0) : Int) - 1)

/-- The extents an operand's range runs over: its own, or the whole shape or piece of a list target (R102). -/
def rangeExt (target : Bool) (d : Desc) : List Nat :=
  if target then (if d.piece then d.pext else (d.ext.zip d.shape).map fun p => max p.1 p.2) else d.ext

/-- The range of a list target is empty: its piece has no element (R102, R106). -/
def Desc.emptyPiece (target : Bool) (d : Desc) : Bool := target && d.piece && (List.range d.rank).any fun k => d.pext.getD k 0 == 0

/-- Bounding range of operand j over all coordinates and iterations: bytes, rows or registers. -/
def boundOf (n : Nest) (j : Nat) (target : Bool) (d : Desc) : Int × Int :=
  let sp := nestSpan n j
  let u : Int := unitBytes d.kind
  if d.kind = 3 then (d.base + sp.1, d.base + sp.2 + (d.e 1 : Int) - 1)
  else if d.kind = 4 then (d.base + sp.1, d.base + sp.2 + (d.e 0 : Int) - 1)
  else if d.kind = 5 then (d.base + sp.1 * u, d.base + sp.2 * u + (d.count * d.nc * d.cw : Nat) - 1)
  else
    let r := strideSpan d (rangeExt target d)
    (d.base + sp.1 * u + r.1, d.base + sp.2 * u + r.2)

/-- Scoreboard range of an operand at core c, whose Tarn operands lie in core tc's Tarn. -/
def claimOf (c tc : Nat) (n : Nest) (j : Nat) (sp : OpSpec) (d : Desc) : Claim :=
  let b := boundOf n j sp.target d
  { space := if d.kind = 2 then 400 else if d.kind = 3 then 100 + c * 4 + d.array else if d.kind = 4 then 200 + c
      else if d.kind = 5 then c else tc
    lo := b.1, hi := b.2, write := sp.write }

/-- The window test of one operand (R90, R91): Tarn operands on core tc. An operand on another part (`tc` 99) is tested there
(R204), and here only for a range that lies in no part's window. -/
def inWindow (s : State) (task tc : Nat) (n : Nest) (j : Nat) (sp : OpSpec) (d : Desc) : Bool :=
  let b := boundOf n j sp.target d
  if d.emptyPiece sp.target then true
  else if tc = 99 then decide (0 ≤ b.1) && decide (b.2 < if d.kind = 2 then (24 * 2 ^ 37 : Nat) else (2 ^ 27 : Nat))
  else if d.kind = 2 then inMere s task b.1 b.2
  else if d.kind = 1 ∨ d.kind = 5 then inTarn s tc task b.1 b.2
  else true

/-- The aliasing test (R92). -/
def aliasOk (n : Nest) (j : Nat) (d : Desc) : Bool :=
  let u : Int := unitBytes d.kind
  let row : Int := if d.kind = 3 then 1 else if d.kind = 4 then d.e 0
    else if d.pk1 ∧ 1 < d.rank then (rowBytes d.dtype (d.ext.getD 0 0) * d.e 1 : Nat) else (rowBytes d.dtype (d.ext.getD 0 0) : Nat)
  let dims : List (Int × Int) :=
    if d.kind = 3 then (if 1 < d.e 1 then [(1, (d.e 1 : Int))] else [])
    else if d.kind = 4 then []
    else (List.range (d.rank - 1)).filterMap fun k =>
      if 1 < d.ext.getD (k + 1) 0 ∧ ¬(k = 0 ∧ d.pk1) then some (((d.strideOf (k + 1)).natAbs : Int), (d.ext.getD (k + 1) 0 : Int)) else none
  let lv : List (Int × Int) := (List.range n.counts.length).filterMap fun k =>
    if 1 < n.counts.getD k 0 then some ((((n.incs.getD k []).getD j 0).natAbs : Int) * u, (n.counts.getD k 0 : Int)) else none
  let ps := sortBy (fun (a b : Int × Int) => decide (a.1 ≤ b.1)) (dims ++ lv)
  !(ps.any fun p => p.1 == 0) &&
  (ps.foldl (fun (a : Bool × Int) p => (a.1 && decide (a.2 ≤ p.1), a.2 + (p.2 - 1) * p.1)) (true, row)).1

/-- First reason a list of checks gives. -/
def firstOf (l : List (Bool × Nat)) : Nat := ((l.find? fun p => p.1).map Prod.snd).getD 0

/-- Window and aliasing tests of all operands, in the order of R503 item 7; `mid` stands between the two. A command with an
operand of zero elements is not tested (R94). `tcs` gives the core whose Tarn each operand lies in, 99 for another part, 98 for
an operand that is not read; `al` is the nest that the aliasing test takes. -/
def rangeChecks (s : State) (task : Nat) (n : Nest) (sps : List OpSpec) (ds : List Desc) (tcs : List Nat) (mid : Nat)
    (al : Nest := n) : Nat :=
  let ps := (sps.zip ds).zipIdx
  if n.total = 0 ∨ (ds.any Desc.zeroElems) then 0
  else if ps.any fun (p, j) => tcs.getD j 0 != 98 && !(inWindow s task (tcs.getD j 0) n j p.1 p.2) then 0x0D
  else if mid ≠ 0 then mid
  else if ps.any fun (p, j) => p.1.write && !p.1.accum && !(aliasOk al j p.2) then 0x07
  else 0

/-! ## Rows in storage -/

/-- Where a strided operand's bytes lie. -/
inductive Store where
  | tarn (core : Nat)
  | mere
deriving DecidableEq, Repr

/-- n bytes of a store. -/
def storeRead (s : State) (st : Store) (a n : Nat) : List Byte :=
  match st with
  | .tarn c => tarnRead s c a n
  | .mere => mereRead s a n

/-- Writes bytes of a store. -/
def storeWrite (st : Store) (a : Nat) (l : List Byte) (s : State) : State :=
  match st with
  | .tarn c => tarnWrite c a l s
  | .mere => mereWrite a l s

/-- Byte address of row (c1, c2, c3) at iteration i (R60, R86). -/
def rowAddr (d : Desc) (n : Nest) (i j c1 c2 c3 : Nat) : Nat :=
  (d.base + n.offset i j * (unitBytes d.kind : Int) + (c1 : Int) * d.strideOf 1 + (c2 : Int) * d.strideOf 2
    + (c3 : Int) * d.strideOf 3).toNat

/-- Coordinates (c1, c2, c3) of an operand's rows, c1 fastest (R86). -/
def rowCoords (d : Desc) : List (Nat × Nat × Nat) :=
  (List.range (d.e 1 * d.e 2 * d.e 3)).map fun r => (r % d.e 1, r / d.e 1 % d.e 2, r / d.e 1 / d.e 2)

/-- Codes and scales of one row of an operand at iteration i. -/
def readRow (s : State) (st : Store) (d : Desc) (n : Nest) (i j : Nat) (c : Nat × Nat × Nat) : List Nat × List Nat :=
  let e := d.ext.getD 0 0
  unpackRow d.dtype e (storeRead s st (rowAddr d n i j c.1 c.2.1 c.2.2) (rowBytes d.dtype e))

/-- Writes one row. -/
def writeRow (st : Store) (d : Desc) (n : Nest) (i j : Nat) (c : Nat × Nat × Nat) (v : List Nat × List Nat) (s : State) : State :=
  let e := d.ext.getD 0 0
  storeWrite st (rowAddr d n i j c.1 c.2.1 c.2.2) (packRow d.dtype e v.1 v.2) s

/-- Store of a strided operand whose Tarn is core c's. -/
def storeOf (c : Nat) (d : Desc) : Store := if d.kind = 2 then .mere else .tarn c

/-- Access units of Mere that a write of len bytes at a covers in part (R88). -/
def partialUnits (a len : Nat) : Nat :=
  if len = 0 then 0
  else
    let f := a / 256
    let l := (a + len - 1) / 256
    if f = l then (if len = 256 then 0 else 1)
    else (if a % 256 = 0 then 0 else 1) + (if (a + len) % 256 = 0 then 0 else 1)

end Sys2Proof.Machine
end

