-- ==== Sys2Proof/Machine/Prep.lean ====
section
/-! DEFINITION. Judging a command at its start, common to every unit (R503): the nest, the operands, the ranges it records,
the iteration steps that every unit's commands share, and NOP. -/

namespace Sys2Proof.Machine

/-- First index from i on that a test picks, within fuel steps. -/
def findFrom (p : Nat → Bool) : Nat → Nat → Option Nat
  | _, 0 => none
  | i, fuel + 1 => if p i then some i else findFrom p (i + 1) fuel

/-- An error when a condition fails. -/
def need (b : Bool) (reason : Nat) : Except Nat Unit := if b then .ok () else .error reason

/-- Task of the running step. -/
def taskOf (s : State) : Nat := s.ssq.task

/-- Operands with their window origins taken in the issuing core's Tarn (R95). -/
def resolveAll (s : State) (c : Nat) (ds : List Desc) : List Desc := ds.map (resolveOrigin s c)

/-- Origin sets that clamp. -/
def clampCount (s : State) (c : Nat) (ds : List Desc) : Nat := (ds.filter (originClamps s c)).length

/-- Ranges of a command: those of its operands that it accesses, and those of what it reads at start (R65). Operands in
another core's Tarn are recorded only as arrivals, and those on another part (`tcs` 99) or not read (98) not here (R204). -/
def allClaims (s : State) (q : QCmd) (n : Nest) (nops dix : Nat) (sps : List OpSpec) (raw ds : List Desc) (tcs : List Nat) :
    List Claim :=
  let none_ := n.total == 0 || ds.any Desc.zeroElems
  nestClaims s q.core q.cmd.loopIx nops ++ descClaims s q.core dix raw ++
  (if none_ then [] else
    ((sps.zip ds).zipIdx.filter fun (p, j) => p.2.kind != 9 && decide (tcs.getD j q.core < 98) && !(p.2.emptyPiece p.1.target) &&
        (p.2.kind != 1 || tcs.getD j q.core == q.core)).map fun (p, j) =>
      claimOf q.core q.core n j p.1 p.2)

/-- Assembles what a judged command becomes. -/
def mkPrep (s : State) (q : QCmd) (n : Nest) (sps : List OpSpec) (raw ds : List Desc) (tcs : List Nat) (cost : Nat) : Prep :=
  { run := { q := q, desc := ds, nest := n, total := n.total, empty := ds.any Desc.zeroElems,
             claims := allClaims s q n sps.length q.cmd.desc sps raw ds tcs }
    cost := cost
    clamps := clampCount s q.core raw }

/-- NOP of any unit: its nest and nothing else (R45, R112). -/
def prepNop (s : State) (q : QCmd) : Except Nat Prep := do
  let n ← readNest s q.core q.cmd.loopIx 0 (fun _ => true)
  pure { run := { q := q, nest := n, total := n.total, claims := nestClaims s q.core q.cmd.loopIx 0 } }

/-- The running command of a unit that a test picks first. -/
def firstRun (s : State) (k : Nat) (p : Run → Bool) : Option Run := (unitOf s k).running.find? fun r => !r.ended && p r

/-! ## Segments under an access (R193, R194) -/

/-- Segments that a range of n bytes at a touches. -/
def segSpan (a n : Nat) : List Nat := if n = 0 then [] else (List.range ((a + n - 1) / 2 ^ 22 + 1 - a / 2 ^ 22)).map fun i => a / 2 ^ 22 + i

/-- A segment is on and stays so for now. -/
def segOn (s : State) (c g : Nat) : Bool := (segOf s c g).st == 0 && !(segOf s c g).changing && !(segOf s c g).waking

/-- Every segment that the range touches is on. -/
def segsOn (s : State) (c a n : Nat) : Bool := (segSpan a n).all fun g => segOn s c g

/-- An access reaches a segment: one in retention or off begins to wake, unless a change is in progress (R193, R194). -/
def reachSeg (c g : Nat) (s : State) : State :=
  if (segOf s c g).st = 0 || (segOf s c g).changing || (segOf s c g).waking then s
  else bump (coreReg c 0xC008) 1 (setSeg c g { segOf s c g with waking := true } s)

/-- An access reaches the segments of a range. -/
def reachSegs (c a n : Nat) (s : State) : State := (segSpan a n).foldl (fun s g => reachSeg c g s) s

/-- A wake that is over within the step that makes the access (log entry 75). -/
def wakeSeg (c g : Nat) (s : State) : State :=
  if (segOf s c g).st = 0 then s
  else bump (coreReg c 0xC008) 1 (setSeg c g { segOf s c g with st := 0, waking := false } s)

/-- The same for the segments of a range. -/
def wakeSegs (c a n : Nat) (s : State) : State := (segSpan a n).foldl (fun s g => wakeSeg c g s) s

/-- Segments that the rows of operand j touch at iteration i; none but for one in Tarn. -/
def rowSegs (d : Desc) (n : Nest) (i j : Nat) : List Nat :=
  if d.kind != 1 then []
  else ((rowCoords d).flatMap fun x => segSpan (rowAddr d n i j x.1 x.2.1 x.2.2) (rowBytes d.dtype (d.ext.getD 0 0))).eraseDups

/-- Segments of its core that iteration i of a run touches by the operands that a test picks. -/
def runSegs (r : Run) (i : Nat) (p : Nat → Bool) : List Nat :=
  if r.empty || r.skipped != 0 then []
  else (r.desc.zipIdx.filter fun x => p x.2).flatMap fun x => rowSegs x.1 r.nest i x.2

/-- An action of core c that touches segments: made when they are on, else they begin to wake (R194). -/
def withSegs (c : Nat) (l : List Nat) (f : State → State) (s : State) : State :=
  if l.all fun g => segOn s c g then f s else l.foldl (fun s g => reachSeg c g s) s

/-- One iteration of a run, when its wait allows it (R63) and its segments are on (R194): the body, then its set, and completion
after the last. -/
def runIter (k : Nat) (r : Run) (body : State → State) (s : State) : State :=
  if iterReady s r then withSegs r.q.core (runSegs r r.it fun _ => true) (fun s => endIter k r.q.seq (body (takeWait k r s))) s
  else s

/-- A unit takes the head of its queue when it is a given opcode and not refused. -/
def headIs (s : State) (k op : Nat) : Option QCmd :=
  match headOf s k with
  | some q => if q.cmd.opcode = op ∧ q.refused = 0 then some q else none
  | none => none

/-- What a unit event does for commands whose iterations run one after another: it goes on with a started command of this
opcode that does not wait, or starts the head and runs its first iteration. `free` says that the unit has finished the command before (R46). -/
def unitEvent (k op : Nat) (free : State → Bool) (prep : State → QCmd → Except Nat Prep) (body : Run → State → State)
    (s : State) : State :=
  if !(engines s) || s.ssq.aborting then s
  else
    match firstRun s k (fun r => r.q.cmd.opcode == op && r.skipped == 0 && iterReady s r) with
    | some r => runIter k r (body r) s
    | none =>
      match headIs s k op with
      | none => s
      | some q =>
        if !(free s) then s
        else
          match prep s q with
          | .error _ => s
          | .ok p =>
            let s' := startPrep k q p s
            match runOf s' k q.seq with
            | some r => runIter k r (body r) s'
            | none => s'

/-- A unit that runs one command at a time has none running. -/
def idle (k : Nat) (s : State) : Bool := (unitOf s k).running.isEmpty

/-- A run whose work is over; a skipped one counts only when it has retired. -/
def doneFor (r : Run) : Bool := r.ended && r.skipped == 0

/-- A unit has finished the command before its head: nothing of it is left but an add that a flag has no room for. -/
def unitFree (k : Nat) (s : State) : Bool := (unitOf s k).running.all doneFor

/-- A command refused after it has started completes as a skip: it holds no range and no token (R68, R69, R173). -/
def lateSkip (k seq reason : Nat) (s : State) : State :=
  match runOf s k seq with
  | none => s
  | some r =>
    let s := if r.tokens = 0 then s else returnTokens r.tokens s
    let s := markSkip (logSkip r.q reason (updRun k seq (fun r => { r with skipped := reason, claims := [], tokens := 0 }) s))
    if s.ssq.strict then strictHalt r.q s else s

/-- Key of the table of tapping commands skipped (R172, R173). -/
def tapKey (c no : Nat) : Nat := c * 2 ^ 20 + no

/-- The write operands of a command meet no other operand's range, but for a pair that maps each element to the very one it
replaces (R150). -/
def overlapOk (n : Nest) (sps : List OpSpec) (ds : List Desc) : Bool :=
  let ps := (sps.zip ds).zipIdx
  ps.all fun (p, j) => !p.1.write || ps.all fun (o, i) =>
    o.1.write || p.2.kind != o.2.kind || (p.2.kind == 3 && p.2.array != o.2.array) ||
    (let b := boundOf n j p.1.target p.2
     let a := boundOf n i o.1.target o.2
     decide (b.2 < a.1) || decide (a.2 < b.1) ||
     (p.2.base == o.2.base && p.2.rank == o.2.rank
       && ((List.range p.2.rank).all fun k => p.2.e k == o.2.e k && (k == 0 || p.2.strideOf k == o.2.strideOf k))
       && n.incs.all fun l => l.getD j 0 == l.getD i 0))

/-- The waits of every iteration below i have been met, and that of i is or can be met now (R128). -/
def metThrough (s : State) (r : Run) (i : Nat) : Bool :=
  !r.q.cmd.wen ||
  ((findFrom r.nest.waitsAt r.met (i - r.met)).isNone &&
   (decide (i < r.met) || !r.nest.waitsAt i || waitOk s r.q.core r.q))

/-- Takes the wait of iteration i, once. -/
def takeMet (k : Nat) (r : Run) (i : Nat) (s : State) : State :=
  if i < r.met then s
  else
    let s := if r.nest.waitsAt i then consume r.q.core r.q s else s
    updRun k r.q.seq (fun r => { r with met := i + 1 }) s

/-- A NOP's iterations make no access. -/
def nopBody (_ : Run) (s : State) : State := s

end Sys2Proof.Machine
end

