-- ==== Sys2Proof/Machine/Lane.lean ====
section
/-! DEFINITION. Lane programs (R151–R154), the block walk and its rows (R137, R142, R143, R145), conversion on write (R159,
R259, R260). -/

namespace Sys2Proof.Machine

/-! ## Programs -/

/-- Operands that a lane operation uses; none for a reserved code (table of the operation set). -/
def laneArity (opc : Nat) : Option Nat :=
  if opc = 0x01 ∨ opc = 0x08 ∨ opc = 0x09 ∨ opc = 0x0A ∨ opc = 0x0B ∨ opc = 0x0C ∨ opc = 0x0D ∨ opc = 0x20 ∨ opc = 0x21 then some 1
  else if opc = 0x05 ∨ opc = 0x2D then some 3
  else if (2 ≤ opc ∧ opc ≤ 7) ∨ (0x10 ≤ opc ∧ opc ≤ 0x1A) ∨ (0x28 ≤ opc ∧ opc ≤ 0x2C) then some 2
  else none

/-- A selector that the operation may use (table of operand selector codes). -/
def selOk (nsrc sel : Nat) : Bool := decide (sel < 16 + nsrc) || (decide (20 ≤ sel) && decide (sel ≤ 28))

/-- One operation word is well formed. -/
def laneOpOk (nsrc w : Nat) : Bool :=
  match laneArity (w % 256) with
  | none => false
  | some ar => decide (w / 2 ^ 27 = 0) && (List.range 3).all fun i =>
      let sel := w / 2 ^ (12 + 5 * i) % 32
      if i < ar then selOk nsrc sel else sel == 0

/-- A program image is one that VXE.LDPROG accepts (R154). -/
def progOk (w : List Word) : Bool :=
  let g := fun i => (w.getD i 0).toNat
  let nops := g 0 % 64
  let nsrc := g 0 / 64 % 4
  decide (nops ≤ 32) && decide (g 0 / 2 ^ 17 = 0) && !(nops == 0 && nsrc == 0) &&
  ((List.range nops).all fun i => laneOpOk nsrc (g (5 + i))) && ((List.range 27).all fun i => g (37 + i) == 0)

/-- A program slot's image. -/
def progOf (s : State) (c slot : Nat) : List Word := sgetMany zero32 ((c * 64 + slot) * 64) 64 s.progs

/-- A slot holds a program (VXE_PROG_VALID). -/
def progValid (s : State) (c slot : Nat) : Bool := bitOf (rd s (coreReg c (0xB118 + 4 * (slot / 32)))) (slot % 32)

def progNops (w : List Word) : Nat := fld (w.getD 0 0) 0 6
def progNsrc (w : List Word) : Nat := fld (w.getD 0 0) 6 2
def progOut (w : List Word) : Nat := fld (w.getD 0 0) 8 4
def progOty (w : List Word) : Bool := bitOf (w.getD 0 0) 12
def progPred (w : List Word) : Nat := fld (w.getD 0 0) 13 4

/-- All ones when a comparison holds. -/
def mask32 (b : Bool) : Word := if b then 0xFFFFFFFF else 0

/-- A lane operation (table of the operation set, R152, R153, R265). -/
def laneOp (opc : Nat) (a b c : Word) : Word :=
  let ia := sx 32 a.toNat
  let ib := sx 32 b.toNat
  if opc = 0x01 then a
  else if opc = 0x02 then fadd a b
  else if opc = 0x03 then fsub a b
  else if opc = 0x04 then fmul a b
  else if opc = 0x05 then fma a b c
  else if opc = 0x06 then fmaxW a b
  else if opc = 0x07 then fminW a b
  else if opc = 0x08 then toF32 (vabs (f32 a))
  else if opc = 0x09 then toF32 (vneg (f32 a))
  else if opc = 0x0A then exp2W a
  else if opc = 0x0B then log2W a
  else if opc = 0x0C then rcpW a
  else if opc = 0x0D then rsqrtW a
  else if opc = 0x10 then a + b
  else if opc = 0x11 then a - b
  else if opc = 0x12 then a * b
  else if opc = 0x13 then if ia < ib then b else a
  else if opc = 0x14 then if ib < ia then b else a
  else if opc = 0x15 then a &&& b
  else if opc = 0x16 then a ||| b
  else if opc = 0x17 then a ^^^ b
  else if opc = 0x18 then a <<< (b.toNat % 32)
  else if opc = 0x19 then a.sshiftRight (b.toNat % 32)
  else if opc = 0x1A then a >>> (b.toNat % 32)
  else if opc = 0x20 then i2f ia
  else if opc = 0x21 then Word.ofNat (ux 32 (f2i 32 a))
  else if opc = 0x28 then mask32 (vlt (f32 a) (f32 b))
  else if opc = 0x29 then mask32 (vlt (f32 a) (f32 b) || veq (f32 a) (f32 b))
  else if opc = 0x2A then mask32 (veq (f32 a) (f32 b))
  else if opc = 0x2B then mask32 (decide (ia < ib))
  else if opc = 0x2C then mask32 (a == b)
  else if a ≠ 0 then b else c

/-- What an element's program sees beside its temporaries. -/
structure LaneEnv where
  srcs : List Word
  consts : List Word
  c1 : Nat
  c0 : Nat
  loop1 : Nat

/-- Value of an operand selector. -/
def laneSel (e : LaneEnv) (t : List Word) (sel : Nat) : Word :=
  if sel < 16 then t.getD sel 0
  else if sel < 19 then e.srcs.getD (sel - 16) 0
  else if sel < 26 then e.consts.getD (sel - 20) 0
  else if sel = 26 then Word.ofNat e.c1
  else if sel = 27 then Word.ofNat e.c0
  else Word.ofNat e.loop1

/-- Runs a program on one element: its sixteen temporaries at the end (R152). -/
def laneRun (w : List Word) (e : LaneEnv) : List Word :=
  (List.range (progNops w)).foldl (fun t i =>
    let o := (w.getD (5 + i) 0).toNat
    t.set (o / 256 % 16) (laneOp (o % 256) (laneSel e t (o / 2 ^ 12 % 32)) (laneSel e t (o / 2 ^ 17 % 32))
      (laneSel e t (o / 2 ^ 22 % 32)))) (List.replicate 16 0)

/-! ## The walk -/

/-- Extents of a walk, dimension 0 to 3. -/
abbrev Ext4 : Type := Nat × Nat × Nat × Nat

def Ext4.rows (e : Ext4) : List (Nat × Nat × Nat) :=
  (List.range (e.2.1 * e.2.2.1 * e.2.2.2)).map fun r => (r % e.2.1, r / e.2.1 % e.2.2.1, r / e.2.1 / e.2.2.1)

/-- Extents of a strided or ACC operand. -/
def Desc.ext4 (d : Desc) : Ext4 := (d.e 0, d.e 1, d.e 2, d.e 3)

/-- Blocks of a walk (R142, R143). -/
def Ext4.blocks (e : Ext4) : Nat := (e.1 + 31) / 32 * ((e.2.1 + 31) / 32) * e.2.2.1 * e.2.2.2

/-- Block, and element within it, of coordinate (c0, c1, c2, c3) of a walk: dimension 0 first (R137, R142). -/
def Ext4.block (e : Ext4) (c0 : Nat) (c : Nat × Nat × Nat) : Nat × Nat :=
  (((c.2.2 * e.2.2.1 + c.2.1) * ((e.2.1 + 31) / 32) + c.1 / 32) * ((e.1 + 31) / 32) + c0 / 32, c0 % 32 + 32 * (c.1 % 32))

/-- Walk of a command: its first operand that is not TREG, or its first TREG operand's registers as whole blocks (R142). -/
def walkOf (ds : List Desc) : Ext4 :=
  match ds.find? fun d => d.kind != 4 with
  | some d => d.ext4
  | none => match ds with
    | d :: _ => (32, 32, d.e 0, 1)
    | [] => (0, 0, 0, 0)

/-- Operands agree with the walk (R142). -/
def walkAgrees (ds : List Desc) : Bool :=
  let w := walkOf ds
  let r := ((ds.find? fun d => d.kind != 4).map Desc.rank).getD 1
  ds.all fun d => if d.kind = 4 then d.e 0 == w.blocks else d.rank == r && d.ext4 == w

/-- Integer element types. -/
def isIntDt (dt : Nat) : Bool := decide (dt ≤ 3) || dt == 9

/-- A source element as the 32-bit value that a lane reads (R151). -/
def readVal (dt code scale : Nat) : Word :=
  if isIntDt dt then Word.ofNat (ux 32 (intOf dt code)) else toF32 (elemVal dt code scale)

/-- A pass or zeros of array a that enter next write into rows lo to hi and columns clo to chi of its accumulators. -/
def accWritten (s : State) (c a : Nat) (lo hi clo chi : Int) : Bool :=
  (unitOf s (unitKey c a)).running.any fun r =>
    let j := if r.q.cmd.opcode = 0x20 then 2 else 0
    let d := r.desc.getD j {}
    let b := d.base + r.nest.offset r.it j
    r.skipped == 0 && (r.q.cmd.opcode == 0x20 || r.q.cmd.opcode == 0x30) && decide (r.it < r.total) &&
      decide (b ≤ hi) && decide (lo < b + d.e 1) && decide (((32 * d.colb : Nat) : Int) ≤ chi) &&
      decide (clo < ((32 * d.colb + d.e 0 : Nat) : Int))

/-- Register of a TREG operand at iteration i and block b. -/
def tregNo (d : Desc) (n : Nest) (i j b : Nat) : Nat := (d.base + n.offset i j).toNat + b

/-- Array of an ACC operand at iteration i (R145). -/
def accArray (d : Desc) (n : Nest) (i astep : Nat) : Nat := d.array + if astep = 0 then 0 else n.digit i astep

/-- Reads of an ACC operand at iteration i that may meet a write of the same row and column: they return the value from before
it and are counted (R125, log entry 78). -/
def accMeets (c : Nat) (d : Desc) (n : Nest) (i j astep : Nat) (w : Ext4) (s : State) : State :=
  if d.kind ≠ 3 then s
  else
    let a := accArray d n i astep
    let lo := d.base + n.offset i j
    if accWritten s c a lo (lo + w.2.1 - 1) (32 * d.colb : Nat) ((32 * d.colb + w.1 : Nat) - 1) then
      bumpMeets (coreReg c (0xB024 + 0x40 * a)) w.blocks s
    else s

/-- Values of one row of a source at iteration i (R137, R145, R151). -/
def srcRow (s : State) (c : Nat) (d : Desc) (n : Nest) (i j astep : Nat) (w : Ext4) (row : Nat × Nat × Nat) : List Word :=
  if d.kind = 3 then
    let r := (d.base + n.offset i j).toNat + row.1
    (List.range w.1).map fun c0 => accAt s c (accArray d n i astep) r (32 * d.colb + c0)
  else if d.kind = 4 then
    (List.range w.1).map fun c0 => let b := w.block c0 row; tregAt s c (tregNo d n i j b.1) b.2
  else
    let v := readRow s (storeOf c d) d n i j row
    (List.range w.1).map fun c0 => readVal d.dtype (v.1.getD c0 0) (v.2.getD (c0 / 32) 127)

/-- A value of a source or of OUT as an exact value: an I32 first becomes FP32 (R259 stage 1). -/
def stage1 (isInt : Bool) (v : Word) : FVal := if isInt then f32 (i2f (sx 32 v.toNat)) else f32 v

/-- Conversion of R159: stages 1 to 4 of R259. `scale` is the slot's FP32 scale, when one is named. -/
def convOut (dt : Nat) (isInt trunc : Bool) (scale : Option Word) (v : Word) : Nat × Bool :=
  let x := stage1 isInt v
  let y := match scale with
    | some k => f32 (toF32 (vmul x (f32 k)))
    | none => x
  convTo dt trunc y

/-- Counts saturations, by slot when one is named (R159, R272). -/
def countSat (c slot n : Nat) (s : State) : State :=
  if n = 0 then s
  else
    let s := bump (coreReg c 0xB108) n s
    if slot = 0 then s else bump (coreReg c (0xB700 + 4 * slot)) n (bump (coreReg c (0xB404 + 8 * slot)) n s)

/-- Writes one row of a destination: `none` keeps an element's old value (R155, R157). -/
def dstRow (c : Nat) (d : Desc) (n : Nest) (i j : Nat) (w : Ext4) (row : Nat × Nat × Nat) (codes : List (Option Nat))
    (s : State) : State :=
  if d.kind = 4 then
    iter w.1 (fun c0 s => match codes.getD c0 none with
      | some v => let b := w.block c0 row; tregSet c (tregNo d n i j b.1) b.2 (Word.ofNat v) s
      | none => s) s
  else
    let old := readRow s (.tarn c) d n i j row
    writeRow (.tarn c) d n i j row ((old.1.zip codes).map fun p => p.2.getD p.1, old.2) s

end Sys2Proof.Machine
end

