-- ==== Sys2Proof/Machine/Rdu.lean ====
section
/-! DEFINITION. The reduction unit (R168–R173, R507, R266). An iteration is one indivisible piece. -/

namespace Sys2Proof.Machine

/-! ## The pairwise tree (R169) -/

/-- One level of the tree: neighbours combined, an odd last one carried up. -/
def pairLevel {α : Type} (f : α → α → α) : List α → List α
  | a :: b :: r => f a b :: pairLevel f r
  | l => l

/-- The pairwise tree of a list, within a number of levels. -/
def pairTree {α : Type} (f : α → α → α) : Nat → List α → List α
  | 0, l => l
  | n + 1, l => pairTree f n (pairLevel f l)

/-- Result of the tree; none for no values. -/
def treeOf {α : Type} (f : α → α → α) (l : List α) : Option α := (pairTree f l.length l).head?

/-! ## Operations -/

def redOp (q : QCmd) : Nat := fld q.cmd.w4 0 3
def redDir (q : QCmd) : Bool := bitOf q.cmd.w4 3
def redTap (q : QCmd) : Bool := bitOf q.cmd.w4 4
def redAcc (q : QCmd) : Bool := bitOf q.cmd.w4 5

/-- A running value: its 32 bits, its exact value and index for ARGMAX, and the saturations of the adds behind it. -/
structure RedVal where
  word : Word := 0
  val : FVal := .nan
  index : Int := 0
  sats : Nat := 0

/-- a ranks above b: NaN above every other value, −0 below +0 (R170). -/
def ranksAbove (a b : FVal) : Bool :=
  match a, b with
  | .nan, .nan => false
  | .nan, _ => true
  | _, .nan => false
  | _, _ => vlt b a || (veq a b && !vneg? a && vneg? b &&
      match a, b with
      | .fin _ 0 _, .fin _ 0 _ => true
      | _, _ => false)

/-- Combines an earlier and a later value (R169, R170, R266). -/
def redCombine (op : Nat) (isInt : Bool) (a b : RedVal) : RedVal :=
  let sats := a.sats + b.sats
  if op = 3 then { (if ranksAbove b.val a.val then b else a) with sats := sats }
  else if op = 0 ∧ isInt then
    let t := sx 32 a.word.toNat + sx 32 b.word.toNat
    let v := max (-2 ^ 31) (min t (2 ^ 31 - 1))
    { word := Word.ofNat (ux 32 v), sats := sats + if v = t then 0 else 1 }
  else if op = 0 ∨ op = 4 then { word := fadd a.word b.word, sats := sats }
  else if isInt then
    let lt := decide (sx 32 a.word.toNat < sx 32 b.word.toNat)
    { word := if lt == (op == 1) then b.word else a.word, sats := sats }
  else { word := if op = 1 then fmaxW a.word b.word else fminW a.word b.word, sats := sats }

/-- An input as a leaf of the tree. -/
def redLeaf (op : Nat) (isInt : Bool) (index : Int) (v : Word) : RedVal :=
  let f := stage1 isInt v
  if op = 3 then { val := if isInt then ofInt (sx 32 v.toNat) else f32 v, index := index }
  else if op = 4 then { word := toF32 (vmul (f32 (toF32 f)) (f32 (toF32 f))) }
  else if isInt then { word := v }
  else { word := toF32 f }

/-- Value and index written for a result with no input (R507). -/
def redIdentity (op : Nat) (isInt : Bool) : RedVal :=
  if op = 1 then { word := if isInt then 0x80000000 else 0xFF800000 }
  else if op = 2 then { word := if isInt then 0x7FFFFFFF else 0x7F800000 }
  else if op = 3 then { val := .inf true, index := -1 }
  else {}

/-! ## Shapes (R168) -/

/-- Extents of the input. -/
def redExt (d : Desc) : Ext4 := if d.kind = 4 then (32, 32, d.e 0, 1) else d.ext4

/-- Extents of the remaining dimensions. -/
def redRem (dir : Bool) (d : Desc) : List Nat :=
  let e := redExt d
  let r := if d.kind = 4 then 3 else max 2 d.rank
  (if dir then e.1 else e.2.1) :: [e.2.2.1, e.2.2.2].take (r - 2)

/-- A destination has the shape and one of the types that R168 asks for. -/
def redDstOk (rem types : List Nat) (d : Desc) : Bool :=
  let n := rem.foldl (· * ·) 1
  types.contains d.dtype &&
  if d.kind = 4 then d.e 0 == (n + 1023) / 1024
  else d.rank == rem.length && (List.range rem.length).all fun k => d.e k == rem.getD k 0

/-- Types of the value destination: of an input known to be integer or not, or to be settled at the pair's start. -/
def redTypes (op : Nat) (isInt : Option Bool) : List Nat :=
  if op = 3 ∨ op = 4 then [8] else match isInt with
    | some true => [9]
    | some false => [8]
    | none => [8, 9]

/-- Judges an RDU.RED. -/
def prepRed (s : State) (q : QCmd) : Except Nat Prep := do
  let c := q.core
  let op := redOp q
  need (decide (op ≤ 4)) 0x03
  let nops := if op = 3 then 3 else 2
  let n ← readNest s c q.cmd.loopIx nops (fun _ => true)
  let sps : List OpSpec := [{ kinds := [1, 3, 4] }, { kinds := [1, 4], write := true, accum := redAcc q }] ++
    if op = 3 then [{ kinds := [1, 4], write := true, accum := redAcc q }] else []
  let raw0 ← readOperands s c (taskOf s) q.cmd.desc n sps
  let raw := if redTap q then raw0.set 0 { raw0.getD 0 {} with dyn := false } else raw0
  let src := raw.getD 0 {}
  let rem := redRem (redDir q) src
  need (redDstOk rem (redTypes op (if redTap q then none else some (isIntDt src.dtype))) (raw.getD 1 {})) 0x04
  need (op != 3 || redDstOk rem [9] (raw.getD 2 {})) 0x04
  let ds := resolveAll s c raw
  let tcs := if redTap q then [98, c, c] else [c, c, c]
  let r := rangeChecks s (taskOf s) n sps ds tcs 0
  need (r == 0) r
  need (!(oa s && decide (clampCount s c raw ≠ 0))) 0x08
  need (!(redTap q && sget (fun _ => 0) (tapKey c q.tapNo) s.ssq.tapV == 1)) 0x04
  let ds' := if redTap q then ds.set 0 { ds.getD 0 {} with kind := 9 } else ds
  let p := mkPrep s q n sps raw ds' tcs 1
  pure { p with run := { p.run with desc := ds } }

/-! ## An iteration -/

/-- Place of result i in a destination at iteration it: Tarn address, or register and element. -/
def redPlace (d : Desc) (n : Nest) (it j i : Nat) : Nat × Nat :=
  if d.kind = 4 then (tregNo d n it j (i / 1024), i % 1024)
  else
    let r := i / d.e 0
    (rowAddr d n it j (r % d.e 1) (r / d.e 1 % d.e 2) (r / d.e 1 / d.e 2) + 4 * (i % d.e 0), 0)

/-- A result's stored word. -/
def redGet (s : State) (c : Nat) (d : Desc) (n : Nest) (it j i : Nat) : Word :=
  let p := redPlace d n it j i
  if d.kind = 4 then tregAt s c p.1 p.2 else Word.ofNat (tarnLe s c p.1 4)

/-- Stores a result. -/
def redPut (c : Nat) (d : Desc) (n : Nest) (it j i : Nat) (v : Word) (s : State) : State :=
  let p := redPlace d n it j i
  if d.kind = 4 then tregSet c p.1 p.2 v s else tarnWrite c p.1 (leBytes 4 v.toNat) s

/-- The inputs of result i, block by block in ascending order of the reduced dimension: coordinate and value. -/
def redInputs (e : Ext4) (dir : Bool) (inp : Nat → Nat → Option Word) (i : Nat) : List (List (Nat × Word)) :=
  let len := if dir then e.2.1 else e.1
  (List.range ((len + 31) / 32)).map fun b =>
    ((List.range (min 32 (len - 32 * b))).filterMap fun k =>
      let x := 32 * b + k
      (if dir then inp (x + e.2.1 * (i / e.1)) (i % e.1) else inp i x).map fun v => (x, v))

/-- One iteration: `inp` gives the input at a row and a coordinate of dimension 0; absent inputs give none. -/
def redIter (c : Nat) (r : Run) (isInt : Bool) (inp : Nat → Nat → Option Word) (s : State) : State :=
  let op := redOp r.q
  let e := redExt (r.desc.getD 0 {})
  let base := sx 32 r.q.cmd.w5.toNat + sx 32 r.q.cmd.w6.toNat * (r.nest.digit r.it 1 : Int)
  let dv := r.desc.getD 1 {}
  let dx := r.desc.getD 2 {}
  let n := (redRem (redDir r.q) (r.desc.getD 0 {})).foldl (· * ·) 1
  let s := bump (coreReg c 0xB144) e.blocks s
  if r.empty then s
  else iter n (fun i s =>
    let blocks := (redInputs e (redDir r.q) inp i).filterMap fun l =>
      treeOf (redCombine op isInt) (l.map fun p => redLeaf op isInt ((p.1 : Int) + base) p.2)
    let start : Option RedVal :=
      if redAcc r.q then
        let w := redGet s c dv r.nest r.it 1 i
        some { word := w, val := f32 w, index := sx 32 (redGet s c dx r.nest r.it 2 i).toNat }
      else none
    let res : Option RedVal := match start, blocks with
      | _, [] => if redAcc r.q then none else some (redIdentity op isInt)
      | some v, l => some (l.foldl (redCombine op isInt) v)
      | none, b :: l => some (l.foldl (redCombine op isInt) b)
    match res with
    | none => s
    | some v =>
      let s := if v.sats = 0 then s else bump (coreReg c 0xB14C) v.sats s
      if op = 3 then redPut c dx r.nest r.it 2 i (Word.ofNat (ux 32 v.index)) (redPut c dv r.nest r.it 1 i (toF32 v.val) s)
      else redPut c dv r.nest r.it 1 i v.word s) s

/-- An iteration of a reduction that reads its own source. -/
def redBody (c : Nat) (r : Run) (s : State) : State :=
  let d := r.desc.getD 0 {}
  let e := redExt d
  let rows := if r.empty then [] else e.rows.map fun row => srcRow s c d r.nest r.it 0 0 e row
  let s := if r.empty then s else accMeets c d r.nest r.it 0 0 e s
  redIter c r (isIntDt d.dtype) (fun row c0 => (rows.getD row [])[c0]?) s

/-- Starts a judged reduction; a tapping one of no iterations completes only with its partner. -/
def startRed (k : Nat) (q : QCmd) (p : Prep) (s : State) : State :=
  if redTap q then
    let s' := tryStart k q p.run p.cost s
    if started s' k q.seq then bump (coreReg q.core 0xA090) p.clamps s' else s'
  else startPrep k q p s

/-- An iteration of the running reduction; a tapping one takes its blocks from its partner (R172). -/
def redStep (c k : Nat) (r : Run) (s : State) : State := if redTap r.q then s else runIter k r (redBody c r) s

/-- RDU.RED: runs the next iteration of the running command, or starts the head. -/
def rduRed (c : Nat) (s : State) : State :=
  let k := unitKey c 5
  if !(engines s) || s.ssq.aborting then s
  else match firstRun s k (fun r => r.q.cmd.opcode == 0x10 && r.skipped == 0) with
  | some r => redStep c k r s
  | none => match headIs s k 0x10 with
    | none => s
    | some q =>
      if !(unitFree k s) then s
      else match prepRed s q with
        | .error _ => s
        | .ok p =>
          let s' := startRed k q p s
          match firstRun s' k (fun r => r.q.seq == q.seq) with
          | some r => redStep c k r s'
          | none => s'

/-- RDU.NOP. -/
def rduNop (c : Nat) (s : State) : State := unitEvent (unitKey c 5) 0 (unitFree (unitKey c 5)) prepNop nopBody s


end Sys2Proof.Machine
end

