-- ==== Sys2Proof/Machine/Loess.lean ====
section
/-! DEFINITION. Loess attention engines and moves between the key/value pools (R231–R249). A sub-command at an engine is one
indivisible piece. -/

namespace Sys2Proof.Machine

/-! ## Pool formats (R231) -/

/-- What a pool format fixes. -/
structure Pool where
  hkv : Nat
  g : Nat
  d : Nat
  dt : Nat
  nl : Nat
  pte : Nat
  owner : Nat
  pt : Nat
  hot : Nat
  frames : Nat
  coldLo : Nat
  coldHi : Nat

/-- Bytes of an element, of a position's row, of a frame; query heads; longest session. -/
def Pool.e (p : Pool) : Nat := if p.dt = 6 then 2 else 1
def Pool.rb (p : Pool) : Nat := 2 * p.hkv * p.d * p.e
def Pool.f (p : Pool) : Nat := p.nl * 16 * p.rb
def Pool.hq (p : Pool) : Nat := p.g * p.hkv
def Pool.longest (p : Pool) : Nat := p.pte * 24 * 16

/-- The format as its registers give it, when it is usable. -/
def poolOf (s : State) (f : Nat) : Option Pool :=
  let w := fun i => cfg s (0x260000 + 0x20 * f + 4 * i)
  let kvt := fld (w 0) 15 2
  let p : Pool := {
    hkv := fld (w 0) 0 7, g := fld (w 0) 7 5, d := 32 * (fld (w 0) 12 3 + 1), dt := 4 + kvt, nl := fld (w 0) 17 8
    pte := fld (w 1) 0 13, owner := fld (w 1) 16 6, pt := fld (w 2) 0 21 * 65536, hot := fld (w 3) 0 21 * 65536
    frames := (w 4).toNat, coldLo := fld (w 5) 0 21 * 65536, coldHi := fld (w 6) 0 21 * 65536 }
  if bitOf (w 0) 31 && decide (kvt ≤ 2) && decide (1 ≤ p.hkv) && decide (p.hkv ≤ 64) && decide (1 ≤ p.g) && decide (p.g ≤ 16)
      && decide (1 ≤ p.nl) && decide (1 ≤ p.pte) && decide (p.pte ≤ 4096) && decide (p.f ≤ 2 ^ 30)
      && decide (p.hot + p.f * p.frames ≤ 2 ^ 37) && decide (p.pt + 131072 * 4 * p.pte ≤ 2 ^ 37)
  then some p else none

/-- Page-table entry of stripe g of a session slot, in its stack (R233, R234): a frame, or none for a miss. -/
def frameOf (s : State) (p : Pool) (slot s0 g : Nat) : Option Nat :=
  let st := (s0 + g) % 24
  let k := mereLe s (st * 2 ^ 37 + p.pt + slot * 4 * p.pte + 4 * (g / 24)) 4
  if p.pte ≤ g / 24 ∨ k = 0xFFFFFFFF ∨ p.frames ≤ k then none else some k

/-- Access unit of the page-table entry of stripe g of a session slot. -/
def entryUnit (p : Pool) (slot s0 g : Nat) : Nat := ((s0 + g) % 24 * 2 ^ 37 + p.pt + slot * 4 * p.pte + 4 * (g / 24)) / 256

/-- Mere address of position i of layer l's page of a frame (R232). -/
def rowAt (p : Pool) (st frame layer i : Nat) : Nat := st * 2 ^ 37 + p.hot + frame * p.f + layer * 16 * p.rb + i * p.rb

/-! ## Judging (R239, R246) -/

def lseFmt (q : QCmd) : Nat := fld q.cmd.w4 0 4
def lseLayer (q : QCmd) : Nat := fld q.cmd.w4 4 8
def lseNosb (q : QCmd) : Bool := bitOf q.cmd.w6 0 && fld q.cmd.w6 1 24 != 0
def lseDir (q : QCmd) : Bool := bitOf q.cmd.w4 4

/-- The stacks that a command names. -/
def lseNamed (q : QCmd) : List Nat :=
  if q.cmd.opcode = 0x10 ∧ fld q.cmd.w6 1 24 ≠ 0 then (List.range 24).filter fun i => bitOf q.cmd.w6 (i + 1) else List.range 24

/-- The format of a command, usable and of the running task. -/
def lsePool (s : State) (q : QCmd) : Except Nat Pool :=
  match poolOf s (lseFmt q) with
  | some p => if p.owner = taskOf s then .ok p else .error 0x04
  | none => .error 0x04

/-- Judges an LSE.ATTN. -/
def prepAttn (s : State) (q : QCmd) : Except Nat Prep := do
  need (!(oa s)) 0x0A
  let n ← readNest s q.core q.cmd.loopIx 3 (fun _ => true)
  let sps : List OpSpec := [{ kinds := [1] }, { kinds := [1] }, { kinds := [1], write := true }]
  let raw ← readOperands s q.core (taskOf s) q.cmd.desc n sps
  let p ← lsePool s q
  let qs := raw.getD 0 {}
  let bt := raw.getD 1 {}
  let pd := raw.getD 2 {}
  let b := qs.e 2
  let np := if lseNosb q then (lseNamed q).length else 24
  need (decide (lseLayer q < p.nl) && [4, 5, 6].contains qs.dtype && qs.rank == 3 && qs.e 0 == p.d && qs.e 1 == p.hq
    && bt.dtype == 1 && bt.rank == 2 && bt.e 0 == 16 && bt.e 1 == b
    && pd.dtype == 8 && pd.rank == 3 && pd.e 0 == p.d + 2 && pd.e 1 == b * p.hq && pd.e 2 == np) 0x04
  let ds := resolveAll s q.core raw
  let r := rangeChecks s (taskOf s) n sps ds [q.core, q.core, q.core] 0
  need (r == 0) r
  pure (mkPrep s q n sps raw ds [q.core, q.core, q.core] (3 * (lseNamed q).length))

/-- Judges an LSE.MOVE. -/
def prepMove (s : State) (q : QCmd) : Except Nat Prep := do
  need (!(oa s)) 0x0A
  let n ← readNest s q.core q.cmd.loopIx 1 (fun _ => true)
  let sps : List OpSpec := [{ kinds := [1] }]
  let raw ← readOperands s q.core (taskOf s) q.cmd.desc n sps
  let _ ← lsePool s q
  let t := raw.getD 0 {}
  need (t.dtype == 1 && t.rank == 2 && t.e 0 == 16) 0x04
  let ds := resolveAll s q.core raw
  let r := rangeChecks s (taskOf s) n sps ds [q.core] 0
  need (r == 0) r
  pure (mkPrep s q n sps raw ds [q.core] 0)

/-- Judges an LSE.NOP. -/
def prepLseNop (s : State) (q : QCmd) : Except Nat Prep := do
  need (!(oa s)) 0x0A
  prepNop s q

/-! ## The slot (R237, R238, R240) -/

def lseKey (c : Nat) : Nat := unitKey c 9

/-- An operand moved to iteration it, with no nest left. -/
def atIter (d : Desc) (n : Nest) (it j : Nat) : Desc := { d with base := d.base + n.offset it j * 64 }

/-- Bytes of entry b of a table of 16-byte entries. -/
def tableEntry (s : State) (c : Nat) (d : Desc) (b : Nat) : List Byte := tarnRead s c (rowAddr d {} 0 0 b 0 0) 16

/-- Sub-commands of a run that no engine has finished. -/
def subsLeft (s : State) (c seq : Nat) : Bool :=
  (List.range 24).any fun st => (stk s st).subs.any fun x => x.core == c && x.seq == seq

/-- The iteration ends when no sub-command of it is left (R238). -/
def settleLse (c seq : Nat) (s : State) : State :=
  match runOf s (lseKey c) seq with
  | none => s
  | some r =>
    if r.open_ && r.unsent.isEmpty && !(subsLeft s c seq) && !s.ssq.aborting then
      endIter (lseKey c) seq (updRun (lseKey c) seq (fun r => { r with open_ := false }) s)
    else s

/-- The sub-command of a run for stack st. -/
def subFor (r : Run) (st : Nat) : Sub :=
  { core := r.q.core, seq := r.q.seq, attn := r.q.cmd.opcode == 0x10, fmt := lseFmt r.q, layer := lseLayer r.q
    qscale := r.q.cmd.w5
    part := if lseNosb r.q then ((lseNamed r.q).filter fun x => decide (x < st)).length else st
    ops := r.desc.zipIdx.map fun (d, j) => atIter d r.nest r.it j }

/-- Query blocks go to the stacks of a list along the multicast tree, but for the core's own two (R244, R280). -/
def castQueries (c : Nat) (r : Run) (l : List Nat) (s : State) : State :=
  let far := l.filter fun st => st / 2 != c
  let d := r.desc.getD 0 {}
  if r.q.cmd.opcode ≠ 0x10 ∨ far.isEmpty then s
  else meshCast c (far.map stackEnd) (flitsOf (d.e 2 * d.e 1 * rowBytes d.dtype (d.e 0))) s

/-- Sends what sub-commands the engines have room for (R237). -/
def sendSubs (c : Nat) (r : Run) (s : State) : State :=
  let s := castQueries c r (r.unsent.filter fun st => decide ((stk s st).subs.length < 64)) s
  let s := r.unsent.foldl (fun s st =>
    if (stk s st).subs.length < 64 then
      updRun (lseKey c) r.q.seq (fun r => { r with unsent := r.unsent.erase st })
        (setStk st { stk s st with subs := (stk s st).subs ++ [subFor r st] } s)
    else s) s
  settleLse c r.q.seq s

/-- An empty partial: −∞, 0 and zeros (R165). -/
def emptyPart (d : Nat) : List Word := 0xFF800000 :: List.replicate (d + 1) 0

/-- Writes the partial of a row from index p. -/
def writePart (c : Nat) (pd : Desc) (row p : Nat) (v : List Word) (s : State) : State :=
  tarnWrite c (rowAddr pd {} 0 0 row p 0) (bytesOf v) s

/-- An iteration begins: clamped lengths are counted, the slot writes the empty partials of unnamed stacks, and sub-commands
go out (R240, R241). -/
def beginLse (c : Nat) (r : Run) (s : State) : State :=
  let k := lseKey c
  let s := takeWait k r s
  let attn := r.q.cmd.opcode == 0x10
  if r.empty || r.q.cmd.opcode == 0 then endIter k r.q.seq s
  else
    let ops := (subFor r 0).ops
    let p := (poolOf s (lseFmt r.q)).getD ⟨0, 0, 0, 4, 0, 0, 0, 0, 0, 0, 0, 0⟩
    let b := (ops.getD 1 {}).e 1
    let long := if attn then ((List.range b).filter fun i =>
      let t := tableEntry s c (ops.getD 1 {}) i
      decide (p.longest < leAt t 4 4) && decide (leAt t 0 4 < 131072) && decide (leAt t 8 1 < 24) && leAt t 9 3 == 0).length else 0
    let s := bump (coreReg c 0xA090) long s
    let s := if attn && !(lseNosb r.q) then
        ((List.range 24).filter fun st => !((lseNamed r.q).contains st)).foldl (fun s st =>
          iter (b * p.hq) (fun row s => writePart c (ops.getD 2 {}) row st (emptyPart p.d) s) s) s
      else s
    let s := updRun k r.q.seq (fun r => { r with open_ := true, unsent := lseNamed r.q, lost := [] }) s
    sendSubs c { r with unsent := lseNamed r.q } s

/-- The slot has finished the command before its head: it has started, and one of the 4 channels is free (R237). -/
def lseFree (k : Nat) (s : State) : Bool :=
  ((unitOf s k).running.all fun r => r.skipped == 0) && decide ((unitOf s k).running.length < 4)

/-- What an LSE event does: it starts the head if it may, else sends what is still to be sent, else begins the next iteration of
a running command of the opcode. -/
def lseEvent (c op : Nat) (prep : State → QCmd → Except Nat Prep) (s : State) : State :=
  let k := lseKey c
  if !(engines s) || s.ssq.aborting then s
  else
    let s' := match headIs s k op with
      | none => s
      | some q =>
        if !(lseFree k s) then s
        else match prep s q with
          | .error _ => s
          | .ok p => startPrep k q p s
    match firstRun s' k fun r => r.q.cmd.opcode == op && r.skipped == 0 && !r.unsent.isEmpty with
    | some r => sendSubs c r s'
    | none => match firstRun s' k fun r => r.q.cmd.opcode == op && r.skipped == 0 && !r.open_ && iterReady s' r with
      | some r => withSegs c (runSegs r r.it fun _ => true) (beginLse c r) s'
      | none => s'

/-! ## An engine (R241–R243, R246, R267) -/

/-- A product, rounded only when it leaves the FP32 normal range (R267). -/
def loessMul (a b : FVal) : FVal :=
  match vmul a b with
  | .fin n m e => if m = 0 ∨ (magLe 1 (-126) m e ∧ magLe m e fFP32.largest.1 fFP32.largest.2) then .fin n m e
    else f32 (toF32 (.fin n m e))
  | v => v

/-- Sum by the pairwise tree, each add rounded once. -/
def treeSum (l : List FVal) : FVal := (treeOf (fun a b => f32 (toF32 (vadd a b))) l).getD (.fin false 0 0)

/-- Running maximum, sum and vector of a partial. -/
structure Part where
  m : Word := 0xFF800000
  l : Word := 0
  o : List Word

/-- One page's step of R242: `ks` and `vs` are the keys and values of its taken positions for one head. -/
def pageStep (qscale : Word) (q : List FVal) (ks vs : List (List FVal)) (a : Part) : Part :=
  let x := ks.map fun k => fmul qscale (toF32 (treeSum ((q.zip k).map fun p => loessMul p.1 p.2)))
  let mp := x.foldl fmaxW a.m
  let c := if a.m = 0xFF800000 then 0 else exp2W (fsub a.m mp)
  let w := x.map fun v => f32 (exp2W (fsub v mp))
  { m := mp
    l := toF32 (vadd (f32 (fmul a.l c)) (treeSum w))
    o := a.o.zipIdx.map fun (o, d) =>
      toF32 (vadd (f32 (fmul o c)) (treeSum ((w.zip vs).map fun p => loessMul p.1 (p.2.getD d (.fin false 0 0))))) }

/-- A list in an order that is free where the page order is (R243): each next one is picked by a free value. -/
def freeOrderOf : Nat → Nat → List Nat → List Nat
  | 0, _, l => l
  | n + 1, k, l => match l with
    | [] => []
    | x :: r =>
      let y := (x :: r).getD (Config.freeOrder k % (r.length + 1)) x
      y :: freeOrderOf n (k + 1) ((x :: r).erase y)

/-- Stripes of an entry that stack st holds and that hold a taken position (R233, R242). -/
def takenStripes (st s0 lo len : Nat) : List Nat :=
  if len = 0 then [] else
    ((List.range ((len - 1) / 16 + 1 - lo / 16)).map fun i => lo / 16 + i).filter fun g => (s0 + g) % 24 == st

/-- An error of an entry at the engine of stack st: its slot is recorded and a contained fault raised (R241). -/
def entryError (st slot : Nat) (s : State) : State :=
  raise (srcOf 1 st 1) 0x18 slot (wr (stkReg st 0x48) (Word.ofNat (slot % 2 ^ 17 + 2 ^ 31)) s)

/-- Fields of a table entry: slot, length, S0, and whether it breaks the limits on slot, S0 and the reserved bytes. -/
def entryBad (t : List Byte) (rsv : Nat) : Bool :=
  decide (131072 ≤ leAt t 0 4) || decide (24 ≤ leAt t 8 1) || leAt t 9 rsv != 0

/-- Elements of a key or value of head h of a row. -/
def kvElems (p : Pool) (row : List Byte) (h : Nat) : List FVal :=
  (List.range p.d).map fun d => elemVal p.dt (leAt row ((h * p.d + d) * p.e) p.e) 127

/-- Entry b of an attention sub-command at stack st (R240–R243). -/
def attnEntry (st : Nat) (x : Sub) (p : Pool) (b : Nat) (ecc : EccMap) (s : State) : State :=
  let c := x.core
  let t := tableEntry s c (x.ops.getD 1 {}) b
  let slot := leAt t 0 4
  let bad := entryBad t 3
  let len := min (leAt t 4 4) p.longest
  let win := leAt t 12 4
  let lo := if win = 0 then 0 else len - win
  let stripes0 := if bad then [] else takenStripes st (leAt t 8 1) lo len
  let order := if repro s then stripes0 else freeOrderOf stripes0.length s.fresh stripes0
  let s := if repro s then s else { s with fresh := s.fresh + stripes0.length }
  let found := order.filterMap fun g => (frameOf s p slot (leAt t 8 1) g).map fun k => (g, k)
  let misses := order.length - found.length
  let rows := found.map fun gk =>
    ((List.range 16).filter fun i => decide (lo ≤ 16 * gk.1 + i) && decide (16 * gk.1 + i < len)).map fun i =>
      rowAt p st gk.2 x.layer i
  let us := (stripes0.map (entryUnit p slot (leAt t 8 1)) ++ rows.flatten.flatMap fun a => unitsOf a p.rb).eraseDups
  let ue := anyUe ecc us
  let s := noteUnits ecc us s
  let pages := rows.map fun l => l.map fun a => mereRead s a p.rb
  let qd := x.ops.getD 0 {}
  let s := iter p.hq (fun h s =>
    if ue then
      let f := freeBytes (4 * (p.d + 2)) s
      tarnWrite c (rowAddr (x.ops.getD 2 {}) {} 0 0 (b * p.hq + h) x.part 0) f.1 f.2
    else
      let q := ((readRow s (.tarn c) qd {} 0 0 (h, b, 0)).1).map fun v => elemVal qd.dtype v 127
      let kv := h / p.g
      let a := pages.foldl (fun a rows =>
        pageStep x.qscale q (rows.map fun r => kvElems p r kv) (rows.map fun r => kvElems p r (p.hkv + kv)) a)
        { o := List.replicate p.d 0 }
      writePart c (x.ops.getD 2 {}) (b * p.hq + h) x.part (a.m :: a.l :: a.o) s) s
  let s := meshSend (stackEnd st) (coreEnd c) (flitsOf (p.hq * 4 * (p.d + 2))) s
  let s := bump (stkReg st 0x40) found.length (bump (stkReg st 0x3C) 1 s)
  let s := bump (stkReg st 0x4C) misses (bump (stkReg st 0x44) (if bad then 1 else 0) s)
  if bad || misses != 0 || ue then entryError st slot s else s

/-- Cold-image address of position i of layer l of a session of length len (R235). -/
def imageRow (p : Pool) (img len l i : Nat) : Nat := img + l * (ceilDiv (len * p.rb) 256 * 256) + i * p.rb

/-- The image lies wholly in the cold pool of one stack (R246). -/
def imageOk (p : Pool) (cold len : Nat) : Bool :=
  let a := cold * 256
  let n := p.nl * (ceilDiv (len * p.rb) 256 * 256)
  cold / 2 ^ 34 == 0 && decide (a / 2 ^ 37 < 24) &&
    (len == 0 || (decide (p.coldLo ≤ a % 2 ^ 37) && decide (a % 2 ^ 37 + n ≤ p.coldHi)))

/-- Where a move of an entry writes, piece by piece: the rows of a restore by stripe and layer, or the whole image of a park. -/
def movePieces (s : State) (p : Pool) (restore : Bool) (slot s0 len img : Nat) : List (Nat × Nat) :=
  let n := ceilDiv (len * p.rb) 256 * 256
  if restore then (List.range (ceilDiv len 16)).flatMap fun g => match frameOf s p slot s0 g with
    | some k => (List.range p.nl).map fun l => (rowAt p ((s0 + g) % 24) k l 0, 16 * p.rb)
    | none => []
  else [(img, p.nl * n)]

/-- Bytes of Mere become undefined, piece by piece. -/
def freePieces (l : List (Nat × Nat)) (s : State) : State :=
  l.foldl (fun s x => let f := freeBytes x.2 s; mereWrite x.1 f.1 f.2) s

/-- Entry b of a move at stack st: it moves the rows of the stripes that the stack holds (R246, R247). An uncorrectable unit leaves
the entry's whole destination undefined (R226). -/
def moveEntry (st : Nat) (x : Sub) (p : Pool) (restore : Bool) (b : Nat) (ecc : EccMap) (s : State) : State :=
  let t := tableEntry s x.core (x.ops.getD 0 {}) b
  let slot := leAt t 0 4
  let len := leAt t 4 4
  let s0 := leAt t 8 1
  let cold := leAt t 11 5
  let all := if len = 0 then [] else List.range ((len - 1) / 16 + 1)
  let bad := entryBad t 2 || !(imageOk p cold len)
  let miss := !bad && all.any fun g => (frameOf s p slot s0 g).isNone
  let mine := (all.filter fun g => (s0 + g) % 24 == st).filterMap fun g => (frameOf s p slot s0 g).map fun k => (g, k)
  let pt := if bad then [] else ((all.filter fun g => (s0 + g) % 24 == st).map (entryUnit p slot s0)).eraseDups
  let s := noteUnits ecc pt s
  let misses := if bad then 0 else (all.filter fun g => (s0 + g) % 24 == st).length - mine.length
  let s := bump (stkReg st 0x3C) 1 (bump (stkReg st 0x4C) misses (bump (stkReg st 0x44) (if bad then 1 else 0) s))
  if bad || miss then entryError st slot s
  else if mine.isEmpty then s
  else
    let img := cold * 256
    let us := (mine.flatMap fun gk => (List.range p.nl).flatMap fun l =>
      unitsOf (if restore then imageRow p img len l (16 * gk.1) else rowAt p st gk.2 l 0) (min 16 (len - 16 * gk.1) * p.rb)).eraseDups
    let s := noteUnits ecc us (wakeStack (stackNo img) (wakeStack st s))
    let gone := ((runOf s (lseKey x.core) x.seq).map fun r => r.lost.contains b).getD false
    let bad := anyUe ecc (pt ++ us)
    let s := mine.foldl (fun s gk => iter p.nl (fun l s =>
      let n := min 16 (len - 16 * gk.1)
      let fr := rowAt p st gk.2 l 0
      let im := imageRow p img len l (16 * gk.1)
      let s := bump (stkReg (if restore then stackNo img else st) 0x50) (ceilDiv (n * p.rb) 256) s
      let src := mereRead s (if restore then im else fr) (n * p.rb)
      let s := meshSend (stackEnd (if restore then stackNo img else st)) (stackEnd (if restore then st else stackNo img))
        (flitsOf (n * p.rb)) s
      let d := if gone then freeBytes (n * p.rb) s else (src, s)
      let dst := if restore then fr else im
      let s := bump (coreReg x.core 0xA098) (partialUnits dst (n * p.rb)) (mereWrite dst d.1 d.2)
      if restore && decide (n < 16) then
        let f := freeBytes ((16 - n) * p.rb) s
        mereWrite (fr + n * p.rb) f.1 f.2
      else s) s) s
    if bad then
      entryError st slot (updRun (lseKey x.core) x.seq (fun r => { r with lost := b :: r.lost })
        (freePieces (movePieces s p restore slot s0 len img) s))
    else s

/-- Segments of the issuing core that a sub-command's operands touch. -/
def subSegs (x : Sub) : List Nat := (x.ops.flatMap fun d => rowSegs d {} 0 0).eraseDups

/-- Scheduled mode lets the moves of a sub-command cross the mesh (R247, R288). -/
def subReaches (s : State) (st : Nat) (x : Sub) : Bool :=
  x.attn || (List.range ((x.ops.getD 0 {}).e 1)).all fun b =>
    let t := tableEntry s x.core (x.ops.getD 0 {}) b
    let cold := stackNo (leAt t 11 5 * 256)
    entryBad t 2 || decide (24 ≤ cold) || (match runOf s (lseKey x.core) x.seq with
      | some r => if lseDir r.q then moveReaches s cold st else moveReaches s st cold
      | none => true)

/-- SUB_COMMAND: the engine of stack st serves the first sub-command of its queue, entry by entry; a move waits where the timetable
has no slots for it. -/
def subCommand (st : Nat) (ecc : EccMap) (s : State) : State :=
  if !(engines s) then s
  else match (stk s st).subs with
  | [] => s
  | x :: rest => if subReaches s st x then withSegs x.core (subSegs x) (serveSub st x rest ecc) s else s
where
  /-- The engine serves sub-command x, which leaves the queue. -/
  serveSub (st : Nat) (x : Sub) (rest : List Sub) (ecc : EccMap) (s : State) : State :=
    let s := setStk st { stk s st with subs := rest } (wakeStack st s)
    let n := if x.attn then (x.ops.getD 1 {}).e 1 else (x.ops.getD 0 {}).e 1
    let restore := match runOf s (lseKey x.core) x.seq with
      | some r => lseDir r.q
      | none => false
    let s := match poolOf s x.fmt with
      | none => s
      | some p => iter n (fun b s =>
          if x.attn then attnEntry st x p b ecc s else moveEntry st x p restore b ecc s) s
    settleLse x.core x.seq s

def lseNop (c : Nat) (s : State) : State := lseEvent c 0 prepLseNop s
def lseAttn (c : Nat) (s : State) : State := lseEvent c 0x10 prepAttn s
def lseMove (c : Nat) (s : State) : State := lseEvent c 0x20 prepMove s

def execSubCommand (st : StackId) (ecc : EccMap) (s : State) : Host.Outcome State Fault Refusal := .next (subCommand st.val ecc s)

end Sys2Proof.Machine
end

