-- ==== Sys2Proof/Machine/Crypto.lean ====
section
/-! DEFINITION. The published algorithms that the manual names: AES-256-GCM (FIPS 197, SP 800-38D), SHA-384 (FIPS 180-4),
HMAC and HKDF over it (RFC 5869), ECDH and ECDSA over P-384 (FIPS 186). -/

namespace Sys2Proof.Machine

/-! ## AES-256 -/

/-- Product in GF(2^8) modulo x^8 + x^4 + x^3 + x + 1. -/
def gmul (a b : Nat) : Nat :=
  ((List.range 8).foldl (fun (s : Nat × Nat) i =>
    (if b.testBit i then s.1 ^^^ s.2 else s.1, if s.2.testBit 7 then (s.2 * 2 % 256) ^^^ 0x1B else s.2 * 2)) (0, a)).1

/-- Inverse in GF(2^8): the 254th power. -/
def ginv (a : Nat) : Nat :=
  let a2 := gmul a a
  let a4 := gmul a2 a2
  let a8 := gmul a4 a4
  let a16 := gmul a8 a8
  let a32 := gmul a16 a16
  let a64 := gmul a32 a32
  let a128 := gmul a64 a64
  gmul a128 (gmul a64 (gmul a32 (gmul a16 (gmul a8 (gmul a4 a2)))))

/-- The S-box. -/
def sbox (a : Nat) : Nat :=
  let x := ginv a
  let rot := fun k => (x * 2 ^ k + x / 2 ^ (8 - k)) % 256
  x ^^^ rot 1 ^^^ rot 2 ^^^ rot 3 ^^^ rot 4 ^^^ 0x63

/-- The S-box on each byte of a 32-bit word. -/
def subWord (w : Nat) : Nat :=
  (List.range 4).foldl (fun a i => a + sbox (w / 256 ^ i % 256) * 256 ^ i) 0

/-- Round keys of AES-256: 60 words, the last first. -/
def aesExpand (key : Nat) : List Nat :=
  let w0 := (List.range 8).map fun i => key / 2 ^ (32 * i) % 2 ^ 32
  ((List.range 52).foldl (fun (a : List Nat × Nat) i =>
    let n := i + 8
    let t := a.1.headD 0
    let u := if n % 8 = 0 then subWord ((t * 256 + t / 2 ^ 24) % 2 ^ 32) ^^^ (a.2 * 2 ^ 24) else if n % 8 = 4 then subWord t else t
    ((a.1.getD 7 0 ^^^ u) :: a.1, if n % 8 = 0 then gmul a.2 2 else a.2)) (w0, 1)).1

/-- Round keys as 15 lists of 16 bytes. -/
def aesKeys (key : Nat) : List (List Nat) :=
  let w := (aesExpand key).reverse
  (List.range 15).map fun r => (List.range 16).map fun i => w.getD (4 * r + i / 4) 0 / 256 ^ (3 - i % 4) % 256

/-- One byte-wise round without its key: substitution, row shift and, but for the last, column mix. -/
def aesRound (last : Bool) (b : List Nat) : List Nat :=
  let sub := b.map sbox
  let sh := (List.range 16).map fun i => sub.getD ((i + 4 * (i % 4)) % 16) 0
  if last then sh
  else (List.range 16).map fun i =>
    let at_ := fun k => sh.getD (i / 4 * 4 + (i + k) % 4) 0
    gmul (at_ 0) 2 ^^^ gmul (at_ 1) 3 ^^^ at_ 2 ^^^ at_ 3

/-- Bytewise exclusive or. -/
def xorB (a b : List Nat) : List Nat := (a.zip b).map fun p => p.1 ^^^ p.2

/-- One block under expanded keys, as a 128-bit number, first byte highest. -/
def aesBlock (ks : List (List Nat)) (x : Nat) : Nat :=
  let b := (List.range 16).map fun i => x / 256 ^ (15 - i) % 256
  let r := (List.range 14).foldl (fun b i => xorB (aesRound (i == 13) b) (ks.getD (i + 1) [])) (xorB b (ks.getD 0 []))
  r.foldl (fun a v => a * 256 + v) 0

/-! ## GCM -/

/-- Product in the GHASH field. -/
def ghashMul (x y : Nat) : Nat :=
  ((List.range 128).foldl (fun (s : Nat × Nat) i =>
    (if x.testBit (127 - i) then s.1 ^^^ s.2 else s.1,
     if s.2 % 2 = 1 then (s.2 / 2) ^^^ (0xE1 * 2 ^ 120) else s.2 / 2)) (0, y)).1

/-- Blocks of 16 bytes as numbers, the last padded with zeros. -/
def blocks16 (l : List Byte) : List Nat :=
  (List.range ((l.length + 15) / 16)).map fun i => beNat (slice (16 * i) 16 l)

/-- GHASH of associated data and ciphertext. -/
def ghash (h : Nat) (aad ct : List Byte) : Nat :=
  (blocks16 aad ++ blocks16 ct ++ [8 * aad.length * 2 ^ 64 + 8 * ct.length]).foldl (fun y x => ghashMul (y ^^^ x) h) 0

/-- CTR keystream on a list of bytes from counter 2. -/
def gcmCtr (ks : List (List Nat)) (iv : Nat) (l : List Byte) : List Byte :=
  (List.range ((l.length + 15) / 16)).flatMap fun i =>
    let k := beBytes 16 (aesBlock ks (iv * 2 ^ 32 + (i + 2) % 2 ^ 32))
    (((l.drop (16 * i)).take 16).zip k).map fun p => p.1 ^^^ p.2

/-- The tag. -/
def gcmTag (ks : List (List Nat)) (iv : Nat) (aad ct : List Byte) : List Byte :=
  beBytes 16 (ghash (aesBlock ks 0) aad ct ^^^ aesBlock ks (iv * 2 ^ 32 + 1))

/-- AES-256-GCM seal: ciphertext followed by the 16-byte tag. -/
def gcmSeal (key iv : Nat) (aad pt : List Byte) : List Byte :=
  let ks := aesKeys key
  let ct := gcmCtr ks iv pt
  ct ++ gcmTag ks iv aad ct

/-- AES-256-GCM open: none when the tag does not verify. -/
def gcmOpen (key iv : Nat) (aad sealed : List Byte) : Option (List Byte) :=
  if sealed.length < 16 then none
  else
    let ks := aesKeys key
    let n := sealed.length - 16
    let ct := sealed.take n
    if gcmTag ks iv aad ct = sealed.drop n then some (gcmCtr ks iv ct) else none

/-! ## SHA-384 -/

/-- The first n primes from 2. -/
def primes (n : Nat) : List Nat :=
  ((List.range 420).filter fun p => decide (2 ≤ p) && (List.range p).all fun d => decide (d < 2) || p % d != 0).take n

/-- Largest r with r^k ≤ x, below 2^b. -/
def rootNat (k b x : Nat) : Nat :=
  (List.range b).foldl (fun r i => let t := r + 2 ^ (b - 1 - i); if t ^ k ≤ x then t else r) 0

/-- Round constants: 64 bits of the fractions of the cube roots of the first 80 primes. -/
def shaK : List Nat := (primes 80).map fun p => rootNat 3 70 (p * 2 ^ 192) % 2 ^ 64

/-- Initial value: 64 bits of the fractions of the square roots of the 9th to 16th primes. -/
def shaInit : List Nat := ((primes 16).drop 8).map fun p => rootNat 2 70 (p * 2 ^ 128) % 2 ^ 64

/-- Rotation right of a 64-bit number. -/
def ror (n x : Nat) : Nat := (x / 2 ^ n + x * 2 ^ (64 - n)) % 2 ^ 64

/-- Message schedule of a block, word 79 first. -/
def shaSched (w : List Nat) : List Nat :=
  (List.range 64).foldl (fun a _ =>
    let s0 := a.getD 14 0
    let s1 := a.getD 1 0
    ((ror 19 s1 ^^^ ror 61 s1 ^^^ (s1 / 64)) + a.getD 6 0 + (ror 1 s0 ^^^ ror 8 s0 ^^^ (s0 / 128)) + a.getD 15 0) % 2 ^ 64 :: a)
    w.reverse

/-- One block of the compression. -/
def shaBlock (h : List Nat) (w : List Nat) : List Nat :=
  let g := fun (s : List Nat) i => s.getD i 0
  let fin := ((shaSched w).reverse.zip shaK).foldl (fun s p =>
    let e := g s 4
    let a := g s 0
    let ch := (e &&& g s 5) ^^^ ((2 ^ 64 - 1 - e) &&& g s 6)
    let t1 := g s 7 + (ror 14 e ^^^ ror 18 e ^^^ ror 41 e) + ch + p.2 + p.1
    let t2 := (ror 28 a ^^^ ror 34 a ^^^ ror 39 a) + ((a &&& g s 1) ^^^ (a &&& g s 2) ^^^ (g s 1 &&& g s 2))
    [(t1 + t2) % 2 ^ 64, a, g s 1, g s 2, (g s 3 + t1) % 2 ^ 64, e, g s 5, g s 6]) h
  (h.zip fin).map fun p => (p.1 + p.2) % 2 ^ 64

/-- SHA-384 of a byte list. -/
def sha384 (m : List Byte) : List Byte :=
  let pad := m ++ [0x80] ++ List.replicate ((239 - m.length % 128) % 128) 0 ++ beBytes 16 (8 * m.length)
  let h := (List.range (pad.length / 128)).foldl (fun h i =>
    shaBlock h ((List.range 16).map fun j => beNat ((pad.drop (128 * i + 8 * j)).take 8))) shaInit
  (h.take 6).flatMap fun w => beBytes 8 w

/-- HMAC-SHA-384. -/
def hmac (key m : List Byte) : List Byte :=
  let k0 := if 128 < key.length then sha384 key else key
  let k := k0 ++ List.replicate (128 - k0.length) 0
  sha384 (k.map (fun b => b ^^^ 0x5C) ++ sha384 (k.map (fun b => b ^^^ 0x36) ++ m))

/-- HKDF extract and expand to n bytes (RFC 5869). -/
def hkdf (salt ikm info : List Byte) (n : Nat) : List Byte :=
  let prk := hmac salt ikm
  (((List.range ((n + 47) / 48)).foldl (fun (a : List Byte × List Byte) i =>
    let t := hmac prk (a.2 ++ info ++ [Byte.ofNat (i + 1)])
    (a.1 ++ t, t)) ([], [])).1).take n

/-! ## P-384 -/

/-- Field prime, group order, coefficient b and base point. -/
def ecP : Nat := 2 ^ 384 - 2 ^ 128 - 2 ^ 96 + 2 ^ 32 - 1
def ecN : Nat := 0xffffffffffffffffffffffffffffffffffffffffffffffffc7634d81f4372ddf581a0db248b0a77aecec196accc52973
def ecB : Nat := 0xb3312fa7e23ee7e4988e056be3f82d19181d9c6efe8141120314088f5013875ac656398d8a2ed19d2a85c8edd3ec2aef
def ecG : Nat × Nat :=
  (0xaa87ca22be8b05378eb1c71ef320ad746e1d3b628ba79b9859f741e082542a385502f25dbf55296c3a545e3872760ab7,
   0x3617de4a96262c6f5d9e98bf9292dc29f8f41dbd289a147ce9da3113b5f0b8c00a60b1ce1d7e819d7a431d7c90ea0e5f)

/-- a^e modulo m, for e below 2^384. -/
def powMod (a e m : Nat) : Nat :=
  (List.range 384).foldl (fun r i => let r2 := r * r % m; if e.testBit (383 - i) then r2 * a % m else r2) 1

/-- Inverse modulo a prime. -/
def invMod (a m : Nat) : Nat := powMod a (m - 2) m

/-- Sum of two points; none is the point at infinity. -/
def ecAdd (a b : Option (Nat × Nat)) : Option (Nat × Nat) :=
  match a, b with
  | none, q => q
  | q, none => q
  | some (x1, y1), some (x2, y2) =>
    if x1 = x2 ∧ (y1 + y2) % ecP = 0 then none
    else
      let l := if x1 = x2 then (3 * x1 * x1 + ecP - 3) * invMod (2 * y1 % ecP) ecP % ecP
        else (y2 + ecP - y1) * invMod ((x2 + ecP - x1) % ecP) ecP % ecP
      let x3 := (l * l + 2 * ecP - x1 - x2) % ecP
      some (x3, (l * (x1 + ecP - x3) + ecP - y1) % ecP)

/-- Scalar multiple of a point. -/
def ecMul (k : Nat) (q : Nat × Nat) : Option (Nat × Nat) :=
  (List.range 384).foldl (fun r i =>
    let d := ecAdd r r
    if k.testBit (383 - i) then ecAdd d (some q) else d) none

/-- A point lies on the curve. -/
def ecOn (q : Nat × Nat) : Bool :=
  decide (q.1 < ecP) && decide (q.2 < ecP) && decide (q.2 * q.2 % ecP = (q.1 * q.1 * q.1 + (ecP - 3) * q.1 + ecB) % ecP)

/-- Public key of a secret scalar. -/
def ecPub (d : Nat) : Nat × Nat := (ecMul d ecG).getD (0, 0)

/-- ECDH: x coordinate of the shared point. -/
def ecdh (d : Nat) (q : Nat × Nat) : Nat := ((ecMul d q).getD (0, 0)).1

/-- ECDSA signature of a digest with a nonce. -/
def ecSign (d k : Nat) (digest : List Byte) : Nat × Nat :=
  let r := (ecPub k).1 % ecN
  (r, invMod k ecN * (beNat digest + r * d) % ecN)

/-- ECDSA verification. -/
def ecVerify (q : Nat × Nat) (digest : List Byte) (sig : Nat × Nat) : Bool :=
  let r := sig.1
  let v := sig.2
  if r = 0 ∨ ecN ≤ r ∨ v = 0 ∨ ecN ≤ v || !(ecOn q) then false
  else
    let w := invMod v ecN
    match ecAdd (ecMul (beNat digest * w % ecN) ecG) (ecMul (r * w % ecN) q) with
    | none => false
    | some p => p.1 % ecN == r

end Sys2Proof.Machine
end

