-- ==== Sys2Proof/Machine/Tarn.lean ====
section
/-! DEFINITION. Tarn as it is reached from outside a core's own units (R181–R195): arrivals, starved requests, and the power
states of segments. -/

namespace Sys2Proof.Machine

/-- Changes the outstanding-write counters of the segments a write touches (R193). -/
def owcAdd (c a n : Nat) (up : Bool) (s : State) : State :=
  (segSpan a n).foldl (fun s g =>
    setSeg c g { segOf s c g with owc := if up then (segOf s c g).owc + 1 else (segOf s c g).owc - 1 } s) s

/-- An arrival that leaves its task's window is dropped and recorded (R190). -/
def windowDrop (c : Nat) (s : State) : State := raise (srcOf 0 c 10) 0x16 0 (bump (coreReg c 0xC00C) 1 s)

/-! ## Arrivals (R24, R190, R193, R194) -/

/-- Bytes that an access covers. -/
def accLen (acc : Access) : Nat :=
  match acc with
  | .rd n => n
  | .wr l => l.length

/-- An arrival is made: a read is answered with the bytes, a write lands and falls out of its segments' counters. -/
def makeArrival (x : Arrival) (s : State) : State :=
  match x.acc with
  | .rd n => send (.tarnData x.core true (tarnRead s x.core x.addr n)) s
  | .wr l => send (.tarnData x.core true []) (owcAdd x.core x.addr l.length false (tarnWrite x.core x.addr l s))

/-- The ingress of a core makes every arrival whose segments are on, in order; the others wait and wake theirs. -/
def serveIngress (c : Nat) (s : State) : State :=
  s.ingress.foldl (fun s x =>
    if x.core ≠ c then s
    else if segsOn s c x.addr (accLen x.acc) then makeArrival x { s with ingress := s.ingress.erase x }
    else reachSegs c x.addr (accLen x.acc) s) s

/-- TARN_ARRIVAL: a read or a write from outside the core, under the window of its task (R24, R190); a write counts in its
segments from its acceptance until it lands (R193). -/
def tarnArrival (c task a : Nat) (acc : Access) (s : State) : State :=
  let n := accLen acc
  if !(engines s) || !(live s c) then s
  else if !(inTarn s c task a ((a + n : Nat) - 1)) then send (.tarnData c false []) (windowDrop c s)
  else
    let s := match acc with
      | .rd _ => s
      | .wr _ => owcAdd c a n true s
    serveIngress c { s with ingress := s.ingress ++ [{ core := c, addr := a, acc := acc }] }

/-! ## The banks (R182, R184–R188) -/

/-- Rows that a port may ask for in one core cycle, by port (table of Tarn ports). -/
def portLimit (p : Nat) : Nat := [8, 8, 8, 8, 8, 8, 8, 8, 32, 32, 32, 8, 48, 32, 48, 32, 1].getD p 0

/-- The requests that ask in this cycle: of each port, as many as its limit, the longest waiting first (R184). -/
def asking (l : List TarnWait) : List TarnWait :=
  (l.zipIdx.filter fun x => decide (((l.take x.2).filter fun y => y.req.port == x.1.req.port).length < portLimit x.1.req.port)).map
    Prod.fst

/-- Refused in 16 core cycles one after another (R186). -/
def tarnStarved (w : TarnWait) : Bool := decide (16 ≤ w.refused)

/-- a comes before b at a bank: a starved one first, then by the order of the ports, which is that of their priorities (R184,
R186). -/
def tarnAhead (a b : TarnWait) : Bool :=
  if tarnStarved a == tarnStarved b then decide (a.req.port < b.req.port) else tarnStarved a

/-- The first of some requests in that order; of equals, the longest waiting. -/
def tarnFirst : List TarnWait → Option TarnWait
  | [] => none
  | x :: r => some (r.foldl (fun w y => if tarnAhead y w then y else w) x)

/-- The request that a bank grants: the first, but a read of a row before any write of it (R185, R187). -/
def bankGrant (l : List TarnWait) : Option TarnWait :=
  match tarnFirst l with
  | none => none
  | some w =>
    if w.req.isWrite then some ((tarnFirst (l.filter fun y => !y.req.isWrite && y.req.line == w.req.line)).getD w) else some w

/-- Meetings on one row, of a write with a read or with another write (R187, R188). -/
def rowMeets : List TarnWait → Nat
  | [] => 0
  | x :: r => (r.filter fun y => y.req.bank == x.req.bank && y.req.line == x.req.line && (x.req.isWrite || y.req.isWrite)).length +
    rowMeets r

/-- Counter, beside TARN_CONFLICT, that a refused request of a port adds to, if any: of an activation feeder (R129), of the VXE
(R147). -/
def portStall (c p : Nat) : List Nat :=
  if p < 4 then [coreReg c (0xB02C + 0x40 * p)] else if p = 8 ∨ p = 10 then [coreReg c 0xB110] else []

/-- A core cycle in which requests were refused is counted (R129, R147, R185). -/
def countRefused (c : Nat) (lost : List TarnWait) (s : State) : State :=
  ((lost.flatMap fun w => portStall c w.req.port).eraseDups).foldl (fun s a => bump a 1 s)
    (bump (coreReg c 0xC000) (if lost.isEmpty then 0 else 1) s)

/-- TARN_STARVE: one core cycle at the banks, with the requests that are new in it. Each bank grants one request, a starved one
ahead of the others; those refused ask again in the next cycle (R185–R188, log entry 74). -/
def tarnStarve (c : Nat) (reqs : List TarnReq) (s : State) : State :=
  if !(engines s) || !(live s c) then s
  else
    let l := sget (fun _ => []) c s.tarnWait ++ reqs.map fun r => { req := r }
    let asks := asking l
    let won := (List.range 64).filterMap fun b => bankGrant (asks.filter fun w => w.req.bank == b)
    let lost := won.foldl (fun l w => l.erase w) asks
    let idle := asks.foldl (fun l w => l.erase w) l
    bump (coreReg c 0xC004) (rowMeets asks) (countRefused c lost
      { s with tarnWait := sset (fun _ => []) c (lost.map (fun w => { w with refused := w.refused + 1 }) ++ idle) s.tarnWait
               granted := sset (fun _ => []) c (won.map fun w => w.req) s.granted })

/-! ## Segment power (R192–R195) -/

/-- Contents of a segment are lost. -/
def clearSeg (c g : Nat) (s : State) : State :=
  let lo := tarnKey c (g * 2 ^ 22)
  { s with tarn := sdrop (fun k => decide (lo ≤ k) && decide (k < lo + 2 ^ 22)) s.tarn }

/-- The segments that an FXE.TPWR names. -/
def tpwrSegs (q : QCmd) : List Nat := (List.range (fld q.cmd.w4 5 5)).map fun i => fld q.cmd.w4 0 5 + i

/-- An FXE.TPWR has nothing left to wait for. -/
def tpwrDone (s : State) (r : Run) : Bool :=
  (tpwrSegs r.q).all fun g => (segOf s r.q.core g).target.isNone && !(segOf s r.q.core g).changing

/-- Running FXE.TPWR commands whose segments have all changed complete (R193). -/
def settleTpwr (c : Nat) (s : State) : State :=
  let k := unitKey c 7
  ((unitOf s k).running.filter fun r => r.q.cmd.opcode == 0x40 && r.skipped == 0 && !r.ended).foldl (fun s r =>
    if tpwrDone s r then endIter k r.q.seq s else s) s

/-- SEGMENT_STATE_CHANGE: a change asked for begins, a change to retention or off only when no write is outstanding; a change
under way completes, and what waited for it goes on (R193). -/
def segmentStateChange (c g : Nat) (s : State) : State :=
  let sg := segOf s c g
  match sg.target with
  | none => s
  | some t =>
    if !(engines s) || !(live s c) || sg.waking then s
    else if sg.changing || sg.st == t then
      let s := setSeg c g { sg with st := t, target := none, changing := false } s
      serveIngress c (settleTpwr c (if t = 2 ∧ sg.changing then clearSeg c g s else s))
    else if t = 0 ∨ sg.owc = 0 then setSeg c g { sg with changing := true } s
    else s

/-- SEGMENT_WAKE: a segment that an access is waking returns to on, and the accesses that wait for it proceed (R194). -/
def segmentWake (c g : Nat) (s : State) : State :=
  let sg := segOf s c g
  if !(engines s) || !(live s c) || !sg.waking then s
  else serveIngress c (setSeg c g { sg with st := 0, waking := false } s)

def execTarnArrival (c : CoreId) (t : TaskId) (a : Nat) (x : Access) (s : State) : Host.Outcome State Fault Refusal :=
  .next (tarnArrival c.val t.val a x s)
def execTarnStarve (c : CoreId) (r : TarnReq) (l : List TarnReq) (s : State) : Host.Outcome State Fault Refusal :=
  .next (tarnStarve c.val (r :: l) s)
def execSegmentStateChange (c : CoreId) (g : Fin 24) (s : State) : Host.Outcome State Fault Refusal :=
  .next (segmentStateChange c.val g.val s)
def execSegmentWake (c : CoreId) (g : Fin 24) (s : State) : Host.Outcome State Fault Refusal := .next (segmentWake c.val g.val s)

end Sys2Proof.Machine
end

