-- ==== Sys2Proof/Machine/Fxe.lean ====
section
/-! DEFINITION. The fetch and store engines (R196–R209): judging their commands, cutting iterations into transfers, issuing
and landing them. Coordinate lists (R98–R107, R505) are here. -/

namespace Sys2Proof.Machine

/-! ## Immediates -/

/-- SRC or DST, RCORE, EP. -/
def fsSel (q : QCmd) : Nat := fld q.cmd.w4 0 2
def fsCore (q : QCmd) : Nat := fld q.cmd.w4 2 4
def fsEp (q : QCmd) : Nat := fld q.cmd.w5 0 24
def sxeRsen (q : QCmd) : Bool := bitOf q.cmd.w4 6
def streamSlot (q : QCmd) : Nat := fld q.cmd.w6 0 16
def streamFlag (q : QCmd) : Nat := fld q.cmd.w4 6 12

/-- The checks of R202 on named fields, in ascending bit order. -/
def fsFields (s : State) (q : QCmd) (sxe : Bool) : Except Nat Unit := do
  need (fsSel q != 3) 0x03
  need (fsSel q == 1 || fsCore q == 0) 0x03
  need (fsSel q != 1 || live s (fsCore q)) 0x02
  need (!sxe || !(sxeRsen q) || fsSel q == 2) 0x03
  need (fsSel q == 2 || fsEp q == 0) 0x03

/-- Core whose Tarn the outer operand lies in; 99 when it lies on another part. -/
def fsTc (q : QCmd) : Nat := if fsSel q = 0 then q.core else if fsSel q = 1 then fsCore q else 99

/-- The outer operand's kind suits SRC or DST (R202). -/
def fsKind (q : QCmd) (d : Desc) : Bool := fsSel q != 1 || d.kind == 1

/-! ## Judging -/

/-- The last checks, common to the engines' commands. The aliasing test of a stream takes its ring for its levels (R208). -/
def fsFinish (s : State) (q : QCmd) (n ext : Nest) (sps : List OpSpec) (raw ds : List Desc) (tcs : List Nat) (late : Bool)
    (al : Nest := n) : Except Nat Prep := do
  let r := rangeChecks s (taskOf s) ext sps ds tcs 0 al
  need (r == 0) r
  need (!(oa s && (late || decide (clampCount s q.core raw ≠ 0)))) 0x08
  let p := mkPrep s q ext sps raw ds tcs 0
  pure { p with run := { p.run with nest := n, total := n.total } }

/-- Judges FXE.FETCH, FXE.STREAM and SXE.STORE: `outer` is the operand that may lie elsewhere (R202, R203, R207, R208). -/
def prepCopy (sxe stream : Bool) (s : State) (q : QCmd) : Except Nat Prep := do
  fsFields s q sxe
  need (!stream || streamSlot q != 0) 0x03
  let n ← readNest s q.core q.cmd.loopIx 2 (fun r => !stream ||
    (r.nest.setLv == 1 && decide (r.nest.waitLv ≤ 1) && r.nest.incs.all fun l => l.getD 1 0 == 0))
  let sps : List OpSpec := [{ kinds := if sxe then [1] else [1, 2] },
    { kinds := if sxe then [1, 2] else [1], write := true }]
  let raw ← readOperands s q.core (taskOf s) q.cmd.desc n sps
  let a := raw.getD 0 {}
  let b := raw.getD 1 {}
  need (fsKind q (if sxe then b else a) && a.dtype == b.dtype && a.rank == b.rank
    && (List.range a.rank).all fun k => a.e k == b.e k) 0x04
  let ds := resolveAll s q.core raw
  let ring : Nest := { counts := [8], incs := [[0, (streamSlot q : Int), 0, 0]] }
  let ext : Nest := if stream then { n with counts := n.counts ++ ring.counts, incs := n.incs ++ ring.incs } else n
  fsFinish s q n ext sps raw ds (if sxe then [q.core, fsTc q] else [fsTc q, q.core]) false (if stream then ring else n)

/-! ### Lists (R98–R102) -/

/-- Rank and highest extent that a descriptor entry holds, unchecked; none where it cannot be read. -/
def peekDesc (s : State) (c task ix : Nat) : Option (Nat × Nat) :=
  (peekWords s c task ix).map fun ws => (ws.getD 0 0 / 256 % 4 + 1, ws.getD (4 + ws.getD 0 0 / 256 % 4) 0)

/-- A list names no more coordinates than the target has dimensions, and a static count is within the paired operand's capacity
(R98, R99): part of the list descriptor's form. -/
def listForm (tp pp : Option (Nat × Nat)) (l : Desc) : Bool :=
  (match tp with
    | some t => decide (l.nc ≤ t.1)
    | none => true) &&
  (l.dcnt || match pp with
    | some p => decide (l.count ≤ p.2)
    | none => true)

/-- Signed coordinate k of entry i of a list at iteration it. -/
def listCoord (s : State) (c : Nat) (l : Desc) (n : Nest) (it i k : Nat) : Int :=
  let a := (l.base + n.offset it 0 * 64).toNat + (i * l.nc + k) * l.cw
  sx (8 * l.cw) (tarnLe s c a l.cw)

/-- Block coordinate of target dimension d named by an entry, clamped, and whether it clamps (R98, R100). -/
def entryCoord (s : State) (c : Nat) (l t : Desc) (n : Nest) (it i d : Nat) : Nat × Bool :=
  if d + l.nc < t.rank then (0, false)
  else
    let v := listCoord s c l n it i (d + l.nc - t.rank)
    let hi : Int := (t.shape.getD d 0 / t.ext.getD d 1 : Nat) - 1
    let w := max 0 (min v hi)
    (w.toNat, decide (w ≠ v))

/-- Block of an entry, and whether any of its coordinates clamps. -/
def entryBlock (s : State) (c : Nat) (l t : Desc) (n : Nest) (it i : Nat) : List Nat × Bool :=
  let v := (List.range t.rank).map fun d => entryCoord s c l t n it i d
  (v.map Prod.fst, v.any Prod.snd)

/-- Some entry of some iteration clamps (R101). -/
def listClamps (s : State) (c : Nat) (l t : Desc) (n : Nest) : Bool :=
  (List.range n.total).any fun it => (List.range l.count).any fun i => (entryBlock s c l t n it i).2

/-- Judges FXE.GATHER (write operand 2), SXE.SCATTER and SXE.SCADD (write operand 1). -/
def prepList (sxe add : Bool) (s : State) (q : QCmd) : Except Nat Prep := do
  let c := q.core
  fsFields s q sxe
  let n ← readNest s c q.cmd.loopIx 3 (fun _ => true)
  let pp := peekDesc s c (taskOf s) (q.cmd.desc + 2)
  let l ← readOperand s c (taskOf s) q.cmd.desc 0 n { kinds := [5] } (listForm (peekDesc s c (taskOf s) (q.cmd.desc + 1)) pp)
  need (decide (l.count ≤ (pp.getD (0, l.count)).2)) 0x0C
  let tsp : OpSpec := { kinds := [1, 2], write := sxe, accum := add, target := true, nc := l.nc }
  let floats := [6, 7, 8, 9]
  let t ← readOperand s c (taskOf s) q.cmd.desc 1 n tsp (fun t => !add || floats.contains t.dtype)
  let psp : OpSpec := { kinds := [1], write := !sxe
                        like_ := some (t.rank + 1, t.ext.take t.rank, if add then floats else [t.dtype]) }
  let p ← readOperand s c (taskOf s) q.cmd.desc 2 n psp
  need (fsKind q t) 0x04
  let sps := [{ kinds := [5] }, tsp, psp]
  let raw := [l, t, p]
  fsFinish s q n n sps raw (resolveAll s c raw) [c, fsTc q, c] (oa s && listClamps s c l t n)

/-- Judges FXE.TPWR (R192). -/
def prepTpwr (s : State) (q : QCmd) : Except Nat Prep := do
  need (fld q.cmd.w4 10 2 != 3) 0x03
  need (q.cmd.loopIx == 0) 0x05
  let lo : Int := (fld q.cmd.w4 0 5 * 2 ^ 22 : Nat)
  let n := fld q.cmd.w4 5 5
  let hi : Int := lo + (n * 2 ^ 22 : Nat) - 1
  need (n == 0 || inTarn s q.core (taskOf s) lo hi) 0x0D
  pure { run := { q := q
                  claims := if n = 0 then [] else
                    [{ space := q.core, lo := lo, hi := hi, write := true }] } }

/-! ## Cutting an iteration into transfers (R197) -/

/-- A run: source byte (none for zeros), destination byte, its length in units, and the list entry it belongs to. -/
structure Piece where
  src : Option Nat
  dst : Nat
  n : Nat
  entry : Nat := 0

/-- Merges consecutive runs that abut in both (R197), within one list entry (R206); us and ud are the bytes of a unit at source
and destination. -/
def mergePieces (us ud : Nat) (l : List Piece) : List Piece :=
  (l.foldl (fun (acc : List Piece) p => match acc with
    | q :: r =>
      let joins := q.entry == p.entry && decide (q.dst + ud * q.n = p.dst) && match q.src, p.src with
        | some a, some b => decide (a + us * q.n = b)
        | none, none => true
        | _, _ => false
      if joins then { q with n := q.n + p.n } :: r else p :: q :: r
    | [] => [p]) []).reverse

/-- Cuts runs into pieces of at most 64 KiB. -/
def cutPieces (us ud : Nat) (l : List Piece) : List Piece :=
  let m := 65536 / max us ud
  l.flatMap fun p => (List.range ((p.n + m - 1) / m)).map fun i =>
    { src := p.src.map fun a => a + us * m * i, dst := p.dst + ud * m * i, n := min m (p.n - m * i) }

/-- Place of a byte of an operand: in Tarn of core tc, in Mere, or at the endpoint. -/
def locOf (q : QCmd) (tc : Nat) (d : Desc) (a : Nat) : Loc :=
  if tc = 99 then .part (fsEp q) a else if d.kind = 2 then .mere a else .tarn tc a

/-- Runs of a copy at iteration it, with the destination moved by `slot` bytes. -/
def copyPieces (a b : Desc) (n : Nest) (it slot : Nat) : List Piece :=
  let len := rowBytes a.dtype (a.e 0)
  (rowCoords a).map fun c => { src := some (rowAddr a n it 0 c.1 c.2.1 c.2.2), dst := rowAddr b n it 1 c.1 c.2.1 c.2.2 + slot, n := len }

/-- Bytes from a target's base to a block; none for a foreign block (R86, R100, R107). -/
def blockOffset (t : Desc) (b : List Nat) : Option Int :=
  let l := (List.range t.rank).map fun d => ((b.getD d 0 * t.ext.getD d 0 : Nat) : Int) - if t.piece then (t.origin.getD d 0 : Int) else 0
  if t.piece && ((List.range t.rank).any fun d => decide (l.getD d 0 < 0) || decide ((t.pext.getD d 0 : Int) ≤ l.getD d 0)) then none
  else some ((rowBytes t.dtype (l.getD 0 0).toNat : Int) + (List.range (t.rank - 1)).foldl (fun a k =>
    a + l.getD (k + 1) 0 * t.strideOf (k + 1)) 0)

/-- Runs of entry i: pairs of the target's and the paired operand's places, with the units' sizes. -/
def entryPieces (gather : Bool) (t p : Desc) (n : Nest) (it i : Nat) (b : List Nat) (units : Nat) : List Piece :=
  let tb := t.base + n.offset it 1 * (unitBytes t.kind : Int)
  let pb := p.base + n.offset it 2 * (unitBytes p.kind : Int) + (i : Int) * p.strideOf t.rank
  let off := blockOffset t b
  (List.range (t.e 1 * t.e 2)).filterMap fun r =>
    let c1 := r % t.e 1
    let c2 := r / t.e 1
    let row : Int := (c1 : Int) * t.strideOf 1 + (c2 : Int) * t.strideOf 2
    let pa := (pb + (c1 : Int) * (if t.rank = 1 then 0 else p.strideOf 1) + (c2 : Int) * (if t.rank ≤ 2 then 0 else p.strideOf 2)).toNat
    match off with
    | some o =>
      let ta := (tb + o + row).toNat
      some (if gather then { src := some ta, dst := pa, n := units, entry := i } else { src := some pa, dst := ta, n := units, entry := i })
    | none => if gather then some { src := none, dst := pa, n := units, entry := i } else none

/-- Runs of a list command at iteration it, and the entries clamped and foreign. -/
def listPieces (s : State) (gather : Bool) (c : Nat) (l t p : Desc) (n : Nest) (it units : Nat) : List Piece × Nat × Nat :=
  (List.range l.count).foldl (fun (a : List Piece × Nat × Nat) i =>
    let b := entryBlock s c l t n it i
    let foreign := (blockOffset t b.1).isNone
    (a.1 ++ entryPieces gather t p n it i b.1 units, a.2.1 + (if b.2 then 1 else 0), a.2.2 + if foreign then 1 else 0)) ([], 0, 0)

/-- Bytes of a unit of source and destination of a scatter-add, else 1. -/
def addBytes (dt : Nat) : Nat := if dt = 8 ∨ dt = 9 then 4 else 2

/-- Transfers of iteration it of a run, with the entries clamped and foreign. -/
def xfersOf (s : State) (r : Run) (it : Nat) : List Xfer × Nat × Nat :=
  let q := r.q
  let c := q.core
  let d := fun j => r.desc.getD j {}
  let op := q.cmd.opcode
  let fxe := q.cmd.unit == 7
  let mk := fun (sd dd : Desc) (stc dtc us ud sdt ddt : Nat) (l : List Piece) =>
    (cutPieces us ud (mergePieces us ud l)).map fun p =>
      ({ src := match p.src with
           | some a => locOf q stc sd a
           | none => .zeros
         dst := locOf q dtc dd p.dst, len := p.n * us, seq := q.seq, it := it, addSrc := sdt, addDst := ddt } : Xfer)
  if r.empty ∨ op = 0 then ([], 0, 0)
  else if fxe ∧ (op = 0x10 ∨ op = 0x20) then
    let slot := if op = 0x20 then it % 8 * streamSlot q * 64 else 0
    (mk (d 0) (d 1) (fsTc q) c 1 1 0 0 (copyPieces (d 0) (d 1) r.nest it slot), 0, 0)
  else if fxe ∧ op = 0x30 then
    let l := listPieces s true c (d 0) (d 1) (d 2) r.nest it (rowBytes (d 1).dtype ((d 1).e 0))
    (mk (d 1) (d 2) (fsTc q) c 1 1 0 0 l.1, l.2)
  else if !fxe ∧ op = 0x10 then (mk (d 0) (d 1) c (fsTc q) 1 1 0 0 (copyPieces (d 0) (d 1) r.nest it 0), 0, 0)
  else if !fxe ∧ op = 0x20 then
    let l := listPieces s false c (d 0) (d 1) (d 2) r.nest it (rowBytes (d 1).dtype ((d 1).e 0))
    (mk (d 2) (d 1) c (fsTc q) 1 1 0 0 l.1, l.2)
  else if !fxe ∧ op = 0x30 then
    let l := listPieces s false c (d 0) (d 1) (d 2) r.nest it ((d 1).e 0)
    (mk (d 2) (d 1) c (fsTc q) (addBytes (d 2).dtype) (addBytes (d 1).dtype) ((d 2).dtype + 1) ((d 1).dtype + 1) l.1, l.2)
  else ([], 0, 0)

/-- A transfer of no byte to the destination's base, which carries the flag add of an iteration that moves nothing last (R205, log
entry 76). -/
def bareRsen (r : Run) (it : Nat) : Xfer :=
  { src := .zeros, dst := locOf r.q (fsTc r.q) (r.desc.getD 1 {}) (r.desc.getD 1 {}).base.toNat, len := 0, seq := r.q.seq, it := it
    rsen := true }

/-- The last transfer of an iteration at which the remote flag is due carries the flag add (R205, R330). -/
def markRsen (r : Run) (it : Nat) (l : List Xfer) : List Xfer :=
  if r.q.cmd.unit = 8 ∧ sxeRsen r.q ∧ (r.nest.setsAt it ∨ (r.nest.setLv = 0 ∧ it + 1 = r.total)) then
    if l.isEmpty then [bareRsen r it] else updAt (fun x => { x with rsen := true }) (l.length - 1) l
  else l

/-- A command of no iteration still owes its remote flag add, once, at level 0 (R61, R205). -/
def owesRsen (r : Run) : Bool := r.q.cmd.unit == 8 && sxeRsen r.q && r.total == 0 && r.nest.setLv == 0

/-! ## Running -/

/-- Engine number and unit code. -/
def engNo (e : Engine) : Nat := match e with
  | .fxe => 0
  | .sxe => 1
def engUnit (e : Nat) : Nat := 7 + e

/-- Iterations whose transfers have all landed complete, in order; an FXE.STREAM does not complete with its last tile. -/
def settleIters (c e seq : Nat) : Nat → State → State
  | 0, s => s
  | fuel + 1, s =>
    let k := unitKey c (engUnit e)
    match runOf s k seq with
    | none => s
    | some r =>
      let left := (r.todo.any fun x => x.it == r.it) || ((outstOf s c e).any fun x => x.seq == seq && x.it == r.it)
      if r.total = 0 then (if left || r.ended || s.ssq.aborting then s else complete k seq s)
      else if decide (r.aux ≤ r.it) || left || r.ended || s.ssq.aborting then s
      else if r.q.cmd.unit == 7 && r.q.cmd.opcode == 0x20 && decide (r.it + 1 = r.total) then
        let s := if r.nest.setsAt r.it then doSet k r.q s else s
        updRun k seq (fun r => { r with it := r.it + 1 }) s
      else settleIters c e seq fuel (endIter k seq s)

/-- The run is an FXE.STREAM that runs. -/
def isStream (r : Run) : Bool := r.q.cmd.unit == 7 && r.q.cmd.opcode == 0x20 && r.skipped == 0 && !r.ended

/-- A release is needed for the next tile of a stream, and none is there (R207). -/
def releaseDue (s : State) (r : Run) : Bool :=
  isStream r && decide (8 ≤ r.aux) && decide (r.aux < r.total) && flag s r.q.core (streamFlag r.q) == 0

/-- The next iteration of a run may be cut into transfers (R63, R128's rule for waits, R207). -/
def mayOpen (s : State) (r : Run) : Bool :=
  r.skipped == 0 && !r.ended && r.todo.isEmpty && decide (r.aux < r.total) && metThrough s r r.aux && !(releaseDue s r)

/-- Cuts the next iteration of a run into its transfers. -/
def openIter (c e : Nat) (r : Run) (s : State) : State :=
  let k := unitKey c (engUnit e)
  let s := if r.q.cmd.unit == 7 && r.q.cmd.opcode == 0x20 && decide (8 ≤ r.aux) then
      setFlag c (streamFlag r.q) (flag s c (streamFlag r.q) - 1) s
    else s
  let s := takeMet k r r.aux s
  let x := xfersOf s r r.aux
  let s := bump (coreReg c 0xA090) x.2.1 (bump (coreReg c 0xA094) x.2.2 s)
  settleIters c e r.q.seq (r.total + 1)
    (updRun k r.q.seq (fun r => { r with aux := r.aux + 1, todo := markRsen r r.aux x.1 }) s)

/-- Releases that a stream at its end has still to consume (R208). -/
def releasesLeft (r : Run) : Nat := r.total + min 8 r.total - r.aux

/-- A stream whose tiles have all landed consumes the releases it has not yet consumed, then retires (R208). -/
def drainStream (c : Nat) (r : Run) (s : State) : State :=
  let k := unitKey c 7
  let due := releasesLeft r
  let n := min due (flag s c (streamFlag r.q))
  let s := setFlag c (streamFlag r.q) (flag s c (streamFlag r.q) - n) s
  let s := updRun k r.q.seq (fun r => { r with aux := r.aux + n }) s
  if n = due then complete k r.q.seq s else s

/-- The stream is at its end: every tile has landed and been set (R208). -/
def streamEnd (r : Run) : Bool := isStream r && decide (r.it = r.total) && r.total != 0

/-- A stream waits on a release: its next tile could be fetched but for that, or all its tiles have landed; a skipped stream waits
for the same releases (R207, R208, R212). -/
def waitsRelease (s : State) (r : Run) : Bool :=
  (r.todo.isEmpty && metThrough s r r.aux && releaseDue s r) ||
  (streamEnd r && decide (0 < releasesLeft r) && flag s r.q.core (streamFlag r.q) == 0) ||
  (r.q.cmd.unit == 7 && r.q.cmd.opcode == 0x20 && r.skipped != 0 && !r.ended && flag s r.q.core (streamFlag r.q) == 0 &&
    (if r.it = r.total then decide (0 < releasesLeft r) else decide (8 ≤ r.it) && iterReady s r))

/-- Channels taken on an engine; the lowest that is free. -/
def freeChan (s : State) (k : Nat) : Option Nat :=
  (List.range 8).find? fun c => !((unitOf s k).running.any fun r => r.chan == c)

/-- The engine has finished the command before its head: it has started, and a channel is free (R196). -/
def chanFree (k : Nat) (s : State) : Bool := ((unitOf s k).running.all fun r => r.skipped == 0) && (freeChan s k).isSome

/-- Starts a judged command on the lowest free channel. One of no iteration that owes a remote flag add completes with that. -/
def startChan (k : Nat) (q : QCmd) (p : Prep) (s : State) : State :=
  match freeChan s k with
  | none => s
  | some ch =>
    let r := { p.run with chan := ch }
    if owesRsen r then
      let s' := tryStart k q r p.cost s
      if started s' k q.seq then updRun k q.seq (fun r => { r with todo := [bareRsen r 0] }) s' else s'
    else startPrep k q { p with run := r } s

/-- What an engine event does: it starts the head if it may, else goes on with the first running command of the opcode that
can: cuts its next iteration, or drains its releases. -/
def engineEvent (c e op : Nat) (prep : State → QCmd → Except Nat Prep) (s : State) : State :=
  let k := unitKey c (engUnit e)
  if !(engines s) || s.ssq.aborting then s
  else
    let s' := match headIs s k op with
      | none => s
      | some q =>
        if !(chanFree k s) then s
        else match prep s q with
          | .error _ => s
          | .ok p => startChan k q p s
    match firstRun s' k fun r => r.q.cmd.opcode == op && mayOpen s' r with
    | some r => openIter c e r s'
    | none => match firstRun s' k fun r => streamEnd r && !(waitsRelease s' r) with
      | some r => if op = 0x20 ∧ e = 0 then drainStream c r s' else s'
      | none => s'

/-- FXE.TPWR: records its range, then asks each segment for its state (R192, R193). -/
def fxeTpwr (c : Nat) (s : State) : State :=
  let k := unitKey c 7
  if !(engines s) || s.ssq.aborting then s
  else match headIs s k 0x40 with
  | none => s
  | some q =>
    if !(chanFree k s) then s
    else match prepTpwr s q with
      | .error _ => s
      | .ok p =>
        let s' := startChan k q p s
        if !(started s' k q.seq) then s'
        else
          let t := fld q.cmd.w4 10 2
          settleTpwr c ((tpwrSegs q).foldl (fun s g =>
            if (segOf s c g).st = t then s else setSeg c g { segOf s c g with target := some t } s) s')

/-! ## Issue and landing -/

/-- Two places meet within the given lengths. -/
def Loc.meets (a : Loc) (n : Nat) (b : Loc) (m : Nat) : Bool :=
  match a, b with
  | .tarn c x, .tarn d y => c == d && decide (x < y + m) && decide (y < x + n)
  | .mere x, .mere y => decide (x < y + m) && decide (y < x + n)
  | .part e x, .part f y => e == f && decide (x < y + m) && decide (y < x + n)
  | _, _ => false

/-- Bytes that a transfer writes. -/
def Xfer.outLen (x : Xfer) : Nat := if x.addDst = 0 then x.len else x.len / addBytes (x.addSrc - 1) * addBytes (x.addDst - 1)

/-- A transfer of a scatter waits for the write to its block before it (R104); so does one of a scatter-add in reproducible
mode (R105). -/
def mustWait (s : State) (c e : Nat) (r : Run) (x : Xfer) : Bool :=
  (r.q.cmd.unit == 8 && (r.q.cmd.opcode == 0x20 || (r.q.cmd.opcode == 0x30 && repro s))) &&
  (outstOf s c e).any fun y => y.seq == x.seq && x.dst.meets x.outLen y.dst y.outLen

/-- The bytes at a place. -/
def locRead (s : State) (l : Loc) (n : Nat) : List Byte :=
  match l with
  | .tarn c a => tarnRead s c a n
  | .mere a => mereRead s a n
  | _ => List.replicate n 0

/-- An element of a scatter-add as it crosses the fabric: I32 for an I32 target, else FP32, converted as R268 reads it (log
entry 10). -/
def addWire (sdt ddt code : Nat) : Nat :=
  if ddt = 9 then (if sdt = 9 then code else ux 32 (f2i 32 (toF32 (elemVal sdt code 127))))
  else (if sdt = 9 then i2f (sx 32 code) else toF32 (elemVal sdt code 127)).toNat

/-- The source bytes of a scatter-add as they cross the fabric. -/
def wireBytes (x : Xfer) (l : List Byte) : List Byte :=
  if x.addDst = 0 then l
  else
    let us := addBytes (x.addSrc - 1)
    (List.range (l.length / us)).flatMap fun i => leBytes 4 (addWire (x.addSrc - 1) (x.addDst - 1) (leAt l (us * i) us))

/-- A transfer has one end on another part. -/
def Xfer.remote (x : Xfer) : Bool := match x.src, x.dst with
  | .part _ _, _ => true
  | _, .part _ _ => true
  | _, _ => false

/-- Microseconds after which a transfer fails, as ticks (R331). -/
def xferTicks (s : State) : Nat := 1000 * max 1 (fld (cfg s 0x400010) 0 20)

/-- The next transfer tag that no transfer bears and that no transfer failed under within twice the timeout (R331). -/
def pickTag (s : State) : Nat :=
  ((findFrom (fun t =>
      !(s.outst.any fun (_, l) => l.any fun x => x.remote && x.tag == t % 65536)
        && !(s.failedTags.any fun (g, at_) => g == t % 65536 && decide (s.now < at_ + 2 * xferTicks s)))
    s.nextTag 65536).getD s.nextTag) % 65536

/-- Packets of a transfer to another part: a READ, or WRITE or ADD packets cut at every 4 KiB boundary of the destination, and
where 4 bytes of data stand for a 2-byte element at every 2 KiB, so that none carries more than 4,096 bytes,
with the flag add on the last (R325, R330). -/
def packetsOf (s : State) (c : Nat) (r : Run) (x : Xfer) : List Packet :=
  let base : Packet := { src := selfEp s c, task := taskOf s, tag := x.tag, cmdid := x.seq % 65536 }
  match x.src, x.dst with
  | .part ep a, _ => [{ base with dest := ep, op := 2, addr := a, len := x.len, lastx := true }]
  | _, .part ep a =>
    let n := if x.addDst = 0 then x.len else x.len / addBytes (x.addSrc - 1)
    let us := if x.addDst = 0 then 1 else 4
    let ud := if x.addDst = 0 then 1 else addBytes (x.addDst - 1)
    let data := wireBytes x (locRead s x.src x.len)
    let last := a + ud * n
    -- bytes of the destination that one packet's data reach
    let cut := 4096 * ud / us
    let lows := a :: ((List.range ((last + cut - 1) / cut - a / cut)).map fun i => (a / cut + 1 + i) * cut).filter fun b => decide (b < last)
    lows.map fun lo =>
      let hi := min last ((lo / cut + 1) * cut)
      let cnt := (hi - lo) / ud
      let fin := decide (hi = last)
      { base with
        dest := ep, op := if x.addDst = 0 then 1 else 3, cls := if x.addDst = 0 then 0 else 3, addr := lo, len := cnt * us,
        atype := x.addDst - 1, lastx := fin, rsen := x.rsen && fin,
        rfcore := if x.rsen && fin then fld r.q.cmd.w4 7 4 else 0, rflag := if x.rsen && fin then fld r.q.cmd.w4 11 12 else 0,
        rcnt := if x.rsen && fin then fld r.q.cmd.w6 0 16 else 0, data := slice ((lo - a) / ud * us) (cnt * us) data }
  | _, _ => []

/-- The next transfer of a run may be issued (R104, R105, R339). -/
def mayIssue (s : State) (c e : Nat) (r : Run) : Bool :=
  r.skipped == 0 && match r.todo with
    | [] => false
    | x :: _ => !(mustWait s c e r x || (x.remote && fabHeld s))

/-- The running command whose turn it is: of those that can issue, the next after the last that did, in the order in which they
started (R198). -/
def turnRun (s : State) (c e : Nat) : Option Run :=
  let l := (unitOf s (unitKey c (engUnit e))).running.filter (mayIssue s c e)
  let t := sget (fun _ => 0) (c * 2 + e) s.turns
  match l.find? fun r => decide (t ≤ r.q.seq) with
  | some r => some r
  | none => l.head?

/-- Where an end of a transfer on this part joins the mesh. -/
def Loc.end_ (l : Loc) : Option MeshEnd :=
  match l with
  | .tarn c _ => some (coreEnd c)
  | .mere a => some (stackEnd (stackNo a))
  | _ => none

/-- Packets of a transfer within the part as it is issued: the request for a read in virtual channel 0, or the data of a write
(R278, R282). -/
def meshIssue (c : Nat) (x : Xfer) (s : State) : State :=
  match x.src.end_, x.dst.end_ with
  | some a, some b =>
    if a = coreEnd c then (if b = coreEnd c then s else meshSend a b (flitsOf x.len) s) else meshSend (coreEnd c) a 1 s
  | _, _ => s

/-- Packets of a transfer within the part as it lands: the data of a read, or the acknowledgement of a write, in virtual channel 1. -/
def meshLand (c : Nat) (x : Xfer) (s : State) : State :=
  match x.src.end_, x.dst.end_ with
  | some a, some b =>
    if a = coreEnd c then (if b = coreEnd c then s else meshSend b a 1 s) else meshSend a (coreEnd c) (flitsOf x.len) s
  | _, _ => s

/-- TRANSFER_ISSUE: the next transfer of the command on channel ch, when it is its turn (R197, R198, R331, R339). -/
def transferIssue (c e ch : Nat) (s : State) : State :=
  let k := unitKey c (engUnit e)
  if !(engines s) || s.ssq.aborting || decide (512 ≤ (outstOf s c e).length) then s
  else match turnRun s c e with
  | none => s
  | some r => match r.todo with
    | [] => s
    | x :: rest =>
      if r.chan ≠ ch then s
      else
        let s := { s with turns := sset (fun _ => 0) (c * 2 + e) (r.q.seq + 1) s.turns }
        let s := updRun k r.q.seq (fun r => { r with todo := rest }) s
        let x := if x.remote then { x with tag := pickTag s, sent := s.now } else x
        let s := if x.remote then
            { s with nextTag := (x.tag + 1) % 65536, transit := s.transit ++ (packetsOf s c r x).map fun p => (12, p) }
          else s
        let s := match e, x.dst with
          | 0, .tarn d a => owcAdd d a x.len true s
          | _, _ => s
        meshIssue c x (setOutst c e (outstOf s c e ++ [x]) s)

/-- Counts, tokens of completion and the end of iterations for a transfer that has landed, been acknowledged or failed
(R199, R200, R212). -/
def xferDone (c e : Nat) (x : Xfer) (fails conseq : Bool) (s : State) : State :=
  let k := unitKey c (engUnit e)
  let s := setOutst c e ((outstOf s c e).erase x) s
  let s := match e, x.dst with
    | 0, .tarn d a => owcAdd d a x.len false s
    | _, _ => s
  let base := if e = 0 then 0xC024 else 0xC044
  let s := bump (coreReg c (base + 4)) (ceilDiv x.len 256) (bump (coreReg c base) 1 s)
  let s := if fails then
      let tag := ((runOf s k x.seq).map fun r => r.q.tag).getD 0
      raisePend { source := srcOf 0 c (engUnit e), cause := 0x15, detail := tag, conseq := conseq }
        (bump (coreReg c (if e = 0 then 0xC030 else 0xC04C)) 1 (updRun k x.seq (fun r => { r with fails := r.fails + 1 }) s))
    else s
  settleIters c e x.seq (((runOf s k x.seq).map fun r => r.total).getD 0 + 1) s

/-- One element added at its storage (R105, R268). -/
def storageAdd (sdt ddt old new : Nat) : Nat :=
  if ddt = 9 then
    let v := if sdt = 9 then sx 32 new else f2i 32 (toF32 (elemVal sdt new 127))
    ux 32 (max (-2 ^ 31) (min (2 ^ 31 - 1) (sx 32 old + v)))
  else
    let v := if sdt = 9 then f32 (i2f (sx 32 new)) else elemVal sdt new 127
    let r := (fFP32.conv false (vadd (elemVal ddt old 127) v)).1
    (convTo ddt false (f32 (Word.ofNat r))).1

/-- The bytes that a scatter-add leaves. -/
def addInto (sdt ddt : Nat) (old new : List Byte) : List Byte :=
  let us := addBytes sdt
  let ud := addBytes ddt
  (List.range (new.length / us)).flatMap fun i => leBytes ud (storageAdd sdt ddt (leAt old (ud * i) ud) (leAt new (us * i) us))

/-- Access units that a write of n bytes at a Mere address reads to merge or to add (R88, R105): those it covers in part, or all
of them for an add. -/
def mergeUnits (add : Bool) (a n : Nat) : List Nat :=
  (unitsOf a n).filter fun u => add || decide (u * 256 < a) || decide (a + n < u * 256 + 256)

/-- A transfer within the part lands: what it reads, where it writes, and what fails (R88, R190, R194, R200, R226). -/
def landLocal (c e : Nat) (x : Xfer) (ecc : EccMap) (s : State) : State :=
  let s := match x.src with
    | .mere a => noteUnits ecc (unitsOf a x.len) (wakeUnits (unitsOf a x.len) s)
    | _ => s
  let srcBad := match x.src with
    | .mere a => anyUe ecc (unitsOf a x.len)
    | _ => false
  let dropSrc := match x.src with
    | .tarn d a => d != c && !(inTarn s d (taskOf s) a ((a + x.len : Nat) - 1))
    | _ => false
  let data0 := locRead s x.src x.len
  let data := match x.src with
    | .mere a => if srcBad then maskUe ecc (unitsOf a x.len) a data0 (List.replicate x.len 0) else data0
    | _ => if dropSrc then List.replicate x.len 0 else data0
  let s := match x.src with
    | .tarn d _ => if dropSrc then windowDrop d s else s
    | _ => s
  match x.dst with
  | .tarn d a =>
    if d != c && !(inTarn s d (taskOf s) a ((a + x.outLen : Nat) - 1)) then xferDone c e x true false (windowDrop d s)
    else
      let out := if x.addDst = 0 then data else addInto (x.addSrc - 1) (x.addDst - 1) (tarnRead s d a x.outLen) data
      xferDone c e x (srcBad || dropSrc) false (tarnWrite d a out s)
  | .mere a =>
    let us := mergeUnits (x.addDst != 0) a x.outLen
    let s := noteUnits ecc us (wakeUnits (unitsOf a x.outLen) s)
    let s := bump (coreReg c 0xA098) (partialUnits a x.outLen) s
    let old := mereRead s a x.outLen
    let out := if x.addDst = 0 then data else addInto (x.addSrc - 1) (x.addDst - 1) old data
    -- a merge or add that meets an uncorrectable unit is not made: that unit stays as stored (R226)
    let s := mereWrite a (maskUe ecc us a out old) s
    xferDone c e x (srcBad || dropSrc || anyUe ecc us) false s
  | _ => s

/-- Tarn ranges that a landing touches: core, address and length. -/
def landEnds (x : Xfer) : List (Nat × Nat × Nat) :=
  let f := fun l n => match l with
    | Loc.tarn d a => [(d, a, n)]
    | _ => []
  f x.src x.len ++ f x.dst x.outLen

/-- The segments that a landing touches are on. -/
def endsOn (s : State) (x : Xfer) : Bool := (landEnds x).all fun p => segsOn s p.1 p.2.1 p.2.2

/-- An earlier outstanding write of the engine reaches the same bytes of a core's Tarn, or the same access units of Mere: the data of
both take one path in one virtual channel, and so in the order sent (R222, R278; log entry 85). -/
def pathHolds (s : State) (c e n : Nat) (x : Xfer) : Bool :=
  e == 1 && x.addDst == 0 && ((outstOf s c e).take n).any fun y => y.addDst == 0 && match x.dst, y.dst with
    | .tarn _ _, .tarn _ _ => x.dst.meets x.outLen y.dst y.outLen
    | .mere a, .mere b => (unitsOf a x.outLen).any fun u => (unitsOf b y.outLen).contains u
    | _, _ => false

/-- TRANSFER_LAND: outstanding transfer number n of an engine lands or is acknowledged on this part, with what the code of the
access units it reads from Mere found; one that reaches a segment that is not on waits and wakes it (R193, R194). Under an abort a
landed transfer may let its command end (R201). -/
def transferLand (c e n : Nat) (ecc : EccMap) (s : State) : State :=
  if !(engines s) then s
  else match (outstOf s c e)[n]? with
  | none => s
  | some x =>
    if x.remote || pathHolds s c e n x then s
    else if endsOn s x then landLocal c e x ecc (meshLand c x s)
    else (landEnds x).foldl (fun s p => reachSegs p.1 p.2.1 p.2.2 s) s

/-! ## Commands -/

def fxeNop (c : Nat) (s : State) : State := engineEvent c 0 0 prepNop s
def fxeFetch (c : Nat) (s : State) : State := engineEvent c 0 0x10 (prepCopy false false) s
def fxeStream (c : Nat) (s : State) : State := engineEvent c 0 0x20 (prepCopy false true) s
def fxeGather (c : Nat) (s : State) : State := engineEvent c 0 0x30 (prepList false false) s
def sxeNop (c : Nat) (s : State) : State := engineEvent c 1 0 prepNop s
def sxeStore (c : Nat) (s : State) : State := engineEvent c 1 0x10 (prepCopy true false) s
def sxeScatter (c : Nat) (s : State) : State := engineEvent c 1 0x20 (prepList true false) s
def sxeScadd (c : Nat) (s : State) : State := engineEvent c 1 0x30 (prepList true true) s

def execTransferIssue (c : CoreId) (e : Engine) (ch : Fin 8) (s : State) : Host.Outcome State Fault Refusal :=
  .next (transferIssue c.val (engNo e) ch.val s)
def execTransferLand (c : CoreId) (e : Engine) (n : Nat) (ecc : EccMap) (s : State) : Host.Outcome State Fault Refusal :=
  .next (transferLand c.val (engNo e) n ecc s)

end Sys2Proof.Machine
end

