-- ==== Sys2Proof/Machine/Ring.lean ====
section
/-! DEFINITION. The Oxbow ring engine (ch. 11): shards and their check, revolutions, the snake into the die, missing and
corrupt shards, fills, and the model table. -/

namespace Sys2Proof.Machine

/-! ## Tables -/

abbrev rOreRing : Nat := 0x402004
abbrev rOreRevno : Nat := 0x402008
abbrev rInjected : Nat := 0x402010
abbrev rReceived : Nat := 0x402014
abbrev rForwarded : Nat := 0x402018
abbrev rReturned : Nat := 0x40201C
abbrev rTiles : Nat := 0x402020
abbrev rTagFail : Nat := 0x402024
abbrev rResend : Nat := 0x402028
abbrev rSpringFetch : Nat := 0x40202C
abbrev rOreTimeout : Nat := 0x402030
abbrev rStale : Nat := 0x402034
abbrev rFillCtl : Nat := 0x402040
abbrev rFillRefuse : Nat := 0x402044

/-- Unit key of the ORE. -/
abbrev oreKey : Nat := 203

/-- The ring registers name a ring (R346). -/
def ringNamed (s : State) : Bool :=
  let b := fld (cfg s rOreRing) 20 3
  decide (1 ≤ b) && decide (b ≤ 5) && decide (1 ≤ fld (cfg s rOreRing) 0 10)

/-- Members N, own position p, lanes B; with no ring, the sole member of one without lanes (ch. 13). -/
def ringN (s : State) : Nat := if ringNamed s then fld (cfg s rOreRing) 0 10 + 1 else 1
def ringP (s : State) : Nat := if ringNamed s then fld (cfg s rOreRing) 10 10 else 0
def ringB (s : State) : Nat := if ringNamed s then fld (cfg s rOreRing) 20 3 else 0

/-- Word w of model entry m. -/
def modelReg (m w : Nat) : Nat := 0x402100 + 0x20 * m + 4 * w
def modelWord (s : State) (m w : Nat) : Word := cfg s (modelReg m w)
def mShards (s : State) (m : Nat) : Nat := fld (modelWord s m 2) 0 24
def mWave (s : State) (m : Nat) : Nat := fld (modelWord s m 3) 0 5
def mMaxlen (s : State) (m : Nat) : Nat := 64 * fld (modelWord s m 3) 5 12
def mOwner (s : State) (m : Nat) : Nat := fld (modelWord s m 3) 17 6
def mActive (s : State) (m : Nat) : Bool := bitOf (modelWord s m 3) 30

/-- A model entry is usable (R353). -/
def usable (s : State) (m : Nat) : Bool :=
  bitOf (modelWord s m 3) 31 && ringNamed s && decide (1 ≤ mWave s m) && decide (mWave s m + 2 ≤ 4 * ringB s)
    && decide (mShards s m ≠ 0) && decide (mShards s m % mWave s m = 0) && decide (mMaxlen s m ≠ 0)

/-- Mere address of shard k of the slice image (R352). -/
def sliceAt (s : State) (m k : Nat) : Nat :=
  (modelWord s m 4).toNat / 256 * 256 + fld (modelWord s m 5) 0 10 * 2 ^ 32 + k * fld (modelWord s m 5) 10 16 * 256

/-- Lane b is valid, and its ports (R347). -/
def laneWord (s : State) (b : Nat) : Word := cfg s (0x402080 + 4 * b)
def laneValid (s : State) (b : Nat) : Bool := decide (b < ringB s) && bitOf (laneWord s b) 31
def laneIn (s : State) (b : Nat) : Nat := fld (laneWord s b) 0 4
def laneOut (s : State) (b : Nat) : Nat := fld (laneWord s b) 4 4

/-- The lane whose IN or OUT port a port is. -/
def laneOfIn (s : State) (p : Nat) : Option Nat := (List.range 5).find? fun b => laneValid s b && laneIn s b == p
def laneOfOut (s : State) (p : Nat) : Option Nat := (List.range 5).find? fun b => laneValid s b && laneOut s b == p

/-- A port carries packets (R320). -/
def portUp (s : State) (p : Nat) : Bool := (port s p).state == 3

/-- State of a lane, and its change. -/
def lane (s : State) (b : Nat) : LaneSt := s.ore.lanes.getD b {}
def setLane (b : Nat) (f : LaneSt → LaneSt) (s : State) : State :=
  { s with ore := { s.ore with lanes := updAt f b s.ore.lanes } }

/-! ## Shards (R350, R351) -/

def shModel (l : List Byte) : Nat := leAt l 0 4
def shKey (l : List Byte) : Nat := leAt l 4 4
def shSpring (l : List Byte) : Nat := leAt l 8 2
def shIndex (l : List Byte) : Nat := leAt l 10 2
def shRound (l : List Byte) : Nat := leAt l 12 3
def shKeep (l : List Byte) : Bool := (leAt l 15 1).testBit 0
def shLen (l : List Byte) : Nat := leAt l 16 4
def shOrigin (l : List Byte) : List Word := (List.range 4).map fun i => Word.ofNat (leAt l (32 + 4 * i) 4)
def shDest (l : List Byte) : Nat := leAt l 48 8

/-- No reserved bit of a header is set; DEST is laid out with KEEP = 1 only, and any value of it passes with KEEP = 0 (log entry
87). -/
def shReserved (l : List Byte) : Bool :=
  leAt l 15 1 / 2 == 0 && leAt l 56 8 == 0 &&
  (let d := shDest l
   if !(shKeep l) then true
   else if d.testBit 63 then d / 2 ^ 27 % 2 ^ 29 == 0 && d / 2 ^ 60 % 8 == 0
   else d / 2 ^ 42 == 0)

/-- Plaintext of a shard under the key in use, when its tag verifies. -/
def shOpen (s : State) (l : List Byte) : Option (List Byte) :=
  if l.length = 80 + shLen l ∧ s.ore.keyOk then gcmOpen s.ore.key (beNat (slice 20 12 l)) (l.take 64) (l.drop 64) else none

/-- The check of R351 but for the schedule. -/
def shGood (s : State) (l : List Byte) : Bool :=
  let m := s.ore.model
  (shOpen s l).isSome && shModel l == (modelWord s m 0).toNat && shKey l == (modelWord s m 1).toNat
    && decide (shLen l ≤ mMaxlen s m) && shLen l % 64 == 0 && shReserved l

/-- What the schedule expects: spring, round and index. -/
structure Due where
  spring : Nat
  round : Nat
  index : Nat
deriving DecidableEq, Repr

/-- The shard that is received as number j (R354), and whether it is the part's own returning. -/
def dueRecv (s : State) (j : Nat) : Due × Bool :=
  let n := ringN s
  let w := mWave s s.ore.model
  let k := j % (n * w) / w
  ({ spring := (ringP s + n + n - 1 - k) % n, round := j / (n * w), index := j % w }, k + 1 == n)

/-- The shard of tile t, which is that of send t (R353, R358). -/
def dueTile (s : State) (t : Nat) : Due :=
  let n := ringN s
  let w := mWave s s.ore.model
  let k := t % (n * w) / w
  { spring := (ringP s + n - k) % n, round := t / (n * w), index := t % w }

/-- Tiles of a revolution. -/
def tilesT (s : State) : Nat := ringN s * mShards s s.ore.model

/-- A shard of a revolution passes (R351). -/
def shDue (s : State) (l : List Byte) (d : Due) : Bool :=
  shGood s l && !(shKeep l) && shSpring l == d.spring && shRound l == d.round && shIndex l == d.index

/-- A shard of a fill passes: it has no place in a send order. -/
def shFill (s : State) (l : List Byte) : Bool :=
  shGood s l && decide (shSpring l < ringN s)
    && (shKeep l || (decide (shIndex l < mWave s s.ore.model)
        && decide (shRound l * mWave s s.ore.model + shIndex l < mShards s s.ore.model)))

/-! ## Ring packets (R325, R347, R348, R356, R357) -/

/-- Endpoint of the ORE at a ring position. -/
def memberOre (s : State) (pos : Nat) : Nat := fld (cfg s (0x403000 + 4 * pos)) 0 18 + 32 * 2 ^ 18

/-- Kinds of ring packet, as their STATUS tells them apart (log entry 86). -/
abbrev ringData : Nat := 0
abbrev ringGrant : Nat := 1
abbrev ringCredits : Nat := 2
abbrev ringAcked : Nat := 3
abbrev ringResend : Nat := 4

/-- A ring packet of this part's ORE. -/
def ringPacket (s : State) (dest kind revno n : Nat) : Packet :=
  { dest := dest, cls := 5, src := selfEp s 32, op := 7, lastx := true, tag := n % 65536, addr := revno, status := kind }

/-- A control packet goes back to the predecessor on lane b's IN port: a GRANT or CREDIT of n credits, an ACK or RESEND of sequence
number n. -/
def sendCtl (b kind revno n : Nat) (s : State) : State :=
  let k := ringPacket s (memberOre s ((ringP s + ringN s - 1) % ringN s)) kind revno n
  queueTx (laneIn s b) 10 (if kind = ringGrant ∨ kind = ringCredits then { k with tag := 0, rcnt := n } else k) s

/-- A shard goes to the successor on lane b's OUT port, in packets of at most 4,096 bytes. -/
def sendData (b revno q : Nat) (l : List Byte) (s : State) : State :=
  let n := max 1 (ceilDiv l.length 4096)
  let k := ringPacket s (memberOre s ((ringP s + 1) % ringN s)) ringData revno q
  (List.range n).foldl (fun s i =>
    let d := slice (4096 * i) (min 4096 (l.length - 4096 * i)) l
    queueTx (laneOut s b) 10 { k with lastx := i + 1 == n, len := d.length, data := d } s) s

/-- Bytes of a packet on a link: header and data padded to 16; a READ carries no data (R325). -/
def pktData (p : Packet) : Nat := if p.op = 2 then 0 else p.len
def pktSize (p : Packet) : Nat := 32 + ((pktData p) + 15) / 16 * 16

/-- High-water mark per channel in bytes (R317). -/
def hwm (s : State) (p : Nat) : Nat := 1024 * max 8 (min 32 (fld (cfg s (portReg p 0x10)) 0 6))

/-- A channel's occupancy changes, and with it whether it holds the peer off (R317). -/
def occupy (p v n : Nat) (up : Bool) (s : State) : State :=
  let t := port s p
  let o := t.rxOcc ++ List.replicate (11 - t.rxOcc.length) 0
  let x := if up then o.getD v 0 + n else o.getD v 0 - n
  let on := t.holding.testBit v
  let on' := if hwm s p ≤ x then true else if x < hwm s p - 8192 then false else on
  setPort p { t with rxOcc := o.set v x, holding := if on = on' then t.holding else t.holding ^^^ 2 ^ v } s

/-- Ring packets of one message, that have come in by a port, in order: up to the last of its packets. -/
def ringHeld (s : State) (p kind revno n : Nat) : List Packet :=
  let l := (s.transit.filter fun x => x.1 == p && x.2.op == 7 && x.2.status == kind && x.2.addr == revno && x.2.tag == n % 65536).map Prod.snd
  let a := l.takeWhile fun k => !k.lastx
  a ++ (l.drop a.length).take 1

/-- The message leaves the port's receive buffer (R317). -/
def takeRing (p kind revno n : Nat) (s : State) : State :=
  (ringHeld s p kind revno n).foldl (fun s k =>
    occupy p 10 (pktSize k) false { s with transit := dropFirst (fun x => x == (p, k)) s.transit }) s

/-! ## Credits and slots (R355–R357) -/

/-- The revolution number that ring packets bear. -/
def runRevno (s : State) : Option Nat :=
  if s.ore.filling then some 0xFFFFFFFF else if s.ore.rev && !s.ore.ended then some s.ore.revno else none

/-- A ring packet is dropped. -/
def stale (s : State) : State := bump rStale 1 s

/-- A slot has no further use. -/
def Slot.done (fill : Bool) (x : Slot) : Bool := x.verified && x.acked && (x.delivered || fill)

/-- The lane's wait for its next shard is paused while every slot is taken (R368). -/
def pauseWait (now : Nat) (before after : LaneSt) : LaneSt :=
  if before.slots.length < 8 ∧ 8 ≤ after.slots.length then { after with waited := after.waited + (now - after.since) }
  else if 8 ≤ before.slots.length ∧ after.slots.length < 8 then { after with since := now }
  else after

/-- Changes a lane's slots. -/
def setSlots (b : Nat) (f : List Slot → List Slot) (s : State) : State :=
  setLane b (fun l => pauseWait s.now l { l with slots := f l.slots }) s

/-- Frees the slots of a lane that are done with; each that the predecessor filled returns a CREDIT (R355). -/
def freeSlots (b : Nat) (s : State) : State :=
  let gone := (lane s b).slots.filter fun x => x.done s.ore.filling
  let s' := setSlots b (fun l => l.filter fun x => !(x.done s.ore.filling)) s
  (gone.filter fun x => !x.own).foldl (fun t _ => sendCtl b ringCredits ((runRevno s).getD 0) 1 t) s'

/-- Changes the slot that holds send j, on whatever lane, then frees what is done with. -/
def updSlot (j : Nat) (f : Slot → Slot) (s : State) : State :=
  (List.range s.ore.lanes.length).foldl (fun s b =>
    if (lane s b).slots.any fun x => x.js == j then
      freeSlots b (setSlots b (fun l => l.map fun x => if x.js = j then f x else x) s)
    else s) s

/-- The slot that holds send j. -/
def slotOf (s : State) (j : Nat) : Option Slot := (s.ore.lanes.flatMap fun l => l.slots).find? fun x => x.js == j

/-- Sequence number q of a lane has been taken. -/
def LaneSt.has (l : LaneSt) (q : Nat) : Bool := decide (q < l.recvSeq) || l.taken.contains q

/-- Takes sequence number q. -/
def LaneSt.take (l : LaneSt) (q : Nat) : LaneSt :=
  let t := if l.has q then l.taken else q :: l.taken
  let n := (List.range (t.length + 1)).foldl (fun n _ => if t.contains n then n + 1 else n) l.recvSeq
  { l with recvSeq := n, taken := t.filter fun x => decide (n ≤ x), resends := l.resends.filter fun r => r.1 != q
           asking := l.asking.filter fun x => x != q }

/-- The lane's next expected shard has come: its wait begins anew (R368). -/
def restartWait (now : Nat) (before after : LaneSt) : LaneSt :=
  if before.recvSeq = after.recvSeq then after else { after with since := now, waited := 0 }

/-- Lane b takes sequence number q. -/
def takeSeq (b q : Nat) (s : State) : State := setLane b (fun l => restartWait s.now l (l.take q)) s

/-! ## The revolution command (R361) -/

def revModel (q : QCmd) : Nat := fld q.cmd.w4 0 4
def revT (q : QCmd) : Nat := fld q.cmd.w4 4 12
def revR (q : QCmd) : Nat := fld q.cmd.w4 16 12

/-- Judges an ORE.NOP. -/
def prepOreNop (s : State) (q : QCmd) : Except Nat Prep := do
  need (!(oa s)) 0x0A
  prepNop s q

/-- Judges an ORE.REV. Its operands' addresses apply on every live core. -/
def prepRev (s : State) (q : QCmd) : Except Nat Prep := do
  need (!(oa s)) 0x0A
  need (q.cmd.loopIx == 0) 0x05
  let n : Nest := {}
  let sps : List OpSpec := [{ kinds := [1], write := true }, { kinds := [1], write := true }]
  let raw ← readOperands s q.core (taskOf s) q.cmd.desc n sps
  let w := raw.getD 0 {}
  let r := raw.getD 1 {}
  let m := revModel q
  need (w.dtype == 0 && w.rank == 2 && decide (mMaxlen s m ≤ w.e 0) && w.e 1 == 8
    && r.dtype == 0 && r.rank == 2 && r.e 0 == 64 && r.e 1 == 8
    && usable s m && mActive s m && mOwner s m == taskOf s) 0x04
  let ds := resolveAll s q.core raw
  let ps := sps.zip ds
  need ((liveCores s).all fun c => ps.zipIdx.all fun (p, j) => inWindow s (taskOf s) c n j p.1 p.2) 0x0D
  need (ps.zipIdx.all fun (p, j) => aliasOk n j p.2) 0x07
  let claims := nestClaims s q.core 0 2 ++ descClaims s q.core q.cmd.desc raw ++
    (liveCores s).flatMap fun c => ps.zipIdx.map fun (p, j) => claimOf q.core c n j p.1 p.2
  pure { run := { q := q, desc := ds, nest := n, total := 1, claims := claims }
         cost := ringB s, clamps := clampCount s q.core raw }

/-- The weight key that model m names: of the tenant of its owning task (R351, R463). -/
def weightKey (s : State) (m : Nat) : Option Nat :=
  match tenantOfTask s (mOwner s m) with
  | none => none
  | some t => (s.sec.wkeys.find? fun k => k.2.valid && k.2.id == modelWord s m 1 && k.2.tenant == t).map fun k => k.2.key

/-- The ORE is set up for a revolution or a fill of model m, under a revolution number; each lane's predecessor gets a
GRANT (R357). -/
def oreOpen (fill : Bool) (m revno : Nat) (s : State) : State :=
  let k := weightKey s m
  let b := ringB s
  let early := fun i => s.ore.early.find? fun e => e.1 == i && e.2.1 == revno
  let lanes := (List.range b).map fun i =>
    ({ granted := (early i).isSome, credits := ((early i).map fun e => e.2.2).getD 0, since := s.now } : LaneSt)
  let s := { s with ore := { rev := !fill, filling := fill, model := m, revno := revno, key := k.getD 0, keyOk := k.isSome,
                             lanes := lanes, early := [], tarnKept := s.ore.tarnKept } }
  (List.range b).foldl (fun s i => sendCtl i ringGrant revno 8 s) s

/-- A revolution begins: its number, and the number of the next (R357). -/
def beginRev (q : QCmd) (s : State) : State :=
  let r := (rd s rOreRevno).toNat
  oreOpen false (revModel q) r (wr rOreRevno (Word.ofNat ((r + 1) % 0xFFFFFFFF)) s)

/-- The running ORE.REV. -/
def revRun (s : State) : Option Run := firstRun s oreKey fun r => r.q.cmd.opcode == 0x10 && r.skipped == 0

/-- Tiles that core c has accepted. -/
def acceptedOf (s : State) (c : Nat) : Nat := sget (fun _ => 0) c s.ore.accepted

/-- The revolution's tokens return with its last send, or when it ends (R361). -/
def settleTokens (s : State) : State :=
  match revRun s with
  | none => s
  | some r =>
    if r.tokens ≠ 0 ∧ (s.ore.ended ∨ tilesT s ≤ s.ore.sends) then
      updRun oreKey r.q.seq (fun r => { r with tokens := 0 }) (returnTokens r.tokens s)
    else s

/-- The command retires once everything of R362 holds, or, after an end on this member, once every tile has its record
(R368). -/
def settleRev (s : State) : State :=
  let s := settleTokens s
  match revRun s with
  | none => s
  | some r =>
    let t := tilesT s
    let landed := (liveCores s).all fun c => decide (t ≤ acceptedOf s c)
    let sent := decide (mShards s s.ore.model ≤ s.ore.returned) && decide (t ≤ s.ore.sends)
      && s.ore.lanes.all fun l => l.slots.isEmpty
    if landed && (s.ore.ended || sent) then
      complete oreKey r.q.seq { s with ore := { s.ore with rev := false, lanes := [], accepted := [], snake := none } }
    else s

/-- The revolution ends on this member (R366, R368): nothing more is sent, delivered or forwarded. -/
def endRev (cause : Nat) (s : State) : State :=
  let s := raisePend { source := srcOf 4 2 0, cause := cause, conseq := cause == 0x1A }
    { s with ore := { s.ore with ended := true, snake := none, lanes := s.ore.lanes.map fun l => { l with slots := [] } } }
  settleRev (if cause = 0x1A then bump rOreTimeout 1 s else s)

/-- Under an abort the ORE stops, frees its slots and ends its command (R363). -/
def oreAbort (s : State) : State :=
  if s.ore.rev then
    { s with ore := { s.ore with rev := false, ended := false, lanes := [], snake := none, accepted := [], tiles := 0 } }
  else s

/-- ORE.REV: starts the command at the head (R361). While a fill runs it is late (R370). -/
def oreRev (s : State) : State :=
  if !(engines s) || s.ssq.aborting || s.ore.filling || s.ore.rev then s
  else match headIs s oreKey 0x10 with
  | none => s
  | some q =>
    if !(unitFree oreKey s) then s
    else match prepRev s q with
      | .error _ => s
      | .ok p =>
        let s' := startPrep oreKey q p s
        if started s' oreKey q.seq then beginRev q s' else s'

/-- ORE.NOP. -/
def oreNop (s : State) : State := unitEvent oreKey 0 (unitFree oreKey) prepOreNop nopBody s

/-! ## Sending (R353, R355) -/

/-- Sends a shard on lane b as sequence number q. -/
def sendShard (b q : Nat) (l : List Byte) (s : State) : State :=
  setLane b (fun x => { x with credits := x.credits - 1 })
    (sendData b ((runRevno s).getD 0) q l { s with ore := { s.ore with sends := s.ore.sends + 1 } })

/-- Lane b may take the next send, of `own` or of a forwarded shard: its turn, its GRANT and its credits (R355, R357). -/
def maySend (s : State) (b : Nat) (own : Bool) : Bool :=
  (runRevno s).isSome && decide (b < s.ore.lanes.length) && s.ore.sends % s.ore.lanes.length == b && (lane s b).granted
    && decide ((if own then 2 else 1) ≤ (lane s b).credits) && portUp s (laneOut s b)
    && (!own || decide ((lane s b).slots.length < 8))

/-- A member injects its own shard k: it is read from the slice image into a slot and checked (R351, R352, R368). One with a unit
beyond correction is read with its errors, and fails (R226, R351). -/
def injectSlice (b j : Nat) (ecc : EccMap) (s : State) : State :=
  let m := s.ore.model
  let d := dueTile s j
  let a := sliceAt s m (d.round * mWave s m + d.index)
  let l := mereRead s a (80 + min (leAt (mereRead s (a + 16) 4) 0 4) (mMaxlen s m))
  let inWin := match tenantOfTask s (mOwner s m) with
    | some t => inMereOf s t a ((a + l.length : Nat) - 1)
    | none => false
  let s := reachMere ecc a l.length s
  if !(inWin && shDue s l d) || anyUe ecc (unitsOf a l.length) then endRev 0x1A (bump rTagFail 1 s)
  else
    let q := j / s.ore.lanes.length
    settleRev (bump rInjected 1 (sendShard b q l
      (setSlots b (fun x => x ++ [{ seq := q, js := j, bytes := l, own := true, verified := true, sent := true }]) s)))

/-- The seed's next shard enters a lane (R370). -/
def injectFill (b : Nat) (s : State) : State :=
  match s.ore.fillQ with
  | [] => s
  | l :: rest =>
    let j := s.ore.sends
    let q := j / s.ore.lanes.length
    sendShard b q l (setSlots b (fun x => x ++ [{ seq := q, js := j, bytes := l, own := true, verified := true, sent := true }])
      { s with ore := { s.ore with fillQ := rest } })

/-- SHARD_INJECT: the next send is an own shard, on lane b. -/
def shardInject (b : Nat) (ecc : EccMap) (s : State) : State :=
  if !(engines s) || s.ssq.aborting || !(maySend s b true) then s
  else if s.ore.filling then injectFill b s
  else
    let j := s.ore.sends
    let n := ringN s
    let w := mWave s s.ore.model
    if tilesT s ≤ j ∨ w ≤ j % (n * w) then s else injectSlice b j ecc s

/-- A fill forwards what it holds in the order received. -/
def fillNext (s : State) : Option Slot :=
  (s.ore.lanes.flatMap fun l => l.slots.filter fun x => x.verified && !x.sent && !x.own).foldl (fun best x =>
    match best with
    | none => some x
    | some y => if x.js < y.js then some x else best) none

/-- SHARD_FORWARD: the next send is a verified shard of another member, on lane b. -/
def shardForward (b : Nat) (s : State) : State :=
  if !(engines s) || s.ssq.aborting || !(maySend s b false) then s
  else
    let j := s.ore.sends
    let q := j / s.ore.lanes.length
    if s.ore.filling then
      match fillNext s with
      | none => s
      | some x => sendShard b q x.bytes (updSlot x.js (fun x => { x with sent := true, js := 2 ^ 32 + j }) s)
    else
      let w := mWave s s.ore.model
      if tilesT s ≤ j ∨ j % (ringN s * w) < w then s
      else match slotOf s j with
        | none => s
        | some x =>
          if !x.verified || x.sent then s
          else settleRev (bump rForwarded 1 (sendShard b q x.bytes (updSlot j (fun x => { x with sent := true }) s)))

/-! ## The fill (R370) -/

/-- The fill ends once its stream has ended here and its lanes have drained. -/
def settleFill (s : State) : State :=
  if s.ore.filling && s.ore.last && s.ore.fillQ.isEmpty && s.ore.lanes.all (fun l => l.slots.isEmpty) then
    wrF rFillCtl 0 1 0 { s with ore := { s.ore with filling := false, lanes := [] } }
  else s

/-- Model m has a shard kept to Tarn (R432). -/
def noteTarn (m : Nat) (s : State) : State :=
  { s with ore := { s.ore with tarnKept := m :: s.ore.tarnKept.filter fun x => x != m } }

/-- A verified shard that names this member is kept: a slice shard in ciphertext in the slice image, a resident shard in
plaintext at its DEST; outside the owner's windows it is dropped (R352, R370). -/
def keepShard (l : List Byte) (s : State) : State :=
  let m := s.ore.model
  let refuse := bump rFillRefuse 1 s
  let good := fun s => wrF (modelReg m 7) 0 24 (rdF s (modelReg m 7) 0 24 + 1) s
  if !(shKeep l) then
    let a := sliceAt s m (shRound l * mWave s m + shIndex l)
    match tenantOfTask s (mOwner s m) with
    | none => refuse
    | some t => if inMereOf s t a ((a + l.length : Nat) - 1) then good (mereWrite a l (wakeUnits (unitsOf a l.length) s)) else refuse
  else
    let d := shDest l
    let pt := (shOpen s l).getD []
    let n := pt.length
    if d.testBit 63 then
      let c := d / 2 ^ 56 % 16
      let a : Nat := d % 2 ^ 27
      if live s c ∧ inTarn s c (mOwner s m) a ((a + n : Nat) - 1) then
        good (noteTarn m (tarnWrite c a pt (wakeSegs c a n s)))
      else refuse
    else match tenantOfTask s (mOwner s m) with
      | none => refuse
      | some t => if inMereOf s t d ((d + n : Nat) - 1) then good (mereWrite d pt (wakeUnits (unitsOf d n) s)) else refuse

/-- A shard of the host's model image at the seed (R370): checked, then kept or queued for a lane. A sole member drops a
shard for another. -/
def seedShard (l : List Byte) (s : State) : State :=
  if !(shFill s l) then bump rTagFail 1 s
  else if shSpring l = ringP s then keepShard l s
  else if ringB s = 0 then bump rFillRefuse 1 s
  else { s with ore := { s.ore with fillQ := s.ore.fillQ ++ [l] } }

/-- Whole shards at the front of the image stream. -/
def cutShards : Nat → List Byte → List (List Byte) × List Byte
  | 0, l => ([], l)
  | fuel + 1, l =>
    if l.length < 80 ∨ l.length < 80 + shLen l then ([], l)
    else
      let r := cutShards fuel (l.drop (80 + shLen l))
      (l.take (80 + shLen l) :: r.1, r.2)

/-- Bytes of the host's model image reach the ORE; an empty message ends the stream. -/
def seedBytes (data : List Byte) (s : State) : State :=
  if !(s.ore.filling && s.ore.seed) then s
  else
    let r := cutShards (data.length + 1) (s.ore.fillPart ++ data)
    let s := { s with ore := { s.ore with fillPart := r.2 } }
    settleFill ((fun s => if data.isEmpty then { s with ore := { s.ore with last := true } } else s)
      (r.1.foldl (fun s l => seedShard l s) s))

/-- FILL: a write of ORE_FILL_CTL. GO = 1 starts a fill when no ORE command and no fill runs. While a fill runs on a member
that is not its seed, a write with GO = 0 tells that the stream has ended. -/
def fill (v : Word) (s : State) : State :=
  if !(powered s) then s
  else if s.ore.filling then
    if bitOf v 0 ∨ s.ore.seed then s else settleFill { s with ore := { s.ore with last := true } }
  else if s.ore.rev || !((unitOf s oreKey).running.isEmpty) || !(engines s) then s
  else
    let s := wr rFillCtl (Word.ofNat (v.toNat % 64)) s
    if !(bitOf v 0) then s
    else
      let s := oreOpen true (fld v 2 4) 0xFFFFFFFF s
      { s with ore := { s.ore with seed := bitOf v 1 || !(ringNamed s) } }

/-! ## Receiving (R347, R351, R354, R366) -/

/-- The READ that asks a spring for a shard: its number in the slice image, with the longest length that a READ can name (log entry
86). -/
def springAsk (s : State) (q : Nat) (d : Due) : Packet :=
  { dest := memberOre s d.spring, cls := 2, src := selfEp s 32, task := mOwner s s.ore.model, op := 2, lastx := true, tag := q % 65536
    addr := d.round * mWave s s.ore.model + d.index, len := min 65536 (80 + mMaxlen s s.ore.model) }

/-- Asks for shard q of lane b again, up to three times, then asks its spring (R366). -/
def askAgain (b q : Nat) (d : Due) (s : State) : State :=
  let l := lane s b
  let n := ((l.resends.find? fun r => r.1 == q).map Prod.snd).getD 0
  if n < 3 then
    sendCtl b ringResend ((runRevno s).getD 0) q (bump rResend 1
      (setLane b (fun l => { l with resends := (q, n + 1) :: l.resends.filter fun r => r.1 != q }) s))
  else
    freshPacket (springAsk s q d) (bump rSpringFetch 1 (setLane b (fun l => { l with asking := q :: l.asking }) s))

/-- A verified shard of a fill on lane b: kept, dropped at the seed, or held to be forwarded. -/
def fillVerified (b q : Nat) (l : List Byte) (s : State) : State :=
  let j := q * s.ore.lanes.length + b
  let s := sendCtl b ringAcked 0xFFFFFFFF q (takeSeq b q s)
  let free := fun s => sendCtl b ringCredits 0xFFFFFFFF 1 (setSlots b (fun x => x.filter fun y => y.js != j) s)
  if s.ore.seed then settleFill (free (bump rFillRefuse 1 s))
  else if shSpring l = ringP s then settleFill (free (keepShard l s))
  else setSlots b (fun x => (x.filter fun y => y.js != j) ++ [{ seq := q, js := j, bytes := l, verified := true }]) s

/-- A verified shard of a revolution on lane b: it counts as received and is acknowledged; an own shard has returned and
leaves its slot (R354, R356). -/
def revVerified (b q : Nat) (l : List Byte) (s : State) : State :=
  let j := q * s.ore.lanes.length + b
  let js := j + mWave s s.ore.model
  let s := sendCtl b ringAcked s.ore.revno q (bump rReceived 1 (takeSeq b q s))
  if (dueRecv s j).2 then
    settleRev (sendCtl b ringCredits s.ore.revno 1 (bump rReturned 1 (setSlots b (fun x => x.filter fun y => y.js != js || y.own)
      { s with ore := { s.ore with returned := s.ore.returned + 1 } })))
  else setSlots b (fun x => (x.filter fun y => y.js != js) ++ [{ seq := q, js := js, bytes := l, verified := true }]) s

/-- SHARD_ARRIVAL: a ring data shard has arrived whole on a port, and leaves its receive buffer. -/
def shardArrival (p : Nat) (revno : Word) (q : Nat) (l : List Byte) (s : State) : State :=
  if !(engines s) || !(portUp s p) then s else placeShard p revno q l (takeRing p ringData revno.toNat q s)
where
  /-- The shard takes a slot of its lane and is checked. -/
  placeShard (p : Nat) (revno : Word) (q : Nat) (l : List Byte) (s : State) : State :=
  match laneOfIn s p with
  | none => stale s
  | some b =>
    let ln := lane s b
    if runRevno s ≠ some revno.toNat ∨ s.ssq.aborting ∨ ln.has q then stale s
    else
      let j := q * s.ore.lanes.length + b
      let held := ln.slots.any fun x => x.seq == q && !x.own && !x.verified
      if !held ∧ 8 ≤ ln.slots.length then stale s
      else
        -- the shard takes a slot, which it keeps through every resend
        let key := if s.ore.filling then j else j + mWave s s.ore.model
        let hold := fun s => if held then s else setSlots b (fun x => x ++ [{ seq := q, js := key }]) s
        if s.ore.filling then
          if shFill s l then fillVerified b q l (hold s)
          else askAgain b q { spring := shSpring l % 1024, round := shRound l, index := shIndex l } (bump rTagFail 1 (hold s))
        else
          let d := dueRecv s j
          if decide (j < tilesT s) && shDue s l d.1 then revVerified b q l (hold s)
          else if d.2 then
            settleRev (sendCtl b ringCredits s.ore.revno 1 (bump rTagFail 1 (takeSeq b q
              { s with ore := { s.ore with returned := s.ore.returned + 1 } })))
          else askAgain b q d.1 (bump rTagFail 1 (hold s))

/-- DATA packets that answer the ORE leave their buffers once the shard they bring has been taken. -/
def takeSpring (q : Nat) (s : State) : State :=
  { s with inbox := s.inbox.filter fun k => !(k.op == 4 && k.dest == selfEp s 32 && k.tag == q % 65536) }

/-- SPRING_FETCH: the spring's copy of a shard asked for on lane b arrives (R366, R367). -/
def springFetch (b : Nat) (l : List Byte) (s : State) : State :=
  if !(engines s) || s.ssq.aborting then s
  else
    let ln := lane s b
    let at_ := fun q => q * s.ore.lanes.length + b
    let fits := fun q => s.ore.filling ||
      (let d := (dueRecv s (at_ q)).1
       shSpring l == d.spring && shRound l == d.round && shIndex l == d.index)
    match (ln.asking.find? fits).or ln.asking.head?, runRevno s with
    | some q, some _ =>
      let s := takeSpring q s
      if s.ore.filling then
        if shFill s l then fillVerified b q l s
        else settleFill (sendCtl b ringCredits 0xFFFFFFFF 1 (raise (srcOf 4 2 0) 0x19 0 (bump rTagFail 1
          (takeSeq b q (setSlots b (fun x => x.filter fun y => y.seq != q || y.own) s)))))
      else if shDue s l (dueRecv s (at_ q)).1 then revVerified b q l s
      else endRev 0x19 (bump rTagFail 1 s)
    | _, _ => s

/-- A control packet on a port concerns the lane whose OUT port it is, when it bears the number that the ORE runs (R347,
R357). -/
def ctlPacket (p kind n : Nat) (revno : Word) (f : Nat → State → State) (s : State) : State :=
  if !(engines s) || !(portUp s p) then s
  else
  let s := takeRing p kind revno.toNat n s
  match laneOfOut s p with
  | none => stale s
  | some b => if runRevno s = some revno.toNat then f b s else stale s

/-- GRANT: one that arrives on the OUT port of a lane opens it (R347, R357). One for the next revolution or fill, which this member
has not begun, is kept for it. -/
def grant (p : Nat) (revno : Word) (n : Nat) (s : State) : State :=
  if !(engines s) || !(portUp s p) then s
  else
  let s := takeRing p ringGrant revno.toNat 0 s
  match laneOfOut s p with
  | none => stale s
  | some b =>
  if runRevno s = some revno.toNat then
    if (lane s b).granted then s else setLane b (fun l => { l with granted := true, credits := n }) s
  else if runRevno s = none ∧ (revno = rd s rOreRevno ∨ revno = 0xFFFFFFFF) ∧ !s.ore.rev then
    { s with ore := { s.ore with early := (b, revno.toNat, n) :: s.ore.early.filter fun e => e.1 != b || e.2.1 != revno.toNat } }
  else stale s

/-- RING_CREDIT (R355). -/
def ringCredit (p : Nat) (revno : Word) (s : State) : State :=
  ctlPacket p ringCredits 0 revno (fun b s => setLane b (fun l => { l with credits := l.credits + 1 }) s) s

/-- Place under which a slot is found when its send is named: a fill's forwarded shards keep their send apart from the
order in which shards came. -/
def sentKey (s : State) (j : Nat) : Nat :=
  if s.ore.filling && !((slotOf s j).any fun x => x.own) then 2 ^ 32 + j else j

/-- RING_ACK: the successor has verified sequence number q of the lane (R356). -/
def ringAck (p : Nat) (revno : Word) (q : Nat) (s : State) : State :=
  ctlPacket p ringAcked q revno (fun b s =>
    settleFill (settleRev (updSlot (sentKey s (q * s.ore.lanes.length + b))
      (fun x => { x with acked := x.acked || x.sent }) s))) s

/-- RESEND: the shard is sent again from its slot (R366). -/
def resend (p : Nat) (revno : Word) (q : Nat) (s : State) : State :=
  ctlPacket p ringResend q revno (fun b s =>
    match slotOf s (sentKey s (q * s.ore.lanes.length + b)) with
    | some x => if x.sent && !x.acked then sendData b revno.toNat q x.bytes s else s
    | none => s) s

/-! ## Into the die (R358–R360) -/

/-- Order of the snake (R290). -/
def snakeOrder : List Nat := [0, 1, 2, 3, 7, 6, 5, 4, 8, 9, 10, 11]

/-- A tile's flits run along the snake from its head to its tail, with a copy to every live core (R290, R291, R359). -/
def snakeFlits (n : Nat) (s : State) : State :=
  let on := ((snakeOrder.dropWhile fun r => !(live s r)).reverse.dropWhile fun r => !(live s r)).reverse
  on.foldl (fun s r => countFlits r (flitsOf n * ((if live s r then 1 else 0) + if on.getLast? = some r then 0 else 1)) s) s

/-- SNAKE_TILE: the next tile enters the empty snake when it is verified (R358, R365). -/
def snakeTile (s : State) : State :=
  if !(engines s) || s.ssq.aborting || !s.ore.rev || s.ore.ended || s.ore.snake.isSome then s
  else
    let t := s.ore.tiles
    match slotOf s t with
    | none => s
    | some x =>
      if !x.verified || x.delivered then s
      else
        let d := dueTile s t
        let rec8 := shOrigin x.bytes ++
          [Word.ofNat (d.spring + d.index * 65536), Word.ofNat d.round, Word.ofNat (shLen x.bytes), 0]
        settleRev (updSlot t (fun x => { x with delivered := true }) (snakeFlits (shLen x.bytes) (bump rTiles 1
          { s with ore := { s.ore with tiles := t + 1, snake := some ((shOpen s x.bytes).getD [], rec8) } })))

/-- Record of a tile that did not arrive: its origin words are not stated (log entry 5). -/
def missRecord (s : State) (t : Nat) : List Word × State :=
  let d := dueTile s t
  let b := freeBytes 16 s
  (wordsOf 4 b.1 ++ [Word.ofNat (d.spring + d.index * 65536), Word.ofNat d.round, 0, 1], b.2)

/-- Writes tile t's record at core c and adds its TFLAG (R360). -/
def landTile (c t : Nat) (r : Run) (words : List Word) (s : State) : State :=
  let d := r.desc.getD 1 {}
  let a := rowAddr d {} 0 1 (t % 8) 0 0
  let s := tarnWrite c a (bytesOf (words ++ List.replicate 8 0)) (wakeSegs c a 64 s)
  addFlag c (revT r.q) 1 oreKey r.q.seq { s with ore := { s.ore with accepted := sset (fun _ => 0) c (t + 1) s.ore.accepted } }

/-- TILE_ACCEPT: core c takes the tile in the snake, after the cores before it, once it may use the slot; or, after the
revolution has ended here, gets the error record of its next tile (R359, R360, R368). -/
def tileAccept (c : Nat) (s : State) : State :=
  if !(engines s) || s.ssq.aborting || !(live s c) then s
  else match revRun s with
  | none => s
  | some r =>
    let t := acceptedOf s c
    let before := (snakeOrder.takeWhile fun x => x != c).filter (live s)
    let rel := decide (t < 8) || decide (1 ≤ flag s c (revR r.q))
    if tilesT s ≤ t ∨ !rel then s
    else
      let take := fun s => if 8 ≤ t then setFlag c (revR r.q) (flag s c (revR r.q) - 1) s else s
      if s.ore.ended then
        let m := missRecord s t
        settleRev (landTile c t r m.1 (take m.2))
      else match s.ore.snake with
        | none => s
        | some (pt, words) =>
          if t + 1 ≠ s.ore.tiles || (before.any fun x => decide (acceptedOf s x ≤ t)) then s
          else
            let a := rowAddr (r.desc.getD 0 {}) {} 0 0 (t % 8) 0 0
            let s := take s
            let s := landTile c t r words (tarnWrite c a pt (wakeSegs c a pt.length s))
            let s := if (liveCores s).all fun x => decide (t < acceptedOf s x) then { s with ore := { s.ore with snake := none } } else s
            settleRev s

/-- SHARD_TIMEOUT: lane b has waited ORE_SHARD_TIMEOUT with a free slot for a shard that is due (R368). -/
def shardTimeout (b : Nat) (s : State) : State :=
  let l := lane s b
  let us := max 1 (fld (cfg s 0x40200C) 0 20)
  if !(engines s) || s.ssq.aborting || !s.ore.rev || s.ore.ended || decide (s.ore.lanes.length ≤ b)
      || decide (tilesT s ≤ l.recvSeq * s.ore.lanes.length + b) || decide (8 ≤ l.slots.length)
      || decide (s.now < l.since + (1000 * us - l.waited)) then s
  else endRev 0x1A s

/-! ## Tables (R357, R371) -/

/-- MODEL_ACTIVATE: a write to word 3 of model entry m. With ACTIVE = 1 it takes effect only when VERIFIED equals EXPECT; any
other write clears ACTIVE and VERIFIED (R371). An activation tells a member that its fill of the model has ended. -/
def modelActivate (m : Nat) (v : Word) (s : State) : State :=
  if !(powered s) then s
  else if bitOf v 30 ∧ rdF s (modelReg m 7) 0 24 = rdF s (modelReg m 6) 0 24 then
    let s := wr (modelReg m 3) (Word.ofNat (v.toNat &&& 0xC07FFFFF)) s
    if s.ore.filling ∧ s.ore.model = m ∧ !s.ore.seed then settleFill { s with ore := { s.ore with last := true } } else s
  else wr (modelReg m 7) 0 (wr (modelReg m 3) (Word.ofNat (v.toNat &&& 0x807FFFFF)) s)

/-- A write to any other word of a model entry clears ACTIVE and VERIFIED (R371). -/
def modelWrite (m : Nat) (s : State) : State := wr (modelReg m 7) 0 (wrF (modelReg m 3) 30 1 0 s)

/-- REVNO_WRITE: only while no ORE command runs (R357, R372). -/
def revnoWrite (v : Word) (s : State) : State :=
  if !(powered s) || !((unitOf s oreKey).running.isEmpty) then s
  else wr rOreRevno (if v = 0xFFFFFFFF then 0 else v) s

def execGrant (p : PortId) (r : Word) (n : Nat) (s : State) : Host.Outcome State Fault Refusal := .next (grant p.val r n s)
def execShardArrival (p : PortId) (r : Word) (q : Nat) (l : List Byte) (s : State) : Host.Outcome State Fault Refusal :=
  .next (shardArrival p.val r q l s)
def execRingCredit (p : PortId) (r : Word) (s : State) : Host.Outcome State Fault Refusal := .next (ringCredit p.val r s)
def execRingAck (p : PortId) (r : Word) (q : Nat) (s : State) : Host.Outcome State Fault Refusal := .next (ringAck p.val r q s)
def execResend (p : PortId) (r : Word) (q : Nat) (s : State) : Host.Outcome State Fault Refusal := .next (resend p.val r q s)
def execSpringFetch (b : LaneId) (l : List Byte) (s : State) : Host.Outcome State Fault Refusal := .next (springFetch b.val l s)
def execShardInject (b : LaneId) (s : State) (m : EccMap := []) : Host.Outcome State Fault Refusal := .next (shardInject b.val m s)
def execShardForward (b : LaneId) (s : State) : Host.Outcome State Fault Refusal := .next (shardForward b.val s)
def execSnakeTile (s : State) : Host.Outcome State Fault Refusal := .next (snakeTile s)
def execTileAccept (c : CoreId) (s : State) : Host.Outcome State Fault Refusal := .next (tileAccept c.val s)
def execShardTimeout (b : LaneId) (s : State) : Host.Outcome State Fault Refusal := .next (shardTimeout b.val s)
def execFill (v : Word) (s : State) : Host.Outcome State Fault Refusal := .next (fill v s)
def execModelActivate (m : Fin 16) (v : Word) (s : State) : Host.Outcome State Fault Refusal := .next (modelActivate m.val v s)
def execRevnoWrite (v : Word) (s : State) : Host.Outcome State Fault Refusal := .next (revnoWrite v s)

end Sys2Proof.Machine
end

