-- ==== Sys2Proof/Machine/Fabric.lean ====
section
/-! DEFINITION. The Silist fabric (ch. 10): link states, the handshake, link blocks and retry, packets, routing, and accesses
from and to other parts. -/

namespace Sys2Proof.Machine

/-! ## Registers -/

abbrev rSelf : Nat := 0x400000
abbrev rQctl : Nat := 0x400008
abbrev rQstat : Nat := 0x40000C
abbrev rUnroutable : Nat := 0x400018
abbrev rHopDrop : Nat := 0x40001C
abbrev rLateReply : Nat := 0x400020
abbrev rAddClash : Nat := 0x400024
abbrev rRemoteRefuse : Nat := 0x400028
abbrev rSwitchRefused : Nat := 0x40002C

/-- Changes a port. -/
def updPort (p : Nat) (f : PortSt → PortSt) (s : State) : State := setPort p (f (port s p)) s

/-- A port is enabled. -/
def portEn (s : State) (p : Nat) : Bool := bitOf (rd s (portReg p 4)) 0

/-- The part lets ports train: once it has booted (R320, R477), not in HOLD or FATAL, and not in the phases of a recovery in which
ports are DOWN. -/
def portsMayTrain (s : State) : Bool :=
  powered s && (fclState s == 0 || (fclState s == 1 && rdF s rFclStatus 2 2 != 1))

/-! ## Packets (R325) -/

/-- The bytes of a packet. -/
def pktBytes (p : Packet) : List Byte :=
  let b := fun (x : Bool) (k : Nat) => if x then 2 ^ k else 0
  let head := [
    p.dest % 2 ^ 24 + p.cls % 8 * 2 ^ 24 + b p.d 27 + p.dim % 4 * 2 ^ 28,
    p.src % 2 ^ 24 + p.task % 64 * 2 ^ 24,
    p.op % 32 + b p.lastx 5 + b p.rsen 6 + p.hops % 256 * 2 ^ 8 + p.tag % 2 ^ 16 * 2 ^ 16,
    p.addr % 2 ^ 32,
    p.addr / 2 ^ 32 % 2 ^ 10 + p.rfcore % 16 * 2 ^ 10 + p.rflag % 2 ^ 12 * 2 ^ 14,
    p.len % 2 ^ 17,
    p.rcnt % 2 ^ 16 + p.cmdid % 2 ^ 16 * 2 ^ 16,
    p.status % 256 + p.atype % 16 * 2 ^ 8]
  head.flatMap (leBytes 4) ++ slice 0 ((pktSize p) - 32) p.data

/-- The packet at the front of a byte stream. -/
def pktParse (l : List Byte) : Packet :=
  let w := fun i => leAt l (4 * i) 4
  let p : Packet := {
    dest := w 0 % 2 ^ 24, cls := w 0 / 2 ^ 24 % 8, d := (w 0).testBit 27, dim := w 0 / 2 ^ 28 % 4
    src := w 1 % 2 ^ 24, task := w 1 / 2 ^ 24 % 64
    op := w 2 % 32, lastx := (w 2).testBit 5, rsen := (w 2).testBit 6, hops := w 2 / 2 ^ 8 % 256, tag := w 2 / 2 ^ 16
    addr := w 3 + w 4 % 2 ^ 10 * 2 ^ 32, rfcore := w 4 / 2 ^ 10 % 16, rflag := w 4 / 2 ^ 14 % 2 ^ 12
    len := w 5 % 2 ^ 17, rcnt := w 6 % 2 ^ 16, cmdid := w 6 / 2 ^ 16, status := w 7 % 256, atype := w 7 / 2 ^ 8 % 16 }
  { p with data := slice 32 (pktData p) l }

/-- A packet is of one of the classes that FAB_QCTL.HOLD and FAB_QSTAT speak of (R339, R340). -/
def heldClass (p : Packet) : Bool := decide (p.cls ≤ 4)

/-- Mesh virtual channel of a packet on the die (R327). -/
def pktMesh (p : Packet) : Nat := if p.cls = 1 then vcReply else if p.cls = 5 then vcStream else if p.cls = 4 then vcManage else vcRequest

/-- Virtual channel of a packet (R326, R335). -/
def pktVc (p : Packet) : Nat := if p.cls = 5 then 10 else 2 * p.cls + (if p.d then 1 else 0)

/-- Whole packets at the front of a payload stream; 16-byte units of zeros between packets are no packet (R311). -/
def takePackets : Nat → List Byte → List Packet × List Byte
  | 0, l => ([], l)
  | fuel + 1, l =>
    if l.length < 16 then ([], l)
    else if (l.take 16).all fun b => b == 0 then takePackets fuel (l.drop 16)
    else if l.length < 32 ∨ l.length < pktSize (pktParse l) then ([], l)
    else
      let p := pktParse l
      let r := takePackets fuel (l.drop (pktSize p))
      (p :: r.1, r.2)

/-! ## Link states (R306, R315, R320, R324) -/

/-- A port goes DOWN: replay buffer and transmit queues are discarded, each packet counted; the keys go (R315). -/
def portDown (p cause : Nat) (s : State) : State :=
  let t := port s p
  setPort p { state := 0, cause := cause, broken := t.broken } (bump (portReg p 0x30) (t.txq.length + t.unacked.length) s)

/-- A port that goes DOWN if it is not. -/
def dropPort (p cause : Nat) (s : State) : State := if (port s p).state = 0 then s else portDown p cause s

/-- Every port goes DOWN, keeping its last reason. -/
def allDown (s : State) : State := iter 12 (fun p s => dropPort p (port s p).cause s) s

/-- LINK_SIGNAL: an enabled port in DOWN with signal on all lanes trains; a port in TRAIN with every lane and its blocks locked
comes to AUTH (R306, R320). -/
def linkSignal (p : Nat) (s : State) : State :=
  if !(portsMayTrain s && portEn s p) || (port s p).broken then s
  else if (port s p).state = 0 then updPort p (fun t => { t with state := 1 }) s
  else if (port s p).state = 1 then updPort p (fun t => { t with state := 2, lock := 0xFF }) s
  else s

/-- PORT_DISABLED: FAB_PORT_CTL.EN is written 0 (R306, table of fabric registers). -/
def portDisabled (p : Nat) (s : State) : State :=
  if !(powered s) then s else dropPort p 5 (wrF (portReg p 4) 0 1 0 s)

/-! ## The handshake (R321–R323) -/

/-- What an end sends before its signature; the manual gives the items and not their layout (log entry 11). -/
def helloBytes (coord prt : Nat) (nonce : List Byte) (ex ey dx dy : Nat) : List Byte :=
  leBytes 4 (coord + 34 * 2 ^ 18) ++ leBytes 1 prt ++ nonce ++ beBytes 48 ex ++ beBytes 48 ey ++ beBytes 48 dx ++ beBytes 48 dy

/-- Keys of one direction: key and salt. -/
abbrev DirKey := Nat × Nat

/-- One exchange: this part's hello is sent, the peer's is judged; keys for sending and for receiving when it passes. -/
def exchange (p : Nat) (h : PeerHello) (s : State) : Option (DirKey × DirKey) × State :=
  let coord := rdF s rSelf 0 18
  let (n, s) := randomBits 256 s
  let (d0, s) := randomBits 384 s
  let (k0, s) := randomBits 384 s
  let d := d0 % (ecN - 1) + 1
  let e := ecPub d
  let dev := ecPub Config.deviceKey
  let nonce := beBytes 32 n
  let mine := helloBytes coord p nonce e.1 e.2 dev.1 dev.2
  let theirs := helloBytes h.coord h.port h.nonce h.ephX h.ephY h.devX h.devY
  let sig := ecSign Config.deviceKey (k0 % (ecN - 1) + 1) (sha384 (mine ++ theirs))
  let s := send (.hello p { coord := coord, port := p, nonce := nonce, ephX := e.1, ephY := e.2, devX := dev.1,
                            devY := dev.2, sigR := sig.1, sigS := sig.2 }) s
  let trusted := s.sec.trust.contains (sha384 (beBytes 48 h.devX ++ beBytes 48 h.devY))
  let good := trusted && ecOn (h.ephX, h.ephY) && ecVerify (h.devX, h.devY) (sha384 (theirs ++ mine)) (h.sigR, h.sigS)
  let low := decide (coord * 16 + p < h.coord * 16 + h.port)
  let salt := if low then nonce ++ h.nonce else h.nonce ++ nonce
  let ports := if low then [p, h.port] else [h.port, p]
  let info := [0x73, 0x69, 0x6C, 0x69, 0x73, 0x74] ++ ports.map Byte.ofNat
  let out := hkdf salt (beBytes 48 (ecdh d (h.ephX, h.ephY))) info 72
  let key := fun o => ((beNat (slice o 32 out), beNat (slice (o + 32) 4 out)) : DirKey)
  (if good then some (if low then (key 0, key 36) else (key 36, key 0)) else none, s)

/-- The peer fails the handshake: the port is left DOWN and a corrected record raised (R321). -/
def peerFails (p : Nat) (s : State) : State := raise (srcOf 2 p 0) 0x04 p (portDown p 4 s)

/-- AUTH_HANDSHAKE: a port in AUTH with coordinates set exchanges keys with its peer (R320–R322). -/
def authHandshake (p : Nat) (h : PeerHello) (s : State) : State :=
  if !(portsMayTrain s && portEn s p && (port s p).state == 2 && bitOf (rd s rSelf) 31) then s
  else match exchange p h s with
  | (none, s) => peerFails p s
  | (some (tx, rx), s) =>
    updPort p (fun t => { t with
      state := 3, peerValid := true, peerCoord := h.coord, peerPort := h.port, keyed := true, kp := false, rkp := false
      txKey := tx.1, txSalt := tx.2, txCount := 0, rxKey := rx.1, rxSalt := rx.2, rxCount := 0, oldRx := none }) s

/-- REKEY: a new exchange while traffic flows, which either end begins: this one after 2^39 blocks or on a register write, or the
peer, whose hello it is (R323). Both ends have confirmed it, and the next block that each sends bears the new phase (log entry
88). -/
def rekey (p : Nat) (h : PeerHello) (s : State) : State :=
  if !(powered s && (port s p).state == 3) then s
  else match exchange p h s with
  | (none, s) => peerFails p s
  | (some (tx, rx), s) =>
    updPort p (fun t => { t with
      kp := !t.kp, rkp := !t.rkp, txKey := tx.1, txSalt := tx.2, txCount := 0, rekeyReq := false
      oldRx := some (t.rxKey, t.rxSalt, t.rxCount), rxKey := rx.1, rxSalt := rx.2, rxCount := 0 }) s

/-! ## Link blocks and retry (R309–R316) -/

/-- Header of the block that a port sends next (R310). -/
def blockHead (t : PortSt) (seq : Nat) (idle : Bool) : Nat :=
  seq + (t.expect + 4095) % 4096 * 2 ^ 12 + (if t.nak then 2 ^ 24 else 0) + t.holding % 2 ^ 11 * 2 ^ 25
    + (if idle then 2 ^ 36 else 0) + (if t.kp then 2 ^ 37 else 0)

/-- Seals and sends a block (R310, R322). One that carries NAK is counted, and the wait for the expected block runs from it
(R316). -/
def sendBlock (p seq : Nat) (idle : Bool) (payload : List Byte) (s : State) : State :=
  let t := port s p
  let head := leBytes 5 (blockHead t seq idle)
  let s := if t.nak then bump (portReg p 0x20) 1 s else s
  send (.block p (head ++ gcmSeal t.txKey (t.txSalt * 2 ^ 64 + t.txCount) head payload))
    (setPort p { t with txCount := t.txCount + 1, nak := false, waiting := t.waiting || t.nak, nakAt := if t.nak then s.now else t.nakAt } s)

/-- Bytes of a block's payload. -/
abbrev blockLen : Nat := 1264

/-- The part sends, accepts or has acknowledged a data block with packets of classes 0 to 4 (R340). -/
def dirty (s : State) : State := setBit rQstat 1 s

/-- The data blocks that the sender keeps go out again, each sealed anew (R314). -/
def resendAll (p : Nat) (s : State) : State :=
  let l := (port s p).replayBuf
  l.foldl (fun s b => sendBlock p b.seq false b.payload s)
    (updPort p (fun t => { t with resendDue := false }) (if l.any fun b => b.held then dirty s else s))

/-- The next block that the port sends bears NAK: the receiver asks for a resend (R313). -/
def setNak (p : Nat) (s : State) : State := updPort p (fun t => { t with nak := true }) s

/-- Reads a verified header: ACK, NAK and XOFF (R310, R314, R315, R318). -/
def readHeader (p h : Nat) (s : State) : State :=
  let t := port s p
  let n := (h / 2 ^ 12 % 4096 + 4096 - t.lastAcked) % 4096
  let adv := decide (n ≠ 0) && decide (n ≤ t.replayBuf.length)
  let left := if adv then t.replayBuf.drop n else t.replayBuf
  let nak := h.testBit 24
  let s := if adv && ((t.replayBuf.take n).any fun b => b.held) then dirty s else s
  setPort p { t with
    lastAcked := if adv then (t.lastAcked + n) % 4096 else t.lastAcked
    replayBuf := left
    unacked := t.unacked.filter fun u => !((t.replayBuf.take n).any fun b => b.seq == u.2.2 && adv)
    naksNoAck := if adv then (if nak then 1 else 0) else t.naksNoAck + (if nak then 1 else 0)
    resendDue := t.resendDue || nak
    heldOff := h / 2 ^ 25 % 2 ^ 11 } s

/-- An accepted block's packets enter the receive buffers (R312, R317, R345); it holds a packet, or a part of one, of the classes that
DIRTY tells of (R340). -/
def acceptPayload (p : Nat) (payload : List Byte) (s : State) : State :=
  let r := takePackets (blockLen + 16) ((port s p).rxBytes ++ payload)
  let held := r.1.any heldClass || (!r.2.isEmpty && heldClass (pktParse r.2))
  let s := updPort p (fun t => { t with rxBytes := r.2 }) (if held then dirty s else s)
  r.1.foldl (fun s k =>
    occupy p (pktVc k) (pktSize k) true (bump (portReg p (0x44 + 8 * min (pktVc k) 10)) 1 { s with transit := s.transit ++ [(p, k)] })) s

/-- A tag failure; the fourth within 1 ms takes the port down (R324). -/
def tagFail (p : Nat) (s : State) : State :=
  let fails := s.now :: (port s p).tagFails.filter fun t => decide (s.now < t + 1000000)
  let s := updPort p (fun t => { t with tagFails := fails }) (bump (portReg p 0x1C) 1 s)
  if 4 ≤ fails.length then raise (srcOf 2 p 0) 0x1C p (portDown p 3 s) else setNak p s

/-- What a codeword gives: up to 15 symbols in error are corrected (R309). -/
def codeFails (n : Nat) : Bool := decide (15 < n)
def codeFixed (n : Nat) : Bool := decide (0 < n) && decide (n ≤ 15)

/-- How many of a block's two codewords satisfy a test. -/
def fecCount (f : Fec) (p : Nat → Bool) : Nat := (if p f.first then 1 else 0) + if p f.second then 1 else 0

/-- LINK_BLOCK: a block arrives at an UP port, with the symbols in error of its two codewords (R309–R313, R316). -/
def linkBlock (p : Nat) (fec : Fec) (block : List Byte) (s : State) : State :=
  let t := port s p
  if !(powered s) || t.state != 3 then s
  else
    let s := bump (portReg p 0x14) (fecCount fec codeFixed) (bump (portReg p 0x18) (fecCount fec codeFails) s)
    if fecCount fec codeFails ≠ 0 then
      setNak p (updPort p (fun t => match t.oldRx with
        | some (k, v, n) => { t with oldRx := some (k, v, n + 1) }
        | none => { t with rxCount := t.rxCount + 1 }) s)
    else
      let h := leAt block 0 5
      let old := h.testBit 37 != t.rkp
      let body := (block.drop 5)
      match (if old then t.oldRx else some (t.rxKey, t.rxSalt, t.rxCount)) with
      | none => tagFail p s
      | some (key, salt, cnt) =>
        let s := updPort p (fun t => if old then { t with oldRx := some (key, salt, cnt + 1) } else { t with rxCount := cnt + 1 }) s
        match gcmOpen key (salt * 2 ^ 64 + cnt) (block.take 5) body with
        | none => tagFail p s
        | some payload =>
          let s := readHeader p h s
          if h.testBit 36 || h % 4096 != t.expect then s
          else
            acceptPayload p payload (updPort p (fun t => { t with
              expect := (t.expect + 1) % 4096, waiting := false, nak := false, oldRx := if old then t.oldRx else none }) s)

/-- NAK_REPEAT: the expected block has not come 1 µs after the last NAK (R313). -/
def nakRepeat (p : Nat) (s : State) : State :=
  let t := port s p
  if powered s && t.state == 3 && t.waiting && !t.nak && decide (t.nakAt + 1000 ≤ s.now) then setNak p s else s

/-- REPLAY: a NAK has come (R314). -/
def replay (p : Nat) (s : State) : State :=
  if powered s && (port s p).state == 3 && (port s p).resendDue then resendAll p s else s

/-- A retrain is due for the cause given (R315); a lane loses lock with syndrome failures in more than 1 of 16 of 64 words
(R309). -/
def retrainDue (t : PortSt) (c : RetrainCause) : Bool :=
  t.state == 4 || (t.state == 3 && match c with
    | .naks => decide (16 ≤ t.naksNoAck)
    | .laneLoss _ n => decide (4 < n)
    | .request => t.retrainReq)

/-- RETRAIN: one retrain of a port, and how it ends; the third failure in a row takes the port down (R306, R315). -/
def retrain (p : Nat) (c : RetrainCause) (e : RetrainEnd) (s : State) : State :=
  let t := port s p
  if !(powered s) || !(retrainDue t c) then s
  else
    let s := bump (portReg p 0x28) 1 s
    let lock := match c with
      | .laneLoss i _ => t.lock &&& (0xFF - 2 ^ i.val)
      | _ => t.lock
    match e with
    | .locked =>
      resendAll p (setPort p { t with state := 3, lock := 0xFF, retrainFails := 0, naksNoAck := 0, retrainReq := false } s)
    | .failed =>
      if 2 ≤ t.retrainFails then
        updPort p (fun t => { t with lock := lock }) (raisePend { source := srcOf 2 p 0, cause := 0x1B, detail := p, conseq := true }
          (portDown p (if lock = 0xFF then 2 else 1) s))
      else setPort p { t with state := 4, lock := lock, retrainFails := t.retrainFails + 1, retrainReq := false } s

/-! ## Sending (R314, R318) -/

/-- A queued packet may begin: its channel is not held off, and its bytes fit the window. -/
def mayBegin (t : PortSt) (x : Nat × Packet) : Bool :=
  !(t.heldOff.testBit x.1)
    && decide (((t.unacked.filter fun u => u.1 == x.1).map fun u => u.2.1).sum + (pktSize x.2) ≤ 65536)

/-- The first packet of each channel that may begin; the first in the queue is taken. -/
def nextTx (t : PortSt) : Option (Nat × Packet) :=
  t.txq.find? fun x => mayBegin t x && (t.txq.find? fun y => y.1 == x.1) == some x

/-- Bytes of packets begun that are in no block yet. -/
def restLen (t : PortSt) : Nat := (t.txRest.map fun x => x.2.length).sum

/-- Packets begin, back to back, until the next block is full (R311, R318). Each is counted, and held against its channel's window
until the block that ends it is acknowledged. -/
def beginPackets (p : Nat) : Nat → State → State
  | 0, s => s
  | n + 1, s =>
    let t := port s p
    if blockLen ≤ restLen t then s
    else match nextTx t with
    | none => s
    | some (v, k) =>
      let l := pktBytes k
      let last := (t.nextSeq + (restLen t + l.length - 1) / blockLen) % 4096
      beginPackets p n (bump (portReg p (0x40 + 8 * min v 10)) 1
        (setPort p { t with txq := dropFirst (fun x => x == (v, k)) t.txq, unacked := t.unacked ++ [(v, pktSize k, last)]
                            txRest := t.txRest ++ [(heldClass k, l)] } s))

/-- Takes n bytes from the front of the stretches. -/
def takeRest : Nat → List (Bool × List Byte) → List (Bool × List Byte) × List (Bool × List Byte)
  | _, [] => ([], [])
  | n, x :: r =>
    if n = 0 then ([], x :: r)
    else if x.2.length ≤ n then
      let y := takeRest (n - x.2.length) r
      (x :: y.1, y.2)
    else ([(x.1, x.2.take n)], (x.1, x.2.drop n) :: r)

/-- PACKET_SEND: the next block goes out, for a port sends blocks continuously: a data block with the bytes of packets back to back, zeros
after the last, or an idle block when there is no packet to send (R311, R314, R318; log entry 12). No new data block goes out
while a replay is due or 2,048 are unacknowledged. -/
def packetSend (p : Nat) (s : State) : State :=
  if !(powered s) || (port s p).state != 3 || (port s p).resendDue then s
  else
    let s' := if 2048 ≤ (port s p).replayBuf.length then s else beginPackets p (blockLen / 32 + 1) s
    let t := port s' p
    if t.txRest.isEmpty || decide (2048 ≤ t.replayBuf.length) then sendBlock p t.nextSeq true (List.replicate blockLen 0) s'
    else
      let r := takeRest blockLen t.txRest
      let held := r.1.any fun x => x.1
      let payload := slice 0 blockLen (r.1.flatMap fun x => x.2)
      sendBlock p t.nextSeq false payload
        (setPort p { t with
          nextSeq := (t.nextSeq + 1) % 4096, txRest := r.2
          replayBuf := t.replayBuf ++ [{ seq := t.nextSeq, held := held, payload := payload }] } (if held then dirty s' else s'))

/-! ## Routing (R333–R340) -/

/-- Coordinate d of an endpoint; its unit. -/
def epCoord (e d : Nat) : Nat := e / 64 ^ d % 64
def epUnit (e : Nat) : Nat := e / 2 ^ 18 % 64

/-- The endpoint is on this part. -/
def isHere (s : State) (e : Nat) : Bool := e % 2 ^ 18 == rdF s rSelf 0 18

/-- Entry of coordinate c in dimension d's table of the active bank. -/
def rtEntry (s : State) (d c : Nat) : Word := rd s (0x401000 + 0x400 * rdF s 0x400004 0 1 + 0x100 * d + 4 * c)

/-- A reply to a packet, from this part (R325, R329). -/
def replyTo (s : State) (k : Packet) (op status : Nat) : Packet :=
  { dest := k.src, cls := 1, src := selfEp s (epUnit k.dest), task := k.task, op := op, lastx := true, tag := k.tag,
    cmdid := k.cmdid, status := status }

/-- Classes whose packets are answered: request, forwarded and collective (R325, R336). -/
def answered (k : Packet) : Bool := k.cls == 0 || k.cls == 2 || k.cls == 3

/-- A packet reaches its unit here, which takes it in. -/
def inboxed (k : Packet) (s : State) : State := { s with inbox := s.inbox ++ [k] }

/-- A packet is dropped in routing: a request is answered with a status, over the die at once when it is this part's own (R336). -/
def dropPacket (p reg status : Nat) (k : Packet) (s : State) : State :=
  let eng := if p < 12 then p else min (epUnit k.src) 11
  let s := raise (srcOf 2 eng 1) 0x05 eng (bump reg 1 s)
  let r := replyTo s k 5 status
  if !(answered k) then s else if isHere s k.src then inboxed r s else ownPacket r s

/-- Bytes of a port's transmit queue of a channel. -/
def txBytes (t : PortSt) (v : Nat) : Nat := ((t.txq.filter fun x => x.1 == v).map fun x => (pktSize x.2)).sum

/-- Delivers a packet to a unit of this part (R308, R325, R333). One with a reserved OP is dropped, and answered in a class that is; one
for a unit that does not exist, or that takes no such packet, is answered with UNIT, but for a reply. Weast and the port engines take
management packets in at once (R344). -/
def deliver (k : Packet) (s : State) : State :=
  let u := epUnit k.dest
  let refuse := if k.op = 4 ∨ k.op = 5 then s else ownPacket (replyTo s k (if k.op = 2 then 4 else 5) 2) s
  if k.op = 0 ∨ 8 < k.op then (if answered k then ownPacket (replyTo s k 5 7) s else s)
  else if k.op = 1 ∨ k.op = 3 then (if (u < 12 ∧ live s u) ∨ u = 16 then inboxed k s else refuse)
  else if k.op = 2 then (if (u < 12 ∧ live s u) ∨ u = 16 ∨ u = 32 then inboxed k s else refuse)
  else if k.op = 4 ∨ k.op = 5 then
    (if u < 12 ∨ u = 32 then inboxed k s else if u = 33 then { s with mail := s.mail ++ [k] } else s)
  else if k.op = 6 then (if u = 34 then { s with mail := s.mail ++ [k] } else refuse)
  else if k.op = 8 then (if u = 33 then { s with mail := s.mail ++ [k] } else refuse)
  else s

/-- Where a packet that came in by port p, or of this part's own, enters the mesh, and where it leaves for a unit of this part; Weast and
the ORE are at routers 6 and 5. -/
def unitEnd (u : Nat) : MeshEnd := if u < 12 then coreEnd u else if u = 33 then weastEnd else (5, 8)
def entryEnd (p : Nat) (k : Packet) : MeshEnd := if p < 12 then portEnd p else unitEnd (epUnit k.src)
def destEnd (p : Nat) (k : Packet) : MeshEnd :=
  let u := epUnit k.dest
  if u = 34 then portEnd (min p 11) else if u = 16 then stackEnd (stackNo k.addr) else unitEnd u

/-- A packet may cross the die: in scheduled mode a management packet only in slots of its virtual channel (R288, R327). -/
def mayCross (s : State) (k : Packet) (a b : MeshEnd) : Bool := pktMesh k != vcManage || !(timetabled s) || pathOwned s a b (some vcManage)

/-- Where a packet goes: none while its transmit queue has no room for it. -/
def routeTo (p : Nat) (k : Packet) (s : State) : Option State :=
  if isHere s k.dest || epUnit k.dest == 34 then
    let b := destEnd p k
    if b.1 < 12 ∧ !(mayCross s k (entryEnd p k) b) then none
    else some (deliver k (if b.1 < 12 then meshSend (entryEnd p k) b (flitsOf (pktSize k)) s else s))
  else if k.op = 0 ∨ 8 < k.op then
    some (if answered k then ownPacket (replyTo s k 5 7) s else s)
  else
    let hops := if p < 12 then k.hops + 1 else k.hops
    if fld (cfg s 0x400014) 0 8 < hops then some (dropPacket p rHopDrop 5 k s)
    else
      let d := ((List.range 3).find? fun d => epCoord k.dest d != epCoord (rd s rSelf).toNat d).getD 0
      let e := rtEntry s d (epCoord k.dest d)
      let up := (List.range 12).filter fun i => bitOf e i && (port s i).state == 3
      if !(bitOf e 13) || up.isEmpty then some (dropPacket p rUnroutable 4 k s)
      else
        let sum := fun x => epCoord x 0 + epCoord x 1 + epCoord x 2 + epUnit x
        let out := up.getD ((sum k.src + sum k.dest) % up.length) 0
        let k := { k with hops := hops, d := bitOf e 12 || (k.d && k.dim == d), dim := d }
        if 16384 < txBytes (port s out) (pktVc k) + (pktSize k) ∨ !(mayCross s k (entryEnd p k) (portEnd out)) then none
        else some (queueTx out (pktVc k) k (meshSend (entryEnd p k) (portEnd out) (flitsOf (pktSize k)) s))

/-- An earlier packet of the same source, destination and class still waits here (R328). -/
def orderHolds (s : State) (k : Packet) : Bool :=
  (s.transit.takeWhile fun x => x.2 != k).any fun x => x.2.src == k.src && x.2.dest == k.dest && x.2.cls == k.cls && x.2.op != 7

/-- PACKET_ROUTE: a packet at this part is delivered, forwarded or dropped (R327, R328, R333–R336). A packet that has come in leaves
its receive buffer. Ring packets follow the ring tables instead. -/
def packetRoute (k : Packet) (s : State) : State :=
  if !(powered s) || k.op == 7 || orderHolds s k then s
  else
    let p := ((s.transit.find? fun x => x.2 == k).map Prod.fst).getD 12
    match routeTo p k { s with transit := dropFirst (fun x => x.2 == k) s.transit } with
    | none => s
    | some t => if p < 12 then occupy p (pktVc k) (pktSize k) false t else t

/-- No transfer of classes 0 to 4 is outstanding, no buffer holds a packet of them, and no region is open (R340). -/
def fabEmpty (s : State) : Bool :=
  !(s.outst.any fun (_, l) => l.any Xfer.remote) && (s.ore.lanes.all fun l => l.asking.isEmpty)
    && (s.transit.all fun x => !(heldClass x.2)) && (s.inbox.all fun x => !(heldClass x)) && s.heldAcks.isEmpty && s.regions.isEmpty
    && s.ports.all fun (_, t) => (t.txq.all fun x => !(heldClass x.2)) && (t.unacked.all fun u => u.1 == 10)
        && (t.txRest.all fun x => !x.1) && (t.rxBytes.isEmpty || !(heldClass (pktParse t.rxBytes)))

/-- SWITCH: the other routing bank becomes active, only while held and empty (R338). -/
def switch (s : State) : State :=
  if !(powered s) then s
  else if fabHeld s && fabEmpty s then wrF 0x400004 0 1 (1 - rdF s 0x400004 0 1) s
  else bump rSwitchRefused 1 s

/-- FAB_SELF_WRITE: coordinates, kept in flash (R308). -/
def fabSelfWrite (v : Word) (s : State) : State :=
  if !(powered s) then s
  else
    let w := Word.ofNat (v.toNat &&& 0x8003FFFF)
    wr rSelf w (flashWrite 0x011D0000 (leBytes 4 w.toNat) s)

/-! ## Accesses from other parts (R329–R332) -/

/-- The range lies in the windows of the packet's task at the unit addressed. -/
def remoteOk (s : State) (k : Packet) (n : Nat) : Bool :=
  let u := epUnit k.dest
  let hi : Int := (k.addr + n : Nat) - 1
  if u = 16 then inMere s k.task k.addr hi else inTarn s u k.task k.addr hi

/-- The unit exists and can take the access; otherwise the access is answered with UNIT. -/
def unitOk (s : State) (k : Packet) : Bool := let u := epUnit k.dest; (decide (u < 12) && live s u) || u == 16

/-- Segments of a core's Tarn that an access of n bytes touches; none at Mere. -/
def remoteSegs (k : Packet) (n : Nat) : List Nat := if epUnit k.dest < 12 then segSpan k.addr n else []

/-- A refused access is counted; at a core's Tarn it is a dropped arrival too (R190, R329). -/
def remoteRefuse (k : Packet) (s : State) : State :=
  let s := bump rRemoteRefuse 1 s
  if epUnit k.dest < 12 then windowDrop (epUnit k.dest) s else s

/-- An earlier packet that has reached this part is still to be made before a packet: one between the same units in its class (R328), any
add at the same unit, for adds (R332), and before the last packet of a transfer any other of it, or with a flag add any other of its
command (R330). -/
def earlierLeft (s : State) (k : Packet) : Bool :=
  (s.inbox.takeWhile fun x => x != k).any fun x =>
    (x.op == 1 || x.op == 2 || x.op == 3) &&
      ((x.src == k.src && x.dest == k.dest && x.cls == k.cls)
        || (k.op == 3 && x.op == 3 && x.dest == k.dest)
        || (k.lastx && x.src == k.src && x.tag == k.tag) || (k.rsen && x.src == k.src && x.cmdid == k.cmdid))

/-- The packet leaves the inbox. -/
def taken (k : Packet) (s : State) : State := { s with inbox := dropFirst (fun x => x == k) s.inbox }

/-- Status that a transfer has met so far. -/
def badOf (s : State) (k : Packet) : Nat :=
  ((s.remoteBad.find? fun x => x.1 == k.src && x.2.1 == k.tag).map fun x => x.2.2).getD 0

/-- The ACK of a transfer is sent, and the regions that it opened close (R330, R332). -/
def sendAck (ack : Packet) (s : State) : State :=
  ownPacket ack { s with regions := s.regions.filter fun r => r.src != ack.dest || r.tag != ack.tag }

/-- A packet of a write or add transfer has been made or refused; the last is acknowledged, after its flag add (R330). -/
def finishRemote (k : Packet) (status : Nat) (s : State) : State :=
  let bad := if badOf s k = 0 then status else badOf s k
  if !k.lastx then
    if status = 0 ∨ badOf s k ≠ 0 then s else { s with remoteBad := (k.src, k.tag, status) :: s.remoteBad }
  else
    let s := { s with remoteBad := s.remoteBad.filter fun x => x.1 != k.src || x.2.1 != k.tag }
    let ack := replyTo s k 5 bad
    if k.rsen && live s k.rfcore then
      if flag s k.rfcore k.rflag + k.rcnt ≤ 65535 then
        sendAck ack (setFlag k.rfcore k.rflag (flag s k.rfcore k.rflag + k.rcnt) s)
      else
        let n := s.heldAcks.foldl (fun n x => max n (x.1 + 1)) 0
        addFlag k.rfcore k.rflag k.rcnt 4096 n { s with heldAcks := s.heldAcks ++ [(n, ack)] }
    else sendAck ack s

/-- A held remote flag add has been applied: its transfer is acknowledged (R330). -/
def sendHeldAck (n : Nat) (s : State) : State :=
  match s.heldAcks.find? fun x => x.1 == n with
  | some x => sendAck x.2 { s with heldAcks := s.heldAcks.filter fun y => y.1 != n }
  | none => s

/-- An access waits its turn, and for its segments (R193, R194, R328, R330). -/
def whenDue (k : Packet) (n : Nat) (f : State → State) (s : State) : State :=
  if !(engines s) || earlierLeft s k then s else withSegs (epUnit k.dest) (remoteSegs k n) f s

/-- Writes bytes at a place of this part; a partly written or added unit of Mere beyond correction stays as stored (R88,
R226). -/
def putRemote (k : Packet) (ecc : EccMap) (out : List Byte) (add : Bool) (s : State) : Bool × State :=
  let u := epUnit k.dest
  if u = 16 then
    let us := mergeUnits add k.addr out.length
    let s := noteUnits ecc us (wakeUnits (unitsOf k.addr out.length) s)
    (anyUe ecc us, mereWrite k.addr (maskUe ecc us k.addr out (mereRead s k.addr out.length)) s)
  else (false, tarnWrite u k.addr out s)

/-- A WRITE packet that is due: checked, made and answered. -/
def makeWrite (k : Packet) (ecc : EccMap) (s : State) : State :=
  let s := taken k s
  if !(unitOk s k) then finishRemote k 2 s
  else if k.len ≠ 0 ∧ !(remoteOk s k k.len) then finishRemote k 1 (remoteRefuse k s)
  else
    let r := putRemote k ecc (slice 0 k.len k.data) false s
    finishRemote k (if r.1 then 3 else 0) r.2

/-- REMOTE_WRITE (R329, R330). -/
def remoteWrite (k : Packet) (ecc : EccMap) (s : State) : State := if k.op = 1 then whenDue k k.len (makeWrite k ecc) s else s

/-- Regions of 4 KiB that an add touches. -/
def regionsOf (k : Packet) (n : Nat) : List Nat :=
  if n = 0 then [] else (List.range ((k.addr + n - 1) / 4096 + 1 - k.addr / 4096)).map fun i => k.addr / 4096 + i

/-- The add may enter every region it touches (R332). -/
def regionsFree (s : State) (k : Packet) (n : Nat) : Bool :=
  let mine := fun r => s.regions.find? fun x => x.space == epUnit k.dest && x.region == r
  let new := (regionsOf k n).filter fun r => (mine r).isNone
  decide (s.regions.length + new.length ≤ 1024)
    && (regionsOf k n).all fun r => match mine r with
      | some x => x.src == k.src && x.cmdid == k.cmdid
      | none => true

/-- Opens the regions that the add touches first. -/
def openRegions (k : Packet) (n : Nat) (s : State) : State :=
  let new := (regionsOf k n).filter fun r => !(s.regions.any fun x => x.space == epUnit k.dest && x.region == r)
  { s with regions := s.regions ++ new.map fun r =>
      { space := epUnit k.dest, region := r, src := k.src, cmdid := k.cmdid, tag := k.tag } }

/-- Bytes of the target that an ADD packet reaches. -/
def addSpan (k : Packet) : Nat := k.len / 4 * addBytes k.atype

/-- An ADD packet that is due: checked, made at the storage and answered. -/
def makeAdd (k : Packet) (ecc : EccMap) (s : State) : State :=
  let n := addSpan k
  let s := taken k s
  if !(unitOk s k) then finishRemote k 2 s
  else if n ≠ 0 ∧ !(remoteOk s k n) then finishRemote k 1 (remoteRefuse k s)
  else if repro s && !(regionsFree s k n) then finishRemote k 6 (bump rAddClash 1 s)
  else
    let s := if repro s then openRegions k n s else s
    let old := if epUnit k.dest = 16 then mereRead s k.addr n else tarnRead s (epUnit k.dest) k.addr n
    let r := putRemote k ecc (addInto (if k.atype = 9 then 9 else 8) k.atype old (slice 0 k.len k.data)) true s
    finishRemote k (if r.1 then 3 else 0) r.2

/-- REMOTE_ADD (R105, R268, R329, R330, R332). -/
def remoteAdd (k : Packet) (ecc : EccMap) (s : State) : State := if k.op = 3 then whenDue k (addSpan k) (makeAdd k ecc) s else s

/-- DATA packets that answer a READ, at most 4 KiB each (R325), each with a status. -/
def dataPackets (s : State) (k : Packet) (status : Nat → Nat) (l : List Byte) : List Packet :=
  let n := max 1 (ceilDiv l.length 4096)
  (List.range n).map fun i =>
    let d := (l.drop (4096 * i)).take 4096
    { replyTo s k 4 (status i) with lastx := i + 1 == n, len := d.length, data := d }

/-- The answer to a READ: its bytes, each packet with a status. -/
def answerWith (k : Packet) (status : Nat → Nat) (l : List Byte) (s : State) : State :=
  (dataPackets s k status l).foldl (fun s d => ownPacket d s) s

/-- Statuses of the packets that answer a READ of Mere: DATA where a unit is beyond correction. -/
def unitStatus (ecc : EccMap) (a n : Nat) (i : Nat) : Nat :=
  if anyUe ecc (unitsOf (a + 4096 * i) (min 4096 (n - 4096 * i))) then 3 else 0

/-- The ORE answers with shard ADDR of the running model's slice image, whole, when it lies in its task's windows (R329, R352, R366; log
entry 86). -/
def answerSpring (k : Packet) (ecc : EccMap) (s : State) : State :=
  let m := s.ore.model
  let a := sliceAt s m k.addr
  let n := 80 + min (leAt (mereRead s (a + 16) 4) 0 4) (mMaxlen s m)
  if inMere s (mOwner s m) a ((a + n : Nat) - 1) then
    answerWith k (unitStatus ecc a n) (mereRead s a n) (reachMere ecc a n s)
  else answerWith k (fun _ => 1) [] (bump rRemoteRefuse 1 s)

/-- A READ packet that is due: checked and answered. -/
def makeRead (k : Packet) (ecc : EccMap) (s : State) : State :=
  let s := taken k s
  if epUnit k.dest = 32 then answerSpring k ecc s
  else if !(unitOk s k) then answerWith k (fun _ => 2) [] s
  else if !(remoteOk s k k.len) then answerWith k (fun _ => 1) [] (remoteRefuse k s)
  else if epUnit k.dest = 16 then answerWith k (unitStatus ecc k.addr k.len) (mereRead s k.addr k.len) (reachMere ecc k.addr k.len s)
  else answerWith k (fun _ => 0) (tarnRead s (epUnit k.dest) k.addr k.len) s

/-- REMOTE_READ (R329): at a core's Tarn or at Mere, or at the ORE (R366). -/
def remoteRead (k : Packet) (ecc : EccMap) (s : State) : State := if k.op = 2 then whenDue k k.len (makeRead k ecc) s else s

/-! ## Replies (R330, R331) -/

/-- The transfer of this part that a reply answers: engine and transfer. -/
def replyFor (s : State) (k : Packet) : Option (Nat × Xfer) :=
  let c := epUnit k.dest
  (List.range 2).findSome? fun e =>
    ((outstOf s c e).find? fun x => x.remote && x.tag == k.tag).map fun x => (e, x)

/-- A reply whose first packet comes after the transfer's time is late: it is dropped and counted, and writes nothing (R331). -/
def replyLate (s : State) (x : Xfer) : Bool := x.got == 0 && decide (x.sent + xferTicks s ≤ s.now)

/-- A failed transfer's tag rests (R331). -/
def restTag (x : Xfer) (s : State) : State := { s with failedTags := (x.tag, s.now) :: s.failedTags }

/-- A remote transfer fails: a fetch lands zeros (R200, R421). -/
def remoteFails (c e : Nat) (x : Xfer) (conseq : Bool) (s : State) : State :=
  let s := match x.dst with
    | .tarn d a => tarnWrite d a (List.replicate x.len 0) (wakeSegs d a x.len s)
    | .mere a => mereWrite a (List.replicate x.len 0) s
    | _ => s
  xferDone c e x true conseq (restTag x s)

/-- Status that makes a failure consequential (R421): UNROUTABLE or HOPS. -/
def statusConseq (st : Nat) : Bool := st == 4 || st == 5

/-- Where a transfer's data lands, moved on by n bytes. -/
def Loc.at_ (l : Loc) (n : Nat) : Loc := match l with
  | .tarn c a => .tarn c (a + n)
  | .mere a => .mere (a + n)
  | .part e a => .part e (a + n)
  | .zeros => .zeros

/-- TRANSFER_DATA: a DATA reply reaches the engine that asked (R200, R331); one to the ORE waits for its shard to be taken. With status DATA the packet's units land as
zeros. -/
def transferData (k : Packet) (s : State) : State :=
  if !(engines s) || k.op != 4 then s
  else if 12 ≤ epUnit k.dest then (if s.ore.lanes.any fun l => l.asking.any fun q => q % 65536 == k.tag then s else taken k s)
  else match replyFor s k with
  | none => bump rLateReply 1 (taken k s)
  | some (e, x) =>
    let c := epUnit k.dest
    let s := taken k s
    if replyLate s x then bump rLateReply 1 s
    else if k.status ≠ 0 ∧ k.status ≠ 3 then remoteFails c e x (statusConseq k.status) s
    else
      let n := min k.len (x.len - x.got)
      let l := if k.status = 3 then List.replicate n 0 else slice 0 n k.data
      let s := match x.dst.at_ x.got with
        | .tarn d a => tarnWrite d a l (wakeSegs d a n s)
        | .mere a => mereWrite a l s
        | _ => s
      let y := { x with got := x.got + n, failed := x.failed || k.status == 3 }
      let s := setOutst c e ((outstOf s c e).map fun z => if z = x then y else z) s
      if k.lastx then
        if y.failed then xferDone c e y true false (restTag y s) else xferDone c e y false false s
      else s

/-- Access units of Mere of another part that a transfer covers in part: its core's commands count them with its own (R88). -/
def remotePartial (x : Xfer) : Nat :=
  match x.dst with
  | .part ep a => if epUnit ep = 32 then partialUnits a x.outLen else 0
  | _ => 0

/-- TRANSFER_ACK: an ACK reply, to an engine, completes a write or add transfer, or tells that a transfer has failed (R330, R336). -/
def transferAck (k : Packet) (s : State) : State :=
  if !(engines s) || k.op != 5 then s
  else if 12 ≤ epUnit k.dest then taken k s
  else match replyFor s k with
  | none => bump rLateReply 1 (taken k s)
  | some (e, x) =>
    let c := epUnit k.dest
    let s := taken k s
    if replyLate s x then bump rLateReply 1 s
    else if k.status = 0 then xferDone c e x false false (bump (coreReg c 0xA098) (remotePartial x) s)
    else remoteFails c e x (statusConseq k.status) s

/-- TRANSFER_TIMEOUT: outstanding transfer n has had no reply (R331). -/
def transferTimeout (c e n : Nat) (s : State) : State :=
  if !(engines s) then s
  else match (outstOf s c e)[n]? with
  | none => s
  | some x =>
    if !x.remote || x.got != 0 || decide (s.now < x.sent + xferTicks s) then s else remoteFails c e x true s

def execLinkSignal (p : PortId) (s : State) : Host.Outcome State Fault Refusal := .next (linkSignal p.val s)
def execAuthHandshake (p : PortId) (h : PeerHello) (s : State) : Host.Outcome State Fault Refusal := .next (authHandshake p.val h s)
def execLinkBlock (p : PortId) (f : Fec) (b : List Byte) (s : State) : Host.Outcome State Fault Refusal := .next (linkBlock p.val f b s)
def execNakRepeat (p : PortId) (s : State) : Host.Outcome State Fault Refusal := .next (nakRepeat p.val s)
def execReplay (p : PortId) (s : State) : Host.Outcome State Fault Refusal := .next (replay p.val s)
def execRetrain (p : PortId) (c : RetrainCause) (e : RetrainEnd) (s : State) : Host.Outcome State Fault Refusal :=
  .next (retrain p.val c e s)
def execRekey (p : PortId) (h : PeerHello) (s : State) : Host.Outcome State Fault Refusal := .next (rekey p.val h s)
def execPacketSend (p : PortId) (s : State) : Host.Outcome State Fault Refusal := .next (packetSend p.val s)
def execPacketRoute (k : Packet) (s : State) : Host.Outcome State Fault Refusal := .next (packetRoute k s)
def execRemoteWrite (k : Packet) (m : EccMap) (s : State) : Host.Outcome State Fault Refusal := .next (remoteWrite k m s)
def execRemoteRead (k : Packet) (m : EccMap) (s : State) : Host.Outcome State Fault Refusal := .next (remoteRead k m s)
def execRemoteAdd (k : Packet) (m : EccMap) (s : State) : Host.Outcome State Fault Refusal := .next (remoteAdd k m s)
def execTransferData (k : Packet) (s : State) : Host.Outcome State Fault Refusal := .next (transferData k s)
def execTransferAck (k : Packet) (s : State) : Host.Outcome State Fault Refusal := .next (transferAck k s)
def execTransferTimeout (c : CoreId) (e : Engine) (n : Nat) (s : State) : Host.Outcome State Fault Refusal :=
  .next (transferTimeout c.val (engNo e) n s)
def execSwitch (s : State) : Host.Outcome State Fault Refusal := .next (switch s)
/-- A management packet of Weast's to another part's Weast, held as R339 says (log entry 86). -/
def sendMgmt (dest task : Nat) (data : List Byte) (s : State) : State :=
  freshPacket { dest := dest % 2 ^ 18 + 33 * 2 ^ 18, cls := 4, src := selfEp s 33, task := task, op := 8, lastx := true, len := data.length
                data := data } s

/-- TIME_EXCHANGE: as the child, the part notes four timestamps with the neighbour on its port, and sends its own two to that port's
engine in a link-local packet of the management class (R298, R326; log entry 86). -/
def exchangeTime (t1 t2 t3 t4 : Nat) (s : State) : State :=
  let p := rdF s rTimeCtl 2 4
  if !(powered s) || timeSrc s != 2 || (port s p).state != 3 then s
  else
    let data := leBytes 8 t2 ++ leBytes 8 t3
    let s := { s with mail := dropFirst (fun k => k.op == 6) s.mail }
    timeExchange t1 t2 t3 t4
      (queueTx p 8 { dest := (port s p).peerCoord + 34 * 2 ^ 18, cls := 4, src := selfEp s 34, op := 6, lastx := true, len := 16, data := data } s)

def execTimeExchange (t1 t2 t3 t4 : Nat) (s : State) : Host.Outcome State Fault Refusal := .next (exchangeTime t1 t2 t3 t4 s)
def execFabSelfWrite (v : Word) (s : State) : Host.Outcome State Fault Refusal := .next (fabSelfWrite v s)
def execPortDisabled (p : PortId) (s : State) : Host.Outcome State Fault Refusal := .next (portDisabled p.val s)

end Sys2Proof.Machine
end

