-- ==== Sys2Proof/Machine/Mxa.lean ====
section
/-! DEFINITION. The matrix arrays (ch. 4, R109–R136, and the sums of R262–R264). A pass of an MXA.STREAM is one indivisible
piece; so is a shadow fill and a staged read. -/

namespace Sys2Proof.Machine

/-! ## Format pairs (R111) -/

/-- Class (0 8-bit, 1 4-bit, 2 16-bit) and accumulator type of a weight and activation pair. -/
def pairOf (wt at_ : Nat) : Option (Nat × Nat) :=
  let ia := at_ == 0 || at_ == 1
  let f8 := at_ == 4 || at_ == 5
  let h := at_ == 6 || at_ == 7
  if wt = 0 then (if ia then some (0, 9) else none)
  else if wt = 4 ∨ wt = 5 then (if f8 then some (0, 8) else none)
  else if wt = 2 ∨ wt = 3 then (if ia then some (1, 9) else none)
  else if isBlock wt then (if ia || f8 then some (1, 8) else none)
  else if wt = 6 ∨ wt = 7 then (if h then some (2, 8) else none)
  else none

/-- Weight types of the table of format pairs. -/
def isWeight (dt : Nat) : Bool := dt == 0 || (decide (2 ≤ dt) && decide (dt ≤ 7)) || isBlock dt

/-- Class of a tile; 0 when the tile is zero. -/
def Tile.cls (t : Tile) : Nat :=
  if t.k = 0 then 0 else if t.dt = 6 ∨ t.dt = 7 then 2 else if isBlock t.dt || t.dt == 2 || t.dt == 3 then 1 else 0

/-- Token cost of a class (R407). -/
def classTokens (cls : Nat) : Nat := if cls = 0 then 12 else if cls = 1 then 14 else 9

/-! ## Sums -/

/-- Exact sum of values. -/
def exactSum : List FVal → FVal
  | [] => .fin false 0 0
  | v :: r => r.foldl vadd v

/-- A value times 2^k. -/
def scale2 (v : FVal) (k : Int) : FVal :=
  match v with
  | .fin n m e => .fin n m (e + k)
  | x => x

/-- Sum of the products of one band, times its E8M0 scale, rounded once; whether it overflowed (R255, R263). -/
def bandSum (ps : List FVal) (scale : Nat) : Word × Bool :=
  if scale = 0xFF then (0x7FC00000, false) else toF32x (scale2 (exactSum ps) ((scale : Int) - 127))

/-- An FP32 add, with the number of overflows so far. -/
def addCount (a : Word × Nat) (b : Word) : Word × Nat :=
  let r := toF32x (vadd (f32 a.1) (f32 b))
  (r.1, a.2 + if r.2 then 1 else 0)

/-- FP32 total of band values in ascending order, starting from band 0 (R263). -/
def addBands : List (Word × Bool) → Word × Nat
  | [] => (0, 0)
  | b :: r => r.foldl (fun a c => addCount (a.1, a.2 + if c.2 then 1 else 0) c.1) (b.1, if b.2 then 1 else 0)

/-- Groups a list into bands of 32. -/
def bandsOf {α : Type} (n : Nat) (l : List α) : List (List α) := (List.range n).map fun b => (l.drop (32 * b)).take 32

/-- Unscaled value of a weight code. -/
def wVal (dt code : Nat) : FVal :=
  match fmtOf dt with
  | some f => f.decode code
  | none => ofInt (intOf dt code)

/-- Column sum of one column, and the overflows met (R116, R264): exact for integers, the FP32 total of the bands for block
types, the sum of other floats rounded once. -/
def colSum (dt : Nat) (codes scales : List Nat) : Word × Nat :=
  if isBlock dt then
    addBands ((bandsOf scales.length (codes.map (wVal dt))).zip scales |>.map fun p => bandSum p.1 p.2)
  else if dt = 0 ∨ dt = 2 ∨ dt = 3 then (Word.ofNat (ux 32 ((codes.map (intOf dt)).foldl (· + ·) 0)), 0)
  else
    let r := toF32x (exactSum (codes.map (wVal dt)))
    (r.1, if r.2 then 1 else 0)

/-- One output of a pass: the sum over k of x[k] × W[k][j] with the zero point's correction (R109, R124, R262, R263), and
the overflows met. -/
def columnOut (cls wt at_ : Nat) (x codes scales : List Nat) (csum : Word) (zpen : Bool) (zp : Int) : Word × Nat :=
  if cls = 2 then
    let ps := (x.zip codes).map fun p => toF32x (vmul (elemVal at_ p.1 127) (wVal wt p.2))
    addBands ps
  else if isBlock wt then
    let ps := (x.zip codes).map fun p => vmul (elemVal at_ p.1 127) (wVal wt p.2)
    let r := addBands (((bandsOf scales.length ps).zip scales).map fun p => bandSum p.1 p.2)
    let corr := toF32x (vmul (f32 (i2f (-zp))) (f32 csum))
    if zpen then addCount (r.1, r.2 + if corr.2 then 1 else 0) corr.1 else r
  else if at_ = 0 ∨ at_ = 1 then
    let t := (x.zip codes).foldl (fun a p => a + intOf at_ p.1 * intOf wt p.2) 0
    (Word.ofNat (ux 32 (if zpen then t - zp * sx 32 csum.toNat else t)), 0)
  else
    let r := toF32x (exactSum ((x.zip codes).map fun p => vmul (elemVal at_ p.1 127) (wVal wt p.2)))
    (r.1, if r.2 then 1 else 0)

/-- An accumulator's new word: overwritten, or added to with saturation or one rounding (R262, R264), and the saturations. -/
def accumulate (f32acc add : Bool) (old new : Word) : Word × Nat :=
  if !add then (new, 0)
  else if f32acc then let r := toF32x (vadd (f32 old) (f32 new)); (r.1, if r.2 then 1 else 0)
  else
    let t := sx 32 old.toNat + sx 32 new.toNat
    if t < -2 ^ 31 then (0x80000000, 1) else if 2 ^ 31 - 1 < t then (0x7FFFFFFF, 1) else (Word.ofNat (ux 32 t), 0)

/-! ## Immediates (R113) -/

def mxaWsrc (q : QCmd) : Nat := fld q.cmd.w4 0 2
def mxaAmode (q : QCmd) : Nat := fld q.cmd.w4 2 2
def mxaAlvl (q : QCmd) : Nat := fld q.cmd.w4 4 3
def mxaZpen (q : QCmd) : Bool := bitOf q.cmd.w4 7
def mxaZp (q : QCmd) : Int := sx 9 (fld q.cmd.w4 16 9)

/-- Register of array a of core c. -/
def arrReg (c a off : Nat) : Nat := coreReg c (0xB000 + 0x40 * a + off)

/-! ## Loads and the shadow (R114, R117, R119, R127) -/

/-- The run is an MXA.STREAM that loads, or an MXA.LOADW. -/
def isLoader (r : Run) : Bool :=
  r.skipped == 0 && (r.q.cmd.opcode == 0x10 || (r.q.cmd.opcode == 0x20 && mxaWsrc r.q == 0))

/-- Index of a loader's weight operand. -/
def wOp (r : Run) : Nat := if r.q.cmd.opcode = 0x10 then 0 else 1

/-- Iteration i loads: the first, and each whose weight address differs from the one before (R119). -/
def loadsAt (r : Run) (i : Nat) : Bool := i == 0 || r.nest.offset i (wOp r) != r.nest.offset (i - 1) (wOp r)

/-- The next iteration that a loader still has to load. -/
def nextLoad (r : Run) : Option Nat := if isLoader r && !r.err then findFrom (loadsAt r) r.aux (r.total - r.aux) else none

/-- The load part of a run is done (R127). -/
def loadDone (r : Run) : Bool := (nextLoad r).isNone

/-- The tile in the shadow is one that a started MXA.STREAM will swap in (R117). -/
def claimed (r : Run) : Bool :=
  isLoader r && r.q.cmd.opcode == 0x20 && (findFrom (loadsAt r) r.it (r.aux - r.it)).isSome

/-- A started MXA.STREAM with WSRC = SHADOW has not yet made its swap (R117). -/
def shadowDue (r : Run) : Bool :=
  r.skipped == 0 && r.q.cmd.opcode == 0x20 && mxaWsrc r.q == 1 && r.it == 0 && !r.ended && r.total != 0

/-- A load into the shadow must wait (R117). -/
def shadowBusy (s : State) (k : Nat) : Bool := (unitOf s k).running.any fun r => claimed r || shadowDue r

/-- Started commands that have still to make a swap. -/
def swapsDue (s : State) (k : Nat) : List Run := (unitOf s k).running.filter fun r => claimed r || shadowDue r

/-- The tile that the swap of a command that starts now takes: what the shadow holds, but nothing once a started command is to
take that (R114, R117; log entry 79). -/
def shadowTile (s : State) (k c a : Nat) : Tile :=
  if (swapsDue s k).isEmpty then (arr s c a).shadow.getD {} else {}

/-- The tile that is active once every started command has made its swaps: the first of them takes the tile in the shadow, a
later one finds the shadow empty (R114). -/
def futureActive (s : State) (k c a : Nat) : Tile :=
  match swapsDue s k with
  | [] => (arr s c a).active
  | [_] => (arr s c a).shadow.getD {}
  | _ => {}

/-- Rows of a weight operand at iteration i as a tile (R109, R116). -/
def readTile (s : State) (c : Nat) (d : Desc) (n : Nest) (i j : Nat) : Tile :=
  let rows := (List.range (d.e 1)).map fun col => readRow s (storeOf c d) d n i j (col, 0, 0)
  { dt := d.dtype, k := d.e 0, n := d.e 1, codes := rows.map Prod.fst, scales := rows.map Prod.snd,
    csum := rows.map fun p => (colSum d.dtype p.1 p.2).1 }

/-- Overflows met in closing a tile's column sums (R264). -/
def sumOverflows (t : Tile) : Nat := ((t.codes.zip t.scales).map fun p => (colSum t.dt p.1 p.2).2).sum

/-- Bytes that a tile takes in the staging buffer. -/
def Tile.bytes (t : Tile) : Nat := t.n * rowBytes t.dt t.k

/-- The same tile with every weight zero (R121). -/
def zeroed (t : Tile) : Tile :=
  { t with codes := t.codes.map fun l => l.map fun _ => 0, scales := t.scales.map fun l => l.map fun _ => 127
           csum := t.csum.map fun _ => 0 }

/-- SHADOW_FILL: the weight feeder fills the shadow with the next tile of the command whose load part is under way
(R116, R117, R121). An MXA.LOADW retires with it (R128). -/
def shadowFill (c a : Nat) (s : State) : State :=
  let k := unitKey c a
  if !(engines s) || s.ssq.aborting then s
  else
    match (unitOf s k).running.find? fun r => !(loadDone r) with
    | none => s
    | some r =>
      match nextLoad r with
      | none => s
      | some i =>
        let d := r.desc.getD (wOp r) {}
        let ar := arr s c a
        let st := ar.staged.find? fun t => t.1 == r.q.seq && t.2.1 == i
        if shadowBusy s k || !(metThrough s r i) || (d.kind == 2 && st.isNone) then s
        else
          let tile := match st with
            | some t => t.2.2
            | none => readTile s c d r.nest i (wOp r)
          let fill := fun s : State =>
            let s := if ar.shadow.isSome then bump (arrReg c a 0x1C) 1 s else s
            let s := setArr c a { arr s c a with shadow := some tile, staged := ar.staged.filter fun t => !(t.1 == r.q.seq && t.2.1 == i) } s
            let s := bump (arrReg c a 0x30) (sumOverflows tile) (bump (arrReg c a 0xC) 1 s)
            let s := updRun k r.q.seq (fun r => { r with aux := i + 1 }) (takeMet k r i s)
            if r.q.cmd.opcode = 0x10 then endIter k r.q.seq s else s
          withSegs c (rowSegs d r.nest i (wOp r)) fill s

/-- Iterations whose tiles a direct-load command has still to stage. -/
def nextStage (ar : ArraySt) (r : Run) : Option Nat :=
  let i0 := (ar.staged.filter fun t => t.1 == r.q.seq).foldl (fun m t => max m (t.2.1 + 1)) r.aux
  if isLoader r && !r.err then findFrom (loadsAt r) i0 (r.total - i0) else none

/-- The staging buffer has room for a tile: 128 KiB, and two tiles at most (R121). -/
def stagingFits (ar : ArraySt) (n : Nat) : Bool :=
  decide (ar.staged.length < 2) && decide ((ar.staged.map fun t => t.2.2.bytes).sum + n ≤ 2 ^ 17)

/-- What keeps the load part of array a of core c: 1 the shadow (R117), 2 the staging of its tile (R121); 0 for neither. -/
def loadHeld (s : State) (c a : Nat) : Nat :=
  let k := unitKey c a
  match (unitOf s k).running.find? fun r => !(loadDone r) with
  | none => 0
  | some r =>
    match nextLoad r with
    | none => 0
    | some i =>
      if !(metThrough s r i) then 0
      else if shadowBusy s k then 1
      else if (r.desc.getD (wOp r) {}).kind == 2 && !((arr s c a).staged.any fun t => t.1 == r.q.seq && t.2.1 == i) then 2
      else 0

/-- STAGED_READ: the next tile of a direct load enters the staging buffer (R121). -/
def stagedRead (c a : Nat) (ecc : EccMap) (s : State) : State :=
  let k := unitKey c a
  let ar := arr s c a
  if !(engines s) || s.ssq.aborting then s
  else
    match (unitOf s k).running.find? fun r => (r.desc.getD (wOp r) {}).kind == 2 && (nextStage ar r).isSome with
    | none => s
    | some r =>
      match nextStage ar r with
      | none => s
      | some i =>
        let d := r.desc.getD (wOp r) {}
        if !(metThrough s r i) || !(stagingFits ar (d.e 1 * rowBytes d.dtype (d.e 0))) then s
        else
          let us := ((List.range (d.e 1)).flatMap fun col =>
            unitsOf (rowAddr d r.nest i (wOp r) col 0 0) (rowBytes d.dtype (d.e 0))).eraseDups
          let s := wakeUnits us s
          let tile := readTile s c d r.nest i (wOp r)
          let bad := anyUe ecc us
          let s := setArr c a { ar with staged := ar.staged ++ [(r.q.seq, i, if bad then zeroed tile else tile)] }
            (takeMet k r i (noteUnits ecc us s))
          if bad then
            updRun k r.q.seq (fun r => { r with fails := r.fails + 1 }) s
          else s

/-! ## Judging (R112–R115, R120) -/

/-- Operands of MXA.STREAM for its WSRC: with SHADOW or ACTIVE operand 1 is not read (R114). -/
def streamSpecs (a mode : Nat) : List OpSpec :=
  [{ kinds := [1] }, { kinds := [1, 2] }, { kinds := [3], write := true, accum := mode != 0, array := some a }]

/-- A direct load's range lies in the core's two local stacks (R120). -/
def localRange (c : Nat) (b : Int × Int) : Bool :=
  decide (((2 * c) * 2 ^ 37 : Nat) ≤ b.1) && decide (b.2 < (((2 * c + 2) * 2 ^ 37 : Nat) : Int))

/-- Shape rules of a weight operand (R112). -/
def weightOk (d : Desc) : Bool :=
  d.rank == 2 && isWeight d.dtype && decide (1 ≤ d.e 0) && decide (d.e 0 ≤ 256) && decide (1 ≤ d.e 1) && decide (d.e 1 ≤ 256)

/-- Judges an MXA.LOADW. -/
def prepLoadw (s : State) (q : QCmd) : Except Nat Prep := do
  need (q.cmd.loopIx == 0) 0x05
  let sps : List OpSpec := [{ kinds := [1, 2] }]
  let raw ← readOperands s q.core (taskOf s) q.cmd.desc {} sps
  let ds := resolveAll s q.core raw
  let d := ds.getD 0 {}
  need (weightOk d) 0x04
  let mid := if d.kind = 2 ∧ !(localRange q.core (boundOf {} 0 false d)) then 0x09 else 0
  let r := rangeChecks s (taskOf s) {} sps ds [q.core] mid
  need (r == 0) r
  need (!(oa s && decide (clampCount s q.core raw ≠ 0))) 0x08
  pure (mkPrep s q {} sps raw ds [q.core] 0)

/-- Judges an MXA.ZACC (R115). -/
def prepZacc (s : State) (q : QCmd) : Except Nat Prep := do
  let n ← readNest s q.core q.cmd.loopIx 1 (fun _ => true)
  let sps : List OpSpec := [{ kinds := [3], write := true, array := some q.cmd.unit }]
  let ds ← readOperands s q.core (taskOf s) q.cmd.desc n sps
  let r := rangeChecks s (taskOf s) n sps ds [q.core] 0
  need (r == 0) r
  pure (mkPrep s q n sps ds ds [q.core] 0)

/-- Class of the run's passes, and whether its tile, activation and accumulator agree (R111, R112, R114). -/
def streamClass (t : Tile) (x acc : Desc) : Option Nat :=
  let shape := fun nn => x.rank == 2 && decide (1 ≤ x.e 0) && decide (x.e 0 ≤ 256) && decide (1 ≤ x.e 1) && decide (x.e 1 ≤ 1024)
    && acc.e 0 == (nn + 31) / 32 * 32 && acc.e 1 == x.e 1
  if t.k = 0 then
    let known := x.dtype == 0 || x.dtype == 1 || (decide (4 ≤ x.dtype) && decide (x.dtype ≤ 7))
    let accOk := if x.dtype = 0 ∨ x.dtype = 1 then true else acc.dtype == 8
    if known && accOk && shape (acc.e 0) && acc.e 0 != 0 then some (if x.dtype = 6 ∨ x.dtype = 7 then 2 else 0) else none
  else match pairOf t.dt x.dtype with
    | none => none
    | some (cls, at_) => if acc.dtype == at_ && x.e 0 == t.k && shape t.n then some cls else none

/-- Judges an MXA.STREAM, in the order of R503. -/
def prepStream (s : State) (q : QCmd) : Except Nat Prep := do
  let c := q.core
  let a := q.cmd.unit
  let k := unitKey c a
  let wsrc := mxaWsrc q
  let mode := mxaAmode q
  need (wsrc != 3 && mode != 3 && ((mxaAlvl q == 0) == (mode != 2))) 0x03
  need (decide (mxaAlvl q ≤ (peekLevels s c q.cmd.loopIx).getD 6)) 0x03
  need (!(mxaZpen q || mxaZp q != 0) || match peekWords s c (taskOf s) q.cmd.desc with
    | some w => decide (w.getD 0 0 / 16 % 16 ≤ 1)
    | none => true) 0x03
  let n ← readNest s c q.cmd.loopIx 3 (fun r => wsrc == 0 || r.nest.incs.all fun l => l.getD 1 0 == 0)
  let sps := streamSpecs a mode
  let x ← readOperand s c (taskOf s) q.cmd.desc 0 n (sps.getD 0 { kinds := [] })
  let w ← if wsrc = 0 then readOperand s c (taskOf s) q.cmd.desc 1 n (sps.getD 1 { kinds := [] }) else pure {}
  let acc ← readOperand s c (taskOf s) q.cmd.desc 2 n (sps.getD 2 { kinds := [] })
  need (wsrc != 0 || weightOk w) 0x04
  let tile : Tile := if wsrc = 0 then { dt := w.dtype, k := w.e 0, n := w.e 1 }
    else if wsrc = 1 then shadowTile s k c a else futureActive s k c a
  let cls ← match streamClass tile x acc with
    | some cls => pure cls
    | none => Except.error 0x04
  let raw := [x, w, acc]
  let ds := resolveAll s c raw
  let w' := ds.getD 1 {}
  let tcs := if wsrc = 0 then [c, c, c] else [c, 98, c]
  let mid := if w'.kind = 2 ∧ !(localRange c (boundOf n 1 false w')) then 0x09 else 0
  let ds' := if wsrc = 0 then ds else ds.set 1 { kind := 9, rank := 0 }
  let r := rangeChecks s (taskOf s) n sps ds' tcs mid
  need (r == 0) r
  need (!(oa s && decide (clampCount s c raw ≠ 0))) 0x08
  pure (mkPrep s q n sps raw ds' tcs (classTokens cls))

/-! ## Commands -/

/-- The array has finished the command before: its load part is done (R127), or it was skipped and has retired (R68). -/
def arrayFree (k : Nat) (s : State) : Bool := (unitOf s k).running.all fun r => r.skipped == 0 && loadDone r

/-- The latest started MXA.STREAM that still holds its cost (R130). -/
def holder (s : State) (k : Nat) : Option Run :=
  ((unitOf s k).running.filter fun r => r.q.cmd.opcode == 0x20 && r.tokens != 0).getLast?

/-- Tokens that a judged command of unit k still has to draw: an MXA.STREAM takes over what an earlier one holds (R130). -/
def costDue (s : State) (k : Nat) (q : QCmd) (p : Prep) : Nat :=
  if q.cmd.unit < 4 ∧ q.cmd.opcode = 0x20 then p.cost - ((holder s k).map Run.tokens).getD 0 else p.cost

/-- Starts an MXA.STREAM, taking over the cost of the latest started one that still holds it, and charging or returning the
difference (R130). -/
def startStream (k : Nat) (q : QCmd) (p : Prep) (s : State) : State :=
  match holder s k with
  | none => startPrep k q p s
  | some h =>
    let s' := tryStart k q p.run (p.cost - h.tokens) s
    if started s' k q.seq then
      let s' := updRun k h.q.seq (fun r => { r with tokens := 0 }) s'
      let s' := updRun k q.seq (fun r => { r with tokens := p.cost }) s'
      let s' := if p.cost < h.tokens then returnTokens (h.tokens - p.cost) s' else s'
      startEmpty k q.seq (bump (coreReg q.core 0xA090) p.clamps s')
    else s'

/-- The run whose rows enter next: the oldest with passes left (R122). -/
def rowRun (s : State) (k : Nat) : Option Run :=
  firstRun s k fun r => r.skipped == 0 && (r.q.cmd.opcode == 0x20 || r.q.cmd.opcode == 0x30) && decide (r.it < r.total)

/-- One pass: the tile it needs is swapped in, and its rows enter and land (R109, R118, R119, R122–R124). -/
def passBody (c a : Nat) (r : Run) (s : State) : State :=
  let ar := arr s c a
  let x := r.desc.getD 0 {}
  let acc := r.desc.getD 2 {}
  let loads := mxaWsrc r.q == 0 && loadsAt r r.it
  let s := if loads || (mxaWsrc r.q == 1 && r.it == 0) then
      let s := if ar.shadow.isNone then bump (arrReg c a 0x20) 1 s else s
      setArr c a { ar with active := ar.shadow.getD {}, shadow := none } s
    else if mxaWsrc r.q == 0 then bump (arrReg c a 0x10) 1 s else s
  let t := (arr s c a).active
  let f32acc := acc.dtype == 8
  let add := mxaAmode r.q == 1 || (mxaAmode r.q == 2 && r.nest.digit r.it (mxaAlvl r.q) != 0)
  let cls := t.cls
  let row0 := (acc.base + r.nest.offset r.it 2).toNat
  let s := iter (x.e 1) (fun m s =>
    let xs := (readRow s (.tarn c) x r.nest r.it 0 (m, 0, 0)).1
    iter (acc.e 0) (fun j s =>
      let out : Word × Nat :=
        if t.k = 0 ∨ t.n ≤ j then (0, 0)
        else columnOut cls t.dt x.dtype xs (t.codes.getD j []) (t.scales.getD j []) (t.csum.getD j 0) (mxaZpen r.q) (mxaZp r.q)
      let new := accumulate f32acc add (accAt s c a (row0 + m) (32 * acc.colb + j)) out.1
      let s := accSet c a (row0 + m) (32 * acc.colb + j) new.1 s
      if out.2 + new.2 = 0 then s else bump (arrReg c a 0x30) (out.2 + new.2) s) s) s
  bump (arrReg c a 8) (x.e 1) s

/-- The pass of a run may enter: its wait is met, and its tile loaded (R128). -/
def passReady (s : State) (r : Run) : Bool :=
  metThrough s r r.it && (mxaWsrc r.q != 0 || !(loadsAt r r.it) || decide (r.it < r.aux))

/-- The rows that are to enter next wait for their tile's load (R129). -/
def rowsHeld (s : State) (k : Nat) : Bool :=
  match rowRun s k with
  | some r => r.q.cmd.opcode == 0x20 && metThrough s r r.it && !(passReady s r)
  | none => false

/-- MXA.STREAM on array a of core c: starts the head when it may, else runs the next pass of the oldest started command. -/
def mxaStream (c a : Nat) (s : State) : State :=
  let k := unitKey c a
  if !(engines s) || s.ssq.aborting then s
  else
    let s' := match headIs s k 0x20 with
      | none => s
      | some q =>
        if !(arrayFree k s) then s
        else match prepStream s q with
          | .error _ => s
          | .ok p => startStream k q p s
    match headOf s k with
    | some q => if started s' k q.seq then s' else pass k c a s'
    | none => pass k c a s'
where
  /-- The next pass of the oldest started command with passes left. -/
  pass (k c a : Nat) (s : State) : State :=
    match rowRun s k with
    | none => s
    | some r =>
      if r.q.cmd.opcode ≠ 0x20 || !(passReady s r) then s
      else
        withSegs c (runSegs r r.it fun j => j == 0)
          (fun s => endIter k r.q.seq (passBody c a r (takeMet k r r.it s))) s

/-- One iteration of an MXA.ZACC (R115). -/
def zaccBody (c a : Nat) (r : Run) (s : State) : State :=
  let d := r.desc.getD 0 {}
  let row0 := (d.base + r.nest.offset r.it 0).toNat
  if r.empty then s
  else iter (d.e 1) (fun m s => iter (d.e 0) (fun j s => accSet c a (row0 + m) (32 * d.colb + j) 0 s) s) s

/-- MXA.ZACC: starts once the array has finished the command before, and its zeros land in row order behind the passes of
earlier commands. -/
def mxaZacc (c a : Nat) (s : State) : State :=
  let k := unitKey c a
  if !(engines s) || s.ssq.aborting then s
  else
    let s' := match headIs s k 0x30 with
      | none => s
      | some q =>
        if !(arrayFree k s) then s
        else match prepZacc s q with
          | .error _ => s
          | .ok p => startPrep k q p s
    match rowRun s' k with
    | none => s'
    | some r => if r.q.cmd.opcode = 0x30 then runIter k r (zaccBody c a r) s' else s'

/-- MXA.LOADW: starts; its load is a shadow fill. -/
def mxaLoadw (c a : Nat) (s : State) : State :=
  let k := unitKey c a
  if !(engines s) || s.ssq.aborting then s
  else match headIs s k 0x10 with
    | none => s
    | some q =>
      if !(arrayFree k s) then s
      else match prepLoadw s q with
        | .error _ => s
        | .ok p => startPrep k q p s

/-- MXA.NOP. -/
def mxaNop (c a : Nat) (s : State) : State :=
  unitEvent (unitKey c a) 0 (arrayFree (unitKey c a)) prepNop nopBody s


end Sys2Proof.Machine
end

