-- ==== Sys2Proof/Machine/Spu.lean ====
section
/-! DEFINITION. The scalar pipes (R74, R75, R174–R178): one instruction of a pipe is one step. -/

namespace Sys2Proof.Machine

/-! ## Pipes -/

/-- Key of the SPU's queue of core c. -/
def spuKey (c : Nat) : Nat := unitKey c 6

/-- A pipe's run; nins = 0 when the pipe runs nothing. -/
def pipeOf (s : State) (c p : Nat) : PipeRun := sget (fun _ => {}) (c * 8 + p) s.pipes
/-- Changes a pipe's run. -/
def setPipe (c p : Nat) (v : PipeRun) (s : State) : State := { s with pipes := sset (fun _ => {}) (c * 8 + p) v s.pipes }

/-- The pipe that a command occupies, if any (R175). -/
def pipeUsed (q : QCmd) : Option Nat :=
  if q.cmd.opcode = 0x10 then some (fld q.cmd.w4 0 3) else if q.cmd.opcode = 0x20 then some (fld q.cmd.w4 10 3) else none

/-- The SPU has finished the command before its head (R175). -/
def spuFree (k : Nat) (s : State) : Bool :=
  match headOf s k with
  | none => false
  | some q => (unitOf s k).running.all fun r =>
      r.skipped == 0 && ((pipeUsed q).isNone || pipeUsed r.q != pipeUsed q || doneFor r)

/-- x0 reads 0 and ignores writes. -/
def xReg (s : State) (c p r : Nat) : DWord := if r = 0 then 0 else spuReg s c p r
/-- Writes a register of a pipe. -/
def setX (c p r : Nat) (v : DWord) (s : State) : State := if r = 0 then s else spuSet c p r v s

/-! ## Commands -/

/-- Judges an SPU.RUN (R174). -/
def prepRun (s : State) (q : QCmd) : Except Nat Prep := do
  let n ← readNest s q.core q.cmd.loopIx 2 (fun _ => true)
  let sps : List OpSpec := [{ kinds := [1] }, { kinds := [1], write := true, accum := true }]
  let raw ← readOperands s q.core (taskOf s) q.cmd.desc n sps
  let d := raw.getD 0 {}
  need (d.rank == 1 && d.dtype == 1 && d.e 0 % 8 == 0 && decide (8 ≤ d.e 0) && decide (d.e 0 ≤ 32768)) 0x04
  let ds := resolveAll s q.core raw
  let r := rangeChecks s (taskOf s) n sps ds [q.core, q.core] 0
  need (r == 0) r
  need (!(oa s && decide (clampCount s q.core raw ≠ 0))) 0x08
  pure (mkPrep s q n sps raw ds [q.core, q.core] 0)

/-- Judges an SPU.RDREG (R74, R177). -/
def prepRdreg (s : State) (q : QCmd) : Except Nat Prep := do
  need (decide (fld q.cmd.w4 0 5 ≤ 9)) 0x0E
  prepNop s q

/-- An iteration of a run begins: x1, x2, the program and the data window (R174, R176). -/
def beginRun (c : Nat) (r : Run) (s : State) : State :=
  let k := spuKey c
  let p := fld r.q.cmd.w4 0 3
  if r.empty || r.err then endIter k r.q.seq (takeWait k r s)
  else
    let s := takeWait k r s
    let d := r.desc.getD 0 {}
    let w := r.desc.getD 1 {}
    let base := w.base + r.nest.offset r.it 1 * 64
    let sp := strideSpan w w.ext
    let s := setPipe c p { seq := r.q.seq, prog := rowAddr d r.nest r.it 0 0 0 0, nins := d.e 0 / 8, pc := 0,
                           winLo := (base + sp.1).toNat, winHi := (base + sp.2).toNat, count := 0 } s
    let s := setX c p 1 (BitVec.ofNat 64 (r.q.cmd.w5.toNat + 2 ^ 32 * r.q.cmd.w6.toNat)) s
    let s := setX c p 2 (BitVec.ofNat 64 (ux 64 base)) s
    updRun k r.q.seq (fun r => { r with open_ := true }) s

/-- SPU.RUN: starts the head and begins its first iteration, or begins the next iteration of a command whose pipe has ended
one. -/
def spuRun (c : Nat) (s : State) : State :=
  let k := spuKey c
  if !(engines s) || s.ssq.aborting then s
  else match firstRun s k (fun r => r.q.cmd.opcode == 0x10 && r.skipped == 0 && !r.open_ && iterReady s r) with
  | some r => beginRun c r s
  | none => match headIs s k 0x10 with
    | none => s
    | some q =>
      if !(spuFree k s) then s
      else match prepRun s q with
        | .error _ => s
        | .ok p =>
          let s' := startPrep k q p s
          match firstRun s' k (fun r => r.q.seq == q.seq) with
          | some r => if iterReady s' r then beginRun c r s' else s'
          | none => s'

/-- Word of the stream-visible set (R74, R75): an index of a high word returns what its low word latched. -/
def rdregRead (i : Nat) (s : State) : Word × State :=
  let latch := fun (k v : Nat) => (Word.ofNat v, { s with latches := sset zero32 (2 ^ 33 + k) (Word.ofNat (v / 2 ^ 32)) s.latches })
  if i = 0 then (cfg s rMaskLive, s)
  else if i = 1 then (cfg s rMaskFused, s)
  else if i = 2 then (cfg s rTarnSize, s)
  else if i = 3 then (cfg s rSsqFeatures, s)
  else if i = 4 then (cfg s rPool, s)
  else if i = 5 then (cfg s (rCompat + 4 * s.ssq.task), s)
  else if i = 6 then latch 0 s.ssq.issue
  else if i = 8 then latch 1 (timeCounter s)
  else (sget zero32 (2 ^ 33 + (i - 6) / 2) s.latches, s)

/-- An iteration of SPU.RDREG. -/
def rdregBody (c : Nat) (r : Run) (s : State) : State :=
  let w := r.q.cmd.w4
  let v := rdregRead (fld w 0 5) s
  setX c (fld w 10 3) (fld w 5 5) (BitVec.ofNat 64 v.1.toNat) v.2

def spuRdreg (c : Nat) (s : State) : State := unitEvent (spuKey c) 0x20 (spuFree (spuKey c)) prepRdreg (rdregBody c) s
def spuNop (c : Nat) (s : State) : State := unitEvent (spuKey c) 0 (spuFree (spuKey c)) prepNop nopBody s

/-! ## Instructions (table of the instruction word) -/

/-- An instruction word's fields. -/
structure Ins where
  opc : Nat
  rd : Nat
  ra : Nat
  rb : Nat
  rsv : Nat
  imm : DWord

/-- Fields of an instruction word. -/
def Ins.ofNat (w : Nat) : Ins :=
  { opc := w % 256, rd := w / 2 ^ 8 % 32, ra := w / 2 ^ 13 % 32, rb := w / 2 ^ 18 % 32, rsv := w / 2 ^ 23 % 2 ^ 9
    imm := BitVec.ofNat 64 (ux 64 (sx 32 (w / 2 ^ 32))) }

/-- The instruction that a running pipe comes to. -/
def insAt (s : State) (c p : Nat) : Ins := Ins.ofNat (tarnLe s c ((pipeOf s c p).prog + 8 * (pipeOf s c p).pc) 8)

/-- A listed operation code. -/
def insKnown (o : Nat) : Bool :=
  decide (o ≤ 2) || (decide (0x08 ≤ o) && decide (o ≤ 0x16)) || (decide (0x20 ≤ o) && decide (o ≤ 0x27))
    || (decide (0x30 ≤ o) && decide (o ≤ 0x36)) || o == 0x38 || (decide (0x3C ≤ o) && decide (o ≤ 0x3F))

/-- Value of a and b as signed numbers. -/
def signed (v : DWord) : Int := sx 64 v.toNat

/-- Address of a load or store, and its bytes. -/
def insAddr (s : State) (c p : Nat) (i : Ins) : Nat := (xReg s c p i.ra + i.imm).toNat
def insBytes (i : Ins) : Nat := 2 ^ (i.opc % 4)

/-- A branch is taken. -/
def insTaken (s : State) (c p : Nat) (i : Ins) : Bool :=
  let a := xReg s c p i.ra
  let b := xReg s c p i.rb
  if i.opc = 0x3C then decide (signed a < signed b) else if i.opc = 0x3D then a == b else if i.opc = 0x3E then a != b
  else i.opc == 0x3F

/-- Target of a branch. -/
def insTarget (s : State) (c p : Nat) (i : Ins) : Int := ((pipeOf s c p).pc : Int) + signed i.imm

/-- The offending instruction is executed, and counted: a load, a store or a branch out of range. -/
def insOut (s : State) (c p : Nat) (i : Ins) : Bool :=
  let r := pipeOf s c p
  if 0x20 ≤ i.opc ∧ i.opc ≤ 0x27 then
    decide (insAddr s c p i < r.winLo) || decide (r.winHi < insAddr s c p i + insBytes i - 1)
  else if 0x3C ≤ i.opc then insTaken s c p i && (decide (insTarget s c p i < 0) || decide ((r.nins : Int) ≤ insTarget s c p i))
  else false

/-- The instruction is not executed at all: the budget is used up, or the word is not one of the set (R176). -/
def insBad (s : State) (c p : Nat) (i : Ins) : Bool :=
  decide (max 1 (fld (cfg s (coreReg c 0xB16C)) 0 24) ≤ (pipeOf s c p).count) || !(insKnown i.opc) || i.rsv != 0

/-- The pipe runs. -/
def pipeRuns (s : State) (c p : Nat) : Bool := engines s && !s.ssq.aborting && (pipeOf s c p).nins != 0

/-- The iteration's run has ended. -/
def endRun (c p : Nat) (s : State) : State :=
  let k := spuKey c
  let seq := (pipeOf s c p).seq
  endIter k seq (updRun k seq (fun r => { r with open_ := false }) (setPipe c p {} s))

/-- Segments that the instruction is fetched from. -/
def fetchSegs (s : State) (c p : Nat) : List Nat := segSpan ((pipeOf s c p).prog + 8 * (pipeOf s c p).pc) 8

/-- Segments that an instruction's fetch, load or store touches. -/
def insSegs (s : State) (c p : Nat) (i : Ins) : List Nat :=
  fetchSegs s c p ++ if 0x20 ≤ i.opc ∧ i.opc ≤ 0x27 then segSpan (insAddr s c p i) (insBytes i) else []

/-- The pipe's next instruction is of an operation code and may run. -/
def insNext (s : State) (c p opc : Nat) : Bool :=
  let i := insAt s c p
  pipeRuns s c p && !(insBad s c p i) && !(insOut s c p i) && i.opc == opc

/-- The pipe's next instruction, when it is of an operation code, may run, and its segments are on. -/
def insReady (s : State) (c p opc : Nat) : Option Ins :=
  if insNext s c p opc && (insSegs s c p (insAt s c p)).all fun g => segOn s c g then some (insAt s c p) else none

/-- What an instruction does that may run but touches a segment that is not on: it begins to wake it (R194). -/
def insWake (c p opc : Nat) (s : State) : State :=
  if insNext s c p opc then (insSegs s c p (insAt s c p)).foldl (fun s g => reachSeg c g s) s else s

/-- The pipe goes on at instruction pc; past the program's end its run ends (R176). -/
def goTo (c p pc : Nat) (s : State) : State :=
  let r := pipeOf s c p
  let s := setPipe c p { r with pc := pc, count := r.count + 1 } (bump (coreReg c 0xB164) 1 s)
  if r.nins ≤ pc then endRun c p s else s

/-- An instruction that writes rd from its operands: rd's old value, ra, rb and imm. -/
def alu (c p opc : Nat) (f : DWord → DWord → DWord → DWord → DWord) (s : State) : State :=
  match insReady s c p opc with
  | none => insWake c p opc s
  | some i => goTo c p ((pipeOf s c p).pc + 1)
      (setX c p i.rd (f (xReg s c p i.rd) (xReg s c p i.ra) (xReg s c p i.rb) i.imm) s)

/-- A load of n bytes. -/
def load (c p opc n : Nat) (s : State) : State :=
  match insReady s c p opc with
  | none => insWake c p opc s
  | some i => goTo c p ((pipeOf s c p).pc + 1) (setX c p i.rd (BitVec.ofNat 64 (tarnLe s c (insAddr s c p i) n)) s)

/-- A store of n bytes. -/
def store (c p opc n : Nat) (s : State) : State :=
  match insReady s c p opc with
  | none => insWake c p opc s
  | some i => goTo c p ((pipeOf s c p).pc + 1) (tarnWrite c (insAddr s c p i) (leBytes n (xReg s c p i.rb).toNat) s)

/-- A branch. -/
def branch (c p opc : Nat) (s : State) : State :=
  match insReady s c p opc with
  | none => insWake c p opc s
  | some i => goTo c p (if insTaken s c p i then (insTarget s c p i).toNat else (pipeOf s c p).pc + 1) s

/-- SPU_CUTOFF: the run stops at the offending instruction; its command goes on to complete without running more (R176). -/
def spuCutoff (c p : Nat) (s : State) : State :=
  let i := insAt s c p
  let bad := insBad s c p i
  if pipeRuns s c p && (bad || insOut s c p i) then withSegs c (fetchSegs s c p) (cut bad i) s else s
where
  /-- The run stops at instruction i. -/
  cut (bad : Bool) (i : Ins) (s : State) : State :=
    let k := spuKey c
    let seq := (pipeOf s c p).seq
    let tag := ((runOf s k seq).map fun r => r.q.tag).getD 0
    let s := if bad then s else bump (coreReg c 0xB164) 1 s
    let s := if !bad && decide (0x20 ≤ i.opc) && decide (i.opc ≤ 0x23) then setX c p i.rd 0 s else s
    let s := raise (srcOf 0 c 6) 0x14 tag (bump (coreReg c 0xB168) 1 s)
    endRun c p (updRun k seq (fun r => { r with err := true }) s)

/-- HALT. -/
def spuHalt (c p : Nat) (s : State) : State :=
  match insReady s c p 0 with
  | none => insWake c p 0 s
  | some _ => endRun c p (bump (coreReg c 0xB164) 1 s)

/-- FP32 words of the low halves, zero-extended again. -/
def low (v : DWord) : Word := Word.ofNat v.toNat
def ext (w : Word) : DWord := BitVec.ofNat 64 w.toNat

/-- One round of Philox-4x32: counter and key. -/
def philoxRound (c : Nat × Nat × Nat × Nat) (k : Nat × Nat) : Nat × Nat × Nat × Nat :=
  let p0 := 0xD2511F53 * c.1
  let p1 := 0xCD9E8D57 * c.2.2.1
  ((p1 / 2 ^ 32) ^^^ c.2.1 ^^^ k.1, p1 % 2 ^ 32, (p0 / 2 ^ 32) ^^^ c.2.2.2 ^^^ k.2, p0 % 2 ^ 32)

/-- Philox-4x32-10 (R178). -/
def philox (key : Nat × Nat) (ctr : Nat × Nat × Nat × Nat) : Nat × Nat × Nat × Nat :=
  ((List.range 10).foldl (fun (a : (Nat × Nat × Nat × Nat) × Nat × Nat) _ =>
    (philoxRound a.1 a.2, (a.2.1 + 0x9E3779B9) % 2 ^ 32, (a.2.2 + 0xBB67AE85) % 2 ^ 32)) (ctr, key)).1

/-- RAND's result (R178). -/
def randOf (a b imm : DWord) : DWord :=
  let h := fun (v : DWord) => (v.toNat % 2 ^ 32, v.toNat / 2 ^ 32)
  let r := philox (h a) ((h b).1, (h b).2, (h imm).1, (h imm).2)
  BitVec.ofNat 64 (r.1 + 2 ^ 32 * r.2.1)

/-- Shift distance (R177's table). -/
def shiftBy (b i : DWord) : Nat := (b + i).toNat % 64

def execSpuCutoff (c : CoreId) (p : PipeId) (s : State) : Host.Outcome State Fault Refusal := .next (spuCutoff c.val p.val s)
def execHalt (c : CoreId) (p : PipeId) (s : State) : Host.Outcome State Fault Refusal := .next (spuHalt c.val p.val s)
def execLi (c : CoreId) (p : PipeId) (s : State) : Host.Outcome State Fault Refusal :=
  .next (alu c.val p.val 0x01 (fun _ _ _ i => i) s)
def execLui (c : CoreId) (p : PipeId) (s : State) : Host.Outcome State Fault Refusal :=
  .next (alu c.val p.val 0x02 (fun d _ _ i => (d &&& 0xFFFFFFFF) ||| (i <<< 32)) s)
def execAdd (c : CoreId) (p : PipeId) (s : State) : Host.Outcome State Fault Refusal :=
  .next (alu c.val p.val 0x08 (fun _ a b _ => a + b) s)
def execSub (c : CoreId) (p : PipeId) (s : State) : Host.Outcome State Fault Refusal :=
  .next (alu c.val p.val 0x09 (fun _ a b _ => a - b) s)
def execMul (c : CoreId) (p : PipeId) (s : State) : Host.Outcome State Fault Refusal :=
  .next (alu c.val p.val 0x0A (fun _ a b _ => a * b) s)
def execAddi (c : CoreId) (p : PipeId) (s : State) : Host.Outcome State Fault Refusal :=
  .next (alu c.val p.val 0x0B (fun _ a _ i => a + i) s)
def execAnd (c : CoreId) (p : PipeId) (s : State) : Host.Outcome State Fault Refusal :=
  .next (alu c.val p.val 0x0C (fun _ a b _ => a &&& b) s)
def execOr (c : CoreId) (p : PipeId) (s : State) : Host.Outcome State Fault Refusal :=
  .next (alu c.val p.val 0x0D (fun _ a b _ => a ||| b) s)
def execXor (c : CoreId) (p : PipeId) (s : State) : Host.Outcome State Fault Refusal :=
  .next (alu c.val p.val 0x0E (fun _ a b _ => a ^^^ b) s)
def execShl (c : CoreId) (p : PipeId) (s : State) : Host.Outcome State Fault Refusal :=
  .next (alu c.val p.val 0x0F (fun _ a b i => a <<< shiftBy b i) s)
def execShr (c : CoreId) (p : PipeId) (s : State) : Host.Outcome State Fault Refusal :=
  .next (alu c.val p.val 0x10 (fun _ a b i => a >>> shiftBy b i) s)
def execSar (c : CoreId) (p : PipeId) (s : State) : Host.Outcome State Fault Refusal :=
  .next (alu c.val p.val 0x11 (fun _ a b i => a.sshiftRight (shiftBy b i)) s)
def execMin (c : CoreId) (p : PipeId) (s : State) : Host.Outcome State Fault Refusal :=
  .next (alu c.val p.val 0x12 (fun _ a b _ => if signed b < signed a then b else a) s)
def execMax (c : CoreId) (p : PipeId) (s : State) : Host.Outcome State Fault Refusal :=
  .next (alu c.val p.val 0x13 (fun _ a b _ => if signed a < signed b then b else a) s)
def execSlt (c : CoreId) (p : PipeId) (s : State) : Host.Outcome State Fault Refusal :=
  .next (alu c.val p.val 0x14 (fun _ a b _ => if signed a < signed b then 1 else 0) s)
def execSltu (c : CoreId) (p : PipeId) (s : State) : Host.Outcome State Fault Refusal :=
  .next (alu c.val p.val 0x15 (fun _ a b _ => if a.toNat < b.toNat then 1 else 0) s)
def execSel (c : CoreId) (p : PipeId) (s : State) : Host.Outcome State Fault Refusal :=
  .next (alu c.val p.val 0x16 (fun d a b _ => if d ≠ 0 then a else b) s)
def execLd1 (c : CoreId) (p : PipeId) (s : State) : Host.Outcome State Fault Refusal := .next (load c.val p.val 0x20 1 s)
def execLd2 (c : CoreId) (p : PipeId) (s : State) : Host.Outcome State Fault Refusal := .next (load c.val p.val 0x21 2 s)
def execLd4 (c : CoreId) (p : PipeId) (s : State) : Host.Outcome State Fault Refusal := .next (load c.val p.val 0x22 4 s)
def execLd8 (c : CoreId) (p : PipeId) (s : State) : Host.Outcome State Fault Refusal := .next (load c.val p.val 0x23 8 s)
def execSt1 (c : CoreId) (p : PipeId) (s : State) : Host.Outcome State Fault Refusal := .next (store c.val p.val 0x24 1 s)
def execSt2 (c : CoreId) (p : PipeId) (s : State) : Host.Outcome State Fault Refusal := .next (store c.val p.val 0x25 2 s)
def execSt4 (c : CoreId) (p : PipeId) (s : State) : Host.Outcome State Fault Refusal := .next (store c.val p.val 0x26 4 s)
def execSt8 (c : CoreId) (p : PipeId) (s : State) : Host.Outcome State Fault Refusal := .next (store c.val p.val 0x27 8 s)
def execFadd (c : CoreId) (p : PipeId) (s : State) : Host.Outcome State Fault Refusal :=
  .next (alu c.val p.val 0x30 (fun _ a b _ => ext (fadd (low a) (low b))) s)
def execFmul (c : CoreId) (p : PipeId) (s : State) : Host.Outcome State Fault Refusal :=
  .next (alu c.val p.val 0x31 (fun _ a b _ => ext (fmul (low a) (low b))) s)
def execFlt (c : CoreId) (p : PipeId) (s : State) : Host.Outcome State Fault Refusal :=
  .next (alu c.val p.val 0x32 (fun _ a b _ => if vlt (f32 (low a)) (f32 (low b)) then 1 else 0) s)
def execI2f (c : CoreId) (p : PipeId) (s : State) : Host.Outcome State Fault Refusal :=
  .next (alu c.val p.val 0x33 (fun _ a _ _ => ext (i2f (signed a))) s)
def execF2i (c : CoreId) (p : PipeId) (s : State) : Host.Outcome State Fault Refusal :=
  .next (alu c.val p.val 0x34 (fun _ a _ _ => BitVec.ofNat 64 (ux 64 (f2i 64 (low a)))) s)
def execFexp2 (c : CoreId) (p : PipeId) (s : State) : Host.Outcome State Fault Refusal :=
  .next (alu c.val p.val 0x35 (fun _ a _ _ => ext (exp2W (low a))) s)
def execFlog2 (c : CoreId) (p : PipeId) (s : State) : Host.Outcome State Fault Refusal :=
  .next (alu c.val p.val 0x36 (fun _ a _ _ => ext (log2W (low a))) s)
def execRand (c : CoreId) (p : PipeId) (s : State) : Host.Outcome State Fault Refusal :=
  .next (alu c.val p.val 0x38 (fun _ a b i => randOf a b i) s)
def execBlt (c : CoreId) (p : PipeId) (s : State) : Host.Outcome State Fault Refusal := .next (branch c.val p.val 0x3C s)
def execBeq (c : CoreId) (p : PipeId) (s : State) : Host.Outcome State Fault Refusal := .next (branch c.val p.val 0x3D s)
def execBne (c : CoreId) (p : PipeId) (s : State) : Host.Outcome State Fault Refusal := .next (branch c.val p.val 0x3E s)
def execJ (c : CoreId) (p : PipeId) (s : State) : Host.Outcome State Fault Refusal := .next (branch c.val p.val 0x3F s)

end Sys2Proof.Machine
end

