-- ==== Sys2Proof/Machine/Vxe.lean ====
section
/-! DEFINITION. The vector engine (R137–R167, R270, R271, R506). An iteration of a command is one indivisible piece. -/

namespace Sys2Proof.Machine

/-- The VXE has finished the command before (R149): a program load or mask move only once it has retired. -/
def vxeFree (k : Nat) (s : State) : Bool :=
  (unitOf s k).running.all fun r => doneFor r && r.q.cmd.opcode != 0x10 && r.q.cmd.opcode != 0x60

/-- Tokens of a command that occupies pipes (R40, R141). -/
def pipeTokens (q : QCmd) : Nat := if bitOf q.cmd.w4 14 then 4 else 8

/-- Claim of a mask tile (R158). -/
def maskClaim (c m : Nat) (write : Bool) : Claim := { space := 300 + c, lo := (m : Int), hi := (m : Int), write := write }

/-- The four last checks that every VXE command shares: ranges, overlap, clamping. -/
def vxeRanges (s : State) (q : QCmd) (n : Nest) (sps : List OpSpec) (raw ds : List Desc) : Except Nat Unit := do
  let r := rangeChecks s (taskOf s) n sps ds (ds.map fun _ => q.core) 0
  need (r == 0) r
  need (n.total == 0 || ds.any Desc.zeroElems || overlapOk n sps ds) 0x07
  need (!(oa s && decide (clampCount s q.core raw ≠ 0))) 0x08

/-- Prep of a VXE command from its checked operands, with further claims. -/
def vxePrep (s : State) (q : QCmd) (n : Nest) (sps : List OpSpec) (raw ds : List Desc) (cost : Nat) (extra : List Claim) : Prep :=
  let p := mkPrep s q n sps raw ds (ds.map fun _ => q.core) cost
  { p with run := { p.run with claims := p.run.claims ++ extra } }

/-! ## LDPROG and MMOV -/

/-- Image address of iteration i of a one-operand command. -/
def imageAt (d : Desc) (n : Nest) (i : Nat) : Nat := rowAddr d n i 0 0 0 0

/-- Judges a VXE.LDPROG (R154). -/
def prepLdprog (s : State) (q : QCmd) : Except Nat Prep := do
  let n ← readNest s q.core q.cmd.loopIx 1 (fun _ => true)
  let sps : List OpSpec := [{ kinds := [1] }]
  let raw ← readOperands s q.core (taskOf s) q.cmd.desc n sps
  let ds := resolveAll s q.core raw
  let d := ds.getD 0 {}
  need (d.rank == 1 && d.dtype == 1 && d.e 0 == 256) 0x04
  need ((List.range n.total).all fun i => progOk (wordsOf 64 (tarnRead s q.core (imageAt d n i) 256))) 0x03
  vxeRanges s q n sps raw ds
  pure (vxePrep s q n sps raw ds 0 [])

/-- A program image enters its slot. -/
def ldprogBody (c : Nat) (r : Run) (s : State) : State :=
  let slot := fld r.q.cmd.w4 0 6
  let img := wordsOf 64 (tarnRead s c (imageAt (r.desc.getD 0 {}) r.nest r.it) 256)
  setBit (coreReg c (0xB118 + 4 * (slot / 32))) (slot % 32)
    { s with progs := ssetMany zero32 ((c * 64 + slot) * 64) img s.progs }

/-- Judges a VXE.MMOV (R158). -/
def prepMmov (s : State) (q : QCmd) : Except Nat Prep := do
  let store := bitOf q.cmd.w4 4
  let n ← readNest s q.core q.cmd.loopIx 1 (fun _ => true)
  let sps : List OpSpec := [{ kinds := [1], write := store }]
  let raw ← readOperands s q.core (taskOf s) q.cmd.desc n sps
  let ds := resolveAll s q.core raw
  let d := ds.getD 0 {}
  need (d.rank == 1 && d.dtype == 1 && d.e 0 == 128) 0x04
  vxeRanges s q n sps raw ds
  pure (vxePrep s q n sps raw ds 0 [maskClaim q.core (fld q.cmd.w4 0 4) (!store)])

/-- A mask tile moves. -/
def mmovBody (c : Nat) (r : Run) (s : State) : State :=
  let m := fld r.q.cmd.w4 0 4
  let a := imageAt (r.desc.getD 0 {}) r.nest r.it
  if bitOf r.q.cmd.w4 4 then tarnWrite c a (bytesOf (sgetMany ones32 ((c * 16 + m) * 32) 32 s.mask)) s
  else { s with mask := ssetMany ones32 ((c * 16 + m) * 32) (wordsOf 32 (tarnRead s c a 128)) s.mask }

/-! ## LANE -/

def laneSlot (q : QCmd) : Nat := fld q.cmd.w4 0 6
def laneMen (q : QCmd) : Bool := bitOf q.cmd.w4 7
def laneTap (q : QCmd) : Bool := bitOf q.cmd.w4 13
def laneDst (q : QCmd) : Bool := bitOf q.cmd.w4 15
def laneAstep (q : QCmd) : Nat := fld q.cmd.w4 22 3

/-- Arrays that an ACC source visits (R145). -/
def laneArrays (n : Nest) (astep : Nat) : Nat := if astep = 0 then 1 else max 1 (n.counts.getD (astep - 1) 1)

/-- The operands of a VXE.LANE, each ACC source with its arrays in range (R145). -/
def readLane (s : State) (q : QCmd) (n : Nest) (sps : List OpSpec) : Except Nat (List Desc) :=
  (sps.zipIdx).foldlM (fun l p => do
    let d ← readOperand s q.core (taskOf s) q.cmd.desc p.2 n p.1
    need (d.kind != 3 || decide (d.array + laneArrays n (laneAstep q) ≤ 4)) 0x04
    pure (l ++ [d])) []

/-- Judges a VXE.LANE. The order of R503 does not place the reason of a slot that was never loaded: it comes before the loop nest,
whose operands depend on the program (log entry 67). -/
def prepLane (s : State) (q : QCmd) : Except Nat Prep := do
  let c := q.core
  need (laneDst q || laneTap q) 0x03
  need (progValid s c (laneSlot q)) 0x04
  let nsrc := progNsrc (progOf s c (laneSlot q))
  let nops := nsrc + if laneDst q then 1 else 0
  let n ← readNest s c q.cmd.loopIx nops (fun _ => true)
  let sps : List OpSpec := List.replicate nsrc { kinds := [1, 3, 4] } ++
    if laneDst q then [{ kinds := [1, 4], write := true }] else []
  let raw ← readLane s q n sps
  need (walkAgrees raw && !(laneDst q && isBlock (raw.getD nsrc {}).dtype)) 0x04
  let ds := resolveAll s c raw
  vxeRanges s q n sps raw ds
  let none_ := n.total == 0 || ds.any Desc.zeroElems
  let accs := if none_ then [] else (ds.zipIdx.filter fun p => p.1.kind == 3).flatMap fun (d, j) =>
    (List.range (laneArrays n (laneAstep q) - 1)).map fun i =>
      claimOf c c n j { kinds := [3] } { d with array := d.array + 1 + i }
  pure (vxePrep s q n sps raw ds (pipeTokens q)
    (accs ++ if laneMen q then [maskClaim c (fld q.cmd.w4 8 4) false] else []))

/-- OUT is an I32: the program's OTY, or with no operation the type of S0 (R152). -/
def outIsInt (img : List Word) (ds : List Desc) : Bool :=
  if progNops img = 0 then isIntDt (ds.getD 0 {}).dtype else progOty img

/-- OUT of the elements of one row of a block, none where the lane is masked (R152, R155). -/
def laneRow (s : State) (c : Nat) (r : Run) (img : List Word) (w : Ext4) (row : Nat × Nat × Nat) (lo n : Nat) :
    List (Option Word) :=
  let nsrc := progNsrc img
  let q := r.q.cmd
  let srcs := (List.range nsrc).map fun j => srcRow s c (r.desc.getD j {}) r.nest r.it j (laneAstep r.q) w row
  let consts := [img.getD 1 0, img.getD 2 0, img.getD 3 0, img.getD 4 0, q.w5, q.w6]
  (List.range n).map fun i =>
    let c0 := lo + i
    let ss := srcs.map fun l => l.getD c0 0
    let t := laneRun img { srcs := ss, consts := consts, c1 := row.1, c0 := c0, loop1 := r.nest.digit r.it 1 }
    let out := if progNops img = 0 then ss.getD 0 0 else t.getD (progOut img) 0
    let masked := (laneMen r.q && !maskBit s c (fld q.w4 8 4) (c0 % 32 + 32 * (row.1 % 32)))
      || (bitOf q.w4 12 && t.getD (progPred img) 0 == 0)
    if masked then none else some out

/-- Blocks of a walk, dimension 0 first: block coordinates of dimensions 0 and 1, then dimensions 2 and 3 (R142). -/
def Ext4.blockList (e : Ext4) : List (Nat × Nat × Nat × Nat) :=
  let n0 := (e.1 + 31) / 32
  let n1 := (e.2.1 + 31) / 32
  (List.range e.blocks).map fun b => (b % n0, b / n0 % n1, b / n0 / n1 % e.2.2.1, b / n0 / n1 / e.2.2.1)

/-- Coordinates of dimension 1 of a block's rows. -/
def blockRows (e : Ext4) (b : Nat × Nat × Nat × Nat) : List (Nat × Nat × Nat) :=
  (List.range (min 32 (e.2.1 - 32 * b.2.1))).map fun i => (32 * b.2.1 + i, b.2.2.1, b.2.2.2)

/-- Number of a row of a walk. -/
def Ext4.rowNo (e : Ext4) (row : Nat × Nat × Nat) : Nat := row.1 + e.2.1 * (row.2.1 + e.2.2.1 * row.2.2)

/-- Writes one row of a block: conversion and saturation counts (R155, R159, R160). -/
def laneWrite (c : Nat) (r : Run) (isInt : Bool) (w : Ext4) (row : Nat × Nat × Nat) (lo : Nat) (outs : List (Option Word))
    (s : State) : State :=
  let q := r.q.cmd
  let j := r.desc.length - 1
  let d := r.desc.getD j {}
  let slot := fld q.w4 16 6
  let scale := if slot = 0 then none else some (cfg s (coreReg c (0xB400 + 8 * slot)))
  let trunc := oa s && (r.desc.getD 0 {}).kind == 3
  let zero := bitOf q.w4 6 || oa s
  let cs := outs.map fun o => match o with
    | some v => let x := convOut d.dtype isInt trunc scale v; (some x.1, x.2)
    | none => (if zero then some 0 else none, false)
  let codes := (List.replicate lo none) ++ cs.map Prod.fst ++ List.replicate (w.1 - lo - cs.length) none
  countSat c slot (cs.filter fun p => p.2).length (dstRow c d r.nest r.it j w row codes s)

/-- One iteration of a VXE.LANE: the state after it, and OUT by row and coordinate for a tap. -/
def laneIter (c : Nat) (r : Run) (s : State) : State × List (List (Option Word)) :=
  let img := progOf s c (laneSlot r.q)
  let w := walkOf r.desc
  let isInt := outIsInt img r.desc
  let s := bump (coreReg c 0xB104) w.blocks s
  let srcs := (r.desc.take (progNsrc img)).zipIdx
  if r.empty then (s, [])
  else (w.blockList).foldl (fun (p : State × List (List (Option Word))) b =>
    let lo := 32 * b.1
    let n := min 32 (w.1 - lo)
    let outs := (blockRows w b).map fun row => (row, laneRow p.1 c r img w row lo n)
    let s := if laneDst r.q then outs.foldl (fun s o => laneWrite c r isInt w o.1 lo o.2 s) p.1 else p.1
    (s, outs.foldl (fun t o => updAt (fun l => l ++ o.2) (w.rowNo o.1) t) p.2))
    (srcs.foldl (fun s x => accMeets c x.1 r.nest r.it x.2 (laneAstep r.q) w s) s, List.replicate (w.2.1 * w.2.2.1 * w.2.2.2) [])

/-! ## Tapping (R172, R173) -/

/-- The running RDU.RED that a tapping VXE.LANE pairs with. -/
def tapPartner (s : State) (q : QCmd) : Option Run :=
  (unitOf s (unitKey q.core 5)).running.find? fun r =>
    r.q.tapNo == q.tapNo && r.q.cmd.opcode == 0x10 && redTap r.q && r.skipped == 0 && !r.ended

/-- The partner of a tapping VXE.LANE was skipped. -/
def tapLost (s : State) (q : QCmd) : Bool := sget (fun _ => 0) (tapKey q.core q.tapNo) s.ssq.tapR == 1

/-- Partner and VXE.LANE agree (R173); the value destination has the type that OTY gives it (R168). -/
def tapAgrees (s : State) (lane red : Run) : Bool :=
  let isInt := outIsInt (progOf s lane.q.core (laneSlot lane.q)) lane.desc
  redExt (red.desc.getD 0 {}) == walkOf lane.desc && red.total == lane.total &&
  (redTypes (redOp red.q) (some isInt)).contains (red.desc.getD 1 {}).dtype

/-- Marks a tapping RDU.RED as skipped, so that its partner runs as if TAP were 0. -/
def loseTap (c no : Nat) (s : State) : State :=
  { s with ssq := { s.ssq with tapR := sset (fun _ => 0) (tapKey c no) 1 s.ssq.tapR } }

/-- The pair's start: a partner that does not agree is skipped; one of no iterations completes. -/
def pairUp (lane red : Run) (s : State) : State :=
  let k := unitKey lane.q.core 5
  let s := if tapAgrees s lane red then s else loseTap lane.q.core lane.q.tapNo (lateSkip k red.q.seq 0x04 s)
  if red.total = 0 then complete k red.q.seq s else s

/-- Starts a judged VXE.LANE; a tapping one waits for its partner (R172). -/
def startLane (k : Nat) (q : QCmd) (p : Prep) (s : State) : State :=
  if !(laneTap q) || tapLost s q then startPrep k q p s
  else match tapPartner s q with
    | none => s
    | some red =>
      let s' := startPrep k q p s
      if (unitOf s' k).queue.length < (unitOf s k).queue.length then pairUp { p.run with q := q } red s' else s'

/-- A running command takes the wait of its present iteration, if that is met. -/
def takeIfMet (k : Nat) (r : Run) (s : State) : State := if iterReady s r then takeWait k r s else s

/-- The waits of a tapping pair, each judged by its own unit before the iteration's first block; on one flag, the earlier in
issue time takes first (R58, R172). -/
def pairWaits (k kr : Nat) (r red : Run) (s : State) : State :=
  if red.q.issue < r.q.issue then takeIfMet k r (takeIfMet kr red s) else takeIfMet kr red (takeIfMet k r s)

/-- A running command has taken the wait of its present iteration. -/
def waitTaken (s : State) (k seq : Nat) : Bool := (runOf s k seq).any Run.waited

/-- An iteration of a running VXE.LANE, with its partner's when it taps. -/
def laneStep (c k : Nat) (r : Run) (s : State) : State :=
  match (if laneTap r.q && !(tapLost s r.q) then tapPartner s r.q else none) with
  | none => runIter k r (fun s => (laneIter c r s).1) s
  | some red =>
    let kr := unitKey c 5
    let s := pairWaits k kr r red s
    if waitTaken s k r.q.seq && waitTaken s kr red.q.seq then
      withSegs c (runSegs r r.it (fun _ => true) ++ runSegs red red.it fun j => j != 0)
        (fun s =>
          let isInt := outIsInt (progOf s c (laneSlot r.q)) r.desc
          let p := laneIter c r s
          endIter kr red.q.seq (endIter k r.q.seq
            (redIter c red isInt (fun row c0 => (p.2.getD row []).getD c0 none) p.1))) s
    else s

/-- A tapping VXE.LANE of core c waits on the RDU: a head that could start but for its partner, or a running one whose partner's
wait is not met (R172, R179). -/
def tapWaits (s : State) (c : Nat) : Bool :=
  let k := unitKey c 4
  let taps := fun q : QCmd => q.cmd.opcode == 0x20 && laneTap q && !(tapLost s q)
  (match headIs s k 0x20 with
    | some q => taps q && reached s q && vxeFree k s && (tapPartner s q).isNone
    | none => false) ||
  (unitOf s k).running.any fun r => taps r.q && r.skipped == 0 && !r.ended && r.waited &&
    match tapPartner s r.q with
    | some red => !red.waited && !(iterReady s red)
    | none => false

/-- VXE.LANE: runs the next iteration of the running command, or starts the head. -/
def vxeLane (c : Nat) (s : State) : State :=
  let k := unitKey c 4
  if !(engines s) || s.ssq.aborting then s
  else match firstRun s k (fun r => r.q.cmd.opcode == 0x20 && r.skipped == 0) with
  | some r => laneStep c k r s
  | none => match headIs s k 0x20 with
    | none => s
    | some q =>
      if !(vxeFree k s) then s
      else match prepLane s q with
        | .error _ => s
        | .ok p =>
          let s' := startLane k q p s
          match firstRun s' k (fun r => r.q.seq == q.seq) with
          | some r => laneStep c k r s'
          | none => s'

/-! ## TRANS (R162) -/

/-- Extents with dimensions 0 and 1 exchanged. -/
def Ext4.swap (e : Ext4) : Ext4 := (e.2.1, e.1, e.2.2.1, e.2.2.2)

/-- Walk of a VXE.TRANS: the source's, from the destination when the source is of kind TREG. -/
def transWalk (src dst : Desc) : Ext4 :=
  if src.kind != 4 then src.ext4 else if dst.kind != 4 then dst.ext4.swap else (32, 32, src.e 0, 1)

/-- Judges a VXE.TRANS. -/
def prepTrans (s : State) (q : QCmd) : Except Nat Prep := do
  let n ← readNest s q.core q.cmd.loopIx 2 (fun _ => true)
  let sps : List OpSpec := [{ kinds := [1, 3, 4] }, { kinds := [1, 4], write := true }]
  let raw ← readOperands s q.core (taskOf s) q.cmd.desc n sps
  let src := raw.getD 0 {}
  let dst := raw.getD 1 {}
  let w := transWalk src dst
  need (!(isBlock dst.dtype)) 0x04
  need (if src.kind = 4 then src.e 0 == w.blocks else true) 0x04
  need (if dst.kind = 4 then dst.e 0 == w.blocks else dst.ext4 == w.swap) 0x04
  let ds := resolveAll s q.core raw
  vxeRanges s q n sps raw ds
  pure (vxePrep s q n sps raw ds (pipeTokens q) [])

/-- One iteration: each block is read, then written with its coordinates exchanged. It converts under R159, so that OA truncates
what comes from accumulators (log entry 69). -/
def transBody (c : Nat) (r : Run) (s : State) : State :=
  let src := r.desc.getD 0 {}
  let dst := r.desc.getD 1 {}
  let w := transWalk src dst
  let trunc := oa s && src.kind == 3
  let s := bump (coreReg c 0xB104) w.blocks s
  if r.empty then s
  else (w.blockList.zipIdx).foldl (fun s (b, no) =>
    let n0 := min 32 (w.1 - 32 * b.1)
    let rows := blockRows w b
    let vals := rows.map fun row => (srcRow s c src r.nest r.it 0 0 w row).drop (32 * b.1) |>.take n0
    iter n0 (fun i s =>
      let cs := vals.map fun l => convOut dst.dtype (isIntDt src.dtype) trunc none (l.getD i 0)
      let s := countSat c 0 (cs.filter fun p => p.2).length s
      if dst.kind = 4 then
        iter cs.length (fun m s => tregSet c (tregNo dst r.nest r.it 1 no) (m + 32 * i) (Word.ofNat (cs.getD m (0, false)).1) s) s
      else
        let lo := 32 * b.2.1
        let codes := List.replicate lo none ++ cs.map (fun p => some p.1) ++ List.replicate (w.2.1 - lo - cs.length) none
        dstRow c dst r.nest r.it 1 w.swap (32 * b.1 + i, b.2.2.1, b.2.2.2) codes s) s)
    (accMeets c src r.nest r.it 0 0 w s)

/-! ## QCONV (R163, R164, R270, R271) -/

/-- Largest finite value M of an element type that QCONV writes. -/
def qMax (dt : Nat) : Nat :=
  if dt = 0 then 127 else if dt = 2 ∨ dt = 10 then 7 else if dt = 4 then 448 else if dt = 5 then 57344
  else if dt = 11 then 6 else 28

/-- Granularity and destination type go together (R163). -/
def qPair (sgran dt : Nat) : Bool :=
  if sgran = 2 then isBlock dt else dt == 0 || dt == 2 || dt == 4 || dt == 5

/-- Judges a VXE.QCONV. Scales in tile registers lie as an RDU's results do (R168, log entry 80). -/
def prepQconv (s : State) (q : QCmd) : Except Nat Prep := do
  let g := fld q.cmd.w4 0 2
  need (g != 3) 0x03
  let nops := if g = 2 then 2 else 3
  let n ← readNest s q.core q.cmd.loopIx nops (fun _ => true)
  let sps : List OpSpec := [{ kinds := [1, 3, 4] }, { kinds := [1, 4], write := true }] ++
    if g = 2 then [] else [{ kinds := [1, 4], write := true }]
  let raw ← readOperands s q.core (taskOf s) q.cmd.desc n sps
  let dst := raw.getD 1 {}
  let sc := raw.getD 2 {}
  let w := walkOf (raw.take 2)
  need (walkAgrees (raw.take 2) && qPair g dst.dtype && dst.kind == 1) 0x04
  need (g == 2 || redDstOk [if g = 0 then 1 else w.rows.length] [8] sc) 0x04
  let ds := resolveAll s q.core raw
  vxeRanges s q n sps raw ds
  pure (vxePrep s q n sps raw ds (pipeTokens q) [])

/-- Largest magnitude among the finite values of a group. -/
def groupMax (l : List FVal) : FVal :=
  l.foldl (fun a v => match v with
    | .fin _ m e => vmax a (.fin false m e)
    | _ => a) (.fin false 0 0)

/-- Scale exponent of a block (R270). -/
def blockExp (dt : Nat) (a : FVal) : Int :=
  match a with
  | .fin _ m e =>
    if m = 0 then -127
    else
      let x0 : Int := (Nat.log2 m : Int) + e - (Nat.log2 (qMax dt) : Int) - 1
      let x := ((List.range 4).find? fun (i : Nat) => magLe m e (qMax dt) (x0 + (i : Int))).getD 3
      max (-127) (min 127 (x0 + (x : Int)))
  | _ => -127

/-- Scale and multiplier of a group (R271). -/
def groupScale (dt : Nat) (a : FVal) : Word × FVal :=
  match a with
  | .fin _ 0 _ => (0x3F800000, .fin false 1 0)
  | _ => (toF32 (vdiv a (.fin false (qMax dt) 0)), f32 (toF32 (vdiv (.fin false (qMax dt) 0) a)))

/-- A source element of a VXE.QCONV, exact: its quotients and products round once (R270, R271). -/
def qconvVal (isInt : Bool) (v : Word) : FVal := if isInt then ofInt (sx 32 v.toNat) else f32 v

/-- One iteration of a VXE.QCONV. Its conversions round to nearest under OA too (log entry 69). -/
def qconvBody (c : Nat) (r : Run) (s : State) : State :=
  let src := r.desc.getD 0 {}
  let dst := r.desc.getD 1 {}
  let g := fld r.q.cmd.w4 0 2
  let w := walkOf (r.desc.take 2)
  let s := bump (coreReg c 0xB104) w.blocks s
  if r.empty then s
  else
    let vals := w.rows.map fun row => (srcRow s c src r.nest r.it 0 0 w row).map (qconvVal (isIntDt src.dtype))
    let whole := groupScale dst.dtype (groupMax (vals.flatMap id))
    let s := accMeets c src r.nest r.it 0 0 w (accMeets c src r.nest r.it 0 0 w s)
    let s := if g = 0 then redPut c (r.desc.getD 2 {}) r.nest r.it 2 0 whole.1 s else s
    ((w.rows.zip vals).zipIdx).foldl (fun s (p, i) =>
      if g = 2 then
        let bs := (List.range (w.1 / 32)).map fun b =>
          let l := (p.2.drop (32 * b)).take 32
          let x := blockExp dst.dtype (groupMax l)
          (l.map fun v => convTo dst.dtype false (match v with
            | .fin n m e => .fin n m (e - x)
            | v => v), (x + 127).toNat)
        let cs := bs.flatMap Prod.fst
        countSat c 0 (cs.filter fun p => p.2).length
          (writeRow (.tarn c) dst r.nest r.it 1 p.1 (cs.map Prod.fst, bs.map Prod.snd) s)
      else
        let sc := if g = 0 then whole else groupScale dst.dtype (groupMax p.2)
        let s := if g = 1 then
            redPut c (r.desc.getD 2 {}) r.nest r.it 2 i sc.1 s
          else s
        let cs := p.2.map fun v => convTo dst.dtype false (f32 (toF32 (vmul v sc.2)))
        countSat c 0 (cs.filter fun p => p.2).length
          (writeRow (.tarn c) dst r.nest r.it 1 p.1 (cs.map Prod.fst, []) s)) s

/-! ## PMERGE (R165, R166) -/

/-- Judges a VXE.PMERGE. Log-sum-exps in tile registers lie as an RDU's results do (R168, log entry 80). -/
def prepPmerge (s : State) (q : QCmd) : Except Nat Prep := do
  let lse := bitOf q.cmd.w4 0
  let nops := if lse then 3 else 2
  let n ← readNest s q.core q.cmd.loopIx nops (fun _ => true)
  let sps : List OpSpec := [{ kinds := [1] }, { kinds := [1, 4], write := true }] ++
    if lse then [{ kinds := [1, 4], write := true }] else []
  let raw ← readOperands s q.core (taskOf s) q.cmd.desc n sps
  let p := raw.getD 0 {}
  let o := raw.getD 1 {}
  let l := raw.getD 2 {}
  let d := p.e 0 - 2
  need (p.rank == 3 && p.dtype == 8 && d % 32 == 0 && decide (32 ≤ d) && decide (d ≤ 256) && decide (1 ≤ p.e 2)
    && decide (p.e 2 ≤ 48)) 0x04
  need (o.kind == 1 && o.rank == 2 && o.e 0 == d && o.e 1 == p.e 1 && !(isBlock o.dtype)) 0x04
  need (!lse || redDstOk [p.e 1] [8] l) 0x04
  let ds := resolveAll s q.core raw
  vxeRanges s q n sps raw ds
  pure (vxePrep s q n sps raw ds (pipeTokens q) [])

/-- Merge of one row's partials (m, l, o): output and log-sum-exp; none for a row that no stack holds a key of (R166). -/
def mergeRow (d : Nat) (ps : List (List Word)) : Option (List Word × Word) :=
  let ms := ps.map fun p => p.getD 0 0
  let big := match ms with
    | [] => 0xFF800000
    | m :: r => r.foldl fmaxW (toF32 (f32 m))
  if big = 0xFF800000 then none
  else
    let acc := ps.foldl (fun (a : Word × List Word) p =>
      let w := exp2W (fsub (p.getD 0 0) big)
      (fma (p.getD 1 0) w a.1, (a.2.zipIdx).map fun (x, i) => fma (p.getD (2 + i) 0) w x)) (0, List.replicate d 0)
    let r := rcpW acc.1
    some (acc.2.map fun x => fmul x r, fadd big (log2W acc.1))

/-- One iteration of a VXE.PMERGE. -/
def pmergeBody (c : Nat) (r : Run) (s : State) : State :=
  let p := r.desc.getD 0 {}
  let o := r.desc.getD 1 {}
  let d := p.e 0 - 2
  if r.empty then s
  else iter (p.e 1) (fun row s =>
    let ps := (List.range (p.e 2)).map fun k =>
      ((readRow s (.tarn c) p r.nest r.it 0 (row, k, 0)).1).map Word.ofNat
    let m := mergeRow d ps
    let s := if m.isNone then bump (coreReg c 0xB120) 1 s else s
    let v := m.getD (List.replicate d 0, 0xFF800000)
    let cs := v.1.map fun x => convOut o.dtype false false none x
    let s := countSat c 0 (cs.filter fun p => p.2).length
      (writeRow (.tarn c) o r.nest r.it 1 (row, 0, 0) (cs.map Prod.fst, []) s)
    if bitOf r.q.cmd.w4 0 then
      redPut c (r.desc.getD 2 {}) r.nest r.it 2 row v.2 s
    else s) s

/-! ## Commands -/

def vxeNop (c : Nat) (s : State) : State := unitEvent (unitKey c 4) 0 (vxeFree (unitKey c 4)) prepNop nopBody s
/-- A load starts only once every earlier VXE command has retired (R154). -/
def vxeLdprog (c : Nat) (s : State) : State := unitEvent (unitKey c 4) 0x10 (idle (unitKey c 4)) prepLdprog (ldprogBody c) s
def vxeQconv (c : Nat) (s : State) : State := unitEvent (unitKey c 4) 0x30 (vxeFree (unitKey c 4)) prepQconv (qconvBody c) s
def vxePmerge (c : Nat) (s : State) : State := unitEvent (unitKey c 4) 0x40 (vxeFree (unitKey c 4)) prepPmerge (pmergeBody c) s
def vxeTrans (c : Nat) (s : State) : State := unitEvent (unitKey c 4) 0x50 (vxeFree (unitKey c 4)) prepTrans (transBody c) s
def vxeMmov (c : Nat) (s : State) : State := unitEvent (unitKey c 4) 0x60 (vxeFree (unitKey c 4)) prepMmov (mmovBody c) s


end Sys2Proof.Machine
end

