-- ==== Sys2Proof/Machine/Stream.lean ====
section
/-! DEFINITION. The stack sequencer (ch. 2): starting a step, fetching and dispatching bundles, issue time, power tokens,
skips, flags held over, the deadlock walk, the step limit, and the step's end with its ledgers (ch. 13). -/

namespace Sys2Proof.Machine

/-! ## Who may write (R377, R498) -/

/-- Tenant of a queue pair; queue pair 0 belongs to tenant 0 (R377). -/
def qpTenant (s : State) (q : Nat) : Nat := if q = 0 then 0 else fld (rd s (qctx q 0)) 8 8

/-- A requester may write the control space: Weast, or a CONFIG on a queue pair of tenant 0 of an owned
part (R468); never the scalar pipes (R74). -/
def mayWrite (s : State) (rq : Requester) : Bool :=
  match rq with
  | .weast => true
  | .config q => s.sec.owned && qpTenant s q == 0
  | .spu => false

/-! ## The step's end and its ledgers (R41, R59, R70, R412) -/

/-- Key under which the SSQ's own flag adds are held. -/
abbrev ssqKey : Nat := 210
/-- Unit of the adds that a port engine holds (R330). -/
abbrev portUnit : Nat := 4096

/-- Every sync flag of every live core reads 0 (R35, R59, R70). -/
def zeroFlags (s : State) : State := { s with flags := sdrop (fun k => live s (k / 4096)) s.flags }

/-- Flags of live cores that are not 0. -/
def residue (s : State) : Nat := (s.flags.filter fun e => live s (e.1 / 4096)).length

/-- Queue pairs whose context holds anything. -/
def usedQps (s : State) : List Nat :=
  ((s.csr.filter fun e => decide (0x600000 ≤ e.1) && decide (e.1 < 0x700000)).map fun e => (e.1 - 0x600000) / 64).eraseDups

/-- Units charged to tenant t in the period, and the REFILL in force (R393, R394). -/
def chargedOf (s : State) (t : Nat) : Nat := sget (fun _ => 0) t s.charged
def refillOf (s : State) (t : Nat) : Nat := sget (fun _ => 0) t s.refill

/-- The ledgers, each with whether it balances (R412). Mesh credits, fabric reservations and session frames (5, 6 and 10) are
not held apart from what they balance against, so they always do. -/
def ledgers (s : State) : List (Nat × Bool) :=
  [(0, s.pgv.held == 0 && s.pgv.taken == s.pgv.returned),
   (1, residue s == 0),
   (2, (allRuns s).all fun p => p.2.claims.isEmpty),
   (3, s.units.all fun u => u.2.queue.isEmpty && !(decide (7 ≤ u.1 % 16) && decide (u.1 % 16 ≤ 9) && !u.2.running.isEmpty)),
   (4, (s.outst.all fun o => o.2.isEmpty) && s.segs.all fun g => g.2.owc == 0),
   (7, s.ore.lanes.all fun l => l.slots.isEmpty),
   (8, (usedQps s).all fun q =>
      (rd s (qctx q 7)).toNat == ((rd s (qctx q 8)).toNat + (rd s (qctx q 9)).toNat) % 2 ^ 32),
   (9, (List.range 256).all fun t =>
      (rd s (tenReg t 7)).toNat + (rd s (tenReg t 8)).toNat + chargedOf s t == refillOf s t)]

/-- A check point: each ledger that does not balance is marked, counted and raised (R412, R414). -/
def checkLedgers (s : State) : State :=
  let bad := ((ledgers s).filter fun l => !l.2).map Prod.fst
  bump 0x14008 1 (bad.foldl (fun s i => raise (srcOf 4 9 0) 0x22 i (bump 0x14004 1 (setBit 0x14000 i s))) s)

/-- The SSQ after a step that ended with a result. -/
def endSsq (result : Nat) (q : Ssq) : Ssq :=
  { q with run := false, held := false, halt := false, aborting := false, freeze := false, result := result, stepDone := true
           bundles := [], holds := [], endSeen := false }

/-- Data of the management packet that brings segment seg's result for step k (R389, log entry 86). -/
def resultData (k seg : Nat) (ok : Bool) : List Byte := leBytes 4 k ++ leBytes 2 seg ++ [if ok then 1 else 0]

/-- The built step has ended here with a result: Weast notes it, and tells the home part, which is that of segment 0, when the step has
more segments than this one (R389; log entry 86). -/
def endBatch (result : Nat) (s : State) : State :=
  match s.batch with
  | none => s
  | some b =>
    if b.ended.isSome then s
    else
      let ok := result == 0 && !b.failed
      let s := { s with batch := some { b with ended := some s.now, segs := (b.self, ok) :: b.segs } }
      let home := mereLe s (sget (fun _ => {}) b.task s.tasks).segMap 3
      if 1 < b.nseg ∧ !(isHere s home) then
        sendMgmt home b.task (resultData b.k b.self ok) s
      else s

abbrev rLdrCtl : Nat := 0x500200
abbrev rLdrStatus : Nat := 0x500204

/-- A task is unloaded: its LOADED bit is cleared and its slots are free (R403). -/
def unloadTask (t : Nat) (s : State) : State :=
  wrF rLdrCtl 0 1 0 (wr rLdrStatus (Word.ofNat (t * 2 ^ 4))
    (wrF (rCompat + 4 * t) 1 1 0 { s with tasks := sset (fun _ => {}) t {} s.tasks }))

/-- An unload that has waited for the running step of its task (R403). -/
def lateUnload (s : State) : State :=
  let t := rdF s rLdrCtl 2 6
  if rdF s rLdrCtl 0 2 = 3 ∧ t = s.ssq.task then unloadTask t s else s

/-- A step ends: its ledgers are checked and its result is written. -/
def endStep (result : Nat) (s : State) : State :=
  lateUnload (endBatch result (checkLedgers { s with ssq := endSsq result s.ssq }))

/-! ## Starting a step (R32–R35, R76, R301) -/

/-- The resets of R35. -/
def stepResets (s : State) : State := zeroFlags { s with ssq := { s.ssq with issue := 0, skips := [] } }

/-- Stream section of a task. -/
def streamBase (s : State) (t : Nat) : Nat := rd64 s (0x500400 + 8 * t)
def streamLen (s : State) (t : Nat) : Nat := (rd s (0x500600 + 4 * t)).toNat

/-- Step saturation counts of core c read 0 (R272). -/
def zeroSteps (c : Nat) (s : State) : State := iter 63 (fun k s => wr (coreReg c (0xB704 + 4 * k)) 0 s) s

/-- They do on every live core at each step start (R272), also of a step that ends at once (R34). -/
def zeroAllSteps (s : State) : State := (liveCores s).foldl (fun s c => zeroSteps c s) s

/-- Unavailable time ends (R448). -/
def endDown (s : State) : State :=
  match s.recov.downSince with
  | none => s
  | some t => { s with recov := { s.recov with downSince := none, downTicks := s.recov.downTicks + (s.now - t) } }

/-- The step begins, at SSQ_ENTRY as it stands now, also when GO was held for the oscillators (log entry 58): the resets of R35,
arrays, SPU registers and step counts at zero (R117, R174, R272), tile registers and mask tiles too when the task changes (R138),
and every write deferred to this step in force. The block of a lost core keeps its last state (R23). -/
def beginStep (s : State) : State :=
  let t := s.ssq.task
  let s := stepResets (endDown s)
  let s := zeroAllSteps s
  let s := if s.ssq.lastTask = some t then s else { s with treg := [], mask := [] }
  let s := wrF rDetStatus 2 1 0 (wrF rDetStatus 0 1 (rdF s rDetCtl 0 1) s)
  let entry := (rd s rSsqEntry).toNat * 16
  frameBegin { s with
    eff := s.csr, meshEff := s.meshTbl, arrays := s.arrays.filter fun x => !(live s (x.1 / 4)), spu := []
    pipes := s.pipes.filter fun x => !(live s (x.1 / 8)), heldAdds := s.heldAdds.filter fun h => h.unit == portUnit
    ssq := { s.ssq with
      run := true, held := false, halt := false, deadlock := false, stepDone := false, freeze := false, result := 0
      lastTask := some t, oa := bitOf (rd s (rCompat + 4 * t)) 0, began := s.now, fetchOff := entry, lastIssue := 0
      nextSeq := 0, nextBundle := 0, bundles := [], holds := [], endSeen := false, aborting := false, lastRetire := s.now
      tapV := [], tapR := [] } }

/-- The SSQ may start a step: powered, in RUN (R430). -/
def mayStart (s : State) : Bool := engines s && fclState s == 0

/-- A write of 1 to SSQ_CTL.GO with no step running (R32, R34, R301). -/
def startStep (s : State) : State :=
  let t := rdF s rSsqTask 0 6
  let s := { s with ssq := { s.ssq with task := t, stepDone := false, deadlock := false } }
  if !(bitOf (rd s (rCompat + 4 * t)) 1) || decide (streamLen s t ≤ (rd s rSsqEntry).toNat * 16) then
    raise (srcOf 4 0 0) 0x10 0 (endStep 5 (zeroAllSteps (stepResets s)))
  else if bitOf (rd s rDetCtl) 0 != s.time.osc then
    { s with eff := s.csr, ssq := { s.ssq with run := true, held := true, result := 0 } }
  else beginStep s

/-- A write that the part ignores for want of privilege, counted when queue pair 0 of an unowned part makes it (R468). -/
def privRefuse (rq : Requester) (s : State) : State :=
  match rq with
  | .config q => if q = 0 ∧ !s.sec.owned then bump 0x30024 1 s else s
  | _ => s

/-- GO: a write of SSQ_CTL with GO = 1, and the STRICT bit of the same write. -/
def go (rq : Requester) (strict : Bool) (s : State) : State :=
  if !(powered s) then s
  else if !(mayWrite s rq) then privRefuse rq s
  else
    let s := wrF rSsqCtl 1 1 (if strict then 1 else 0) { s with ssq := { s.ssq with strict := strict } }
    if s.ssq.run || !(mayStart s) then s else startStep s

/-- STEP_BEGIN_AFTER_SETTLE: the oscillators have settled for the mode selected, and a step that was held for them begins
(R301). -/
def stepBeginAfterSettle (s : State) : State :=
  if !(engines s) || s.ssq.aborting || (s.ssq.run && !s.ssq.held) then s
  else
    let s := { s with time := { s.time with osc := bitOf (rd s rDetCtl) 0 } }
    if s.ssq.held then beginStep s else s

/-! ## Ending a step early (R70) -/

/-- The step is to end as by ABORT, with a result: nothing further starts, running commands end once the accesses of their
present iteration are complete. STEP_END leaves their outputs undefined (R70, log entry 68). -/
def abortStep (result : Nat) (s : State) : State :=
  if !s.ssq.run then s
  else if s.ssq.held then endStep result (zeroFlags s)
  else
    let keep := s.ssq.aborting
    let s := { s with
      ssq := { s.ssq with aborting := true, bundles := [], holds := [], result := if keep then s.ssq.result else result }
      pgv := { s.pgv with reqs := [] }
      units := (s.units.map fun u => (u.1, ({ queue := [], running := u.2.running.map fun r =>
        { r with todo := [], unsent := [], err := true } } : UnitSt))).filter fun u => u.2 != {}
      stackSt := (s.stackSt.map fun x => (x.1, { x.2 with subs := [] })).filter fun x => x.2 != {}
      pipes := [] }
    oreAbort s

/-- ABORT: a write of 1 to SSQ_CTL.ABORT (R70). -/
def abort (s : State) : State := if powered s then abortStep 6 s else s

/-- A stream fault (R38). -/
def streamFault (tag : Nat) (s : State) : State := abortStep 5 (raise (srcOf 4 0 0) 0x10 tag s)

/-! ## Fetch (R36–R38, R53) -/

/-- Commands fetched and not dispatched. -/
def buffered (s : State) : Nat := (s.ssq.bundles.map fun b => b.cmds.length).foldl (· + ·) 0

/-- Bytes of the stream from an offset. -/
def streamBytes (s : State) (off n : Nat) : List Byte := mereRead s (streamBase s s.ssq.task + off) n

/-- The bundle's bytes pass the checks of R38. -/
def bundleOk (l : List Byte) (count : Nat) : Bool :=
  let w0 := leAt l 0 4
  let w1 := leAt l 4 4
  decide (count ≤ 16) && w0 / 2 ^ 21 % 8 == 0 && w1 / 2 ^ 12 % 16 == 0 && leAt l 12 4 == 0
    && crc32c (slice 0 8 l ++ List.replicate 4 0 ++ l.drop 12) == leAt l 8 4

/-- The bundle with which one fetched now, at an issue time and with fence bits, is one bundle in stream order (R37): the first of
those at that issue time, while it is not yet issued. A bundle with a fence of its own, or fetched later, stands alone
(log entry 59). -/
def joined (s : State) (issue fence : Nat) : Nat :=
  match s.ssq.bundles.getLast? with
  | none => s.ssq.nextBundle
  | some b => if b.issue = issue ∧ fence = 0 ∧ !b.issued ∧ !(bundleIssued s b.lead) then b.lead else s.ssq.nextBundle

/-- A bundle asks for the tokens of those joined to it too. -/
def joinTokens (lead tokens : Nat) (s : State) : State :=
  updBundle lead (fun x => { x with tokens := x.tokens + tokens, asked := x.asked && tokens == 0
                                    granted := x.granted && tokens == 0 }) s

/-- The stack of the stream's bytes wakes, and their units' code is noted (R221, R224). -/
def reachStream (ecc : EccMap) (off n : Nat) (s : State) : State := reachMere ecc (streamBase s s.ssq.task + off) n s

/-- BUNDLE_FETCH: the next bundle of the stream, when the stream buffer has room for its commands (R53). A header-only bundle
asks for no token (R36). -/
def bundleFetch (ecc : EccMap) (s : State) : State :=
  let off := s.ssq.fetchOff
  if !(stepOpen s) || s.ssq.endSeen then s
  else if streamLen s s.ssq.task < off + 16 then streamFault 0 s
  else
    let h := streamBytes s off 16
    let count := leAt h 0 4 / 2 ^ 16 % 32
    let size := 16 + 32 * count
    let tag := leAt h 6 2
    if 16 < count ∨ streamLen s s.ssq.task < off + size then streamFault tag s
    else if 8192 < buffered s + count then s
    else
      let l := streamBytes s off size
      let s := reachStream ecc off size s
      if !(bundleOk l count) then streamFault tag s
      else
        let fence := leAt h 3 1
        let tokens := leAt h 4 4 % 4096
        let issue := s.ssq.lastIssue + leAt h 0 2
        let lead := joined s issue fence
        let own := lead == s.ssq.nextBundle && tokens != 0 && count != 0
        let s := if lead = s.ssq.nextBundle ∨ count = 0 then s else joinTokens lead tokens s
        let b : Bundle := {
          id := s.ssq.nextBundle, lead := lead, issue := issue, tag := tag, fence := fence, tokens := tokens
          asked := !own, granted := !own
          cmds := (List.range count).map fun i => (i, Cmd.ofBytes (slice (16 + 32 * i) 32 l)) }
        { s with ssq := { s.ssq with
            fetchOff := off + size, lastIssue := issue, nextBundle := s.ssq.nextBundle + 1
            bundles := s.ssq.bundles ++ [b], endSeen := fence.testBit 3 } }

/-! ## Dispatch (R42, R43, R45, R51–R54, R503 item 1) -/

/-- The bits of words 4 to 7 that an opcode names as fields; none for an opcode that its unit does not define. -/
def immMask (unit op : Nat) : Option (List Nat) :=
  let f := all32
  if unit < 4 then
    if op = 0x20 then some [0x1FF00FF, 0, 0, 0] else if op = 0 ∨ op = 0x10 ∨ op = 0x30 then some [0, 0, 0, 0] else none
  else if op = 0 ∧ unit < 12 then some [0, 0, 0, 0]
  else match unit, op with
  | 4, 0x10 => some [0x3F, 0, 0, 0]
  | 4, 0x20 => some [0x1FFFFFF, f, f, 0]
  | 4, 0x30 => some [0x4003, 0, 0, 0]
  | 4, 0x40 => some [0x4001, 0, 0, 0]
  | 4, 0x50 => some [0x4000, 0, 0, 0]
  | 4, 0x60 => some [0x1F, 0, 0, 0]
  | 5, 0x10 => some [0x3F, f, f, 0]
  | 6, 0x10 => some [7, f, f, 0]
  | 6, 0x20 => some [0x1FFF, 0, 0, 0]
  | 7, 0x10 => some [0x3F, 0xFFFFFF, 0, 0]
  | 7, 0x20 => some [0x3FFFF, 0xFFFFFF, 0xFFFF, 0]
  | 7, 0x30 => some [0x3F, 0xFFFFFF, 0, 0]
  | 7, 0x40 => some [0xFFF, 0, 0, 0]
  | 8, 0x10 => some [0x7FFFFF, 0xFFFFFF, 0xFFFF, 0]
  | 8, 0x20 => some [0x7FFFFF, 0xFFFFFF, 0xFFFF, 0]
  | 8, 0x30 => some [0x7FFFFF, 0xFFFFFF, 0xFFFF, 0]
  | 9, 0x10 => some [0xFFF, f, 0x1FFFFFF, 0]
  | 9, 0x20 => some [0x1F, 0, 0, 0]
  | 10, 1 => some [0xFFFF, 0, 0, 0]
  | 10, 2 => some [0, 0, 0, 0]
  | 11, 0x10 => some [0x0FFFFFFF, 0, 0, 0]
  | _, _ => none

/-- CORE names no unit that a command can reach (R42, R43). -/
def badCore (s : State) (c : Cmd) : Bool := if c.core = 15 then c.unit == 11 else !(live s c.core)

/-- SCORE is refused (R42). -/
def badScore (s : State) (c : Cmd) : Bool :=
  if c.core = 15 ∧ c.unit ≠ 11 then c.score != 15 else c.score != 15 && !(live s c.score)

/-- Reason with which a command is refused at dispatch; 0 for none (R503 item 1; a refused bundle's commands, R39). -/
def dispatchReason (s : State) (fence : Nat) (c : Cmd) : Nat :=
  if fence / 16 % 16 ≠ 0 then 0x0B
  else if 12 ≤ c.unit ∨ badCore s c ∨ badScore s c then 0x02
  else match immMask c.unit c.opcode with
  | none => 0x01
  | some m =>
    if c.w1.toNat / 2 ^ 30 ≠ 0 ∨ c.w3.toNat / 2 ^ 20 ≠ 0 then 0x03
    else if ([c.w4, c.w5, c.w6, c.w7].zip m).any fun p => p.1.toNat &&& (all32 - p.2) != 0 then 0x03
    else 0

/-- Cores whose unit queues a command goes to; none for one that the SSQ holds (R51, R68). -/
def targets (s : State) (c : Cmd) : List Nat :=
  if c.unit = 10 ∨ 12 ≤ c.unit ∨ badCore s c then []
  else if c.core = 15 then liveCores s else [c.core]

/-- The next command in stream order, with its bundle. -/
def nextCmd (s : State) : Option (Bundle × Nat × Cmd) :=
  match s.ssq.bundles.find? fun b => !b.cmds.isEmpty with
  | none => none
  | some b => b.cmds.head?.map fun x => (b, x.1, x.2)

/-- The unit queue that a command finds full (R52). -/
def fullQueue (s : State) (c : Cmd) : Option Nat :=
  ((targets s c).map fun n => unitKey n c.unit).find? fun k => decide (256 ≤ (unitOf s k).queue.length)

/-- Whether a command taps, and in which unit's count (R172). -/
def taps (c : Cmd) : Bool :=
  (c.unit == 4 && c.opcode == 0x20 && bitOf c.w4 13) || (c.unit == 5 && c.opcode == 0x10 && bitOf c.w4 4)

/-- Numbers a tapping command on its unit in the step. -/
def numberTap (n : Nat) (c : Cmd) (s : State) : Nat × State :=
  if !(taps c) then (0, s)
  else
    let t := if c.unit = 4 then s.ssq.tapV else s.ssq.tapR
    let v := sget (fun _ => 0) (tapKey n 0) t + 1
    let t' := sset (fun _ => 0) (tapKey n 0) v t
    (v, { s with ssq := if c.unit = 4 then { s.ssq with tapV := t' } else { s.ssq with tapR := t' } })

/-- DISPATCH: the next command goes to its queues, or is held by the SSQ. -/
def dispatch (s : State) : State :=
  if !(stepOpen s) then s
  else match nextCmd s with
  | none => s
  | some (b, slot, c) =>
    if s.ssq.issue + fld (rd s rRunahead) 0 24 < b.issue || (fullQueue s c).isSome then s
    else
      let q : QCmd := { cmd := c, core := c.core, tag := b.tag, slot := slot, issue := b.issue, bundle := b.lead
                        refused := dispatchReason s b.fence c }
      let s := updBundle b.id (fun x => { x with cmds := x.cmds.tail }) s
      let place := fun (n : Nat) (s : State) =>
        let t := numberTap n c s
        let q := { q with core := n, seq := t.2.ssq.nextSeq, tapNo := t.1 }
        let k := unitKey n c.unit
        let s := { t.2 with ssq := { t.2.ssq with nextSeq := t.2.ssq.nextSeq + 1 } }
        setUnit k { unitOf s k with queue := (unitOf s k).queue ++ [q] } s
      match targets s c with
      | [] => { s with ssq := { s.ssq with holds := s.ssq.holds ++ [{ q with seq := s.ssq.nextSeq }], nextSeq := s.ssq.nextSeq + 1 } }
      | l => l.foldl (fun s n => place n s) s

/-! ## Fences and tokens (R38–R40, R211, R408) -/

/-- A command of the step earlier than bundle b has not retired. -/
def pendingBefore (s : State) (b : Nat) : Bool :=
  (s.ssq.bundles.any fun x => decide (x.id < b) && !x.cmds.isEmpty) || (s.ssq.holds.any fun q => decide (q.bundle < b))
    || (s.units.any fun u => (u.2.queue.any fun q => decide (q.bundle < b)) || u.2.running.any fun r => decide (r.q.bundle < b))
    || s.heldAdds.any fun h => h.unit == ssqKey

/-- A command that is to write Mere when it runs at some core: an SXE command whose destination descriptor, as it stands now, is of
kind MERE on this part, or an LSE.MOVE (log entry 73). -/
def mayMere (s : State) (core : Nat) (c : Cmd) : Bool :=
  (c.unit == 8 && c.opcode != 0 && fld c.w4 0 2 == 0 && (descWords s core (c.desc + 1)).getD 0 0 % 16 == 2)
    || (c.unit == 9 && c.opcode == 0x20)

/-- A running command that may still write Mere on this part. -/
def writesMere (r : Run) : Bool :=
  !r.ended && ((r.q.cmd.unit == 9 && r.q.cmd.opcode == 0x20) || r.claims.any fun c => c.space == 400 && c.write)

/-- A command that is to write another part. -/
def mayPart (c : Cmd) : Bool := c.unit == 8 && fld c.w4 0 2 == 2 && c.opcode != 0

/-- Some earlier command not yet run, of which a test holds at a core it goes to, or some running one of which another does. -/
def earlier (s : State) (b : Nat) (p : Nat → Cmd → Bool) (r : Run → Bool) : Bool :=
  (s.ssq.bundles.any fun x => decide (x.id < b) && x.cmds.any fun c => (targets s c.2).any fun n => p n c.2) ||
  s.units.any fun u => (u.2.queue.any fun q => decide (q.bundle < b) && q.refused == 0 && p q.core q.cmd) ||
    u.2.running.any fun x => decide (x.q.bundle < b) && x.skipped == 0 && r x

/-- The fence conditions of a bundle hold (R38, R39, R211). -/
def fencesMet (s : State) (b : Bundle) : Bool :=
  let drain := b.fence.testBit 0 || b.fence.testBit 3
  (!drain || !(pendingBefore s b.id))
    && (!(b.fence.testBit 1) || !(earlier s b.id (mayMere s) writesMere))
    && (!(b.fence.testBit 2) || !(earlier s b.id (fun _ c => mayPart c) fun r => !r.ended && mayPart r.q.cmd))

/-- The first bundle not yet issued. -/
def nextIssue (s : State) : Option Bundle := s.ssq.bundles.find? fun b => !b.issued

/-- BUNDLE_ISSUE: the next bundle in stream order whose issue time is reached and whose fences are met is issued, and asks
for its tokens (R39, R40): with a fence, once that is met (log entry 61). -/
def bundleIssue (s : State) : State :=
  if !(stepOpen s) then s
  else match nextIssue s with
  | none => s
  | some b =>
    if s.ssq.issue < b.issue || !(fencesMet s b) then s
    else
      let s := updBundle b.id (fun x => { x with issued := true, asked := true }) s
      if b.asked then s
      else { s with pgv := { s.pgv with
        reqs := s.pgv.reqs ++ [{ bundle := b.id, isDraw := false, unit := 0, seq := 0, amount := b.tokens }] } }

/-- TOKEN_GRANT: the first request at the PGV is served when the pool can (R40, R408). -/
def tokenGrant (s : State) : State :=
  if !(engines s) || !s.ssq.run || s.ssq.aborting then s
  else match s.pgv.reqs with
  | [] => s
  | r :: rest =>
    let pool := poolSize s
    let a := min r.amount pool
    if pool < s.pgv.held + a then s
    else
      let s := { s with pgv := { s.pgv with reqs := rest } }
      if r.isDraw then
        match headOf s r.unit with
        | some q =>
          if q.seq ≠ r.seq then s
          else
            let u := unitOf s r.unit
            setUnit r.unit { u with queue := { q with asked := false, drawn := q.drawn + a } :: u.queue.tail } (takeTokens a s)
        | none => s
      else
        let s := if pool < r.amount then bump rPgvClamp 1 s else s
        settleBundle r.bundle (updBundle r.bundle (fun x => { x with granted := true, grant := a }) (takeTokens a s))

/-! ## Judging heads of queues (R46, R503) -/

/-- What a unit makes of the head of its queue. -/
def judge (s : State) (q : QCmd) : Except Nat Prep :=
  if q.refused ≠ 0 then .error q.refused
  else match q.cmd.unit, q.cmd.opcode with
  | 4, 0x10 => prepLdprog s q
  | 4, 0x20 => prepLane s q
  | 4, 0x30 => prepQconv s q
  | 4, 0x40 => prepPmerge s q
  | 4, 0x50 => prepTrans s q
  | 4, 0x60 => prepMmov s q
  | 5, 0x10 => prepRed s q
  | 6, 0x10 => prepRun s q
  | 6, 0x20 => prepRdreg s q
  | 7, 0x10 => prepCopy false false s q
  | 7, 0x20 => prepCopy false true s q
  | 7, 0x30 => prepList false false s q
  | 7, 0x40 => prepTpwr s q
  | 8, 0x10 => prepCopy true false s q
  | 8, 0x20 => prepList true false s q
  | 8, 0x30 => prepList true true s q
  | 9, 0 => prepLseNop s q
  | 9, 0x10 => prepAttn s q
  | 9, 0x20 => prepMove s q
  | 11, 0 => prepOreNop s q
  | 11, 0x10 => prepRev s q
  | u, 0x10 => if u < 4 then prepLoadw s q else prepNop s q
  | u, 0x20 => if u < 4 then prepStream s q else prepNop s q
  | u, 0x30 => if u < 4 then prepZacc s q else prepNop s q
  | _, _ => prepNop s q

/-- The unit has finished the command before its head (R46). -/
def headFree (s : State) (k : Nat) (q : QCmd) : Bool :=
  let u := q.cmd.unit
  if u < 4 then arrayFree k s
  else if u = 4 then (if q.cmd.opcode = 0x10 then idle k s else vxeFree k s)
  else if u = 6 then spuFree k s
  else if u = 7 ∨ u = 8 then chanFree k s
  else if u = 9 then lseFree k s
  else if u = 11 then unitFree k s && !s.ore.filling
  else unitFree k s

/-! ## Skips (R68, R69) -/

/-- The nest of a skipped command as far as its waits and sets go: level 0 when it cannot be read, with 4 for the operand bound
whatever the opcode (log entry 64), and no level below those that it waits or sets at. -/
def skipNest (s : State) (q : QCmd) : Nest :=
  match readNest s q.core q.cmd.loopIx 4 (fun _ => true) with
  | .error _ => {}
  | .ok n =>
    if q.cmd.unit = 7 ∧ q.cmd.opcode = 0x20 then n
    else
      let w := if q.cmd.wen then n.waitLv else 0
      let t := if q.cmd.sen then n.setLv else 0
      let m := if w = 0 then t else if t = 0 then w else min w t
      if m = 0 then {}
      else { waitLv := if w = 0 then 0 else w - (m - 1), setLv := if t = 0 then 0 else t - (m - 1)
             counts := if n.total = 0 then [0] else n.counts.drop (m - 1) }

/-- A skip that a tapping command's partner must know of (R172, R173). -/
def loseTaps (q : QCmd) (s : State) : State :=
  if !(taps q.cmd) then s
  else if q.cmd.unit = 5 then loseTap q.core q.tapNo s
  else
    let s := { s with ssq := { s.ssq with tapV := sset (fun _ => 0) (tapKey q.core q.tapNo) 1 s.ssq.tapV } }
    match tapPartner s q with
    | some red => (fun s => if red.total = 0 then complete (unitKey q.core 5) red.q.seq s else s)
        (loseTap q.core q.tapNo (lateSkip (unitKey q.core 5) red.q.seq 0x04 s))
    | none => s

/-- Goes on with a started skipped command: one iteration, with the release that an FXE.STREAM's tile takes (R68, R208). -/
def skipStep (k : Nat) (r : Run) (s : State) : State :=
  let stream := r.q.cmd.unit == 7 && r.q.cmd.opcode == 0x20
  if stream && decide (r.it = r.total) && decide (r.total ≠ 0) then drainStream r.q.core r s
  else if stream && decide (8 ≤ r.it) && flag s r.q.core (streamFlag r.q) == 0 then s
  else if !(iterReady s r) then s
  else
    let s := takeWait k r s
    let s := if stream && decide (8 ≤ r.it) then setFlag r.q.core (streamFlag r.q) (flag s r.q.core (streamFlag r.q) - 1) s else s
    if stream && decide (r.it + 1 = r.total) then
      let s := if r.nest.setsAt r.it then doSet k r.q s else s
      drainStream r.q.core { r with aux := r.total }
        (updRun k r.q.seq (fun x => { x with it := x.it + 1, aux := r.total }) s)
    else endIter k r.q.seq s

/-- Operands of a unit's opcode (tables of opcodes). -/
def operandsOf (s : State) (q : QCmd) : Nat :=
  match q.cmd.unit, q.cmd.opcode with
  | 4, 0x10 => 1
  | 4, 0x20 => progNsrc (progOf s q.core (laneSlot q)) + if laneDst q then 1 else 0
  | 4, 0x30 => if fld q.cmd.w4 0 2 = 2 then 2 else 3
  | 4, 0x40 => if bitOf q.cmd.w4 0 then 3 else 2
  | 4, 0x50 => 2
  | 4, 0x60 => 1
  | 5, 0x10 => if redOp q = 3 then 3 else 2
  | 6, 0x10 => 2
  | 7, 0x10 => 2
  | 7, 0x20 => 2
  | 7, 0x30 => 3
  | 8, 0x10 => 2
  | 8, 0x20 => 3
  | 8, 0x30 => 3
  | 9, 0x10 => 3
  | 9, 0x20 => 1
  | 11, 0x10 => 1
  | u, 0x10 => if u < 4 then 1 else 0
  | u, 0x20 => if u < 4 then 3 else 0
  | u, 0x30 => if u < 4 then 1 else 0
  | _, _ => 0

/-- What an operand's data are that a start reads too: a list (R101), or a program image (R154). -/
def dataReads (s : State) (q : QCmd) : List Claim :=
  let kinds := if q.cmd.unit = 4 ∧ q.cmd.opcode = 0x10 then [1] else [5]
  match readNest s q.core q.cmd.loopIx 4 (fun _ => true), parseDesc (fun i => (descWords s q.core q.cmd.desc).getD i 0) { kinds := kinds } with
  | .ok n, some d => [claimOf q.core q.core n 0 { kinds := kinds } (resolveOrigin s q.core d)]
  | _, _ => []

/-- Ranges that the start of a command reads before it is judged (R54, R65, R81); none for one refused at dispatch, and none
where a named field refuses it, which is judged first (R503 item 3). -/
def startReads (s : State) (q : QCmd) (reason : Nat) : List Claim :=
  if q.refused != 0 || [1, 2, 0x0B, 0x0E].contains reason then []
  else
    let n := operandsOf s q
    nestClaims s q.core q.cmd.loopIx 4 ++ ((List.range n).flatMap fun j => entryReads s q.core (q.cmd.desc + j)) ++
      (if n = 0 then [] else dataReads s q)

/-- A running earlier command is still to write what the start of a refused command reads: its judgement waits for that write
(R54, log entry 72). -/
def readsHeld (s : State) (q : QCmd) (reason : Nat) : Bool :=
  let cl := startReads s q reason
  (allRuns s).any fun p => decide (p.2.q.seq < q.seq) && !flagOrders p.2.q q && p.2.claims.any fun d => cl.any fun c => c.clash d

/-- A command judged bad starts without tokens or scoreboard, is counted, logged, and stands in for its waits and sets. -/
def startSkip (k : Nat) (q : QCmd) (reason : Nat) (s : State) : State :=
  let n := skipNest s q
  if !(stepOpen s && reached s q) || (startWaits n && !(waitOk s q.core q)) || readsHeld s q reason then s
  else
    let s := markSkip (logSkip q reason s)
    if s.ssq.strict then strictHalt q s
    else
      let s := if q.drawn = 0 then s else returnTokens q.drawn s
      let ch := if q.cmd.unit = 7 ∨ q.cmd.unit = 8 then (freeChan s k).getD 0 else 0
      let s := launch k { q with drawn := 0 } { skipped := reason, nest := n, total := n.total, chan := ch } s
      let s := loseTaps q s
      match runOf s k q.seq with
      | some r => if r.total = 0 then complete k q.seq s else skipStep k r s
      | none => s

/-- Cores on whose flag a command that the SSQ holds waits (R68, R504). -/
def holdCores (s : State) (q : QCmd) : List Nat :=
  if q.cmd.core = 15 then liveCores s else if live s q.cmd.core then [q.cmd.core] else []

/-- Cores to whose flag it adds (R68, R504): one refused with CORE 15 for a live SCORE that is not 15 adds to core SCORE, once
(log entry 63). -/
def holdSets (s : State) (q : QCmd) : List Nat :=
  if q.cmd.score = 15 then holdCores s q else if live s q.cmd.score then [q.cmd.score] else []

/-- Its wait is met on every core that it waits on. -/
def holdMet (s : State) (q : QCmd) : Bool := (holdCores s q).all fun c => waitOk s c q

/-- A held command acts: it consumes, adds n to its flag, and leaves the SSQ. It reads no nest: a LOOP that is not 0 changes nothing
(log entry 62). -/
def runHold (q : QCmd) (adds : Bool) (n : Nat) (s : State) : State :=
  let cs := holdCores s q
  let ts := holdSets s q
  let s := cs.foldl (fun s c => consume c q s) s
  let s := if adds then ts.foldl (fun s c => addFlag c q.cmd.sflag n ssqKey q.seq s) s else s
  let s := settleBundle q.bundle { s with ssq := { s.ssq with holds := s.ssq.holds.filter fun x => x.seq != q.seq } }
  if addHeld s ssqKey q.seq then s else { s with ssq := { s.ssq with lastRetire := s.now } }

/-- A refused command that the SSQ holds. -/
def skipHold (q : QCmd) (s : State) : State :=
  if !(stepOpen s && reached s q && holdMet s q) then s
  else
    let s := markSkip (logSkip q q.refused s)
    if s.ssq.strict then strictHalt q s else runHold q q.cmd.sen q.cmd.scnt s

/-- SKIPPED_COMMAND: the refused command at the head of unit u of core c, or one already started there; for unit 10, the c-th
refused command that the SSQ holds. -/
def skippedCommand (c u : Nat) (s : State) : State :=
  if !(engines s) || s.ssq.aborting then s
  else if u = 10 then
    match (s.ssq.holds.filter fun q => q.refused != 0)[c]? with
    | some q => skipHold q s
    | none => s
  else
    let k := unitKey c u
    match firstRun s k fun r => r.skipped != 0 with
    | some r => skipStep k r s
    | none => match headOf s k with
      | none => s
      | some q =>
        if !(headFree s k q) then s
        else match judge s q with
          | .ok _ => s
          | .error e => startSkip k q e s

/-! ## SYNC (R504) and held adds (R57) -/

/-- The n-th SYNC command that the SSQ holds, of a kind, when it may act. -/
def holdAt (s : State) (set : Bool) (n : Nat) : Option QCmd :=
  match (s.ssq.holds.filter fun q => q.refused == 0)[n]? with
  | some q =>
    if (q.cmd.opcode == 1) == set && stepOpen s && reached s q && bundleGranted s q.bundle && holdMet s q then some q else none
  | none => none

/-- SYNC_SET: its immediate, and SCNT with SEN = 1, added in one action. -/
def syncSet (n : Nat) (s : State) : State :=
  match holdAt s true n with
  | some q => runHold q true (fld q.cmd.w4 0 16 + if q.cmd.sen then q.cmd.scnt else 0) s
  | none => s

/-- SYNC_WAIT; a SYNC with opcode 0, NOP on every unit, does the same (log entry 14). -/
def syncWait (n : Nat) (s : State) : State :=
  match holdAt s false n with
  | some q => runHold q q.cmd.sen q.cmd.scnt s
  | none => s

/-- FLAG_ADD_HELD: the first add held for a flag for which the flag has room is applied; its setter then retires, or its
acknowledgement leaves (R57, R330). -/
def flagAddHeld (c f : Nat) (s : State) : State :=
  if !(engines s) then s
  else match s.heldAdds.find? fun h => h.core == c && h.flag == f && decide (flag s c f + h.n ≤ 65535) with
  | none => s
  | some h =>
      let s := setFlag c f (flag s c f + h.n) { s with heldAdds := s.heldAdds.erase h }
      if h.unit = portUnit then sendHeldAck h.seq s
      else if addHeld s h.unit h.seq then s
      else if h.unit = ssqKey then { s with ssq := { s.ssq with lastRetire := s.now } }
      else match runOf s h.unit h.seq with
        | some r => if r.ended then retire h.unit h.seq s else s
        | none => s

/-! ## Issue time (R47–R50) -/

/-- Cause for which the head of a unit has not started: 1 BUSY, 2 WAIT, 3 SCOREBOARD with its storage, 4 TOKEN; 0 when it could
start. -/
def headCause (s : State) (k : Nat) (q : QCmd) : Nat × Option Nat :=
  if !(headFree s k q) then (1, none)
  else match judge s q with
  | .error e =>
    let n := skipNest s q
    if startWaits n && !(waitOk s q.core q) then (2, none)
    else if readsHeld s q e then (3, some q.core)
    else (0, none)
  | .ok p =>
    if q.cmd.unit = 4 ∧ taps q.cmd ∧ !(tapLost s q) ∧ (tapPartner s q).isNone then (1, none)
    else if startWaits p.run.nest && !(waitOk s q.core q) then (2, none)
    else match sbBlock s k q p.run.claims with
      | some sp => (3, some sp)
      | none =>
        if !(bundleGranted s q.bundle) || q.asked || decide (q.drawn + grantLeft s q.bundle < costDue s k q p) then (4, none)
        else (0, none)

/-- Items of one unit that are late: issue time and cause. -/
def unitLate (s : State) (k : Nat) (u : UnitSt) : List (Nat × Nat) :=
  match u.queue with
  | [] => []
  | q :: rest =>
    if !(reached s q) then []
    else (q.issue, (headCause s k q).1) :: (rest.filter (reached s)).map fun x => (x.issue, 1)

/-- The issue time of the bundle that is next to be fetched, as its header gives it. -/
def peekIssue (s : State) : Option Nat :=
  if s.ssq.endSeen ∨ streamLen s s.ssq.task < s.ssq.fetchOff + 16 then none
  else some (s.ssq.lastIssue + leAt (streamBytes s s.ssq.fetchOff 2) 0 2)

/-- Every item at or before the present issue time that has not started or been met, with its cause; 0 for none. -/
def lateItems (s : State) : List (Nat × Nat) :=
  let t := s.ssq.issue
  ((s.ssq.bundles.filter fun b => !b.cmds.isEmpty && decide (b.issue ≤ t)).map fun b => (b.issue, 5)) ++
  (match peekIssue s with
    | some i => if i ≤ t then [(i, 5)] else []
    | none => []) ++
  (match nextIssue s with
    | some b => if b.issue ≤ t then [(b.issue, if fencesMet s b then 0 else 6)] else []
    | none => []) ++
  (s.units.flatMap fun u => unitLate s u.1 u.2) ++
  (s.ssq.holds.filter (reached s)).map fun q =>
    (q.issue, if !(holdMet s q) then 2 else if q.refused == 0 && !(bundleGranted s q.bundle) then 4 else 0)

/-- The late item that a frozen tick is charged to: the earliest issue time, then the lowest cause (R50). -/
def lateCause (l : List (Nat × Nat)) : Nat :=
  ((sortBy (fun (a b : Nat × Nat) => decide (a.1 < b.1) || (a.1 == b.1 && decide (a.2 ≤ b.2)))
    (l.filter fun x => x.2 != 0)).head?.map Prod.snd).getD 0

/-- Heads held back by a scoreboard are counted once each, in the counter of the first storage that holds them (R65, log entry
66). -/
def countHazards (s : State) : State :=
  s.units.foldl (fun s u => match u.2.queue with
    | q :: rest =>
      if q.hazed || !(reached s q) then s
      else match (headCause s u.1 q).2 with
        | some sp => bump (hazReg sp) 1 (setUnit u.1 { u.2 with queue := { q with hazed := true } :: rest } s)
        | none => s
    | [] => s) s

/-- A bundle of which nothing is left. -/
def bundleDone (s : State) (b : Bundle) : Bool := b.issued && b.granted && b.cmds.isEmpty && b.grant == 0 && !(unstarted s b.id)

/-- Core cycles of core c in the present tick of 1 ns, at the frequency that CLK_STATUS gives. -/
def coreCycles (s : State) (c : Nat) : Nat := let f := fld (clkStatus s c) 2 12; s.now * f / 1000 - (s.now - 1) * f / 1000

/-- Core cycles that units of core c wait are counted: streams on a release (R207), arrays on the shadow, on staging and on a load
(R117, R121, R129), tapping commands on the RDU (R172). -/
def countWaits (c : Nat) (s : State) : State :=
  let n := coreCycles s c
  let add := fun (b : Bool) (off : Nat) (s : State) => if b then bump (coreReg c off) n s else s
  let s := add ((unitOf s (unitKey c 7)).running.any (waitsRelease s)) 0xC02C (add (tapWaits s c) 0xB114 s)
  iter 4 (fun a s => add (loadHeld s c a == 1) (0xB018 + 0x40 * a) (add (loadHeld s c a == 2) (0xB028 + 0x40 * a)
    (add (rowsHeld s (unitKey c a)) (0xB014 + 0x40 * a) s))) s

/-- Ticks that blocks count: waits of the cores' units, ports held off, the snake waiting for a tile or for a release (R319, R358,
R360). -/
def countTicks (s : State) : State :=
  let s := if s.ssq.run && !s.ssq.aborting && engines s then (liveCores s).foldl (fun s c => countWaits c s) s else s
  let s := s.ports.foldl (fun s p =>
    bump (portReg p.1 0x24) (if p.2.waiting then 1 else 0) (if p.2.heldOff = 0 then s else bump (portReg p.1 0x2C) 1 s)) s
  if !s.ore.rev || s.ore.ended || s.ssq.aborting then s
  else
    let t := s.ore.tiles
    match s.ore.snake with
    | none => if t < tilesT s ∧ !((slotOf s t).any fun x => x.verified) then bump 0x40203C 1 s else s
    | some _ =>
      match revRun s with
      | none => s
      | some r =>
        match (snakeOrder.filter (live s)).find? fun c => decide (acceptedOf s c < t) with
        | some c => if 8 < t ∧ flag s c (revR r.q) = 0 then bump 0x402038 1 s else s
        | none => s

/-- ISSUE_TIME_ADVANCE: one time tick. Issue time advances unless an item is late; a frozen tick is counted (R47, R50). -/
def issueTimeAdvance (s : State) : State :=
  let s := { s with now := s.now + 1 }
  if !(powered s) then s
  else
    let s := countTicks s
    if !s.ssq.run || s.ssq.held || s.ssq.aborting || !(engines s) then s
    else
      let frozen := fun s : State => { s with ssq := { s.ssq with freeze := true, freezeTicks := s.ssq.freezeTicks + 1 } }
      if s.ssq.halt then frozen s
      else
        let l := lateItems s
        if l.isEmpty then
          let s := { s with ssq := { s.ssq with freeze := false, issue := s.ssq.issue + 1 } }
          frameBegin { s with ssq := { s.ssq with bundles := s.ssq.bundles.filter fun b => !(bundleDone s b) } }
        else
          let s := countHazards s
          let c := lateCause l
          frozen (if c = 0 then s else bump (rLate + 4 * (c - 1)) 1 s)

/-! ## Deadlock and overrun (R71–R73, R410) -/

/-- A running command is blocked on the wait of an iteration: of its next load or pass, of the next that its engine opens, or of
the one that is under way. -/
def iterBlocked (s : State) (r : Run) : Bool :=
  let i := if r.q.cmd.unit < 4 then (nextLoad r).getD r.it else r.aux
  let ahead := r.skipped == 0 && ((decide (r.q.cmd.unit < 4) && (r.q.cmd.opcode == 0x10 || r.q.cmd.opcode == 0x20))
    || r.q.cmd.unit == 7 || r.q.cmd.unit == 8)
  !r.ended && (if ahead then decide (i < r.total) && !(metThrough s r i) else !(iterReady s r))

/-- A node of the wait table (R71): the head of a unit's queue, a started command at its channel or array, a command that the SSQ
holds, or the dispatch point. -/
inductive WaitNode where
  | head (unit : Nat)
  | run (unit seq : Nat)
  | held (seq : Nat)
  | dispatch
deriving DecidableEq, Repr

/-- A command not yet retired sets flag (c, f). -/
def setsFlag (s : State) (q : QCmd) (c f : Nat) : Bool := q.cmd.sen && q.cmd.sflag == f && (setCores s q).contains c

/-- A command not yet dispatched is to set flag (c, f). -/
def willSet (s : State) (x : Cmd) (c f : Nat) : Bool :=
  (x.sen || (x.unit == 10 && x.opcode == 1)) && x.sflag == f &&
    (if x.unit = 10 then (holdSets s { cmd := x }).contains c
     else (targets s x).any fun n => (setCores s { cmd := x, core := n }).contains c)

/-- Where the unretired commands are that set a flag: queued behind a unit's head, started, held by the SSQ, or not yet
dispatched. -/
def setters (s : State) (c f : Nat) : List WaitNode :=
  (s.units.flatMap fun u =>
    (if u.2.queue.any fun q => setsFlag s q c f then [WaitNode.head u.1] else []) ++
    (u.2.running.filter fun r => setsFlag s r.q c f).map fun r => WaitNode.run u.1 r.q.seq) ++
  ((s.ssq.holds.filter fun q => (q.cmd.sen || (q.refused == 0 && q.cmd.opcode == 1)) && q.cmd.sflag == f
      && (holdSets s q).contains c).map fun q => WaitNode.held q.seq) ++
  (if s.ssq.bundles.any fun b => b.cmds.any fun x => willSet s x.2 c f then [.dispatch] else [])

/-- Nodes of a unit: its head and what it has started. -/
def nodesOf (s : State) (k : Nat) : List WaitNode := .head k :: (unitOf s k).running.map fun r => .run k r.q.seq

/-- Nodes that a started command waits for: the setters of its wait's flag or of a release (R196, R207, R237), and for a tapping
command its partner (R173). -/
def runEdges (s : State) (k : Nat) (r : Run) : List WaitNode :=
  (if iterBlocked s r then setters s r.q.core r.q.cmd.wflag else []) ++
  (if r.q.cmd.unit = 7 ∧ waitsRelease s r then setters s r.q.core (streamFlag r.q) else []) ++
  (if !(taps r.q.cmd) || r.skipped != 0 || r.ended then []
   else if k % 16 = 5 then
    match (unitOf s (unitKey r.q.core 4)).running.find? fun x => laneTap x.q && x.q.cmd.opcode == 0x20 && x.q.tapNo == r.q.tapNo with
    | some x => [.run (unitKey r.q.core 4) x.q.seq]
    | none => nodesOf s (unitKey r.q.core 4)
   else match tapPartner s r.q with
    | some x => [.run (unitKey r.q.core 5) x.q.seq]
    | none => [])

/-- Started commands that keep the head of unit k from being next (R46): each of the commands before it, or for the engines with
channels all of them together (R196, R237). -/
def inTheWay (s : State) (k : Nat) (q : QCmd) : List WaitNode :=
  let l := (unitOf s k).running.filter fun r =>
    if k % 16 < 4 then !(r.skipped == 0 && loadDone r)
    else if k % 16 = 6 then r.skipped != 0 || (!(doneFor r) && (pipeUsed q).isSome && pipeUsed r.q == pipeUsed q)
    else if 7 ≤ k % 16 ∧ k % 16 ≤ 9 then true
    else !(doneFor r)
  let blocked := l.filter fun r => !(runEdges s k r).isEmpty
  if 7 ≤ k % 16 ∧ k % 16 ≤ 9 ∧ (l.all fun r => r.skipped == 0) ∧ blocked.length ≠ l.length then []
  else blocked.map fun r => .run k r.q.seq

/-- Nodes that the head of unit k waits for. -/
def headEdges (s : State) (k : Nat) (q : QCmd) : List WaitNode :=
  if !(reached s q) then []
  else
    let c := (headCause s k q).1
    if c = 2 then setters s q.core q.cmd.wflag
    else if c = 4 then s.units.flatMap fun u => (u.2.running.filter fun r => r.tokens != 0).map fun r => .run u.1 r.q.seq
    else if c = 1 then (if headFree s k q then nodesOf s (unitKey q.core 5) else inTheWay s k q)
    else []

/-- The wait table: each blocked node with the nodes it waits for (R71, R173, R196, R237, R410; log entry 77). -/
def waitTable (s : State) : List (WaitNode × List WaitNode) :=
  (s.units.flatMap fun u =>
    (match u.2.queue with
      | q :: _ => [(WaitNode.head u.1, headEdges s u.1 q)]
      | [] => []) ++
    u.2.running.map fun r => (.run u.1 r.q.seq, runEdges s u.1 r)) ++
  ((s.ssq.holds.filter (reached s)).map fun q =>
    (.held q.seq, ((holdCores s q).filter fun c => !(waitOk s c q)).flatMap fun c => setters s c q.cmd.wflag)) ++
  (match nextCmd s with
    | some (_, _, c) => (match fullQueue s c with
      | some k => [(.dispatch, [.head k])]
      | none => [])
    | none => [])

/-- What is left of a graph once every node with no way on is taken out, n times. -/
def trim : Nat → List (WaitNode × List WaitNode) → List (WaitNode × List WaitNode)
  | 0, g => g
  | n + 1, g => trim n (g.filter fun v => v.2.any fun w => g.any fun x => x.1 == w)

/-- The wait table has a cycle. -/
def hasCycle (g : List (WaitNode × List WaitNode)) : Bool := !(trim g.length g).isEmpty

/-- Some command of the step has not retired. -/
def workLeft (s : State) : Bool := pendingBefore s s.ssq.nextBundle

/-- DEADLOCK_WALK: after 2^20 ticks with no retirement. A walk that finds no cycle is made again after as many more. -/
def deadlockWalk (s : State) : State :=
  if !(engines s) || !s.ssq.run || s.ssq.held || s.ssq.halt || s.ssq.aborting || decide (s.now < s.ssq.lastRetire + 2 ^ 20) || !(workLeft s) then s
  else if hasCycle (waitTable s) then
    let s := bump rDeadlockCount 1 { s with ssq := { s.ssq with deadlock := true } }
    abortStep 2 (raise (srcOf 4 0 0) 0x12 0 s)
  else { s with ssq := { s.ssq with lastRetire := s.now } }

/-- OVERRUN: the step has run longer than its limit (R73); a halted step waits for ABORT (R69). -/
def overrun (s : State) : State :=
  let w := rd s rStepLimit
  if !(engines s) || !s.ssq.run || s.ssq.held || s.ssq.halt || s.ssq.aborting || !(bitOf w 31)
      || decide (s.now < s.ssq.began + fld w 0 24 * 1024) then s
  else abortStep 3 (raise (srcOf 4 0 0) 0x13 0 s)

/-! ## The end of a step (R41, R59, R70, R273) -/

/-- An exact product is a scale: its magnitude at least 2^-126 and no more than FP32's largest finite value. -/
def normalScale (v : FVal) : Bool :=
  match v with
  | .fin _ m e => magLe 1 (-126) m e && magLe m e fFP32.largest.1 fFP32.largest.2
  | _ => false

/-- Slot k of core c adapts (R273). -/
def adaptSlot (c k : Nat) (s : State) : State :=
  let a := cfg s (coreReg c (0xB600 + 4 * k))
  if !(bitOf a 0) || decide ((rd s (coreReg c (0xB700 + 4 * k))).toNat ≤ fld a 12 20) then s
  else
    let d := max 1 (fld a 1 2)
    let p := fld a 3 6
    let reg := fun i => coreReg c (0xB400 + 8 * i)
    let pair := p != 0 && p != k
    let v := scale2 (f32 (rd s (reg k))) (-(d : Int))
    let w := scale2 (f32 (rd s (reg p))) d
    if !(normalScale v) || (pair && !(normalScale w)) then bump (coreReg c 0xB128) 1 s
    else bump (coreReg c 0xB124) 1 (wr (reg k) (toF32 v) (if pair then wr (reg p) (toF32 w) s else s))

/-- Adaptation at the end of a step with result OK. -/
def adapt (s : State) : State :=
  (liveCores s).foldl (fun s c => iter 63 (fun i s => adaptSlot c (i + 1) s) s) s

/-- No arrival waits and no write is outstanding in any segment (R210). -/
def ingressDrained (s : State) : Bool := s.ingress.isEmpty && s.segs.all fun g => g.2.owc == 0

/-- The END bundle has been issued, everything of the step has retired, and every core is fully drained (R41, R210). -/
def allDone (s : State) : Bool :=
  ingressDrained s && s.ssq.endSeen && !(workLeft s) && s.ssq.bundles.all (fun b => b.issued)
    && s.ssq.bundles.all (fun b => b.granted)

/-- Running commands of an aborted step have ended: their transfers have landed or been acknowledged, and their segments have
changed (R70, R201). -/
def drained (s : State) : Bool :=
  ingressDrained s && (s.outst.all fun o => o.2.isEmpty) &&
  (allRuns s).all fun p => p.2.q.cmd.unit != 7 || p.2.q.cmd.opcode != 0x40 || p.2.skipped != 0 || p.2.ended || tpwrDone s p.2

/-! ### Outputs of commands that an abort ends (R70, R131, R245; log entry 68) -/

/-- n undefined bytes at a place on this part. -/
def losePlace (l : Loc) (n : Nat) (s : State) : State :=
  match l with
  | .tarn c a => let f := freeBytes n s; tarnWrite c a f.1 f.2
  | .mere a => let f := freeBytes n s; mereWrite a f.1 f.2
  | _ => s

/-- An undefined word, and the state after drawing it. -/
def freeWord (s : State) : Word × State := let f := freeBytes 4 s; (Word.ofNat (leNat f.1), f.2)

/-- Operand j of a run becomes undefined where iteration i writes it. -/
def loseOperand (r : Run) (i j : Nat) (s : State) : State :=
  let d := r.desc.getD j {}
  let c := r.q.core
  if d.kind = 3 then
    iter (d.e 1) (fun m s => iter (d.e 0) (fun x s =>
      let f := freeWord s
      accSet c d.array ((d.base + r.nest.offset i j).toNat + m) (32 * d.colb + x) f.1 f.2) s) s
  else if d.kind = 4 then
    iter (d.e 0 * 1024) (fun x s => let f := freeWord s; tregSet c (tregNo d r.nest i j (x / 1024)) (x % 1024) f.1 f.2) s
  else (rowCoords d).foldl (fun s x =>
    losePlace (.tarn c (rowAddr d r.nest i j x.1 x.2.1 x.2.2)) (rowBytes d.dtype (d.e 0)) s) s

/-- Operands that a run writes, but for those of the engines' copies and the moves. -/
def outputs (q : QCmd) : List Nat :=
  match q.cmd.unit, q.cmd.opcode with
  | 4, 0x20 => []
  | 4, 0x30 => if fld q.cmd.w4 0 2 = 2 then [1] else [1, 2]
  | 4, 0x40 => if bitOf q.cmd.w4 0 then [1, 2] else [1]
  | 4, 0x50 => [1]
  | 4, 0x60 => if bitOf q.cmd.w4 4 then [0] else []
  | 5, 0x10 => if redOp q = 3 then [1, 2] else [1]
  | 6, 0x10 => [1]
  | 9, 0x10 => [2]
  | u, 0x20 => if u < 4 then [2] else []
  | u, 0x30 => if u < 4 then [0] else []
  | _, _ => []

/-- Destinations of the entries of an LSE.MOVE at iteration i. -/
def moveOutputs (s : State) (r : Run) (i : Nat) : List (Nat × Nat) :=
  match poolOf s (lseFmt r.q) with
  | none => []
  | some p =>
    let d := atIter (r.desc.getD 0 {}) r.nest i 0
    (List.range (d.e 1)).flatMap fun b =>
      let t := tableEntry s r.q.core d b
      if entryBad t 2 || !(imageOk p (leAt t 11 5) (leAt t 4 4)) then []
      else movePieces s p (lseDir r.q) (leAt t 0 4) (leAt t 8 1) (leAt t 4 4) (leAt t 11 5 * 256)

/-- What one iteration of a run writes becomes undefined. -/
def loseIter (r : Run) (i : Nat) (s : State) : State :=
  let q := r.q
  let c := q.core
  let js := if q.cmd.unit = 4 ∧ q.cmd.opcode = 0x20 then (if laneDst q then [r.desc.length - 1] else []) else outputs q
  let s := js.foldl (fun s j => loseOperand r i j s) s
  if q.cmd.unit = 7 ∨ q.cmd.unit = 8 then (xfersOf s r i).1.foldl (fun s x => losePlace x.dst x.outLen s) s
  else if q.cmd.unit = 9 ∧ q.cmd.opcode = 0x20 then freePieces (moveOutputs s r i) s
  else if q.cmd.unit = 4 ∧ q.cmd.opcode = 0x10 then
    iter 64 (fun x s =>
      let f := freeWord s
      { f.2 with progs := sset zero32 ((c * 64 + fld q.cmd.w4 0 6) * 64 + x) f.1 f.2.progs }) s
  else if q.cmd.unit = 4 ∧ q.cmd.opcode = 0x60 ∧ !(bitOf q.cmd.w4 4) then
    iter 32 (fun x s => let f := freeWord s; maskSet c (fld q.cmd.w4 0 4) x f.1 f.2) s
  else s

/-- The outputs of every command that the abort ends are undefined to the task (R70): those of the commands that were running. -/
def loseOutputs (s : State) : State :=
  ((allRuns s).filter fun p => p.2.skipped == 0 && !p.2.ended && !p.2.empty).foldl (fun s p =>
    iter p.2.total (fun i s => loseIter p.2 i s) s) s

/-- STEP_END. -/
def stepEnd (s : State) : State :=
  if !(engines s) || !s.ssq.run || s.ssq.held then s
  else if s.ssq.aborting then
    if !(drained s) then s
    else
      let s := loseOutputs (if s.pgv.held = 0 then s else returnTokens s.pgv.held s)
      endStep s.ssq.result (zeroFlags { s with units := [], heldAdds := s.heldAdds.filter fun h => h.unit == portUnit })
  else if !(allDone s) || s.ssq.halt then s
  else
    let n := residue s
    let s := zeroFlags (bump rFlagResidue n s)
    let result := if n = 0 then s.ssq.result else 4
    endStep result (if result = 0 then adapt s else s)

def execGo (rq : Requester) (strict : Bool) (s : State) : Host.Outcome State Fault Refusal := .next (go rq strict s)
def execStepBeginAfterSettle (s : State) : Host.Outcome State Fault Refusal := .next (stepBeginAfterSettle s)
def execAbort (s : State) : Host.Outcome State Fault Refusal := .next (abort s)
def execBundleFetch (s : State) (ecc : EccMap := []) : Host.Outcome State Fault Refusal := .next (bundleFetch ecc s)
def execDispatch (s : State) : Host.Outcome State Fault Refusal := .next (dispatch s)
def execBundleIssue (s : State) : Host.Outcome State Fault Refusal := .next (bundleIssue s)
def execTokenGrant (s : State) : Host.Outcome State Fault Refusal := .next (tokenGrant s)
def execIssueTimeAdvance (s : State) : Host.Outcome State Fault Refusal := .next (issueTimeAdvance s)
def execFlagAddHeld (c : CoreId) (f : Fin 4096) (s : State) : Host.Outcome State Fault Refusal := .next (flagAddHeld c.val f.val s)
def execDeadlockWalk (s : State) : Host.Outcome State Fault Refusal := .next (deadlockWalk s)
def execOverrun (s : State) : Host.Outcome State Fault Refusal := .next (overrun s)
def execStepEnd (s : State) : Host.Outcome State Fault Refusal := .next (stepEnd s)

end Sys2Proof.Machine
end

