-- ==== Sys2Proof/Machine/Oht.lean ====
section
/-! DEFINITION. The host port and Octus Host Transport (ch. 12): messages sealed and opened, numbering and resends, submission
entries, completions, fences, events, and the states of queue pairs. -/

namespace Sys2Proof.Machine

abbrev rOhtCtl : Nat := 0x500000
abbrev rOhtVlan : Nat := 0x500004
abbrev rOhtRto : Nat := 0x500028
abbrev rOhtDead : Nat := 0x50002C
abbrev rRxFrames : Nat := 0x500040
abbrev rTxFrames : Nat := 0x500044
abbrev rRxDrop : Nat := 0x500048
abbrev rAuthFail : Nat := 0x50004C
abbrev rRetx : Nat := 0x500050
abbrev rQfull : Nat := 0x500054
abbrev rNoqp : Nat := 0x500058

/-! ## Queue contexts (ch. 12, table of queue contexts) -/

/-- STATE of queue pair q: 0 OFF, 1 READY, 2 ERROR. -/
def qpState (s : State) (q : Nat) : Nat := rdF s (qctx q 0) 0 2
/-- Entries of its ring, its first place in the entry store. -/
def sqSize (s : State) (q : Nat) : Nat := 2 ^ fld (rd s (qctx q 1)) 18 4
def sqBase (s : State) (q : Nat) : Nat := fld (rd s (qctx q 1)) 0 18
/-- SQ_HEAD and SQ_TAIL count modulo twice the ring's size. -/
def sqHead (s : State) (q : Nat) : Nat := rdF s (qctx q 2) 0 13
def sqTail (s : State) (q : Nat) : Nat := rdF s (qctx q 2) 16 13
/-- Entries between head and tail. -/
def sqUsed (s : State) (q : Nat) : Nat := (sqTail s q + 2 * sqSize s q - sqHead s q) % (2 * sqSize s q)
def txPsn (s : State) (q : Nat) : Nat := rdF s (qctx q 4) 0 24
def rxPsn (s : State) (q : Nat) : Nat := rdF s (qctx q 5) 0 24
/-- Completion entries that the host can take. -/
def cqCredit (s : State) (q : Nat) : Nat := rdF s (qctx q 3) 0 16
/-- Entries accepted and not yet acknowledged. -/
def inflight (s : State) (q : Nat) : Nat := rdF s (qctx q 9) 0 17

/-- Changes a queue pair. -/
def updQp (q : Nat) (f : QpSt → QpSt) (s : State) : State := setQp q (f (qpOf s q)) s

/-- Adds to a 32-bit count that wraps. -/
def addWrap (a n : Nat) (s : State) : State := wr a (Word.ofNat ((rd s a).toNat + n)) s

/-! ## Sealing (R375, R465) -/

/-- Key of the slot that a queue pair's context names. -/
def ohtKey (s : State) (q : Nat) : Key := sget (fun _ => {}) (rdF s (qctx q 6) 0 8) s.sec.okeys

/-- GCM IV of a message (R465). -/
def ohtIv (s : State) (q : Nat) (fromPart : Bool) (wraps psn : Nat) : Nat :=
  beNat (leBytes 4 (rd s (0x34000 + 4 * q)).toNat ++
    leBytes 8 ((if fromPart then 2 ^ 63 else 0) + q * 2 ^ 49 + wraps % 2 ^ 25 * 2 ^ 24 + psn))

/-- Header of a message of the part (table of OHT header fields). -/
def ohtHeader (s : State) (q psn len : Nat) (x : OutItem) : List Byte :=
  leBytes 4 (1 + x.ty * 2 ^ 4 + q * 2 ^ 16) ++ leBytes 4 psn
    ++ leBytes 4 ((rxPsn s q + 2 ^ 24 - 1) % 2 ^ 24 + (if x.nak then 2 ^ 24 else 0)) ++ leBytes 4 len
    ++ leBytes 4 (sqHead s q) ++ leBytes 4 (ohtKey s q).id.toNat ++ List.replicate 8 0

/-- Where a queue pair's messages go (R374): its host address entry; for queue pair 0 with no valid entry, the source of the last
message accepted on it (R467). -/
def hostAddr (s : State) (q : Nat) : Option (Nat × Nat) :=
  let h := rdF s (qctx q 0) 24 6
  let w := fun i => (rd s (0x501000 + 0x20 * h + 4 * i)).toNat
  if (w 4).testBit 0 then
    some (if (w 4).testBit 1 then ((w 0 * 2 ^ 32 + w 1) * 2 ^ 32 + w 2) * 2 ^ 32 + w 3 else w 3, w 4 / 2 ^ 16)
  else if q = 0 ∧ (qpOf s 0).srcPort ≠ 0 then some ((qpOf s 0).srcAddr, (qpOf s 0).srcPort)
  else none

/-- The host port runs OHT: powered, enabled, and not silenced by a fatal record (R426). -/
def ohtOn (s : State) : Bool := powered s && bitOf (rd s rOhtCtl) 0 && !s.recov.silent

/-- A priority flow control frame holds back what the part sends (R373). -/
def pfcHeld (s : State) : Bool := decide (s.now < sget (fun _ => 0) (rdF s rOhtVlan 12 3) s.pfcPaused)

/-- A message goes out on the wire. -/
def emit (q : Nat) (dest : Option (Nat × Nat)) (bytes : List Byte) (s : State) : State :=
  match dest with
  | some d => send (.oht q d.1 d.2 bytes) (bump rTxFrames 1 s)
  | none => s

/-- A queue pair may number and send a message now (R376). -/
def mayTx (s : State) (q : Nat) : Bool :=
  ohtOn s && qpState s q == 1 && (ohtKey s q).valid && !(pfcHeld s) && decide ((qpOf s q).sent.length < 256)

/-- Numbers, seals, keeps and sends a message (R375, R376). -/
def transmit (q : Nat) (dest : Option (Nat × Nat)) (x : OutItem) (s : State) : State :=
  let t := qpOf s q
  let psn := txPsn s q
  let head := ohtHeader s q psn x.data.length x
  let bytes := head ++ gcmSeal (ohtKey s q).key (ohtIv s q true t.wrapsTx psn) head x.data
  let fresh := t.sent.isEmpty
  emit q dest bytes (wrF (qctx q 4) 0 24 ((psn + 1) % 2 ^ 24) (setQp q { t with
    sent := t.sent ++ [{ psn := psn, item := x, bytes := bytes }]
    wrapsTx := if psn = 2 ^ 24 - 1 then t.wrapsTx + 1 else t.wrapsTx
    lastAdvance := if fresh then s.now else t.lastAdvance
    lastSend := if fresh then s.now else t.lastSend } s))

/-- Sends the messages that wait, in order, n at most. -/
def flushOut : Nat → Nat → State → State
  | 0, _, s => s
  | n + 1, q, s =>
    match (qpOf s q).outq with
    | [] => s
    | x :: rest => if mayTx s q then flushOut n q (transmit q (hostAddr s q) x (updQp q (fun t => { t with outq := rest }) s)) else s

/-! ## Completions (R379, R380, R440) -/

/-- The 32 bytes of a completion entry. -/
def compBytes (c : Completion) : List Byte :=
  leBytes 2 c.cid ++ leBytes 1 c.status ++ leBytes 1 c.flags ++ leBytes 4 c.session ++ leBytes 4 c.nout ++ leBytes 4 c.pos
    ++ leBytes 4 c.charged ++ leBytes 8 c.segmask ++ leBytes 4 c.tdone

/-- An entry of queue pair q accepted before number f has had no completion sent. -/
def unsentBefore (s : State) (q f : Nat) : Bool :=
  ((qpOf s q).ring.any fun e => decide (e.acc < f)) || ((qpOf s q).queued.any fun c => decide (c.acc < f))
    || s.requests.any fun r => r.q == q && decide (r.acc < f)

/-- Completions of queue pair q that its fences let pass (R440). -/
def sendable (s : State) (q : Nat) : List Completion :=
  (qpOf s q).queued.filter fun c => (qpOf s q).fences.all fun f => decide (c.acc < f) || !(unsentBefore s q f)

/-- QEN sends completions while the host can take them, after the messages that wait; n messages at most (COMPLETE). -/
def pump : Nat → Nat → State → State
  | 0, _, s => s
  | n + 1, q, s =>
    let s := flushOut 256 q s
    let l := (sendable s q).take (min 256 (cqCredit s q))
    if l.isEmpty || !((qpOf s q).outq.isEmpty) || !(mayTx s q) then s
    else
      let s := wrF (qctx q 3) 0 16 (cqCredit s q - l.length) (updQp q (fun t => { t with
        queued := t.queued.filter fun c => !(l.contains c) }) s)
      pump n q (transmit q (hostAddr s q) { ty := 0x02, data := l.flatMap compBytes, comps := l } s)

/-- Everything of queue pair q that can go out now does. -/
def pumpQp (q : Nat) (s : State) : State := pump ((qpOf s q).queued.length + 1) q s

/-- A message for queue pair q: it waits its turn and goes out when it can. An OFF pair sends nothing. -/
def sendItem (q : Nat) (x : OutItem) (s : State) : State :=
  if qpState s q = 0 then s else pumpQp q (updQp q (fun t => { t with outq := t.outq ++ [x] }) s)

/-! ## Notification vectors (R383) -/

/-- Word of a tenant's pending vectors that holds vector v, and its mask word. -/
def pendWord (t v : Nat) : Nat := tenReg t (if v < 32 then 15 else 48)
def maskWordOf (t v : Nat) : Nat := tenReg t (13 + v / 32)

/-- A source of vector v of tenant t fires (EVENT). -/
def fireVec (t v detail : Nat) (s : State) : State :=
  if !(bitOf (rd s (maskWordOf t v)) (v % 32)) then s
  else
    let key := t * 64 + v
    let n := min 65535 (sget (fun _ => 0) key s.fired + 1)
    if bitOf (rd s (pendWord t v)) (v % 32) then { s with fired := sset (fun _ => 0) key n s.fired }
    else
      let s := setBit (pendWord t v) (v % 32) { s with fired := sset (fun _ => 0) key 0 s.fired }
      let record := leBytes 1 v ++ leBytes 1 0 ++ leBytes 2 n ++ leBytes 4 detail ++ leBytes 8 (timeCounter s)
      sendItem (rdF s (tenReg t 11) 0 14) { ty := 0x06, data := record } s

/-- VEC_PEND_CLEAR: a write of ones to a tenant's pending vectors; one whose source fires in the same control cycle stays pending
(R496). -/
def vecPendClear (t : Nat) (high : Bool) (v same : Word) (s : State) : State :=
  if !(powered s) then s
  else
    let a := tenReg t (if high then 48 else 15)
    wr a (rd s a &&& ~~~(v &&& ~~~same)) s

/-- Statistics counter of a completion status (table of counters). -/
def statusStat (st : Nat) : Nat := if st = 0 then 3 else if st = 1 then 4 else if st = 2 then 15 else if st = 3 then 6 else 5

/-- A completion is queued: stamped, counted, its vector fired, and sent when it can be. -/
def queueCompletion (c : Completion) (s : State) : State :=
  let c := { c with tdone := timeCounter s % 2 ^ 32 }
  let t := qpTenant s c.q
  let v := rdF s (qctx c.q 0) 16 6
  let s := updQp c.q (fun p => { p with queued := p.queued ++ [c] }) (bump (statReg t (statusStat c.status)) 1 s)
  pumpQp c.q (if v < 48 then fireVec t v c.q s else s)

/-! ## Acknowledgement (R376, R379, R386) -/

/-- A session slot is freed. -/
def clearSess (k : Nat) (s : State) : State := setSess k {} s

/-- What the acknowledgement of a message settles: its completion slots, and the session whose spill it ends. -/
def settleSent (q : Nat) (m : SentMsg) (s : State) : State :=
  let n := m.item.comps.length
  let s := if n = 0 then s else wrF (qctx q 9) 0 17 (inflight s q - n) (addWrap (qctx q 8) n s)
  match m.item.spill with
  | none => s
  | some k =>
    if (sess s k).st = 6 then
      let t := (sess s k).tenant
      fireVec t 50 k (clearSess k s)
    else s

/-- An APSN covers messages sent. -/
def coverApsn (q apsn : Nat) (s : State) : State :=
  let t := qpOf s q
  let first := (txPsn s q + 2 ^ 24 - t.sent.length) % 2 ^ 24
  let n := (apsn + 1 + 2 ^ 24 - first) % 2 ^ 24
  if n = 0 ∨ t.sent.length < n then s
  else (t.sent.take n).foldl (fun s m => settleSent q m s)
    (setQp q { t with sent := t.sent.drop n, lastAdvance := s.now, lastSend := s.now } s)

/-- Every unacknowledged message goes out again as it was, in order. -/
def resendSent (q : Nat) (s : State) : State :=
  if !(ohtOn s) || pfcHeld s then s
  else (qpOf s q).sent.foldl (fun s m => emit q (hostAddr s q) m.bytes (bump rRetx 1 s))
    (updQp q (fun t => { t with lastSend := s.now }) s)

/-! ## Receiving (R375, R376, R467) -/

/-- The header of a message from the host. -/
structure Hdr where
  ty : Nat
  cont : Bool
  q : Nat
  psn : Nat
  apsn : Nat
  nak : Bool
  len : Nat
  epoch : Nat

/-- Reads a header; none for a message that R375 has dropped for its form. -/
def readHdr (b : List Byte) : Option Hdr :=
  let w := fun i => leAt b (4 * i) 4
  let h : Hdr := { ty := w 0 / 2 ^ 4 % 256, cont := (w 0).testBit 12, q := w 0 / 2 ^ 16 % 2 ^ 14, psn := w 1 % 2 ^ 24,
                   apsn := w 2 % 2 ^ 24, nak := (w 2).testBit 24, len := w 3 % 2 ^ 14, epoch := w 5 }
  if b.length < 48 ∨ w 0 % 16 ≠ 1 ∨ w 0 / 2 ^ 13 % 8 ≠ 0 ∨ w 0 / 2 ^ 30 ≠ 0 ∨ w 1 / 2 ^ 24 ≠ 0 ∨ w 2 / 2 ^ 25 ≠ 0 ∨ w 3 / 2 ^ 14 ≠ 0
      ∨ w 4 / 2 ^ 16 ≠ 0 ∨ w 6 ≠ 0 ∨ w 7 ≠ 0 ∨ 9088 < h.len ∨ b.length ≠ 48 + h.len then none else some h

/-- What the checks of R375 make of a datagram. -/
inductive Judged where
  | form
  | off
  | epoch (h : Hdr)
  | tag
  | good (h : Hdr) (data : List Byte)

/-- Wraps of a host PSN: those of the number expected next, or one less for a number that lies after it in the space. -/
def rxWraps (s : State) (q psn : Nat) : Nat :=
  let e := rxPsn s q
  let w := (qpOf s q).wrapsRx
  if psn ≤ e then (if e - psn < 2 ^ 23 then w else w + 1) else if psn - e < 2 ^ 23 then w else w - 1

/-- Judges a datagram: form, queue pair, epoch, then tag. -/
def judgeMsg (m : Datagram) (s : State) : Judged :=
  match readHdr m.bytes with
  | none => .form
  | some h =>
    let k := ohtKey s h.q
    if qpState s h.q = 0 then .off
    else if !k.valid || k.id.toNat != h.epoch then .epoch h
    else match gcmOpen k.key (ohtIv s h.q false (rxWraps s h.q h.psn) h.psn) (m.bytes.take 32) (m.bytes.drop 32) with
      | none => .tag
      | some d => .good h d

/-- The ACK with which queue pair 0 answers a wrong epoch, once in a millisecond at most, to the datagram's source (R467). -/
def epochAck (m : Datagram) (s : State) : State :=
  let due := match (qpOf s 0).lastEpochAck with
    | none => true
    | some t => decide (t + 1000000 ≤ s.now)
  if due && mayTx s 0 then transmit 0 (some (m.addr, m.port)) { ty := 0x04 } (updQp 0 (fun t => { t with lastEpochAck := some s.now }) s)
  else s

/-- A message that fails a check of R375 is dropped and counted. -/
def dropMsg (m : Datagram) (j : Judged) (s : State) : State :=
  match j with
  | .form => bump rRxDrop 1 s
  | .off => bump rNoqp 1 (bump rRxDrop 1 s)
  | .epoch h => let s := bump rRxDrop 1 s; if h.q = 0 then epochAck m s else s
  | .tag => bump rAuthFail 1 s
  | .good _ _ => s

/-- Answers a message that carries no effect. -/
def answer (q : Nat) (nak : Bool) (s : State) : State := sendItem q { ty := 0x04, nak := nak } s

/-- Messages of queue pair q that have been numbered or wait to be. -/
def outCount (s : State) (q : Nat) : Nat := (txPsn s q) + (qpOf s q).outq.length

/-- A message of type ty arrives (R375, R376). `can` says whether the part can take it whole, and what it counts when it
cannot; `f` is its effect. An accepted message other than an ACK is answered by an ACK when nothing else is sent on the pair. -/
def receive (ty : Nat) (m : Datagram) (can : Nat → Hdr → List Byte → State → Bool × State)
    (f : Nat → Hdr → List Byte → State → State) (s : State) : State :=
  if !(ohtOn s) then s
  else match judgeMsg m s with
  | .good h d =>
    if h.ty ≠ ty then s
    else
      let q := h.q
      let s := bump rRxFrames 1 s
      if qpState s q = 2 then s
      else
        let e := rxPsn s q
        if h.psn ≠ e then answer q (decide (256 < (e + 2 ^ 24 - h.psn) % 2 ^ 24)) s
        else
          let c := can q h d s
          if !c.1 then answer q true c.2
          else
            let s := wrF (qctx q 5) 0 24 ((e + 1) % 2 ^ 24) (updQp q (fun t => { t with
              wrapsRx := if e = 2 ^ 24 - 1 then t.wrapsRx + 1 else t.wrapsRx, srcAddr := m.addr, srcPort := m.port }) s)
            let s := coverApsn q h.apsn s
            let s := if h.nak then resendSent q s else s
            let before := outCount s q
            let s := pumpQp q (f q h d s)
            if ty = 0x04 ∨ outCount s q ≠ before then s else answer q false s
  | j => dropMsg m j (bump rRxFrames 1 s)

/-- A message that the part can always take. -/
def takes : Nat → Hdr → List Byte → State → Bool × State := fun _ _ _ s => (true, s)

/-- ACK: it only carries its header (R376). -/
def ack (m : Datagram) (s : State) : State := receive 0x04 m takes (fun _ _ _ s => s) s

/-- CREDIT: completion entries that the host can take (R379). -/
def credit (m : Datagram) (s : State) : State :=
  receive 0x05 m takes (fun q _ d s => wrF (qctx q 3) 0 16 (min 65535 (cqCredit s q + leAt d 0 4)) s) s

/-- LOAD: bytes of a model image reach the seed of a fill (R370). -/
def loadMsg (m : Datagram) (s : State) : State :=
  receive 0x09 m (fun _ _ _ s => (fclState s != 3, s)) (fun _ _ d s => seedBytes d s) s

/-- SPILLIN: bytes of a spilled image come back (R386). -/
def spillin (m : Datagram) (s : State) : State :=
  receive 0x0B m (fun _ _ _ s => (fclState s != 3, s)) (fun q _ d s => updQp q (fun t => { t with inImage := t.inImage ++ d }) s) s

/-! ## SUBMIT (R378, R381) -/

/-- NENT and NTOKW of a SUBMIT, the latter no more than its data hold. -/
def nEnt (d : List Byte) : Nat := leAt d 0 4 % 128
def nTokw (d : List Byte) : Nat := min (leAt d 4 4) ((d.length - 8 - 64 * nEnt d) / 4)

/-- The ring has room for a SUBMIT's entries, and the pair accepts entries; a full ring is counted (R378, R396). -/
def submitFits (q : Nat) (_h : Hdr) (d : List Byte) (s : State) : Bool × State :=
  if fclState s = 3 ∨ (nEnt d ≠ 0 ∧ (qpOf s q).offPend) then (false, s)
  else if sqSize s q < sqUsed s q + nEnt d then (false, bump rQfull 1 s)
  else (true, s)

/-- The entries at the ring's end that wait get the token area, and pass to Weast. -/
def passEntries (q : Nat) (s : State) : State :=
  match (qpOf s q).asm with
  | none => s
  | some (n, toks) =>
    updQp q (fun t => { t with asm := none
                               ring := t.ring.take (t.ring.length - n) ++
                                 (t.ring.drop (t.ring.length - n)).map fun e => { e with toks := toks } }) s

/-- QEN accepts entries. -/
def acceptEntries (q : Nat) (l : List (List Byte)) (s : State) : State :=
  let n := l.length
  let es : List Entry := (l.zip (List.range n)).map fun x => { acc := s.nextReq + x.2, tick := timeCounter s, bytes := x.1, toks := [] }
  let s := updQp q (fun t => { t with ring := t.ring ++ es }) { s with nextReq := s.nextReq + n }
  wrF (qctx q 2) 16 13 ((sqTail s q + n) % (2 * sqSize s q))
    (wrF (qctx q 9) 0 17 (inflight s q + n) (addWrap (qctx q 7) n s))

/-- An accepted SUBMIT or continuation. One that brings entries while another waits ends the wait. -/
def takeSubmit (q : Nat) (h : Hdr) (d : List Byte) (s : State) : State :=
  let n := nEnt d
  let toks := wordsOf (nTokw d) (d.drop (8 + 64 * n))
  let s := if n = 0 then s else acceptEntries q ((List.range n).map fun i => slice (8 + 64 * i) 64 d) (passEntries q s)
  let a := ((qpOf s q).asm).getD (0, [])
  let s := updQp q (fun t => { t with asm := some (if n = 0 then a.1 else n, a.2 ++ toks) }) s
  if h.cont then s else passEntries q s

/-- SUBMIT. -/
def submit (m : Datagram) (s : State) : State := receive 0x01 m submitFits takeSubmit s

/-- The entry that Weast reads next: the ring's head, once its token area is whole. -/
def headEntry (s : State) (q : Nat) : Option Entry :=
  match (qpOf s q).ring with
  | [] => none
  | e :: _ =>
    let n := match (qpOf s q).asm with
      | some (n, _) => n
      | none => 0
    if n < (qpOf s q).ring.length then some e else none

/-- The head entry leaves its ring (R379). -/
def popEntry (q : Nat) (s : State) : State :=
  wrF (qctx q 2) 0 13 ((sqHead s q + 1) % (2 * sqSize s q)) (updQp q (fun t => { t with ring := t.ring.tail }) s)

/-! ## Timers (R376) -/

/-- OHT_RESEND. -/
def ohtResend (q : Nat) (s : State) : State :=
  if !(ohtOn s) || qpState s q != 1 then s
  else
    let s := if (qpOf s q).sent.isEmpty || decide (s.now < (qpOf s q).lastSend + 1000 * max 1 (rdF s rOhtRto 0 16)) then s
      else resendSent q s
    pumpQp q s

/-- OHT_DEAD. -/
def ohtDead (q : Nat) (s : State) : State :=
  if !(ohtOn s) || qpState s q != 1 || (qpOf s q).sent.isEmpty
      || decide (s.now < (qpOf s q).lastAdvance + 1000000 * max 1 (rdF s rOhtDead 0 16)) then s
  else wrF (qctx q 0) 0 2 2 s

/-! ## Other frames (R373, R374) -/

/-- The part's own MAC, IPv4 and IPv6 addresses. -/
def ownMac (s : State) : Nat := (rd s 0x50000C).toNat + rdF s 0x500010 0 16 * 2 ^ 32
def ownV4 (s : State) : Nat := (rd s 0x500014).toNat
def ownV6 (s : State) : Nat := (List.range 4).foldl (fun a i => a * 2 ^ 32 + (rd s (0x500018 + 4 * i)).toNat) 0

/-- The part takes an IPv6 address, or an IPv4 address. -/
def isV6 (s : State) : Bool := bitOf (rd s rOhtCtl) 1

/-- Receives priority flow control for priority p (R373). -/
def pfcOn (s : State) (p : Nat) : Bool :=
  bitOf (rd s rOhtCtl) 2 && (p == rdF s rOhtCtl 3 3 || p == rdF s rOhtCtl 6 3)

/-- ARP_REQUEST for an IPv4 address. -/
def arpRequest (target sender mac : Nat) (s : State) : State :=
  if ohtOn s && !(isV6 s) && target == ownV4 s then send (.arp (ownMac s) (ownV4 s) sender mac) s else s

/-- NEIGHBOUR_SOLICITATION for an IPv6 address. -/
def neighbourSolicitation (target sender mac : Nat) (s : State) : State :=
  if ohtOn s && isV6 s && target == ownV6 s then send (.arp (ownMac s) (ownV6 s) sender mac) s else s

/-- ECHO_REQUEST. -/
def echoRequest (sender : Nat) (payload : List Byte) (s : State) : State :=
  if ohtOn s then send (.echo sender payload) s else s

/-- PFC_FRAME: a quantum is 512 bit times at 800 Gb/s, 16/25 of a tick. -/
def pfcFrame (prio quanta : Nat) (s : State) : State :=
  if ohtOn s && pfcOn s prio then
    { s with pfcPaused := sset (fun _ => 0) prio (if quanta = 0 then 0 else s.now + ceilDiv (quanta * 16) 25) s.pfcPaused }
  else s

/-- DROPPED_FRAME. -/
def droppedFrame (why : DropCause) (s : State) : State :=
  if !(ohtOn s) then s
  else match why with
  | .header m =>
    match judgeMsg m s with
    | .good _ _ => s
    | j => dropMsg m j (bump rRxFrames 1 s)
  | _ => bump rRxDrop 1 s

/-! ## States of a queue pair (R378, R382, R396) -/

/-- The ring's range, when its size is one that R378 and the context table allow and it lies in the store. -/
def ringOk (s : State) (q : Nat) : Bool :=
  let n := rdF s (qctx q 1) 18 4
  decide (4 ≤ n) && decide (n ≤ 12) && decide (sqBase s q + sqSize s q ≤ 262144)

/-- Queue pairs that are not OFF. -/
def activeQps (s : State) : List Nat := ((0 :: usedQps s).eraseDups).filter fun q => qpState s q != 0

/-- Two ranges meet. -/
def meets (a n b m : Nat) : Bool := decide (a < b + m) && decide (b < a + n)

/-- The tenant named may have queue pair q. -/
def inTenantRange (s : State) (t q : Nat) : Bool :=
  let f := fld (tenCfg s t 1) 0 14
  bitOf (tenCfg s t 0) 0 && decide (f ≤ q) && decide (q < f + fld (tenCfg s t 1) 16 15)

/-- A queue pair may leave OFF with a context word. -/
def mayLeaveOff (s : State) (q : Nat) (w : Word) : Bool :=
  ringOk s q && (q == 0 || inTenantRange s (fld w 8 8) q)
    && (activeQps s).all fun p => p == q || !(meets (sqBase s q) (sqSize s q) (sqBase s p) (sqSize s p))

/-- The queue pair leaves OFF: every count starts at 0. -/
def leaveOff (q : Nat) (s : State) : State :=
  addWrap (0x34000 + 4 * q) 1 (setQp q {} ([2, 3, 4, 5, 7, 8, 9].foldl (fun s w => wr (qctx q w) 0 s) s))

/-- Messages that go out anew after a restart, under new numbers. -/
def carriedOver (l : List SentMsg) : List OutItem := (l.map SentMsg.item).filter fun x => x.ty != 0x04 && x.ty != 0x02

/-- The queue pair leaves ERROR: numbering restarts, and what the host has not acknowledged is held again. -/
def leaveError (q : Nat) (s : State) : State :=
  let s := passEntries q s
  let t := qpOf s q
  let s := setQp q { t with
    sent := [], outq := carriedOver t.sent ++ t.outq.filter fun x => x.ty != 0x04
    queued := (t.sent.flatMap fun m => m.item.comps) ++ t.queued
    wrapsTx := 0, wrapsRx := 0, lastAdvance := s.now, lastSend := s.now } s
  addWrap (0x34000 + 4 * q) 1 (wr (qctx q 5) 0 (wr (qctx q 4) 0 s))

/-- A queue pair goes OFF. -/
def goOff (q : Nat) (s : State) : State := wrF (qctx q 0) 0 2 0 (setQp q {} s)

/-- Writable bits of context word 0. -/
abbrev ctx0Mask : Nat := 0x3F3FFF03

/-- QP_STATE_WRITE: a write of context word 0. Its other fields change only while STATE is OFF. -/
def qpStateWrite (q : Nat) (v : Word) (s : State) : State :=
  let old := qpState s q
  let new := fld v 0 2
  if !(powered s) || decide (16384 ≤ q) || new == 3 then s
  else if old = 0 then
    let w := Word.ofNat (v.toNat &&& ctx0Mask)
    if new = 0 then wr (qctx q 0) w s
    else if !(mayLeaveOff s q w) then s
    else wr (qctx q 0) w (leaveOff q s)
  else if new = 0 then
    if inflight s q = 0 then goOff q s else updQp q (fun t => { t with offPend := true }) s
  else
    let s := updQp q (fun t => { t with offPend := false }) s
    if old = 2 ∧ new = 1 then pumpQp q (wrF (qctx q 0) 0 2 1 (leaveError q s)) else wrF (qctx q 0) 0 2 new s

/-- QP_OFF: a queue pair written OFF whose last completion is acknowledged. -/
def qpOff (q : Nat) (s : State) : State :=
  if powered s && (qpOf s q).offPend && inflight s q == 0 then goOff q s else s

def execSubmit (m : Datagram) (s : State) : Host.Outcome State Fault Refusal := .next (submit m s)
def execAck (m : Datagram) (s : State) : Host.Outcome State Fault Refusal := .next (ack m s)
def execCredit (m : Datagram) (s : State) : Host.Outcome State Fault Refusal := .next (credit m s)
def execLoad (m : Datagram) (s : State) : Host.Outcome State Fault Refusal := .next (loadMsg m s)
def execSpillin (m : Datagram) (s : State) : Host.Outcome State Fault Refusal := .next (spillin m s)
def execOhtResend (q : Nat) (s : State) : Host.Outcome State Fault Refusal := .next (ohtResend q s)
def execOhtDead (q : Nat) (s : State) : Host.Outcome State Fault Refusal := .next (ohtDead q s)
def execArpRequest (t a mac : Nat) (s : State) : Host.Outcome State Fault Refusal := .next (arpRequest t a mac s)
def execNeighbourSolicitation (t a mac : Nat) (s : State) : Host.Outcome State Fault Refusal :=
  .next (neighbourSolicitation t a mac s)
def execEchoRequest (a : Nat) (p : List Byte) (s : State) : Host.Outcome State Fault Refusal := .next (echoRequest a p s)
def execPfcFrame (p n : Nat) (s : State) : Host.Outcome State Fault Refusal := .next (pfcFrame p n s)
def execDroppedFrame (w : DropCause) (s : State) : Host.Outcome State Fault Refusal := .next (droppedFrame w s)
def execVecPendClear (t : Fin 256) (h : Bool) (v : Word) (s : State) (same : Word := 0) :
    Host.Outcome State Fault Refusal :=
  .next (vecPendClear t.val h v same s)
def execQpStateWrite (q : Nat) (v : Word) (s : State) : Host.Outcome State Fault Refusal := .next (qpStateWrite q v s)
def execQpOff (q : Nat) (s : State) : Host.Outcome State Fault Refusal := .next (qpOff q s)

end Sys2Proof.Machine
end

