-- ==== Sys2Proof/Machine/Session.lean ====
section
/-! DEFINITION. Customer models, sessions and their frames, parks, restores, spills, expiry and eviction (ch. 12, R234–R236,
R246). -/

namespace Sys2Proof.Machine

/-! ## Customer models (R384) -/

/-- A customer model's entry. -/
def cmodel (s : State) (m : Nat) : CModel := sget (fun _ => {}) m s.cmodels

/-- Task t is loaded. -/
def taskLoaded (s : State) (t : Nat) : Bool := bitOf (rd s (rCompat + 4 * t)) 1

/-- A customer model is active on this part. -/
def cmActive (s : State) (m : Nat) : Bool :=
  let c := cmodel s m
  c.valid && c.active && taskLoaded s c.task && match c.ore with
    | some o => mActive s o
    | none => true

/-! ## Frames and page tables (R234, R385) -/

/-- A session whose state is in the hot pool. -/
def Session.inHot (x : Session) : Bool := x.st == 1 || x.st == 2 || x.st == 3 || x.st == 5

/-- Mere address of the page-table entry of stripe g. -/
def pteAt (p : Pool) (slot s0 g : Nat) : Nat := (s0 + g) % 24 * 2 ^ 37 + p.pt + slot * 4 * p.pte + 4 * (g / 24)

/-- Sessions of a format in the hot pool, with their slots. -/
def hotSessions (s : State) (f : Nat) : List (Nat × Session) := s.sessions.filter fun x => x.2.inHot && x.2.fmt == f

/-- Frames of a format in use in stack st. -/
def framesUsed (s : State) (f : Nat) (p : Pool) (st : Nat) : List Nat :=
  (hotSessions s f).flatMap fun x =>
    ((List.range x.2.alloc).filter fun g => (x.2.s0 + g) % 24 == st).map fun g => mereLe s (pteAt p x.1 x.2.s0 g) 4

/-- The lowest free frame of a format in stack st; the last frame is the one kept empty (R234). -/
def freeFrame (s : State) (f : Nat) (p : Pool) (st : Nat) : Option Nat :=
  let used := framesUsed s f p st
  (List.range (used.length + 1)).find? fun k => !(used.contains k) && decide (k + 1 < p.frames)

/-- Gives frames to a session until n of its stripes have one; none where no frame is free. -/
def allocTo : Nat → Nat → Nat → State → Option State
  | 0, _, _, s => some s
  | fuel + 1, k, n, s =>
    let x := sess s k
    if n ≤ x.alloc then some s
    else match poolOf s x.fmt with
    | none => none
    | some p =>
      let st := (x.s0 + x.alloc) % 24
      match (if p.pte * 24 ≤ x.alloc then none else freeFrame s x.fmt p st) with
      | none => none
      | some fr =>
        allocTo fuel k n (mereWrite (pteAt p k x.s0 x.alloc) (leBytes 4 fr) (setSess k { x with alloc := x.alloc + 1 } (wakeStack st s)))

/-- Frames for the first `len` positions of a session. -/
def allocFor (k len : Nat) (s : State) : Option State := allocTo (ceilDiv len 16) k (ceilDiv len 16) s

/-- A session gives up its frames: their entries become absent. -/
def releaseFrames (k : Nat) (s : State) : State :=
  let x := sess s k
  match poolOf s x.fmt with
  | none => setSess k { x with alloc := 0 } s
  | some p => setSess k { x with alloc := 0 } (iter x.alloc (fun g s =>
    mereWrite (pteAt p k x.s0 g) (leBytes 4 0xFFFFFFFF) (wakeStack ((x.s0 + g) % 24) s)) s)

/-- A session ends: its frames are released and its slot is FREE. -/
def freeSess (k : Nat) (s : State) : State := clearSess k (releaseFrames k s)

/-- The stack with the fewest stripes of a format's hot sessions: the first stack of a new session (R385). -/
def chooseS0 (s : State) (f : Nat) : Nat :=
  let load := fun st => (((hotSessions s f).map fun x =>
    ((List.range x.2.alloc).filter fun g => (x.2.s0 + g) % 24 == st).length).sum)
  (List.range 24).foldl (fun b st => if load st < load b then st else b) 0

/-! ## Cold images (R235, R387) -/

/-- Bytes of the cold image of a session of length len. -/
def imageSize (p : Pool) (len : Nat) : Nat := p.nl * (ceilDiv (len * p.rb) 256 * 256)

/-- Cold images of a format: first byte and size. A session being parked or restored holds its image too. -/
def coldImages (s : State) (f : Nat) (p : Pool) : List (Nat × Nat) :=
  (s.sessions.filter fun x => x.2.fmt == f && (x.2.st == 3 || x.2.st == 4 || x.2.st == 5)).map fun x =>
    (x.2.cold, imageSize p x.2.pos)

/-- The lowest place in the format's cold pools with room for n bytes. -/
def coldPlace (s : State) (f : Nat) (p : Pool) (n : Nat) : Option Nat :=
  let used := coldImages s f p
  let cands := (List.range 24).map (fun st => st * 2 ^ 37 + p.coldLo) ++ used.map fun u => u.1 + u.2
  (sortBy (fun (a b : Nat) => decide (a ≤ b)) cands).find? fun a =>
    decide (p.coldLo ≤ a % 2 ^ 37) && decide (a % 2 ^ 37 + n ≤ p.coldHi) && used.all fun u => !(meets a n u.1 u.2)

/-- The request that has bound to a session. -/
def boundBy (s : State) (k : Nat) : Option Request := s.requests.find? fun r => r.slot == k

/-- Data of a SPILL message: the image's descriptor and a run of its bytes. The manual gives no layout. -/
def spillData (k : Nat) (x : Session) (off : Nat) (l : List Byte) : List Byte :=
  leBytes 4 k ++ leBytes 4 x.cmodel ++ leBytes 4 x.pos ++ leBytes 4 x.fmt ++ leBytes 4 x.last.toNat ++ leBytes 8 off
    ++ leBytes 4 0 ++ l

/-- Weast's accesses to Mere move: always but in a step in scheduled mode whose slot tables leave virtual channel 3 no way to a stack
and back (R288). -/
def weastFree (s : State) : Bool := !(timetabled s) || (List.range 24).all fun st => weastReaches s (stackEnd st)

/-- A session of tenant t can leave its cold image now: to spill it, Weast reads it from Mere (log entry 89). -/
def mayLeave (s : State) (t : Nat) : Bool := weastFree s || !(bitOf (tenCfg s t 0) 1)

/-- Image bytes in a SPILL message. -/
abbrev spillRun : Nat := 9056

/-- The cold image of a session goes to the host on its tenant's spill queue pair (SPILL). -/
def startSpill (k : Nat) (s : State) : State :=
  let x := sess s k
  let s := bump (statReg x.tenant 12) 1 (setSess k { x with st := 6 } s)
  let q := rdF s (tenReg x.tenant 11) 16 14
  match poolOf s x.fmt with
  | none => sendItem q { ty := 0x0A, data := spillData k x 0 [], spill := some k } s
  | some p =>
    let size := imageSize p x.pos
    let n := max 1 (ceilDiv size spillRun)
    iter n (fun i s =>
      let off := i * spillRun
      let l := mereRead s (x.cold + off) (min spillRun (size - off))
      sendItem q { ty := 0x0A, data := spillData k x off l, spill := if i + 1 = n then some k else none } s)
      (wakeStack (stackNo x.cold) s)

/-- A COLD session expires or is evicted; `stat` is the counter of the transition (R386, R387). -/
def expire (stat k : Nat) (s : State) : State :=
  let x := sess s k
  let s := fireVec x.tenant 49 k (bump (statReg x.tenant stat) 1 s)
  if bitOf (tenCfg s x.tenant 0) 1 then startSpill k s else clearSess k s

/-- COLD sessions of a format that no request has bound and that can leave, in ascending deadline order. -/
def evictable (s : State) (f : Nat) : List Nat :=
  (sortBy (fun (a b : Nat × Session) => decide (a.2.deadline ≤ b.2.deadline))
    (s.sessions.filter fun x => x.2.fmt == f && x.2.st == 4 && (boundBy s x.1).isNone && mayLeave s x.2.tenant)).map Prod.fst

/-- Finds room for a cold image, evicting as R387 gives. -/
def makeRoom : Nat → Nat → Pool → Nat → State → Option Nat × State
  | 0, f, p, n, s => (coldPlace s f p n, s)
  | fuel + 1, f, p, n, s =>
    match coldPlace s f p n with
    | some a => (some a, s)
    | none => match evictable s f with
      | [] => (none, s)
      | k :: _ => makeRoom fuel f p n (expire 11 k s)

/-- Ticks of a time to live in seconds; 0 takes the tenant's default. -/
def ttlTicks (s : State) (t ttl : Nat) : Nat := (if ttl = 0 then (tenCfg s t 5).toNat else ttl) * 10 ^ 9

/-- A park begins (R386, R387): the session is PARKING with a place for its image; false where no room can be made. -/
def startPark (k : Nat) (s : State) : Bool × State :=
  let x := sess s k
  match poolOf s x.fmt with
  | none => (false, s)
  | some p =>
    match makeRoom s.sessions.length x.fmt p (imageSize p x.pos) s with
    | (none, s) => (false, s)
    | (some a, s) =>
      (true, setSess k { x with st := 3, cold := a, deadline := timeCounter s + ttlTicks s x.tenant x.ttl } s)

/-- Every stripe of a session can move now between its stack and the stack of the cold image (R247, R288). -/
def rowsReach (restore : Bool) (x : Session) (s : State) : Bool :=
  (List.range (ceilDiv x.pos 16)).all fun g =>
    let st := (x.s0 + g) % 24
    if restore then moveReaches s (stackNo x.cold) st else moveReaches s st (stackNo x.cold)

/-- The rows of a session move between its frames and its cold image (R246, R247); a restore leaves the rest of the last
stripe undefined. -/
def moveRows (restore : Bool) (k : Nat) (p : Pool) (s : State) : State :=
  let x := sess s k
  iter (ceilDiv x.pos 16) (fun g s =>
    match frameOf s p k x.s0 g with
    | none => s
    | some fr =>
      let st := (x.s0 + g) % 24
      let n := min 16 (x.pos - 16 * g)
      let s := wakeStack (stackNo x.cold) (wakeStack st s)
      iter p.nl (fun l s =>
        let a := rowAt p st fr l 0
        let im := imageRow p x.cold x.pos l (16 * g)
        let src := if restore then stackNo x.cold else st
        let s := bump (stkReg src 0x50) (ceilDiv (n * p.rb) 256)
          (meshSend (stackEnd src) (stackEnd (if restore then st else stackNo x.cold)) (flitsOf (n * p.rb)) s)
        if restore then
          let s := mereWrite a (mereRead s im (n * p.rb)) s
          if n < 16 then
            let f := freeBytes ((16 - n) * p.rb) s
            mereWrite (a + n * p.rb) f.1 f.2
          else s
        else mereWrite im (mereRead s a (n * p.rb)) s) s) s

/-! ## Requests of a session -/

/-- Changes a held request. -/
def updReq (acc : Nat) (f : Request → Request) (s : State) : State :=
  { s with requests := s.requests.map fun r => if r.acc = acc then f r else r }

/-- Units that a request has reserved return to LEFT (R393). -/
def releaseUnits (r : Request) (s : State) : State :=
  let t := r.tenant
  wr (tenReg t 7) (Word.ofNat ((rd s (tenReg t 7)).toNat + r.reserved))
    (wr (tenReg t 8) (Word.ofNat ((rd s (tenReg t 8)).toNat - r.reserved))
      (updReq r.acc (fun r => { r with reserved := 0 }) s))

/-- What the end of a request does to its session (table of session states): BUSY becomes HOT with KEEP and FREE without; a
session being restored is kept on its way with KEEP. -/
def unbind (r : Request) (s : State) : State :=
  let x := sess s r.slot
  if x.st = 1 then (if r.keep then setSess r.slot { x with st := 2, idle := s.now } s else freeSess r.slot s)
  else if x.st = 5 then (if r.keep then s else freeSess r.slot s)
  else s

/-- A request ends with a status: its units and session are settled, and its completion is queued. -/
def endRequest (acc status segmask : Nat) (s : State) : State :=
  match s.requests.find? fun r => r.acc == acc with
  | none => s
  | some r =>
    let pos := (sess s r.slot).pos
    let s := releaseUnits r s
    let s := unbind r { s with requests := s.requests.filter fun x => x.acc != acc }
    queueCompletion { q := r.q, acc := acc, cid := r.cid, status := status
                      flags := if (sess s r.slot).st = 0 then 0 else 1, session := r.slot, nout := r.nout, pos := pos
                      charged := r.charged, segmask := segmask } s

/-- Every request in flight completes with PART_FAULT, and vector 51 of every tenant concerned fires (R426, R438). -/
def failAll (detail : Nat) (s : State) : State :=
  let ts := (s.requests.map fun r => r.tenant).eraseDups
  let s := s.requests.foldl (fun s r => endRequest r.acc 11 0 s) s
  ts.foldl (fun s t => fireVec t 51 detail s) s

/-! ## Session events -/

/-- The park of a HOT session that is out of use: idle for HOT_IDLE, or under pressure the longest idle of its format. -/
def pressed (s : State) (f : Nat) : Bool :=
  match poolOf s f with
  | none => false
  | some p => (List.range 24).any fun st => (freeFrame s f p st).isNone

/-- HOT_IDLE_PARK. -/
def hotIdlePark (k : Nat) (s : State) : State :=
  let x := sess s k
  if !(powered s) || s.recov.silent || x.st != 2 then s
  else
    let idle := decide (x.idle + 1000000 * rdF s (tenReg x.tenant 12) 0 16 ≤ s.now)
    let oldest := s.sessions.all fun y => y.2.st != 2 || y.2.fmt != x.fmt || decide (x.idle ≤ y.2.idle)
    if idle || (pressed s x.fmt && oldest) then (startPark k s).2 else s

/-- SESSION_EXPIRY: a COLD session at its deadline that no request has bound. -/
def sessionExpiry (k : Nat) (s : State) : State :=
  let x := sess s k
  if !(powered s) || s.recov.silent || x.st != 4 || decide (timeCounter s < x.deadline) || (boundBy s k).isSome
      || !(mayLeave s x.tenant) then s
  else expire 10 k s

/-- SESSION_MOVE_DONE: a park or a restore ends, and its rows have moved or it has failed. Rows whose way the slot tables leave no slot
move after the step (R288). -/
def sessionMoveDone (k : Nat) (ok : Bool) (s : State) : State :=
  let x := sess s k
  if !(powered s) || s.recov.silent || (x.st != 3 && x.st != 5) || (ok && !(rowsReach (x.st == 5) x s)) then s
  else match poolOf s x.fmt with
  | none => s
  | some p =>
    let units := imageSize p x.pos / 256
    if x.st = 3 then
      if !ok then setSess k { x with st := 2, idle := s.now } s
      else
        let s := releaseFrames k (moveRows false k p s)
        let s := setSess k { sess s k with st := 4 } s
        fireVec x.tenant 49 k (bump (statReg x.tenant 13) units (bump (statReg x.tenant 8) 1 s))
    else if !ok then
      let s := releaseFrames k s
      let s := setSess k { sess s k with st := 4 } s
      match boundBy s k with
      | some r => if r.st = 2 then endRequest r.acc 4 0 s else s
      | none => s
    else
      let s := bump (statReg x.tenant 13) units (bump (statReg x.tenant 9) 1 (moveRows true k p s))
      match boundBy s k with
      | some r =>
        updReq r.acc (fun r => if r.st = 2 then { r with st := if r.fed < r.toks.length then 3 else 4 } else r)
          (setSess k { sess s k with st := 1 } s)
      | none => setSess k { sess s k with st := 2, idle := s.now } s

def execHotIdlePark (k : Nat) (s : State) : Host.Outcome State Fault Refusal := .next (hotIdlePark k s)
def execSessionExpiry (k : Nat) (s : State) : Host.Outcome State Fault Refusal := .next (sessionExpiry k s)
def execSessionMoveDone (k : Nat) (ok : Bool) (s : State) : Host.Outcome State Fault Refusal := .next (sessionMoveDone k ok s)

end Sys2Proof.Machine
end

