-- ==== Sys2Proof/Machine/Serving.lean ====
section
/-! DEFINITION. Requests: the submission entries that Weast reads, and steps from their building to their commit or failure,
budgets and accounting (ch. 12). -/

namespace Sys2Proof.Machine

/-! ## Submission entries (R381, table of submission entry fields) -/

/-- A field of an entry. -/
def Entry.f (e : Entry) (off n : Nat) : Nat := leAt e.bytes off n
def Entry.opc (e : Entry) : Nat := e.f 0 1
def Entry.news (e : Entry) : Bool := (e.f 1 1).testBit 0
def Entry.cid (e : Entry) : Nat := e.f 2 2
def Entry.session (e : Entry) : Nat := e.f 4 4
def Entry.cmod (e : Entry) : Nat := e.f 8 4
def Entry.nin (e : Entry) : Nat := e.f 12 4
def Entry.maxnew (e : Entry) : Nat := e.f 16 4
def Entry.ttl (e : Entry) : Nat := e.f 40 4
def Entry.toff (e : Entry) : Nat := e.f 44 4

/-- Byte ranges that an opcode does not use, as (offset, length). -/
def unusedRanges (opc : Nat) : List (Nat × Nat) :=
  match opc with
  | 2 => [(1, 1), (4, 8), (14, 34)]
  | 3 => [(1, 1), (12, 28), (44, 4)]
  | 4 => [(1, 1), (12, 36)]
  | 5 => [(1, 1), (4, 4), (16, 24)]
  | _ => []

/-- An entry's reserved fields are 0 and its fields lie in their ranges. -/
def entryOk (e : Entry) : Bool :=
  let topp := e.f 24 4
  decide (1 ≤ e.opc) && decide (e.opc ≤ 5) && e.f 48 16 == 0 && (unusedRanges e.opc).all (fun r => e.f r.1 r.2 == 0)
    && (e.opc == 2 || decide (e.cmod < 65536))
    && (if e.opc = 1 then
          decide (e.f 1 1 < 8) && decide (e.f 31 1 < 4) && decide (e.f 28 2 ≤ 1024) && decide (topp ≠ 0)
            && decide (topp ≤ 0x3F800000) && (e.news || decide (e.session < 131072))
        else true)
    && (if e.opc = 3 ∨ e.opc = 4 then decide (e.session < 131072) else true)
    && (if e.opc = 1 ∨ e.opc = 5 then e.nin == 0 || decide (e.toff + e.nin ≤ e.toks.length) else true)

/-- A request of queue pair q with this CID has its completion queued or unacknowledged. -/
def cidDone (s : State) (q cid : Nat) : Bool :=
  ((qpOf s q).queued.any fun c => c.cid == cid) || (qpOf s q).sent.any fun m => m.item.comps.any fun c => c.cid == cid

/-- A request of queue pair q in flight has this CID. -/
def cidHeld (s : State) (q cid : Nat) : Bool := (s.requests.any fun r => r.q == q && r.cid == cid) || cidDone s q cid

/-- Requests that Weast holds: a request is held until its completion is acknowledged (REQ_INUSE). -/
def reqInuse (s : State) : Nat :=
  s.requests.length + (s.qps.map fun x => x.2.queued.length + (x.2.sent.map fun m => m.item.comps.length).sum).sum

/-- An entry completes at once. -/
def finish (q : Nat) (e : Entry) (status flags session pos : Nat) (s : State) : State :=
  queueCompletion { q := q, acc := e.acc, cid := e.cid, status := status, flags := flags, session := session, pos := pos } s

/-- An entry fails at once. -/
def failEntry (q : Nat) (e : Entry) (status : Nat) (s : State) : State :=
  finish q e status 0 (if e.opc = 1 ∧ e.news ∨ e.opc = 5 then 0 else e.session) 0 s

/-- Weast reads the head entry of queue pair q when its opcode is one that `p` takes (R379): a malformed entry or a duplicate CID
completes with BAD_ENTRY. -/
def readEntry (q : Nat) (p : Nat → Bool) (f : Entry → State → State) (s : State) : State :=
  if !(powered s) || s.recov.silent || decide (65536 ≤ reqInuse s) then s
  else match headEntry s q with
  | none => s
  | some e =>
    if !(p e.opc) then s
    else
      let s := popEntry q s
      if !(entryOk e) || cidHeld s q e.cid then failEntry q e 6 s else f e s

/-! ## GENERATE (table of request states) -/

/-- A slot for a new session of tenant t: the lowest free one, under the tenant's limit. -/
def openSlot (s : State) (t : Nat) : Option Nat :=
  let mine := (s.sessions.filter fun x => x.2.tenant == t && x.2.st != 0).length
  if fld (tenCfg s t 4) 0 17 ≤ mine then none
  else (List.range (s.sessions.length + 1)).find? fun k => (sess s k).st == 0 && decide (k < 131072)

/-- A slot that an entry of tenant t and customer model m may not use (NO_SESSION). -/
def noSession (s : State) (t m k : Nat) : Bool :=
  let x := sess s k
  x.st == 0 || x.st == 6 || x.tenant != t || x.cmodel != m

/-- A request is bound to a session and waits for admission. -/
def bind (q : Nat) (e : Entry) (t m k : Nat) (s : State) : State :=
  let x := sess s k
  let toks := (e.toks.drop e.toff).take e.nin
  let s := setSess k { x with st := if x.st = 2 then 1 else x.st, ttl := e.ttl } s
  { s with requests := s.requests ++ [{
      q := q, cid := e.cid, acc := e.acc, tick := e.tick, st := 1, tenant := t, slot := k, cmodel := m, task := (cmodel s m).task
      toks := toks, maxnew := e.maxnew, temp := Word.ofNat (e.f 20 4), topp := Word.ofNat (e.f 24 4), topk := e.f 28 2
      stopset := e.f 30 1, prio := e.f 31 1, seed := BitVec.ofNat 64 (e.f 32 8), ttl := e.ttl
      keep := (e.f 1 1).testBit 1, stream := (e.f 1 1).testBit 2 }] }

/-- A new session of a customer model in slot k. Its last token, before any, is undefined. -/
def newSession (t m k : Nat) (s : State) : State :=
  let f := (cmodel s m).fmt
  let b := freeBytes 4 s
  setSess k { st := 1, tenant := t, cmodel := m, fmt := f, s0 := chooseS0 s f, last := Word.ofNat (leNat b.1) } b.2

/-- Longest session of a customer model's format (R231). -/
def longestOf (s : State) (m : Nat) : Nat := ((poolOf s (cmodel s m).fmt).map Pool.longest).getD 0

/-- A well-formed GENERATE. -/
def generateOn (q : Nat) (e : Entry) (s : State) : State :=
  let t := qpTenant s q
  let m := e.cmod
  let c := cmodel s m
  let need := e.nin + e.maxnew
  if 2 ≤ fclState s then failEntry q e 11 s
  else if !(cmActive s m) || c.tenant != t then failEntry q e 7 s
  else if c.stops.length < e.f 30 1 then failEntry q e 6 s
  else if e.news then
    match openSlot s t with
    | none => failEntry q e 8 s
    | some k => if longestOf s m < need then failEntry q e 9 s else bind q e t m k (newSession t m k s)
  else
    let k := e.session
    let x := sess s k
    if noSession s t m k || (x.st == 4 && decide (x.deadline ≤ e.tick)) then failEntry q e 5 s
    else if x.st == 1 || (boundBy s k).isSome then failEntry q e 6 s
    else if longestOf s m < x.pos + need then failEntry q e 9 s
    else bind q e t m k s

/-- GENERATE, and every entry whose opcode is reserved. -/
def generate (q : Nat) (s : State) : State :=
  readEntry q (fun o => o == 1 || o == 0 || decide (5 < o)) (generateOn q) s

/-! ## CANCEL, PARK, CLOSE, SPILLIN -/

/-- A CANCEL meets its target (R392). -/
def cancelOn (q : Nat) (e : Entry) (s : State) : State :=
  match s.requests.find? fun r => r.q == q && r.cid == e.nin with
  | some r =>
    let s := if r.st = 5 then s
      else if r.inStep then updReq r.acc (fun r => { r with st := 5 }) s
      else endRequest r.acc 1 0 s
    finish q e 0 0 0 0 s
  | none => failEntry q e (if cidDone s q e.nin then 2 else 10) s

/-- CANCEL. -/
def cancel (q : Nat) (s : State) : State := readEntry q (fun o => o == 2) (cancelOn q) s

/-- A PARK of a session. -/
def parkOn (q : Nat) (e : Entry) (s : State) : State :=
  let k := e.session
  let x := sess s k
  if noSession s (qpTenant s q) e.cmod k then failEntry q e 5 s
  else if x.st == 1 || x.st == 5 || (boundBy s k).isSome then failEntry q e 6 s
  else if x.st = 2 then
    let r := startPark k (setSess k { x with ttl := e.ttl } s)
    if r.1 then finish q e 0 1 k x.pos r.2 else failEntry q e 4 r.2
  else finish q e 0 1 k x.pos s

/-- PARK. -/
def park (q : Nat) (s : State) : State := readEntry q (fun o => o == 3) (parkOn q) s

/-- A CLOSE of a session. -/
def closeOn (q : Nat) (e : Entry) (s : State) : State :=
  let k := e.session
  let x := sess s k
  if noSession s (qpTenant s q) e.cmod k then failEntry q e 5 s
  else if x.st == 1 || x.st == 5 || (boundBy s k).isSome then failEntry q e 6 s
  else finish q e 0 0 k x.pos (freeSess k s)

/-- CLOSE. -/
def close (q : Nat) (s : State) : State := readEntry q (fun o => o == 4) (closeOn q) s

/-- The image bytes of returned SPILL messages: their data less the descriptor that each begins with. -/
def stripRuns : Nat → List Byte → List Byte
  | 0, _ => []
  | fuel + 1, l => if l.isEmpty then [] else (l.drop 32).take spillRun ++ stripRuns fuel (l.drop (32 + spillRun))

/-- A SPILLIN opens the image that has come back on its queue pair (R386). -/
def spillinOn (q : Nat) (e : Entry) (s : State) : State :=
  let t := qpTenant s q
  let m := e.cmod
  let c := cmodel s m
  let l := (qpOf s q).inImage
  let s := updQp q (fun p => { p with inImage := [] }) s
  if 2 ≤ fclState s then failEntry q e 11 s
  else if !(cmActive s m) || c.tenant != t then failEntry q e 7 s
  else match poolOf s c.fmt with
  | none => failEntry q e 7 s
  | some p =>
    let pos := leAt l 8 4
    let img := stripRuns (l.length + 1) l
    if p.longest < pos then failEntry q e 9 s
    else if leAt l 12 4 ≠ c.fmt ∨ l.length < 32 ∨ img.length ≠ imageSize p pos then failEntry q e 6 s
    else match openSlot s t with
    | none => failEntry q e 8 s
    | some k =>
      match makeRoom s.sessions.length c.fmt p img.length s with
      | (none, s) => failEntry q e 8 s
      | (some a, s) =>
        let x : Session := { st := 4, tenant := t, cmodel := m, fmt := c.fmt, pos := pos, s0 := chooseS0 s c.fmt, ttl := e.ttl
                             deadline := timeCounter s + ttlTicks s t e.ttl, cold := a, last := Word.ofNat (leAt l 16 4) }
        finish q e 0 1 k pos (setSess k x (mereWrite a img (wakeStack (stackNo a) s)))

/-- SPILLIN_REQUEST: it waits while Weast's writes of the image cannot move (R288). -/
def spillinRequest (q : Nat) (s : State) : State := readEntry q (fun o => o == 5 && weastFree s) (spillinOn q) s

/-! ## Serving parameters of an image (ch. 13) -/

/-- A loaded task's image. -/
def taskImg (s : State) (t : Nat) : TaskImg := sget (fun _ => {}) t s.tasks
/-- A field of its serving section. -/
def TaskImg.f (i : TaskImg) (off n : Nat) : Nat := leAt i.serve off n
def TaskImg.period (i : TaskImg) : Nat := i.f 0 4
def TaskImg.decLimit (i : TaskImg) : Nat := i.f 6 2
def TaskImg.preLimit (i : TaskImg) : Nat := i.f 8 4
def TaskImg.chunkLimit (i : TaskImg) : Nat := i.f 12 4
def TaskImg.entryOf (i : TaskImg) (kind : Nat) : Nat := i.f (24 + 4 * kind) 4

/-! ## Building a step (R388, R393) -/

/-- Requests of a task in priority order and then in acceptance order. -/
def ordered (s : State) (t : Nat) : List Request :=
  sortBy (fun (a b : Request) => decide (a.prio < b.prio) || (a.prio == b.prio && decide (a.acc ≤ b.acc)))
    (s.requests.filter fun r => r.task == t)

/-- Units left of a tenant. -/
def unitsLeft (s : State) (t : Nat) : Nat := (rd s (tenReg t 7)).toNat

/-- Takes n units from LEFT into RESERVED; vector 48 fires when LEFT falls below BLOW. -/
def reserve (t n : Nat) (s : State) : State :=
  let l := unitsLeft s t
  let low := (rd s (tenReg t 10)).toNat
  let s := wr (tenReg t 7) (Word.ofNat (l - n)) (wr (tenReg t 8) (Word.ofNat ((rd s (tenReg t 8)).toNat + n)) s)
  if low ≤ l ∧ l - n < low then fireVec t 48 (l - n) s else s

/-- Admits a request to the step in state `st`, at a cost, with frames for `len` positions: true when it is admitted. A budget
that cannot cover it makes it wait, or end with BUDGET. -/
def admitReq (r : Request) (st cost len : Nat) (s : State) : Bool × State :=
  if unitsLeft s r.tenant < cost then
    (false, if bitOf (tenCfg s r.tenant 0) 2 then endRequest r.acc 3 0 s else bump (statReg r.tenant 14) 1 s)
  else match allocFor r.slot len s with
  | none => (false, s)
  | some s => (true, updReq r.acc (fun r => { r with st := st, inStep := true, reserved := cost }) (reserve r.tenant cost s))

/-- A QUEUED request on a COLD session is admitted to RESTORE once its frames are there. -/
def admitCold (r : Request) (s : State) : State :=
  let x := sess s r.slot
  if r.st != 1 || x.st != 4 then s
  else match allocFor r.slot x.pos s with
  | none => s
  | some s => updReq r.acc (fun r => { r with st := 2 }) (setSess r.slot { sess s r.slot with st := 5 } s)

/-- A request that may decode: in DECODE, or QUEUED with no input on a hot session. -/
def mayDecode (s : State) (r : Request) : Bool :=
  (sess s r.slot).st == 1 && !r.inStep && (r.st == 4 || (r.st == 1 && r.toks.isEmpty))

/-- A request that may prefill. -/
def mayPrefill (s : State) (r : Request) : Bool :=
  (sess s r.slot).st == 1 && !r.inStep && (r.st == 3 || (r.st == 1 && !r.toks.isEmpty))

/-- Takes a request into the decode micro-batch. One with no input and MAXNEW 0 has nothing to run and completes OK. -/
def takeDecode (lim : Nat) (a : List Nat × State) (r : Request) : List Nat × State :=
  if !(mayDecode a.2 r) then a
  else if r.toks.isEmpty ∧ r.maxnew = 0 then (a.1, endRequest r.acc 0 0 a.2)
  else if lim ≤ a.1.length then a
  else
    let x := admitReq r 4 (rdF a.2 (tenReg r.tenant 9) 0 8) ((sess a.2 r.slot).pos + 1) a.2
    (if x.1 then a.1 ++ [r.acc] else a.1, x.2)

/-- Takes a chunk of a request into the prefill micro-batch. -/
def takePrefill (i : TaskImg) (a : List (Nat × Nat) × State) (r : Request) : List (Nat × Nat) × State :=
  let used := (a.1.map Prod.snd).sum
  let n := min (r.toks.length - r.fed) (min i.chunkLimit (i.preLimit - used))
  if !(mayPrefill a.2 r) || n == 0 then a
  else
    let x := admitReq r 3 (n * rdF a.2 (tenReg r.tenant 9) 8 8) ((sess a.2 r.slot).pos + n) a.2
    (if x.1 then a.1 ++ [(r.acc, n)] else a.1, x.2)

/-- A held request. -/
def reqOf (s : State) (acc : Nat) : Request := (s.requests.find? fun r => r.acc == acc).getD {}

/-- A decode record (table of batch record fields). -/
def decodeRecord (s : State) (acc samp : Nat) : List Byte :=
  let r := reqOf s acc
  let x := sess s r.slot
  leBytes 4 r.slot ++ leBytes 4 (x.pos + 1) ++ leBytes 4 x.s0 ++ leBytes 4 x.last.toNat ++ leBytes 8 (cmodel s r.cmodel).expt
    ++ leBytes 4 samp ++ leBytes 4 0

/-- A prefill record. -/
def prefillRecord (s : State) (acc n toff samp : Nat) : List Byte :=
  let r := reqOf s acc
  let x := sess s r.slot
  leBytes 4 r.slot ++ leBytes 4 x.pos ++ leBytes 4 n ++ leBytes 1 x.s0 ++ leBytes 1 (if r.fed + n = r.toks.length then 1 else 0)
    ++ leBytes 2 0 ++ leBytes 8 (cmodel s r.cmodel).expt ++ leBytes 4 toff ++ leBytes 4 samp

/-- Header, records and token words of a batch area (R388). -/
def batchBytes (s : State) (k : Nat) (dec : List Nat) (pre : List (Nat × Nat)) : List Byte :=
  let nd := dec.length
  let toks := pre.flatMap fun x => let r := reqOf s x.1; bytesOf ((r.toks.drop r.fed).take x.2)
  let head := leBytes 8 k ++ leBytes 4 nd ++ leBytes 4 pre.length ++ leBytes 4 ((pre.map Prod.snd).sum) ++ List.replicate 44 0
  let decs := (dec.zip (List.range nd)).flatMap fun x => decodeRecord s x.1 x.2
  let pres := (pre.zip (List.range pre.length)).flatMap fun x =>
    prefillRecord s x.1.1 x.1.2 (((pre.take x.2).map Prod.snd).sum) (nd + x.2)
  head ++ decs ++ pres ++ toks

/-- Writes the batch area of each live core that the image names. What it holds past its records (the batch table, counts and
sampling records, whose places the image's descriptors name) is left undefined. -/
def writeBatch (t : Nat) (i : TaskImg) (l : List Byte) (s : State) : State :=
  let f := freeBytes (i.f 20 4 - l.length) s
  ((liveCores s).filter fun c => i.coreSet.testBit c).foldl (fun s c =>
    let a := (tarnWindow s c t).1 + 64 * i.f 16 4
    tarnWrite c a (l ++ f.1) (wakeSegs c a (l.length + f.1.length) s)) f.2

/-- Weast starts a step of task t at an entry. -/
def startTask (t entry : Nat) (s : State) : State := startStep (wr rSsqEntry (Word.ofNat entry) (wrF rSsqTask 0 6 t s))

/-- Weast may start a step: serving, nothing running and nothing left to commit (R430). -/
def stepFree (s : State) : Bool := mayStart s && !s.recov.silent && !s.ssq.run && s.batch.isNone

/-- Builds and starts step k of a serving task; on a ring an empty batch runs too. A batch that does not fit is not started. -/
def buildStep (t k : Nat) (i : TaskImg) (ring : Bool) (s0 : State) : State :=
  let s := (ordered s0 t).foldl (fun s r => admitCold r s) s0
  let d := (ordered s t).foldl (takeDecode i.decLimit) ([], s)
  let p := (ordered d.2 t).foldl (takePrefill i) ([], d.2)
  let s := p.2
  if d.1.isEmpty && p.1.isEmpty && !ring then s
  else
    let l := batchBytes s k d.1 p.1
    if i.f 20 4 < l.length then s0
    else
      let kind := if !p.1.isEmpty then 1 else if !d.1.isEmpty then 0 else 2
      let s := { writeBatch t i l s with
        stepNo := k
        batch := some { task := t, k := k, decode := d.1, prefill := p.1, nseg := i.nseg, self := i.f 56 2 } }
      startTask t (i.entryOf kind) s

/-- STEP_BUILD. A task without a serving section is started as a management task, with an empty batch area. -/
def stepBuild (t : Nat) (s : State) : State :=
  let i := taskImg s t
  if !(stepFree s) || !(taskLoaded s t) then s
  else if i.serve.isEmpty then
    startTask t 0 { s with stepNo := s.stepNo + 1, batch := some { task := t, k := s.stepNo + 1, nseg := i.nseg } }
  else if i.period ≠ 0 then s
  else buildStep t (s.stepNo + 1) i false s

/-- RING_STEP_START: when the time counter reaches k × P (R391). -/
def ringStepStart (t : Nat) (s : State) : State :=
  let i := taskImg s t
  let p := i.period
  if p = 0 ∨ !(taskLoaded s t) ∨ timeCounter s % p ≠ 0 ∨ !(stepFree s) then s
  else
    let k := timeCounter s / p
    buildStep t k i true (revnoWrite (Word.ofNat (k * i.f 4 2 % (2 ^ 32 - 1))) s)

/-! ## Results and commit (R385, R389, R390, R392) -/

/-- SEGMENT_RESULT: a segment part reports its result for the step in hand; Weast takes the management packet that brought it. -/
def segmentResult (seg step : Nat) (ok : Bool) (s : State) : State :=
  match s.batch with
  | none => s
  | some b =>
    if !(powered s) || b.k != step || seg == b.self || decide (b.nseg ≤ seg) || b.segs.any (fun x => x.1 == seg) then s
    else { s with
      batch := some { b with segs := b.segs ++ [(seg, ok)] }
      mail := dropFirst (fun k => k.op == 8 && k.data == resultData step seg ok) s.mail }

/-- Every segment has reported, and reported OK. -/
def allOk (b : Batch) : Bool := (List.range b.nseg).all fun n => b.segs.contains (n, true)

/-- A segment has reported failure. -/
def someFail (b : Batch) : Bool := b.segs.any fun x => !x.2

/-- SEGMASK of a step (table of completion entry fields). -/
def segMask (b : Batch) : Nat :=
  ((List.range (min 64 b.nseg)).map fun i =>
    if (List.range b.nseg).all fun n => n % 64 != i || b.segs.contains (n, true) then 2 ^ i else 0).sum

/-- A token that a step has produced: what the program left in Tarn, at a place of the image's own. -/
def sampled (s : State) : Word × State := let f := freeBytes 4 s; (Word.ofNat (leNat f.1), f.2)

/-- The reservation of a request becomes charged (R393). -/
def charge (acc : Nat) (s : State) : State :=
  let r := reqOf s acc
  let t := r.tenant
  let n := r.reserved
  let s := wr (tenReg t 8) (Word.ofNat ((rd s (tenReg t 8)).toNat - n)) (bump (statReg t 2) n s)
  updReq acc (fun r => { r with reserved := 0, charged := r.charged + n })
    { s with charged := sset (fun _ => 0) t (chargedOf s t + n) s.charged }

/-- A token is delivered: counted, and sent in a TOKENS record when the request streams (TOKENS, R380). -/
def deliverToken (acc : Nat) (tok : Word) (s : State) : State :=
  let r := reqOf s acc
  let s := bump (statReg r.tenant 1) 1 (updReq acc (fun r => { r with nout := r.nout + 1 }) s)
  if r.stream then
    sendItem r.q { ty := 0x03, data := leBytes 2 r.cid ++ leBytes 2 1 ++ leBytes 4 (sess s r.slot).pos ++ leBytes 4 tok.toNat } s
  else s

/-- The request has its last token: a stop token, or MAXNEW. -/
def isLast (s : State) (acc : Nat) (tok : Word) : Bool :=
  let r := reqOf s acc
  let stops := if r.stopset = 0 then [] else (cmodel s r.cmodel).stops.getD (r.stopset - 1) []
  stops.contains tok.toNat || decide (r.maxnew ≤ r.nout)

/-- A request leaves the committed step: it ends or goes on. -/
def afterCommit (acc : Nat) (done : Bool) (mask next : Nat) (s : State) : State :=
  let r := reqOf s acc
  if r.st = 5 then endRequest acc 1 mask s
  else if done then endRequest acc 0 mask s
  else updReq acc (fun r => { r with st := next, inStep := false }) s

/-- Rows that a step was to append for a request. -/
def Batch.rows (b : Batch) (acc : Nat) : Nat :=
  (if b.decode.contains acc then 1 else 0) + ((b.prefill.filter fun x => x.1 == acc).map Prod.snd).sum

/-- The n rows beyond a session's position count as undefined after a failed step, in every layer (R30). -/
def loseRows (k n : Nat) (s : State) : State :=
  let x := sess s k
  match poolOf s x.fmt with
  | none => s
  | some p => iter n (fun i s =>
    let g := (x.pos + i) / 16
    match frameOf s p k x.s0 g with
    | none => s
    | some fr => iter p.nl (fun l s =>
      let f := freeBytes p.rb s
      mereWrite (rowAt p ((x.s0 + g) % 24) fr l ((x.pos + i) % 16)) f.1 f.2) s) s

/-- A step fails for a request: its rows are undefined, and it is retried or ended (R30, R390, R392, R442). -/
def failReq (b : Batch) (s : State) (acc : Nat) : State :=
  if s.requests.all fun r => r.acc != acc then s
  else
    let r := reqOf s acc
    let s := releaseUnits r (loseRows r.slot (b.rows acc) s)
    let end_ := fun st s => fireVec r.tenant 51 1 (endRequest acc st (segMask b) s)
    if r.st = 5 then endRequest acc 1 (segMask b) s
    else if b.named.contains r.slot then end_ 4 s
    else
      let again := fun s => bump (statReg r.tenant 7) 1 (updReq acc (fun r => { r with inStep := false }) s)
      let grace := match r.graceAt with
        | none => true
        | some t => decide (s.now < t + 1000000 * rdF s 0x2001C 0 16)
      if b.conseq && !b.plain && grace then
        updReq acc (fun r => { r with graceAt := some (r.graceAt.getD s.now) }) (again s)
      else if r.retries < rdF s 0x500034 0 2 then updReq acc (fun r => { r with retries := r.retries + 1 }) (again s)
      else end_ 4 s

/-- The records of a step name the session of a request: it fails at once (R390). -/
def isNamed (b : Batch) (s : State) (acc : Nat) : Bool := b.named.contains (reqOf s acc).slot

/-- Commits a decode record. -/
def commitDecode (b : Batch) (s : State) (acc : Nat) : State :=
  let mask := segMask b
  if s.requests.all fun r => r.acc != acc then s
  else if isNamed b s acc then failReq b s acc
  else
    let k := (reqOf s acc).slot
    let t := sampled (charge acc s)
    let s := deliverToken acc t.1 (setSess k { sess t.2 k with pos := (sess t.2 k).pos + 1, last := t.1 } t.2)
    afterCommit acc (isLast s acc t.1) mask 4 s

/-- Commits a prefill chunk; the last also samples the first new token. -/
def commitPrefill (b : Batch) (s : State) (x : Nat × Nat) : State :=
  let acc := x.1
  let mask := segMask b
  if s.requests.all fun r => r.acc != acc then s
  else if isNamed b s acc then failReq b s acc
  else
    let r := reqOf s acc
    let k := r.slot
    let s := bump (statReg r.tenant 0) x.2 (charge acc s)
    let s := updReq acc (fun r => { r with fed := r.fed + x.2 }) (setSess k { sess s k with pos := (sess s k).pos + x.2 } s)
    if r.fed + x.2 < r.toks.length then afterCommit acc false mask 3 s
    else
      let t := sampled s
      let s := setSess k { sess t.2 k with last := t.1 } t.2
      if r.maxnew = 0 then afterCommit acc true mask 4 s
      else
        let s := deliverToken acc t.1 s
        afterCommit acc (isLast s acc t.1) mask 4 s

/-- Requests of a step. -/
def Batch.members (b : Batch) : List Nat := b.decode ++ b.prefill.map Prod.fst

/-- The step in hand commits. -/
def commitAll (b : Batch) (s : State) : State :=
  { b.prefill.foldl (commitPrefill b) (b.decode.foldl (commitDecode b) s) with batch := none }

/-- The step in hand fails. -/
def failStep (b : Batch) (s : State) : State := { b.members.foldl (failReq b) s with batch := none }

/-- STEP_COMMIT: the step in hand has ended here, and every segment has reported OK or one has reported failure. -/
def stepCommit (s : State) : State :=
  match s.batch with
  | none => s
  | some b =>
    if !(powered s) || s.recov.silent || b.ended.isNone then s
    else if someFail b then failStep b s
    else if allOk b then commitAll b s
    else s

/-- COMMIT_TIMEOUT: a segment has not reported in time. -/
def commitTimeout (s : State) : State :=
  match s.batch with
  | none => s
  | some b =>
    match b.ended with
    | none => s
    | some t =>
      if !(powered s) || s.recov.silent || someFail b || allOk b || decide (s.now < t + 1000 * rdF s 0x500038 0 20) then s
      else failStep b s

/-! ## Accounting (R394, R398) -/

/-- ACCT_PERIOD as written, 1 to 60,000 ms. -/
def acctPeriod (s : State) : Nat := max 1 (min 60000 (rdF s 0x500030 0 16))

/-- One counter is latched and cleared. -/
def latchStat (a : Nat) (s : State) : State := wr a 0 (wr (a + 0x80) (rd s a) s)

/-- The boundary's work for a tenant. -/
def tenantBoundary (t : Nat) (s : State) : State :=
  let s := iter 16 (fun c s => latchStat (statReg t c) s) s
  let res := (rd s (tenReg t 8)).toNat
  let r := max res (rd s (tenReg t 6)).toNat
  let before := unitsLeft s t
  let low := (rd s (tenReg t 10)).toNat
  let s := wr (tenReg t 7) (Word.ofNat (r - res)) { s with
    charged := sset (fun _ => 0) t 0 s.charged, refill := sset (fun _ => 0) t r s.refill }
  if low ≤ before ∧ r - res < low then fireVec t 48 (r - res) s else s

/-- ACCOUNTING_BOUNDARY. -/
def accountingBoundary (s : State) : State :=
  let t := timeCounter s
  if !(powered s) || t % (s.acctP * 10 ^ 6) != 0 || t == s.acctAt then s
  else
    let s := latchStat 0x1010004 (addWrap 0x1010000 1 { s with acctP := acctPeriod s, acctAt := t })
    let s := iter 256 tenantBoundary s
    iter 256 (fun n s => fireVec n 52 (rd s 0x1010000).toNat s) s

def execGenerate (q : Nat) (s : State) : Host.Outcome State Fault Refusal := .next (generate q s)
def execCancel (q : Nat) (s : State) : Host.Outcome State Fault Refusal := .next (cancel q s)
def execPark (q : Nat) (s : State) : Host.Outcome State Fault Refusal := .next (park q s)
def execClose (q : Nat) (s : State) : Host.Outcome State Fault Refusal := .next (close q s)
def execSpillinRequest (q : Nat) (s : State) : Host.Outcome State Fault Refusal := .next (spillinRequest q s)
def execStepBuild (t : TaskId) (s : State) : Host.Outcome State Fault Refusal := .next (stepBuild t.val s)
def execRingStepStart (t : TaskId) (s : State) : Host.Outcome State Fault Refusal := .next (ringStepStart t.val s)
def execSegmentResult (seg step : Nat) (ok : Bool) (s : State) : Host.Outcome State Fault Refusal :=
  .next (segmentResult seg step ok s)
def execStepCommit (s : State) : Host.Outcome State Fault Refusal := .next (stepCommit s)
def execCommitTimeout (s : State) : Host.Outcome State Fault Refusal := .next (commitTimeout s)
def execAccountingBoundary (s : State) : Host.Outcome State Fault Refusal := .next (accountingBoundary s)

end Sys2Proof.Machine
end

