-- ==== Sys2Proof/Machine/Loader.lean ====
section
/-! DEFINITION. The loader (ch. 13): checking, placing and relocating program images. A load is one indivisible piece, and one
that fails leaves nothing behind. -/

namespace Sys2Proof.Machine

/-- A section table entry. -/
structure Sect where
  ty : Nat
  core : Nat
  region : Nat
  off : Nat
  len : Nat
  dest : Nat
deriving DecidableEq, Repr

/-- What a load works on: the task, its tenant, its maps, the image's bytes and sections. -/
structure Load where
  t : Nat
  tn : Nat
  fmtMap : Nat
  modMap : Nat
  segMap : Nat
  img : List Byte
  sects : List Sect

/-- A header field. -/
def Load.h (l : Load) (off n : Nat) : Nat := leAt l.img off n
def Load.coreSet (l : Load) : Nat := l.h 8 2
def Load.nprog (l : Load) : Nat := l.h 24 1
def Load.nscale (l : Load) : Nat := l.h 25 1
/-- Cores of the image's core set. -/
def Load.cores (l : Load) : List Nat := (List.range 12).filter fun c => l.coreSet.testBit c
/-- The bytes of a section. -/
def Load.bytes (l : Load) (x : Sect) : List Byte := slice x.off x.len l.img

/-- Placed in Tarn; placed in Mere. -/
def Sect.inTarn (x : Sect) : Bool := x.ty == 2 || x.ty == 3 || x.ty == 4
def Sect.inMere (x : Sect) : Bool := x.ty == 1 || x.ty == 5

/-- Cores that a Tarn section goes to. -/
def Load.targets (l : Load) (x : Sect) : List Nat := if x.core = 15 then l.cores else [x.core]

/-- Results of a load (table of loader registers). -/
inductive LoadError where
  | fail (result detail : Nat)

/-- A condition, or the failure with a result and a detail. -/
def ensure (b : Bool) (result detail : Nat) : Except LoadError Unit := if b then .ok () else .error (.fail result detail)

/-! ## Checks (R399, R401, R402) -/

/-- Section i of an image. -/
def sectAt (img : List Byte) (i : Nat) : Sect :=
  let a := 128 + 16 * i
  { ty := leAt img a 1, core := leAt img (a + 1) 1, region := leAt img (a + 2) 1, off := leAt img (a + 4) 4
    len := leAt img (a + 8) 4, dest := leAt img (a + 12) 4 }

/-- A section's own entry is well formed. -/
def sectOk (l : Load) (i : Nat) (x : Sect) : Bool :=
  decide (1 ≤ x.ty) && decide (x.ty ≤ 10) && l.h (128 + 16 * i + 3) 1 == 0
    && decide (128 + 16 * l.sects.length ≤ x.off) && decide (x.off + x.len ≤ l.img.length)
    && (if x.inTarn then x.core == 15 || l.cores.contains x.core else x.core == 15)
    && (if x.inMere then decide (x.region < 8) else true)
    && (if x.ty = 2 ∨ x.ty = 3 then x.len % 128 == 0 && x.dest % 2 == 0 else true)
    && (if x.ty = 10 then x.len == 64 else true)

/-- At most n sections pass a test. -/
def atMost (n : Nat) (p : Sect → Bool) (l : List Sect) : Bool := decide ((l.filter p).length ≤ n)

/-- Two placed sections meet on core c, or in Mere. -/
def sectsMeet (l : Load) (x y : Sect) : Bool :=
  x.len != 0 && y.len != 0 &&
  ((x.inTarn && y.inTarn && l.cores.any fun c =>
      (l.targets x).contains c && (l.targets y).contains c && meets (64 * x.dest) x.len (64 * y.dest) y.len)
   || (x.inMere && y.inMere && x.region == y.region && meets (256 * x.dest) x.len (256 * y.dest) y.len))

/-- No two sections of a list meet. -/
def noneMeet (l : Load) : List Sect → Bool
  | [] => true
  | x :: r => r.all (fun y => !(sectsMeet l x y)) && noneMeet l r

/-- Every bundle of a stream section lies within it. -/
def bundlesIn : Nat → List Byte → Bool
  | 0, _ => false
  | fuel + 1, b =>
    if b.isEmpty then true
    else
      let n := 16 + 32 * (leAt b 2 1 % 32)
      if b.length < n then false else bundlesIn fuel (b.drop n)

/-- The header is well formed. -/
def headOk (s : State) (l : Load) : Bool :=
  l.h 0 4 == 0x3249504F && l.h 4 2 == 1 && l.h 6 1 == fld (rd s rSsqFeatures) 24 8 && decide (l.h 7 1 < 16)
    && decide (l.coreSet < 4096) && decide (1 ≤ l.h 10 2) && decide (l.h 10 2 ≤ 4096) && decide (1 ≤ l.h 22 2)
    && decide (l.h 22 2 ≤ 1024) && decide (l.nprog ≤ 64) && decide (l.nscale ≤ 63) && decide (l.h 26 1 ≤ 4)
    && decide (l.h 27 1 ≤ 4) && l.h 28 4 == 0 && l.h 80 48 == 0 && decide (128 + 16 * l.h 10 2 ≤ l.img.length)

/-- Index of the first section that fails a test. -/
def firstBad (p : Nat → Sect → Bool) (l : List Sect) : Option Nat :=
  ((List.range l.length).zip l).findSome? fun x => if p x.1 x.2 then none else some x.1

/-- The digest of the image, its own bytes taken as zero. -/
def imageDigest (img : List Byte) : List Byte := sha384 (img.take 32 ++ List.replicate 48 0 ++ img.drop 80)

/-- A Mere window of the tenant; addresses whose stack field names no stack lie in no window (R15, R91). -/
def winOf (s : State) (l : Load) (i : Nat) : Option (Nat × Nat) :=
  if i < 8 then
    let g := fun j => (rd s (tenReg l.tn (16 + 4 * i + j))).toNat
    if (g 3).testBit 31 then
      some (g 0 / 256 * 256 + g 1 % 1024 * 2 ^ 32, min (24 * 2 ^ 37) (g 2 / 256 * 256 + g 3 % 1024 * 2 ^ 32)) else none
  else none

/-- The Tarn window of the task on core c, as the registers hold it. -/
def loadWindow (s : State) (l : Load) (c : Nat) : Nat × Nat :=
  (fld (rd s (coreReg c (0xC400 + 8 * l.t))) 12 15 * 4096,
   min (fld (rd s (coreReg c (0xC404 + 8 * l.t))) 12 16 * 4096) (rd s rTarnSize).toNat)

/-- A placed section lies within its window. -/
def sectInWindow (s : State) (l : Load) (x : Sect) : Bool :=
  if x.inTarn then (l.targets x).all fun c =>
    let w := loadWindow s l c
    decide (w.1 + 64 * x.dest + x.len ≤ w.2)
  else if x.inMere then match winOf s l x.region with
    | some w => decide (w.1 + 256 * x.dest + x.len ≤ w.2)
    | none => false
  else true

/-! ## Slots (R405) -/

/-- Loaded tasks other than t. -/
def otherTasks (s : State) (t : Nat) : List TaskImg := (s.tasks.filter fun x => x.1 != t && taskLoaded s x.1).map Prod.snd

/-- The n lowest of a range of numbers that no loaded task holds. -/
def freeSlots' (n lo hi : Nat) (used : List Nat) : Option (List Nat) :=
  let l := ((List.range (hi - lo)).map fun i => lo + i).filter fun k => !(used.contains k)
  if n ≤ l.length then some (l.take n) else none

/-! ## Relocation (R404, R406) -/

/-- A relocation record. -/
structure Reloc where
  sect : Nat
  kind : Nat
  arg : Nat
  off : Nat

/-- Relocation records of an image, in order. -/
def relocs (l : Load) : List Reloc :=
  (l.sects.filter fun x => x.ty == 6).flatMap fun x =>
    (List.range (x.len / 8)).map fun i =>
      let b := slice (x.off + 8 * i) 8 l.img
      { sect := leAt b 0 2, kind := leAt b 2 1, arg := leAt b 3 1, off := leAt b 4 4 }

/-- The value that a record puts in place of a field's word or words (42 bits for kind 2), on core c; none where it fails. -/
def relocValue (s : State) (l : Load) (progs scales : List Nat) (c : Nat) (r : Reloc) (v : Nat) : Option Nat :=
  let put := fun lo n (x : Nat) => v - v / 2 ^ lo % 2 ^ n * 2 ^ lo + x % 2 ^ n * 2 ^ lo
  match r.kind with
  | 1 =>
    let w := loadWindow s l c
    let a := v % 2 ^ 27 + w.1
    if w.1 ≤ a ∧ a < w.2 then some (put 0 27 a) else none
  | 2 => match winOf s l r.arg with
    | none => none
    | some w =>
      let a := v % 2 ^ 42 + w.1
      if a < w.2 then some (put 0 42 a) else none
  | 3 => (progs[v % 64]?).map (put 0 6)
  | 4 =>
    let f := v / 2 ^ 16 % 64
    if f = 0 then some v else (scales[f - 1]?).map (put 16 6)
  | 5 => if v % 16 < l.h 26 1 then some (put 0 4 (l.fmtMap / 16 ^ (v % 16) % 16)) else none
  | 6 => if v % 16 < l.h 27 1 then some (put 0 4 (l.modMap / 16 ^ (v % 16) % 16)) else none
  | 7 => if v % 2 ^ 24 < l.h 22 2 ∧ l.segMap + 4 * (v % 2 ^ 24) + 4 ≤ 24 * 2 ^ 37 then some (put 0 24 (mereLe s (l.segMap + 4 * (v % 2 ^ 24)) 4 % 2 ^ 24)) else none
  | _ => none

/-- The section that a record patches, when its words lie in it. -/
def relocSect (l : Load) (r : Reloc) : Option Sect :=
  match l.sects[r.sect]? with
  | some x => if r.off % 4 = 0 ∧ r.off + (if r.kind = 2 then 8 else 4) ≤ x.len then some x else none
  | none => none

/-- One record applied to a section's bytes on core c. -/
def relocApply (s : State) (l : Load) (progs scales : List Nat) (c : Nat) (r : Reloc) (b : List Byte) : Option (List Byte) :=
  let n := if r.kind = 2 then 8 else 4
  (relocValue s l progs scales c r (leAt b r.off n)).map fun v => b.take r.off ++ leBytes n v ++ b.drop (r.off + n)

/-- A section's bytes on core c with every record of it applied; the index of the record that fails. -/
def patched (s : State) (l : Load) (progs scales : List Nat) (i c : Nat) (x : Sect) : Except LoadError (List Byte) :=
  let rs := relocs l
  ((List.range rs.length).zip rs).foldlM (fun b r =>
    if r.2.sect ≠ i then .ok b
    else match relocApply s l progs scales c r.2 b with
    | some b => .ok b
    | none => .error (.fail 5 r.1)) (l.bytes x)

/-- Core whose window kind 1 takes: the section's own, and the lowest of the core set for a section of no core. -/
def patchCores (l : Load) (x : Sect) : List Nat := if x.inTarn then l.targets x else [l.cores.headD 0]

/-! ## Placing (R401) -/

/-- Writes a patched section where it belongs, on core c. -/
def placeSect (l : Load) (c : Nat) (x : Sect) (b : List Byte) (s : State) : State :=
  if x.inTarn then
    let a := (loadWindow s l c).1 + 64 * x.dest
    let s := tarnWrite c a b (wakeSegs c a b.length s)
    if x.ty = 2 then wr (coreReg c 0xA08C) (Word.ofNat (x.len / 128 % 2 ^ 17)) (wr (coreReg c 0xA088) (Word.ofNat a) s)
    else if x.ty = 3 then wr (coreReg c 0xA084) (Word.ofNat (x.len / 128 % 2 ^ 16)) (wr (coreReg c 0xA080) (Word.ofNat a) s)
    else s
  else if x.inMere then
    let a := ((winOf s l x.region).getD (0, 0)).1 + 256 * x.dest
    let s := mereWrite a b (wakeUnits (unitsOf a b.length) s)
    if x.ty = 1 then wr (0x500600 + 4 * l.t) (Word.ofNat x.len) (wr64 (0x500400 + 8 * l.t) a s) else s
  else s

/-- Records of the timetable section past its period, each of 4 bytes and n entries. -/
def timetable : Nat → Nat → List Byte → State → State
  | 0, _, _, s => s
  | fuel + 1, n, b, s =>
    if b.length < 4 + n then s
    else
      let r := leAt b 0 1
      let p := leAt b 1 1
      let s := if r < 12 ∧ p < 9 then
        { s with meshTbl := ssetMany (fun _ => 0) ((r * 9 + p) * 8192) (((b.drop 4).take n).map fun x => x &&& 0x7F) s.meshTbl } else s
      timetable fuel n (b.drop (4 + n)) s

/-- The timetable section: the period, and the slot tables, empty where the image names none. -/
def placeTimetable (b : List Byte) (s : State) : State :=
  let p := leAt b 0 4 % 2048
  timetable b.length (8 * max 1 (min 1024 p)) (b.drop 4) (wr 0x12004 (Word.ofNat p) { s with meshTbl := [] })

/-- The scale section: each image slot's scale and adaptation word, its PAIR mapped, on every core. -/
def placeScales (l : Load) (scales : List Nat) (b : List Byte) (s : State) : State :=
  iter (b.length / 12) (fun i s =>
    let k := leAt b (12 * i) 4
    let w := Word.ofNat (leAt b (12 * i + 8) 4)
    let p := fld w 3 6
    let w := if p = 0 then w else setFld w 3 6 (scales.getD (p - 1) 0)
    match (if k = 0 then none else scales[k - 1]?) with
    | none => s
    | some n => l.cores.foldl (fun s c =>
        wr (coreReg c (0xB600 + 4 * n)) (Word.ofNat (w.toNat &&& 0xFFFFF1FF))
          (wr (coreReg c (0xB400 + 8 * n)) (Word.ofNat (leAt b (12 * i + 4) 4)) s)) s) s

/-- Scale records and the pairs they name are image slots. -/
def scalesOk (l : Load) (b : List Byte) : Bool :=
  b.length % 12 == 0 && (List.range (b.length / 12)).all fun i =>
    decide (1 ≤ leAt b (12 * i) 4) && decide (leAt b (12 * i) 4 ≤ l.nscale)
      && decide (fld (Word.ofNat (leAt b (12 * i + 8) 4)) 3 6 ≤ l.nscale)

/-- The section of a type, with its index. -/
def sectOf (l : Load) (ty : Nat) : Option (Nat × Sect) := ((List.range l.sects.length).zip l.sects).find? fun x => x.2.ty == ty

/-- Bytes of the section of a type, patched; empty where there is none. -/
def otherBytes (s : State) (l : Load) (progs scales : List Nat) (ty : Nat) : Except LoadError (List Byte) :=
  match sectOf l ty with
  | none => .ok []
  | some (i, x) => patched s l progs scales i (l.cores.headD 0) x

/-- Places every section, in order of the table. -/
def placeAll (l : Load) (progs scales : List Nat) (s0 : State) : Except LoadError State :=
  ((List.range l.sects.length).zip l.sects).foldlM (fun s x =>
    if !(x.2.inTarn || x.2.inMere) then .ok s
    else (patchCores l x.2).foldlM (fun s c =>
      match patched s0 l progs scales x.1 c x.2 with
      | .ok b => .ok (placeSect l c x.2 b s)
      | .error e => .error e) s) s0

/-- Index of the first relocation record that fails: one that names a word outside its section, or whose result no copy of its section
can take (R404). -/
def badReloc (s : State) (l : Load) (progs scales : List Nat) : Option Nat :=
  let outside := ((List.range (relocs l).length).zip (relocs l)).filterMap fun x => if (relocSect l x.2).isNone then some x.1 else none
  let failed := ((List.range l.sects.length).zip l.sects).flatMap fun x => (patchCores l x.2).filterMap fun c =>
    match patched s l progs scales x.1 c x.2 with
    | .error (.fail _ d) => some d
    | .ok _ => none
  (outside ++ failed).min?

/-- The checks of R399 on a section table. -/
def tableOk (l : Load) : Bool :=
  let n := fun (k : Nat) => (l.sects.filter fun x => x.ty == k).length
  n 1 == 1 && decide (n 7 ≤ 1) && decide (n 8 ≤ 1) && decide (n 9 ≤ 1) && decide (n 10 ≤ 1)
    && (l.cores.all fun c => atMost 1 (fun x => x.ty == 2 && (l.targets x).contains c) l.sects
      && atMost 1 (fun x => x.ty == 3 && (l.targets x).contains c) l.sects)
    && noneMeet l l.sects

/-- The whole of a staged image lies in a window of the tenant. -/
def imageIn (s : State) (tn src : Nat) : Bool :=
  let s := { s with eff := s.csr }
  inMereOf s tn src ((src + 128 : Nat) - 1) && inMereOf s tn src ((src + max 128 (mereLe s (src + 12) 4) : Nat) - 1)

/-- The load of R401 for task t of tenant tn from an address, with its maps: the state after it, or how it fails. -/
def loadImage (t tn src fmtMap modMap segMap : Nat) (s : State) : Except LoadError State := do
  ensure (imageIn s tn src) 4 0
  let n := mereLe s (src + 12) 4
  ensure (decide (128 ≤ n)) 1 0
  let img := mereRead s src n
  let l : Load := { t := t, tn := tn, fmtMap := fmtMap, modMap := modMap, segMap := segMap, img := img
                    sects := (List.range (min 4096 (leAt img 10 2))).map (sectAt img) }
  ensure (headOk s l) 1 0
  match firstBad (fun i x => sectOk l i x) l.sects with
  | some i => .error (.fail 1 i)
  | none => .ok ()
  ensure (tableOk l) 1 0
  ensure (l.sects.all fun x => x.ty != 1 || bundlesIn (x.len + 1) (l.bytes x)) 1 0
  ensure (imageDigest img == slice 32 48 img) 2 0
  ensure (l.coreSet == fld (rd s rMaskLive) 0 12) 3 0
  ensure (l.cores.all fun c => decide ((loadWindow s l c).1 + 4096 * l.h 16 4 ≤ (loadWindow s l c).2)) 4 0
  match firstBad (fun _ x => sectInWindow s l x) l.sects with
  | some i => .error (.fail 4 i)
  | none => .ok ()
  ensure (decide (l.h 20 2 ≤ max 128 (min 990 (rdF s rPool 0 10)))) 7 0
  match freeSlots' l.nprog 0 64 ((otherTasks s t).flatMap TaskImg.progs),
        freeSlots' l.nscale 1 64 ((otherTasks s t).flatMap TaskImg.scales) with
  | some progs, some scales =>
    match badReloc s l progs scales with
    | some i => .error (.fail 5 i)
    | none => .ok ()
    let tt ← otherBytes s l progs scales 7
    let sc ← otherBytes s l progs scales 8
    let sv ← otherBytes s l progs scales 10
    ensure (scalesOk l sc) 1 (((sectOf l 8).map Prod.fst).getD 0)
    let s ← placeAll l progs scales s
    let s := placeScales l scales sc s
    let s := if (l.h 7 1).testBit 2 ∧ tt ≠ [] then placeTimetable tt s else s
    let i : TaskImg := { src := src, tenant := tn, flags := l.h 7 1, coreSet := l.coreSet, digest := slice 32 48 img
                         serve := if (l.h 7 1).testBit 3 then sv else [], nseg := l.h 22 2, progs := progs, scales := scales
                         fmtMap := fmtMap, modMap := modMap, segMap := segMap }
    pure (wr (rCompat + 4 * t) (Word.ofNat (2 + l.h 7 1 % 2))
      { s with tasks := sset (fun _ => {}) t i s.tasks, time := { s.time with loadedOnce := true } })
  | _, _ => .error (.fail 6 0)

/-- Writes LDR_STATUS. -/
def loadStatus (result t detail : Nat) (s : State) : State :=
  wr rLdrStatus (Word.ofNat (result + t * 2 ^ 4 + detail % 2 ^ 16 * 2 ^ 16)) s

/-- Tenants that task t belongs to. -/
def tenantsOf (s : State) (t : Nat) : List Nat :=
  (List.range 256).filter fun n => bitOf (tenCfg s n 0) 0 && bitOf (tenCfg s n (2 + t / 32)) (t % 32)

/-- The loader reads the staged image of tenant tn through the Weast requester port (R226, R403). -/
def readImage (tn src : Nat) (ecc : EccMap) (s : State) : State :=
  if imageIn s tn src then reachMere ecc src (max 128 (mereLe s (src + 12) 4)) s else s

/-- A load of task t from an address, with its result in LDR_STATUS. -/
def runLoad (t src fmtMap modMap segMap : Nat) (ecc : EccMap) (s : State) : State :=
  let s := wrF (rCompat + 4 * t) 1 1 0 { s with tasks := sset (fun _ => {}) t {} s.tasks }
  match tenantsOf s t with
  | [tn] =>
    let s := readImage tn src ecc s
    match loadImage t tn src fmtMap modMap segMap s with
    | .ok s => loadStatus 0 t 0 s
    | .error (.fail r d) => loadStatus r t d s
  | _ => loadStatus 9 t 0 s

/-- LDR_CTL takes OP and TASK of a write. -/
def ldrCtl (v : Word) (s : State) : State := wr rLdrCtl (Word.ofNat (v.toNat &&& 0xFE)) s

/-- The load that LDR_CTL names is carried out, or goes on waiting with GO at 1 while the running image reserves virtual channel 3 no
way to Mere and back (R288, R403). -/
def goLoad (ecc : EccMap) (s : State) : State :=
  let t := rdF s rLdrCtl 2 6
  if s.ssq.run && s.ssq.task == t then loadStatus 8 t 0 (wrF rLdrCtl 0 1 0 s)
  else if !(weastFree s) then wrF rLdrCtl 0 1 1 s
  else runLoad t (rd64 s 0x500208) (rd s 0x500218).toNat (rd s 0x50021C).toNat (rd64 s 0x500210) ecc (wrF rLdrCtl 0 1 0 s)

/-- LDR_LOAD: a write of LDR_CTL with GO = 1 and OP = LOAD, while no loader operation runs. While a load waits, the command stands for the
moment at which it goes on (log entry 90). -/
def ldrLoad (v : Word) (ecc : EccMap) (s : State) : State :=
  if !(engines s) || fld v 0 2 != 1 then s
  else if bitOf (rd s rLdrCtl) 0 then (if bitOf (rd s rLdrCtl) 1 then s else goLoad ecc s)
  else goLoad ecc (ldrCtl v s)

/-- LDR_UNLOAD: a write of LDR_CTL with GO = 1 and OP = UNLOAD; it waits for the end of a running step of the task (R403). -/
def ldrUnload (v : Word) (s : State) : State :=
  let t := fld v 2 6
  if !(engines s) || fld v 0 2 != 3 || bitOf (rd s rLdrCtl) 0 then s
  else
    let s := ldrCtl v s
    if s.ssq.run && s.ssq.task == t then wrF rLdrCtl 0 1 1 s else unloadTask t s

def execLdrLoad (v : Word) (s : State) (ecc : EccMap := []) : Host.Outcome State Fault Refusal := .next (ldrLoad v ecc s)
def execLdrUnload (v : Word) (s : State) : Host.Outcome State Fault Refusal := .next (ldrUnload v s)

end Sys2Proof.Machine
end

