-- ==== Sys2Proof/Machine/Fault.lean ====
section
/-! DEFINITION. The fault collector (ch. 14): records and the log, class reactions, recoveries and their limit, core loss, ageing,
and fault injection. -/

namespace Sys2Proof.Machine

abbrev rRecovCount : Nat := 0x2000C
abbrev rCeCount : Nat := 0x20020
abbrev rCtCount : Nat := 0x20024
abbrev rPtCount : Nat := 0x20028
abbrev rRestart : Nat := 0x2002C
abbrev rLogLost : Nat := 0x20030
abbrev rSramCe : Nat := 0x20034
abbrev rLastRecov : Nat := 0x20040
abbrev rService : Nat := 0x20044
abbrev rLogHead : Nat := 0x20048
abbrev rLogTail : Nat := 0x2004C
abbrev rInject : Nat := 0x20060

/-! ## Sources and causes (R419–R421) -/

/-- Kind, instance and sub-unit of a source number. -/
def srcKind (n : Nat) : Nat := n / 4096
def srcInst (n : Nat) : Nat := n / 64 % 64
def srcSub (n : Nat) : Nat := n % 64

/-- A source that the part has. -/
def sourceOk (n : Nat) : Bool :=
  let i := srcInst n
  let u := srcSub n
  match srcKind n with
  | 0 => decide (i < 12) && decide (u < 15)
  | 1 => decide (i < 24) && decide (u < 5)
  | 2 => decide (i < 12) && decide (u < 3)
  | 3 => (decide (i < 12) && u == 0) || (decide (16 ≤ i) && decide (i < 32) && u == 1)
  | 4 => decide (i < 12) && u == 0
  | 5 => decide (i < 6) && u == 0
  | 6 => decide (i < 3) && u == 0
  | _ => false

/-- Class of a cause: 0 corrected, 1 contained, 2 part, 3 fatal. The causes of a class share their high digit. -/
def classOf (cause : Nat) : Nat := min 3 (cause / 16)

/-- The FCL runs: rails up and out of reset. -/
def fclOn (s : State) : Bool := s.modul.life != .off && s.modul.life != .inReset

/-- An FCL register whose writes are deferred during a recovery: the value in force (R449). -/
def fclCfg (s : State) (a : Nat) : Word := if fclState s = 1 then sget resetWord a s.recov.eff else rd s a

/-- Quiet period in ticks; window in ticks; limit; core limit. -/
def quietTicks (s : State) : Nat := 1000000 * max 1 (min 60000 (fld (fclCfg s 0x20008) 0 16))
def windowTicks (s : State) : Nat := 1000000000 * max 1 (fld (fclCfg s 0x20014) 0 24)
def recovLimit (s : State) : Nat := fld (fclCfg s 0x20010) 0 8
def coreLimit (s : State) : Nat := max 1 (fld (fclCfg s 0x20018) 0 4)

/-- Changes what is kept of recoveries. -/
def updRecov (f : Recov → Recov) (s : State) : State := { s with recov := f s.recov }

/-! ## The log (R427–R429) -/

/-- Records from tail to head. -/
def logUsed (head tail : Nat) : Nat := (head + 512 - tail) % 512

/-- Writes a record of class c at the head of the log (R427, R428). -/
def logWrite (c : Nat) (ws : List Word) (s : State) : State :=
  let head := rdF s rLogHead 0 9
  let tail := rdF s rLogTail 0 9
  let full := logUsed head tail = 256
  if full ∧ c = 0 then bump rLogLost 1 s
  else
    let s := if full then bump rLogLost 1 (wr rLogTail (Word.ofNat ((tail + 1) % 512)) s) else s
    wr rLogHead (Word.ofNat ((head + 1) % 512))
      ((ws.zip (List.range 8)).foldl (fun s x => wr (0x21000 + 0x20 * (head % 256) + 4 * x.2) x.1 s) s)

/-- The words of a record (table of record fields). -/
def recordWords (s : State) (p : Pend) (first : Bool) : List Word :=
  let b := fun (x : Bool) (k : Nat) => if x then 2 ^ k else 0
  let t := timeCounter s
  [Word.ofNat t, Word.ofNat (t / 2 ^ 32),
   Word.ofNat (p.source % 2 ^ 16 + p.cause % 256 * 2 ^ 16 + classOf p.cause * 2 ^ 24 + b p.conseq 26 + b first 27 + b p.inj 29
     + 2 ^ 31),
   Word.ofNat p.detail, Word.ofNat ((if s.ssq.run then s.ssq.task else 0) + s.stepNo % 2 ^ 24 * 2 ^ 8), rd s rRecovCount,
   Word.ofNat p.merge, 0]

/-- A part-class or fatal record is written to the flash ring too (R429). -/
def ringWrite (ws : List Word) (s : State) : State :=
  updRecov (fun r => { r with ringAt := (r.ringAt + 1) % 64 }) (flashWrite (0x01040000 + 32 * s.recov.ringAt) (bytesOf ws) s)

/-- The flash records, oldest first, are copied into the log at power-on with FLASH = 1 (R429). -/
def ringCopy (s : State) : State :=
  iter 64 (fun i s =>
    let l := flashRead s (0x01040000 + 32 * ((s.recov.ringAt + i) % 64)) 32
    let ws := wordsOf 8 l
    if l.all fun b => b == 0xFF then s else logWrite 1 (ws.set 2 (ws.getD 2 0 ||| Word.ofNat (2 ^ 28))) s) s

/-- LOG_TAIL_WRITE: frees records, unless it would pass the head. -/
def logTailWrite (v : Word) (s : State) : State :=
  let head := rdF s rLogHead 0 9
  if !(powered s) || decide (logUsed head (rdF s rLogTail 0 9) < logUsed head (fld v 0 9)) then s
  else wr rLogTail (Word.ofNat (fld v 0 9)) s

/-! ## Entering recovery, HOLD and FATAL (R426, R430, R435, R438, R440) -/

/-- QEN fences every queue pair (R440). -/
def fenceAll (s : State) : State :=
  (activeQps s).foldl (fun s q => updQp q (fun t => { t with fences := t.fences ++ [s.nextReq] }) s) s

/-- Sets STATE and PHASE of FCL_STATUS. -/
def setFcl (st phase : Nat) (s : State) : State := wrF rFclStatus 0 4 (st + 4 * phase) s

/-- The part enters HOLD (R438). -/
def enterHold (s : State) : State := failAll 2 (fenceAll (allDown (abortStep 6 (setFcl 2 0 s))))

/-- The part stops for a fatal record of a source (R426). -/
def enterFatal (source : Nat) (s : State) : State :=
  let s := fenceAll (allDown (setFcl 3 0 (updRecov (fun r => { r with fatalLast := true }) s)))
  if source = srcOf 4 3 0 ∨ source = srcOf 4 4 0 ∨ source = srcOf 4 7 0 then updRecov (fun r => { r with silent := true }) s
  else failAll 3 s

/-- Recoveries and restarts of the window, with one that begins now. -/
def newHistory (s : State) : List Nat := s.now :: s.recov.history.filter fun t => decide (s.now < t + windowTicks s)

/-- A recovery would begin, or begin again from the reset phase: one too many holds the part. -/
def limited (s : State) : Bool := decide (recovLimit s < (newHistory s).length)

/-- A recovery begins: the stop phase (R430). -/
def beginRecovery (s : State) : State :=
  let s := bump rRecovCount 1 (setFcl 1 0 (updRecov (fun r => { r with
    firstAt := s.now, lastAt := s.now, curAt := s.now, resetDone := false, restoreDone := false, floor := []
    history := newHistory s, eff := s.csr, downSince := some (r.downSince.getD s.now) }) s))
  fenceAll (abortStep 6 s)

/-- A recovery begins again from the reset phase (R435). -/
def restartRecovery (s : State) : State :=
  bump rRestart 1 (setFcl 1 1 (updRecov (fun r => { r with
    lastAt := s.now, curAt := s.now, resetDone := false, restoreDone := false, floor := [], history := newHistory s }) s))

/-- What a part-class record draws (R430, R435, R438). -/
def partReaction (s : State) : State :=
  if fclState s = 0 then
    if limited s then enterHold (updRecov (fun r => { r with history := newHistory s }) s) else beginRecovery s
  else if fclState s = 1 then
    if rdF s rFclStatus 2 2 = 0 then updRecov (fun r => { r with lastAt := s.now }) s
    else if limited s then enterHold (updRecov (fun r => { r with history := newHistory s }) s)
    else restartRecovery s
  else s

/-- Causes of contained records that fail the running step (R68, R176, R200, R226, R368, R422). -/
def failsStep (cause : Nat) : Bool := [0x10, 0x11, 0x12, 0x13, 0x14, 0x15, 0x17, 0x1A, 0x1D].contains cause

/-- What a contained record means for the step in hand; none for one that has ended (R390, R425, R442). -/
def noteBatch (p : Pend) (s : State) : State :=
  match s.batch with
  | none => s
  | some b =>
    if b.ended.isSome then s
    else { s with batch := some { b with
      conseq := b.conseq || p.conseq, plain := b.plain || !p.conseq, failed := b.failed || failsStep p.cause
      named := if p.cause = 0x18 then p.detail :: b.named else b.named } }

/-- A core source of a part-class record is named by its recovery (R437). -/
def noteNamed (p : Pend) (s : State) : State :=
  if srcKind p.source = 0 then
    updRecov (fun r => { r with
      named := if r.named.contains (srcInst p.source, r.curAt) then r.named else (srcInst p.source, r.curAt) :: r.named
      floor := if p.cause = 0x27 then srcInst p.source :: r.floor else r.floor }) s
  else s

/-- The step of a contained record has already ended (R425). -/
def stepOver (p : Pend) (s : State) : Bool :=
  match p.step with
  | none => false
  | some k => !s.ssq.run || k != s.stepNo

/-- The reaction of a record's class (table of class reactions); a contained record of a step that has ended is only counted
(R425). -/
def react (p : Pend) (s : State) : State :=
  match classOf p.cause with
  | 0 => bump rCeCount 1 s
  | 1 => if stepOver p s then bump rCtCount 1 s else fireVec 0 51 1 (noteBatch p (bump rCtCount 1 s))
  | 2 => noteNamed p (partReaction (bump rPtCount 1 s))
  | _ => enterFatal p.source s

/-- The source whose error the FCL records next: the lowest number that asserts. -/
def nextPend (s : State) : Option Pend :=
  s.pend.foldl (fun b p => match b with
    | none => some p
    | some x => if p.source < x.source then some p else b) none

/-- FAULT_RECORD. -/
def faultRecord (s : State) : State :=
  if !(fclOn s) then s
  else match nextPend s with
  | none => s
  | some p =>
    let c := classOf p.cause
    let first := c == 2 && fclState s == 0 && !(limited s)
    let ws := recordWords s p first
    let s := logWrite c ws { s with pend := s.pend.erase p }
    react p (if 2 ≤ c then ringWrite ws s else s)

/-! ## Broken wires (R418) -/

/-- BROKEN_WIRE: a source's rails have read equal for 8 samples. -/
def brokenWire (source : Nat) (s : State) : State :=
  if !(fclOn s) || !(sourceOk source) || s.recov.broken.contains source then s
  else
    let k := srcKind source
    raisePend { source := source, cause := if k = 0 ∨ k = 2 then 0x25 else 0x32, inj := s.recov.railsHeld.contains source }
      (setBit rService 4 (updRecov (fun r => { r with broken := source :: r.broken }) s))

/-! ## Ageing (R444–R446) -/

/-- Slack in ps that each monitor must keep. -/
def ageGuard (s : State) : Int := (fld (fclCfg s 0x20050) 0 8 : Nat)

/-- Frequency and voltage pairs in the order of R445. -/
def planPairs : List (Nat × Nat) := (List.range 15).flatMap fun i => (List.range 7).map fun v => (2250 - 25 * i, v)

/-- Every monitor of core c keeps its slack at a pair. -/
def pairOk (s : State) (c m : Nat) (p : Nat × Nat) : Bool :=
  (List.range 16).all fun k => decide (ageGuard s ≤ Config.slack c k p.1 p.2 m)

/-- Core c is measured and its plan is redone. -/
def measureCore (c : Nat) (s : State) : State :=
  let m := s.recov.measures
  let w := rd s (coreReg c 0xD140)
  let old := (fld w 0 12, fld w 12 3)
  let s := iter 16 (fun k s =>
    let x := Config.slack c k old.1 old.2 m
    let low := sx 16 (rd s (coreReg c 0xD144)).toNat
    let s := wr (coreReg c (0xD100 + 4 * k)) (Word.ofNat (ux 16 x)) s
    if x < low then wr (coreReg c 0xD144) (Word.ofNat (ux 16 (max (-32768) x))) s else s) s
  match planPairs.find? (pairOk s c m) with
  | none => raise (srcOf 0 c 13) 0x27 0 s
  | some p =>
    if p = old then s
    else
      let s := wr (coreReg c 0xD140) (Word.ofNat (p.1 + p.2 * 2 ^ 12)) s
      if p.1 < 2250 then raise (srcOf 0 c 13) 0x06 0 (setBit rService 1 s) else s

/-- Every live core is measured. -/
def measureAll (s : State) : State :=
  (liveCores s).foldl (fun s c => measureCore c s) (updRecov (fun r => { r with measures := r.measures + 1 }) s)

/-- AGEING_MEASURE: 14,400 s of the time counter after the last periodic measurement. -/
def ageingMeasure (s : State) : State :=
  if !(engines s) || decide (timeCounter s < s.recov.ageAt + 14400 * 10 ^ 9) then s
  else measureAll (updRecov (fun r => { r with ageAt := timeCounter s }) s)

/-! ## The reset phase (R418, R430–R432, R437) -/

/-- Control-space words that the reset phase returns to their reset values: the SSQ's and the cores', but for task windows
and ageing, and the power pool's counters. -/
def resetReg (a : Nat) : Bool :=
  (decide (0x18004 ≤ a) && decide (a < 0x18400)) || (decide (0x13010 ≤ a) && decide (a < 0x13018)) ||
  (decide (0x100000 ≤ a) && decide (a < 0x1C0000) &&
    !(decide (0xC400 ≤ a % 0x10000) && decide (a % 0x10000 < 0xC600)) && !(decide (0xD100 ≤ a % 0x10000)))

/-- Writes of the ended step that have not landed leave their destinations undefined (R430). -/
def loseWrites (s : State) : State :=
  (s.outst.flatMap fun o => o.2).foldl (fun s x => match x.dst with
    | .mere a => let f := freeBytes x.len s; mereWrite a f.1 f.2
    | _ => s) s

/-- The units that the reset phase resets. The blocks of the cores held, which are lost, keep their last state (R23). -/
def resetUnits (held : List Nat) (s : State) : State :=
  let s := loseWrites s
  let inHeld := fun a => decide (0x100000 ≤ a) && decide (a < 0x1C0000) && held.contains ((a - 0x100000) / 0x10000)
  { s with
    csr := s.csr.filter fun e => !(resetReg e.1) || inHeld e.1
    tarn := [], acc := [], treg := [], mask := [], progs := [], spu := [], flags := [], heldAdds := []
    pipes := s.pipes.filter fun x => held.contains (x.1 / 8)
    arrays := s.arrays.filter fun x => held.contains (x.1 / 4)
    segs := ((s.segs.filter fun x => held.contains (x.1 / 32)).map fun x => (x.1, { x.2 with owc := 0 })).filter fun x => x.2 != {}
    units := [], outst := [], turns := [], ssq := {}, pgv := {}, ore := {}, transit := [], inbox := []
    ingress := [], tarnWait := [], granted := [], meshWait := [], meshLast := [], meshHeld := []
    regions := [], remoteBad := [], heldAcks := [], failedTags := [], fabWait := [], mail := s.mail.filter fun k => k.op == 8
    time := { s.time with slow := [] }
    stackSt := (s.stackSt.map fun x => (x.1, { x.2 with subs := [], carryV := 0, carryL := 0 })).filter fun x => x.2 != {} }

/-- Model entries with a shard kept to Tarn lose ACTIVE and VERIFIED (R432). -/
def clearKept (l : List Nat) (s : State) : State := l.foldl (fun s m => modelWrite m s) s

/-- Core n meets a condition of R437. -/
def lostCore (s : State) (n : Nat) : Bool :=
  let r := s.recov
  let earlier := (r.named.filter fun x => x.1 == n && x.2 != r.curAt && decide (s.now < x.2 + windowTicks s)).length
  (r.broken.any fun b => srcKind b == 0 && srcInst b == n) || r.floor.contains n
    || (r.named.contains (n, r.curAt) && decide (coreLimit s ≤ earlier + 1))

/-- Ports whose pair still reads broken are held DOWN (R418). -/
def holdPorts (s : State) : State :=
  (s.recov.broken.filter fun b => srcKind b == 2).foldl (fun s b =>
    setBit rService 3 (updPort (srcInst b) (fun t => { t with broken := true })
      (dropPort (srcInst b) 5 (wrF (portReg (srcInst b) 4) 0 1 0 s)))) s

/-- Removes cores from CORE_MASK_LIVE and enters them in the field core record (R2, R437). -/
def removeCores (l : List Nat) (s : State) : State :=
  if l.isEmpty then s
  else
    let gone := (l.map fun n => 2 ^ n).sum
    let rec_ := s.coreRecord ||| gone
    setBit rService 0 (wr rMaskLive (Word.ofNat (((rd s rMaskLive).toNat ||| gone) - gone))
      (flashWrite 0x01030000 (leBytes 2 (0xFFFF - rec_)) { s with coreRecord := rec_ }))

/-- RECOVERY_RESET: the reset phase. A step that the stop phase has not ended is stopped 1 ms after the record. -/
def recoveryReset (s : State) : State :=
  if !(powered s) || fclState s != 1 || s.recov.resetDone || (s.ssq.run && decide (s.now < s.recov.firstAt + 1000000)) then s
  else
    let kept := s.ore.tarnKept
    let lost := (liveCores s).filter (lostCore s)
    let held := (List.range 12).filter fun n => !(live s n) || (lost.contains n && lost.length != (liveCores s).length)
    let s := clearKept kept (resetUnits held (lateUnload (endBatch 6 (allDown (setFcl 1 1 s)))))
    let s := holdPorts (measureAll (trainSeams (wrF 0x402040 0 1 0 s)))
    if lost.length = (liveCores s).length then enterHold s
    else setFcl 1 2 (updRecov (fun r => { r with resetDone := true }) (removeCores lost s))

/-! ## Restore and leave (R434, R436) -/

/-- A reload that fails leaves its task unloaded; the task's requests complete with PART_FAULT (R436). -/
def reloadTask (t : Nat) (i : TaskImg) (s : State) : State :=
  let s := runLoad t i.src i.fmtMap i.modMap i.segMap [] s
  if taskLoaded s t then s
  else fireVec i.tenant 51 2 ((s.requests.filter fun r => r.task == t).foldl (fun s r => endRequest r.acc 11 0 s) s)

/-- RECOVERY_RESTORE: every loaded task is reloaded. -/
def recoveryRestore (s : State) : State :=
  if !(powered s) || fclState s != 1 || !s.recov.resetDone || s.recov.restoreDone then s
  else
    let l := s.tasks.filter fun x => taskLoaded s x.1
    updRecov (fun r => { r with restoreDone := true }) (l.foldl (fun s x => reloadTask x.1 x.2 s) s)

/-- The quiet period is running (R434). -/
def quietRuns (s : State) : Bool := fclState s == 1 && decide (s.now < s.recov.lastAt + quietTicks s)

/-- RECOVERY_LEAVE: the leave phase. A ledger that fails keeps the part in the recovery. -/
def recoveryLeave (s : State) : State :=
  if !(powered s) || fclState s != 1 || !s.recov.restoreDone || quietRuns s || rdF s rFclStatus 2 2 == 3 then s
  else
    let t := checkLedgers (setFcl 1 3 s)
    if (ledgers s).all fun l => l.2 then
      let t := wr rLastRecov (Word.ofNat ((s.now - s.recov.firstAt) / 1000)) (setFcl 0 0 t)
      if t.requests.isEmpty then endDown t else t
    else t

/-! ## Host requests (R433, R438) -/

/-- RECOVER: a write of 1 to FCL_CTL.RECOVER in RUN. -/
def recover (s : State) : State := if powered s && fclState s == 0 then raise (srcOf 4 10 0) 0x28 0 s else s

/-- RELEASE: a write of 1 to FCL_CTL.RELEASE in HOLD. -/
def release (s : State) : State :=
  if !(powered s) || fclState s != 2 then s
  else bump rRecovCount 1 (setFcl 1 1 (updRecov (fun r => { r with
    firstAt := s.now, lastAt := s.now, curAt := s.now, resetDone := false, restoreDone := false, floor := [], history := []
    eff := s.csr, downSince := some (r.downSince.getD s.now) }) s))

/-! ## Injection (R447) -/

/-- Injection is possible: TEST_EN was high at power-on. -/
def testMode (s : State) : Bool := powered s && s.modul.testMode

/-- FCL_INJECT holds a write's SRC, CAUSE and MODE. -/
def injectWord (source cause mode : Nat) (s : State) : State :=
  wr rInject (Word.ofNat (source % 2 ^ 16 + cause % 256 * 2 ^ 16 + mode * 2 ^ 24)) s

/-- CAUSE as FCL_INJECT holds it. -/
def injectCause (s : State) : Nat := rdF s rInject 16 8

/-- INJECT_RAISE. -/
def injectRaise (source cause : Nat) (s : State) : State :=
  if !(testMode s) then s
  else
    let s := injectWord source cause 1 s
    if sourceOk source then raisePend { source := source, cause := cause % 256, inj := true } s else s

/-- Rails of a source are held equal, at 1 or at 0. -/
def holdRails (mode source : Nat) (s : State) : State :=
  if !(testMode s) then s
  else
    let s := injectWord source (injectCause s) mode s
    if sourceOk source then updRecov (fun r => { r with railsHeld := source :: r.railsHeld.filter fun x => x != source }) s else s

/-- INJECT_RAILS_HIGH. -/
def injectRailsHigh (source : Nat) (s : State) : State := holdRails 2 source s

/-- INJECT_RAILS_LOW. -/
def injectRailsLow (source : Nat) (s : State) : State := holdRails 3 source s

/-- The source reads words through a code of R422. -/
def hasSramCode (source : Nat) : Bool := srcKind source == 0 || source == srcOf 4 3 0 || source == srcOf 4 7 0

/-- INJECT_BIT_FLIP: the next word that the source reads through its code has one bit inverted, and the code corrects it
(R422). -/
def injectBitFlip (source : Nat) (s : State) : State :=
  if !(testMode s) then s
  else
    let s := injectWord source (injectCause s) 4 s
    if sourceOk source && hasSramCode source then bump rSramCe 1 s else s

/-- INJECT_RELEASE: MODE is written 0, and pairs held by injection read their rails again. -/
def injectRelease (s : State) : State :=
  if !(testMode s) then s
  else
    updRecov (fun r => { r with railsHeld := [], broken := r.broken.filter fun b => !(r.railsHeld.contains b) })
      (injectWord (rdF s rInject 0 16) (injectCause s) 0 s)

def execFaultRecord (s : State) : Host.Outcome State Fault Refusal := .next (faultRecord s)
def execBrokenWire (n : Nat) (s : State) : Host.Outcome State Fault Refusal := .next (brokenWire n s)
def execRecoveryReset (s : State) : Host.Outcome State Fault Refusal := .next (recoveryReset s)
def execRecoveryRestore (s : State) : Host.Outcome State Fault Refusal := .next (recoveryRestore s)
def execRecoveryLeave (s : State) : Host.Outcome State Fault Refusal := .next (recoveryLeave s)
def execRecover (s : State) : Host.Outcome State Fault Refusal := .next (recover s)
def execRelease (s : State) : Host.Outcome State Fault Refusal := .next (release s)
def execLogTailWrite (v : Word) (s : State) : Host.Outcome State Fault Refusal := .next (logTailWrite v s)
def execAgeingMeasure (s : State) : Host.Outcome State Fault Refusal := .next (ageingMeasure s)
def execInjectRaise (n c : Nat) (s : State) : Host.Outcome State Fault Refusal := .next (injectRaise n c s)
def execInjectRailsHigh (n : Nat) (s : State) : Host.Outcome State Fault Refusal := .next (injectRailsHigh n s)
def execInjectRailsLow (n : Nat) (s : State) : Host.Outcome State Fault Refusal := .next (injectRailsLow n s)
def execInjectBitFlip (n : Nat) (s : State) : Host.Outcome State Fault Refusal := .next (injectBitFlip n s)
def execInjectRelease (s : State) : Host.Outcome State Fault Refusal := .next (injectRelease s)

end Sys2Proof.Machine
end

