-- ==== Sys2Proof/Machine/Security.lean ====
section
/-! DEFINITION. The security mailbox (ch. 15): reports and certificates, key tables, the trust list, ownership, and the firmware
image. -/

namespace Sys2Proof.Machine

abbrev rSecStatus : Nat := 0x30000
abbrev rSecBootCnt : Nat := 0x30004
abbrev rSecSvn : Nat := 0x30008
abbrev rMboxCtl : Nat := 0x30010
abbrev rMboxLen : Nat := 0x30014
abbrev rMboxAddr : Nat := 0x30018
abbrev rUnwrapFail : Nat := 0x30020
abbrev rPrivFail : Nat := 0x30024
abbrev rMboxBuf : Nat := 0x48000

/-- Results of an operation (table of security registers). -/
abbrev rOk : Nat := 0
abbrev rWindow : Nat := 2
abbrev rFormat : Nat := 3
abbrev rUnwrap : Nat := 4
abbrev rSlot : Nat := 5
abbrev rState : Nat := 6
abbrev rTest : Nat := 7
abbrev rVerify : Nat := 8

/-- Changes the security state outside the control space. -/
def updSec (f : Sec → Sec) (s : State) : State := { s with sec := f s.sec }

/-! ## Identity (R450, R499) -/

/-- Good cores at test, as the fuses give them. -/
def gradeOf (s : State) : Nat := ((List.range 12).filter fun n => !(bitOf (rd s rMaskFused) n)).length

/-- The SPARES field, as a number. -/
def sparesField : Nat := (List.range 48).foldl (fun a i => a + spareOf i * 64 ^ i) 0

/-- Word w of the identity record: lot and wafer, position with grade and version, fused mask, spares, serial numbers. -/
def idWord (s : State) (w : Nat) : Word :=
  match w with
  | 0 => Word.ofNat ((Config.idRecord 0).toNat % 2 ^ 29)
  | 1 => Word.ofNat ((Config.idRecord 1).toNat % 2 ^ 16 + gradeOf s * 2 ^ 16 + 2 ^ 24)
  | 2 => Word.ofNat (rdF s rMaskFused 0 12)
  | n => if 4 ≤ n ∧ n ≤ 12 then Word.ofNat (sparesField / 2 ^ (32 * (n - 4)) % 2 ^ 32)
    else if 16 ≤ n ∧ n < 64 then Config.idRecord n else 0

/-! ## The mailbox (R468, R472) -/

/-- Who may start an operation: the holders of the security privilege, and CONFIG on queue pair 0 of an unowned part for REPORT,
CERT and OWNER_SET. -/
def mailboxAllowed (s : State) (rq : Requester) (op : Nat) : Bool :=
  match rq with
  | .weast => true
  | .config q => q == 0 && (s.sec.owned || op == 1 || op == 2 || op == 6)
  | .spu => false

/-- The buffer of an operation: the mailbox's own SRAM, or a Mere range; with its bytes. -/
structure MBuf where
  mere : Option Nat
  len : Nat

/-- The buffer that the registers name, or the result with which the operation ends. -/
def mboxBuf (s : State) : Except Nat MBuf :=
  let n := rdF s rMboxLen 0 25
  if bitOf (rd s rMboxCtl) 20 then (if 16384 < n then .error rFormat else .ok { mere := none, len := n })
  else
    let a := rd64 s rMboxAddr / 256 * 256
    if !s.sec.owned || !(inMereOf s 0 a ((a : Int) + n - 1)) then .error rWindow
    else if 2 ^ 24 < n then .error rFormat else .ok { mere := some a, len := n }

/-- The mailbox SRAM's first n bytes. -/
def mboxSram (s : State) (n : Nat) : List Byte :=
  (bytesOf ((List.range (ceilDiv n 4)).map fun w => rd s (rMboxBuf + 4 * w))).take n

/-- The first n bytes of a buffer. -/
def bufRead (s : State) (b : MBuf) (n : Nat) : List Byte :=
  match b.mere with
  | some a => mereRead s a n
  | none => mboxSram s n

/-- An operation reads the first n bytes of its buffer: those in Mere through the Weast requester port (R221, R226). -/
def bufReach (ecc : EccMap) (b : MBuf) (n : Nat) (s : State) : State :=
  match b.mere with
  | some a => reachMere ecc a n s
  | none => s

/-- Writes bytes at a buffer's start. In Mere a last unit written in part is read and merged; one beyond correction keeps what it
holds (R88, R226). -/
def bufWrite (ecc : EccMap) (b : MBuf) (l : List Byte) (s : State) : State :=
  match b.mere with
  | some a =>
    let part := if l.length % 256 = 0 then [] else [(a + l.length) / 256]
    let s := noteUnits ecc part (wakeUnits (unitsOf a l.length) s)
    mereWrite a (maskUe ecc part a l (mereRead s a l.length)) s
  | none =>
    let n := ceilDiv l.length 4
    let bytes := l ++ (mboxSram s (4 * n)).drop l.length
    iter n (fun w s => wr (rMboxBuf + 4 * w) (Word.ofNat (leAt bytes (4 * w) 4)) s) s

/-- A write of SEC_MBOX_CTL with GO = 1 and OP = op. The operation is whole: GO reads 0 after it. -/
def mailbox (op : Nat) (rq : Requester) (v : Word) (f : MBuf → State → Nat × State) (s : State) : State :=
  if !(powered s) || !(bitOf v 0) || fld v 1 4 != op || bitOf (rd s rMboxCtl) 0 then s
  else if !(mailboxAllowed s rq op) then privRefuse rq s
  else
    let s := wr rMboxCtl (Word.ofNat (v.toNat &&& 0x103FFE)) s
    let r := match mboxBuf s with
      | .error e => (e, s)
      | .ok b => f b s
    wrF rMboxCtl 16 4 r.1 r.2

/-! ## Attestation (R451, R452, R458, R459) -/

/-- The window map. -/
def windowMap (s : State) : List Byte :=
  bytesOf (((List.range 64).flatMap fun t => (List.range 12).flatMap fun n =>
      [rd s (coreReg n (0xC400 + 8 * t)), rd s (coreReg n (0xC404 + 8 * t))])
    ++ (List.range 256).flatMap fun t => (List.range 32).map fun w => rd s (tenReg t (16 + w)))

/-- The trust list as stored: its count and its digests. -/
def trustBytes (s : State) : List Byte := leBytes 4 s.sec.trust.length ++ s.sec.trust.flatten

/-- Loaded tasks, in ascending number. -/
def loadedTasks (s : State) : List Nat := (List.range 64).filter (taskLoaded s)

/-- A public key in 96 bytes: X then Y. -/
def pubBytes (q : Nat × Nat) : List Byte := beBytes 48 q.1 ++ beBytes 48 q.2

/-- The entry of a loaded task. -/
def taskEntry (s : State) (t : Nat) : List Byte :=
  let i := sget (fun _ => ({} : TaskImg)) t s.tasks
  [Byte.ofNat t, Byte.ofNat i.tenant] ++ leBytes 2 (rdF s (rCompat + 4 * t) 0 1) ++ leBytes 4 0 ++ slice 0 48 i.digest

/-- A report over a nonce, up to its signature (table of report fields). -/
def reportBody (s : State) (nonce : List Byte) : List Byte :=
  let b := fun (x : Bool) (k : Nat) => if x then 2 ^ k else 0
  let degraded := (List.range 24).any fun n => bitOf (rd s (stkReg n 0)) 2
  let ts := loadedTasks s
  [0x4F, 0x52, 0x50, 0x54] ++ leBytes 2 1 ++ leBytes 2 (b s.modul.testMode 0 + b s.sec.owned 1 + b degraded 2)
    ++ leBytes 4 (rd s rSecBootCnt).toNat ++ leBytes 2 (rdF s rSecSvn 0 16) ++ leBytes 2 s.sec.svnMin
    ++ leBytes 4 s.sec.fwVersion ++ leBytes 4 0 ++ slice 0 32 nonce ++ leBytes 8 (timeCounter s)
    ++ bytesOf ((List.range 64).map (idWord s)) ++ leBytes 2 (rdF s rMaskLive 0 12) ++ leBytes 6 0
    ++ slice 0 48 Config.romMeasure ++ slice 0 48 s.sec.mfw ++ sha384 (trustBytes s) ++ sha384 (windowMap s)
    ++ pubBytes (ecPub s.sec.wrapPriv) ++ leBytes 4 ts.length ++ leBytes 4 0 ++ ts.flatMap (taskEntry s)

/-- REPORT: the buffer gives a nonce and gets the signed report; it must hold a report of 64 tasks. -/
def reportOn (ecc : EccMap) (b : MBuf) (s : State) : Nat × State :=
  if b.len < 4304 then (rFormat, s)
  else
    let s := bufReach ecc b 32 s
    let body := reportBody s (bufRead s b 32)
    let (k, s) := randomBits 384 s
    let sig := ecSign Config.deviceKey (k % (ecN - 1) + 1) (sha384 body)
    (rOk, bufWrite ecc b (body ++ beBytes 48 sig.1 ++ beBytes 48 sig.2) s)

/-- CERT: the buffer gets the two certificates. -/
def certOn (ecc : EccMap) (b : MBuf) (s : State) : Nat × State :=
  if b.len < Config.certificates.length then (rFormat, s) else (rOk, bufWrite ecc b Config.certificates s)

/-! ## Keys (R460–R463) -/

/-- A wrapped key opened under the wrap key: the 32-byte key. -/
def unwrap (s : State) (l : List Byte) : Option (List Byte) :=
  let e := (beNat (slice 16 48 l), beNat (slice 64 48 l))
  if !(ecOn e) then none
  else
    let text : List Byte := [0x6F, 0x63, 0x74, 0x75, 0x73, 0x2D, 0x77, 0x72, 0x61, 0x70]
    let k := hkdf (sha384 (pubBytes (ecPub s.sec.wrapPriv))) (beBytes 48 (ecdh s.sec.wrapPriv e)) (text ++ slice 0 16 l) 32
    gcmOpen (beNat k) (beNat (slice 112 12 l)) (slice 0 16 l) (slice 124 48 l)

/-- The fields of a wrapped key of a use that `p` takes stand as the table of wrapped key fields has them. -/
def wrappedOk (p : Nat → Bool) (l : List Byte) : Bool :=
  let use := leAt l 5 1
  p use && leAt l 7 1 == 0 && leAt l 12 4 == 0 && (use == 1 || leAt l 8 4 == 0) && (use != 1 || leAt l 6 1 != 0)

/-- A WIU slot. -/
def wkey (s : State) (k : Nat) : Key := sget (fun _ => {}) k s.sec.wkeys
/-- An OHT slot. -/
def okey (s : State) (k : Nat) : Key := sget (fun _ => {}) k s.sec.okeys

/-- Restart counts of the queue pairs that name slot k read 0 (R465). -/
def zeroRestarts (k : Nat) (s : State) : State :=
  { s with csr := s.csr.filter fun e =>
      !(decide (0x34000 ≤ e.1) && decide (e.1 < 0x44000) && rdF s (qctx ((e.1 - 0x34000) / 4) 6) 0 8 == k) }

/-- An opened key goes to its table. -/
def placeKey (l key : List Byte) (s : State) : Nat × State :=
  let x : Key := { key := beNat key, id := Word.ofNat (leAt l 0 4), tenant := leAt l 4 1, valid := true }
  if leAt l 5 1 = 0 then
    if (List.range 256).any fun k => (wkey s k).valid && (wkey s k).id == x.id then (rSlot, s)
    else match (List.range 256).find? fun k => !(wkey s k).valid with
    | none => (rSlot, s)
    | some k => (rOk, updSec (fun c => { c with wkeys := sset (fun _ => {}) k x c.wkeys }) s)
  else
    let k := leAt l 6 1
    if (activeQps s).any fun q => rdF s (qctx q 6) 0 8 == k then (rState, s)
    else
      (rOk, zeroRestarts k (updSec (fun c => { c with
        okeys := sset (fun _ => {}) k { x with id := Word.ofNat (leAt l 8 4) } c.okeys }) s))

/-- KEY_INSTALL. -/
def keyInstallOn (ecc : EccMap) (b : MBuf) (s : State) : Nat × State :=
  let s := bufReach ecc b 172 s
  let l := bufRead s b 172
  if s.modul.testMode then (rTest, s)
  else if b.len < 172 || !(wrappedOk (fun u => u == 0 || u == 1) l) then (rFormat, s)
  else match unwrap s l with
  | none => (rUnwrap, bump rUnwrapFail 1 s)
  | some key => placeKey l key s

/-- KEY_DELETE: the slot that TABLE and SLOT name is set to zero and freed. -/
def keyDeleteOn (_b : MBuf) (s : State) : Nat × State :=
  let k := rdF s rMboxCtl 6 8
  if bitOf (rd s rMboxCtl) 5 then
    if (okey s k).valid then (rOk, updSec (fun c => { c with okeys := sset (fun _ => {}) k {} c.okeys }) s) else (rSlot, s)
  else if (wkey s k).valid then (rOk, updSec (fun c => { c with wkeys := sset (fun _ => {}) k {} c.wkeys }) s)
  else (rSlot, s)

/-! ## Trust list and ownership (R468, R469) -/

/-- TRUST_WRITE. -/
def trustWriteOn (ecc : EccMap) (b : MBuf) (s : State) : Nat × State :=
  let s := bufReach ecc b b.len s
  let n := leNat (bufRead s b 4)
  if b.len < 4 || 8192 < n || b.len < 4 + 48 * n then (rFormat, s)
  else
    let l := bufRead s b (4 + 48 * n)
    (rOk, updSec (fun c => { c with trust := (List.range n).map fun i => slice (4 + 48 * i) 48 l }) s)

/-- OWNER_SET: on an owned part only for CONFIG on queue pair 0; in effect at the next power-on. -/
def ownerSetOn (rq : Requester) (ecc : EccMap) (b : MBuf) (s : State) : Nat × State :=
  let s := bufReach ecc b 172 s
  let l := bufRead s b 172
  if s.sec.owned && rq != .config 0 then (rState, s)
  else if b.len < 172 || !(wrappedOk (fun u => u == 2) l) then (rFormat, s)
  else match unwrap s l with
  | none => (rUnwrap, bump rUnwrapFail 1 s)
  | some key => (rOk, updSec (fun c => { c with nextSeed := some key }) s)

/-- OWNER_CLEAR: in effect at the next power-on. -/
def ownerClearOn (_b : MBuf) (s : State) : Nat × State :=
  (rOk, updSec (fun c => { c with nextClear := true, nextSeed := none }) s)

/-! ## The firmware image (R454, R456) -/

/-- What verification of an image gives: its version, security version and SHA-384. -/
structure FwImage where
  version : Nat
  svn : Nat
  digest : List Byte

/-- The checks of stages 3 to 5 on an image that `rdr` reads by offset and length, or the stage that fails. The place of each
header field is not given: Config.fwHeader names them (log entry 31). -/
def verifyImage (svnMin : Nat) (rdr : Nat → Nat → List Byte) : Except Nat FwImage :=
  let h := fun i => (Config.fwHeader (rdr 0 4096)).getD i 0
  let key := (h 5, h 6)
  let fused := (List.range 4).any fun k => Config.fwKeyDigest k == sha384 (pubBytes key) && !(Config.fwKeyRevoked k)
  if !fused || !(ecVerify key (sha384 (rdr 0 (h 0))) (h 7, h 8)) then .error 3
  else
    let d := sha384 (rdr (h 0) (h 1))
    if 2 ^ 24 < h 0 + h 1 || beNat d != h 4 then .error 4
    else if h 3 % 2 ^ 16 < svnMin then .error 5
    else .ok { version := h 2 % 2 ^ 32, svn := h 3 % 2 ^ 16, digest := d }

/-- FW_UPDATE: an image that passes is written to flash. -/
def fwUpdateOn (ecc : EccMap) (b : MBuf) (s : State) : Nat × State :=
  let s := bufReach ecc b b.len s
  let l := bufRead s b b.len
  match verifyImage s.sec.svnMin fun off n => slice off n l with
  | .error _ => (rVerify, s)
  | .ok _ => (rOk, setBit rSecStatus 3 (flashWrite 0 l s))

/-- SVN_COMMIT: the fused minimum rises to the running image's security version, while a raise is left. -/
def svnCommitOn (_b : MBuf) (s : State) : Nat × State :=
  let run := rdF s rSecSvn 0 16
  if run ≤ s.sec.svnMin then (rOk, s)
  else if 64 ≤ s.sec.svnRaises then (rState, s)
  else (rOk, wrF rSecSvn 16 16 run (updSec (fun c => { c with svnMin := run, svnRaises := c.svnRaises + 1 }) s))

def report (rq : Requester) (v : Word) (ecc : EccMap) (s : State) : State := mailbox 1 rq v (reportOn ecc) s
def cert (rq : Requester) (v : Word) (ecc : EccMap) (s : State) : State := mailbox 2 rq v (certOn ecc) s
def keyInstall (rq : Requester) (v : Word) (ecc : EccMap) (s : State) : State := mailbox 3 rq v (keyInstallOn ecc) s
def keyDelete (rq : Requester) (v : Word) (s : State) : State := mailbox 4 rq v keyDeleteOn s
def trustWrite (rq : Requester) (v : Word) (ecc : EccMap) (s : State) : State := mailbox 5 rq v (trustWriteOn ecc) s
def ownerSet (rq : Requester) (v : Word) (ecc : EccMap) (s : State) : State := mailbox 6 rq v (ownerSetOn rq ecc) s
def ownerClear (rq : Requester) (v : Word) (s : State) : State := mailbox 7 rq v ownerClearOn s
def fwUpdate (rq : Requester) (v : Word) (ecc : EccMap) (s : State) : State := mailbox 8 rq v (fwUpdateOn ecc) s
def svnCommit (rq : Requester) (v : Word) (s : State) : State := mailbox 9 rq v svnCommitOn s

def execReport (rq : Requester) (v : Word) (s : State) (ecc : EccMap := []) : Host.Outcome State Fault Refusal :=
  .next (report rq v ecc s)
def execCert (rq : Requester) (v : Word) (s : State) (ecc : EccMap := []) : Host.Outcome State Fault Refusal :=
  .next (cert rq v ecc s)
def execKeyInstall (rq : Requester) (v : Word) (s : State) (ecc : EccMap := []) : Host.Outcome State Fault Refusal :=
  .next (keyInstall rq v ecc s)
def execKeyDelete (rq : Requester) (v : Word) (s : State) : Host.Outcome State Fault Refusal := .next (keyDelete rq v s)
def execTrustWrite (rq : Requester) (v : Word) (s : State) (ecc : EccMap := []) : Host.Outcome State Fault Refusal :=
  .next (trustWrite rq v ecc s)
def execOwnerSet (rq : Requester) (v : Word) (s : State) (ecc : EccMap := []) : Host.Outcome State Fault Refusal :=
  .next (ownerSet rq v ecc s)
def execOwnerClear (rq : Requester) (v : Word) (s : State) : Host.Outcome State Fault Refusal := .next (ownerClear rq v s)
def execFwUpdate (rq : Requester) (v : Word) (s : State) (ecc : EccMap := []) : Host.Outcome State Fault Refusal :=
  .next (fwUpdate rq v ecc s)
def execSvnCommit (rq : Requester) (v : Word) (s : State) : Host.Outcome State Fault Refusal := .next (svnCommit rq v s)

end Sys2Proof.Machine
end

