-- ==== Sys2Proof/Machine/Module.lean ====
section
/-! DEFINITION. The module (ch. 16) and the boot chain (ch. 15): supply, start and stop, reset, sensors and cooling protection, the
flash programming interface, JTAG. -/

namespace Sys2Proof.Machine

/-- Changes pins and standby controller. -/
def updMod (f : Module → Module) (s : State) : State := { s with modul := f s.modul }

/-- PWR_OK is high: the rails are up. -/
def pwrOk (s : State) : Bool := s.modul.life != .off

/-- VIN within operating limits; within ride-through limits (R473). -/
def vinGood (mv : Nat) : Bool := decide (68400 ≤ mv) && decide (mv ≤ 75600)
def vinRide (mv : Nat) : Bool := decide (60000 ≤ mv) && decide (mv ≤ 80000)

/-- STAT as the status pins show it (R481). -/
def statOf (s : State) : Nat :=
  match s.modul.life with
  | .off => if s.modul.protOff then 7 else 0
  | .starting => if fclState s = 3 then 5 else 1
  | .booted => if fclState s = 3 then 5 else 1
  | .ready => fclState s + 2
  | .bootFailed => 6
  | .inReset => 1

/-- READY is high (R481). -/
def readyPin (s : State) : Bool := statOf s == 2

/-! ## Rails and reset (R475–R480) -/

/-- What stays through a power cycle or a module reset: module flash and what Weast keeps there, fuses, the standby controller,
and what has already left the part. Everything else is at its reset value. -/
def coldReset (s : State) : State :=
  { State.reset with
    pending := s.pending, now := s.now, out := s.out, fresh := s.fresh, flash := s.flash, coreRecord := s.coreRecord
    csr := s.csr.filter fun e => e.1 == rMaskFused
    time := { offset := -(s.now : Int) }
    stackSt := (s.stackSt.map fun x => (x.1, ({ remaps := x.2.remaps, spared := x.2.spared } : StackSt))).filter
      fun x => x.2 != {}
    recov := { ringAt := s.recov.ringAt, fatalLast := s.recov.fatalLast }
    sec := { trust := s.sec.trust, owned := s.sec.owned, seed := s.sec.seed, nextSeed := s.sec.nextSeed
             nextClear := s.sec.nextClear, svnMin := s.sec.svnMin, svnRaises := s.sec.svnRaises, bootCnt := s.sec.bootCnt
             bootStage := s.sec.bootStage }
    modul := { s.modul with testMode := false, energyRem := 0 } }

/-- The rails come up: PWR_OK rises and the part leaves reset (R476). -/
def railsUp (s : State) : State :=
  updMod (fun m => { m with
    life := .starting, pwrEn := true, fpSel := false, prsnt := true, resetN := true, needRise := false, protOff := false
    vinBadAt := none, coolAt := none, leakAt := none, jtag := 1 }) (coldReset s)

/-- The rails go off: PWR_OK falls. The status block of R492 holds what stood then. -/
def railsDown (f : Module → Module) (s : State) : State :=
  updMod (fun m => f { m with
    life := .off, offAt := some s.now, lastStat := statOf s, lastSec := rd s rSecStatus, lastBoot := rd s rSecBootCnt }) (coldReset s)

/-- PWR_OK has been low for 100 ms at least (R480). -/
def lowLongEnough (s : State) : Bool :=
  match s.modul.offAt with
  | none => true
  | some t => decide (t + 100000000 ≤ s.now)

/-- POWER_ON: with VIN within its limits, PWR_EN high, FP_SEL low and PRSNT_N mated, the module starts. A new rise of PWR_EN
needs PWR_OK low for 100 ms; after a cooling shutdown it also needs every quantity within its operating range (R476, R480,
R488). After the rails went off for protection, PWR_EN must have been low. -/
def powerOn (s : State) : State :=
  if pwrOk s || (s.modul.protOff && s.modul.pwrEn) || !(vinGood s.modul.vinMv) || !(lowLongEnough s) || (s.modul.needRise && !s.modul.coolOk) then s else railsUp s

/-- POWER_DOWN: a fall of PWR_EN. Requests in flight complete with PART_FAULT and the rails go off, with no fault record
(R478). -/
def powerDown (s : State) : State :=
  if !(pwrOk s) then updMod (fun m => { m with pwrEn := false }) s
  else railsDown (fun m => { m with pwrEn := false, protOff := false }) (if powered s && fclState s != 3 then failAll 3 s else s)

/-- The part is held in reset with its rails up (R479). -/
def holdReset (s : State) : State := updMod (fun m => { m with life := .inReset }) (coldReset s)

/-- The part starts from reset as from a rise of PWR_OK. -/
def leaveReset (s : State) : State := updMod (fun m => { m with life := .starting }) (coldReset s)

/-- RESET_ASSERT: a low of 10 µs or more on RESET_N. -/
def resetAssert (s : State) : State := if pwrOk s then updMod (fun m => { m with resetN := false }) (holdReset s) else s

/-- RESET_RELEASE: the rise of RESET_N; EXTEST still holds the part. -/
def resetRelease (s : State) : State :=
  if !(pwrOk s) || s.modul.resetN then s
  else
    let s := updMod (fun m => { m with resetN := true }) s
    if s.modul.jtag = 3 then s else leaveReset s

/-! ## Boot (R454, R455, R466) -/

/-- The owner's seed and trust list as this power-on has them (R468). -/
def takeOwner (c : Sec) : Sec :=
  let c := if c.nextClear then { c with owned := false, seed := [], trust := [], nextClear := false } else c
  match c.nextSeed with
  | some k => { c with owned := true, seed := k, nextSeed := none }
  | none => c

/-- The queue pair 0 key (R466). -/
def qp0Key (c : Sec) : Nat :=
  let seed := if c.owned then c.seed else List.replicate 32 0
  beNat (hkdf (leBytes 4 c.bootCnt) seed [0x6F, 0x68, 0x74, 0x2D, 0x71, 0x70, 0x30] 32)

/-- Stages 1 and 2: TEST_EN is sampled, the boot is counted. -/
def bootCount (s : State) : State :=
  let n := min (s.sec.bootCnt + 1) 0xFFFFFFFF
  let s := updMod (fun m => { m with testMode := m.testEn }) (updSec (fun c => { takeOwner c with bootCnt := n }) s)
  let b := fun (x : Bool) (k : Nat) => if x then 2 ^ k else 0
  flashWrite 0x01020000 (leBytes 4 n)
    (wr rSecBootCnt (Word.ofNat n) (wr rSecStatus (Word.ofNat (b s.sec.owned 0 + b s.modul.testMode 1))
      (wrF rFclStatus 4 1 (b s.modul.testMode 0) s)))

/-- The remap table is applied (R230). -/
def applyRemaps (s : State) : State :=
  iter 24 (fun n s => wr (stkReg n 0x34) (Word.ofNat ((stk s n).remaps.length % 2 ^ 16 + (stk s n).spared.getD 0x3FF * 2 ^ 16)) s) s

/-- FAB_SELF as Weast keeps it in module flash; nothing when it was never written (R308). -/
def loadSelf (s : State) : State :=
  let l := flashRead s 0x011D0000 4
  if l.all fun b => b == 0xFF then s else wr rSelf (Word.ofNat (leNat l &&& 0x8003FFFF)) s

/-- The MAC address of module flash (R491). -/
def loadMac (s : State) : State :=
  let m := Config.moduleMac ((List.range 65536).map fun i => Config.factoryByte (0x01010000 + i))
  wr 0x500010 (Word.ofNat (m / 2 ^ 32 % 2 ^ 16)) (wr 0x50000C (Word.ofNat m) s)

/-- The field core record gives the live mask (R500). -/
def loadMask (s : State) : State :=
  let gone := rdF s rMaskFused 0 12 ||| s.coreRecord % 2 ^ 12
  wr rMaskLive (Word.ofNat (0xFFF - gone)) s

/-- FATAL_LAST, and the flash records in the log (R429). -/
def loadRecords (s : State) : State :=
  let s := ringCopy s
  if s.recov.fatalLast then updRecov (fun r => { r with fatalLast := false }) (setBit rService 5 s) else s

/-- Stage 6: Weast starts from the verified image, draws the wrap key and derives the queue pair 0 key. -/
def startWeast (i : FwImage) (s : State) : State :=
  let (k, s) := randomBits 384 s
  let s := updSec (fun c => { c with
    mfw := i.digest, fwVersion := i.version, bootStage := 0, wrapPriv := k % (ecN - 1) + 1, wkeys := []
    okeys := [(0, { key := qp0Key c, id := Word.ofNat c.bootCnt, tenant := 0, valid := true })] }) s
  let s := wr rSecSvn (Word.ofNat (i.svn + s.sec.svnMin * 2 ^ 16)) s
  updMod (fun m => { m with life := .booted }) (trainSeams (loadRecords (loadMac (loadSelf (applyRemaps (loadMask s))))))

/-- BOOT. A check that fails leaves Weast unstarted. -/
def boot (s : State) : State :=
  if s.modul.life != .starting then s
  else
    let s := bootCount s
    match verifyImage s.sec.svnMin (flashRead s) with
    | .error stage =>
      setBit rSecStatus 2 (updMod (fun m => { m with life := .bootFailed }) (updSec (fun c => { c with bootStage := stage }) s))
    | .ok i => startWeast i s

/-- READY: start-up is done (R477); a fatal record during start-up keeps READY low (R480). -/
def ready (s : State) : State :=
  if s.modul.life == .booted && fclState s != 3 then updMod (fun m => { m with life := .ready }) s else s

/-! ## Supply (R475) -/

/-- VIN_FAULT: VIN has been at a value outside its operating limits for a time in µs. -/
def vinFault (mv us : Nat) (s : State) : State :=
  let bad := (!(vinGood mv) && decide (2000 < us)) || (!(vinRide mv) && decide (20 < us))
  let first := s.modul.vinBadAt.isNone
  let s := updMod (fun m => { m with vinMv := mv, vinBadAt := if bad && first then some s.now else m.vinBadAt }) s
  if bad && first && fclOn s then raise (srcOf 6 0 0) 0x30 0 s else s

/-- RAILS_OFF: VIN below 55 V, or not back within operating limits 100 ms after the record. -/
def railsOff (mv : Nat) (s : State) : State :=
  let s := updMod (fun m => { m with vinMv := mv, vinBadAt := if vinGood mv then none else m.vinBadAt }) s
  let late := match s.modul.vinBadAt with
    | none => false
    | some t => decide (t + 100000000 ≤ s.now)
  if pwrOk s && (decide (mv < 55000) || late) then railsDown (fun m => { m with protOff := true, vinBadAt := none }) s else s

/-- VIN_RESTART: VIN has been within its operating limits for 1 s with PWR_EN high. -/
def vinRestart (mv : Nat) (s : State) : State :=
  let s := updMod (fun m => { m with vinMv := mv }) s
  if !(pwrOk s) && vinGood mv && s.modul.pwrEn && s.modul.protOff && !s.modul.needRise && !s.modul.fpSel && s.modul.prsnt then railsUp s else s

/-! ## Sensors and cooling (R487–R490) -/

/-- Largest of a list of temperatures; a sensor that gives none reads the coldest. -/
def hottest (l : List Int) : Int := l.foldl max (-32768)

/-- A warning that holds above (or, for the flow, below) its threshold until its quantity is inside it by a margin. -/
def warnHolds (was past inside : Bool) : Bool := past || (was && !inside)

/-- The five warnings of a sample, in the order of SNS_STATUS. -/
def warnings (s : State) (v : Sample) : List Bool :=
  let w := fun i => bitOf (rd s 0x15000) i
  let th := fun k : Nat => ((rdF s (0x15040 + 4 * k) 0 16 : Nat) : Int)
  let above := fun (i : Nat) (x margin : Int) => warnHolds (w i) (decide (th i < x)) (decide (x ≤ th i - margin))
  [above 0 (hottest v.tcore) 200, above 1 (hottest v.tstack) 200, above 2 v.coolIn 200,
   warnHolds (w 3) (decide ((v.flow : Int) < th 3)) (decide (th 3 + 200 ≤ (v.flow : Int))), above 4 (v.pin10Dw : Int) 500]

/-- A shutdown limit is crossed (R487). -/
def shutdown (v : Sample) : Bool :=
  decide (6500 < v.coolOut) || (decide (v.flow < 2000) && decide (1000 ≤ v.lowFlowMs)) || decide (11500 < hottest v.tcore)
    || decide (10000 < hottest v.tstack) || v.leak

/-- Every quantity that the module senses is within its operating range (R487). -/
def coolInRange (v : Sample) : Bool :=
  decide (1500 ≤ v.coolIn) && decide (v.coolIn ≤ 4000) && decide (v.coolOut ≤ 6000) && decide (3000 ≤ v.flow)
    && decide (v.flow ≤ 6000) && decide (hottest v.tcore ≤ 10500) && decide (hottest v.tstack ≤ 9500) && !v.leak

/-- The sensor registers take a sample (R489, R490). -/
def sampleRegs (v : Sample) (s : State) : State :=
  let ws := warnings s v
  let raised := ((List.range 5).filter fun i => ws.getD i false && !(bitOf (rd s 0x15000) i)).length
  let b := fun (x : Bool) (k : Nat) => if x then 2 ^ k else 0
  let status := ((List.range 5).map fun i => b (ws.getD i false) i).sum + b v.leak 5 + b (!(vinGood v.vinMv)) 6
  let e := s.modul.energyRem + v.pinDw
  let put := fun (a n : Nat) (x : Int) (s : State) => wr a (Word.ofNat (ux n x)) s
  let s := bump 0x1502C raised (wrF 0x15000 0 8 status s)
  let s := put 0x15004 17 v.vinMv (put 0x15008 17 v.iinMa (put 0x1500C 16 v.pinDw (put 0x15010 16 v.pin10Dw s)))
  let s := put 0x15020 16 v.coolIn (put 0x15024 16 v.coolOut (put 0x15028 16 v.flow s))
  let s := wr 0x15014 (Word.ofNat (max (rd s 0x15014).toNat (v.pin10Dw % 2 ^ 16))) s
  let s := wr64 0x15018 (rd64 s 0x15018 + e / 10) (updMod (fun m => { m with energyRem := e % 10 }) s)
  let s := iter 12 (fun n s => put (0x15100 + 4 * n) 16 (v.tcore.getD n 0) s) s
  iter 24 (fun n s => wrF (stkReg n 0) 3 1 (if 8500 < v.tstack.getD n 0 then 1 else 0)
    (put (0x15140 + 4 * n) 16 (v.tstack.getD n 0) s)) s

/-- SENSOR_SAMPLE: one sample of every sensor. -/
def sensorSample (v : Sample) (s : State) : State :=
  let s := updMod (fun m => { m with vinMv := v.vinMv, coolOk := coolInRange v
                                     vinBadAt := if vinGood v.vinMv then none else m.vinBadAt }) s
  if !(pwrOk s) then s
  else
    let s := sampleRegs v s
    let s := if v.leak && s.modul.leakAt.isNone then updMod (fun m => { m with leakAt := some s.now }) s else s
    if shutdown v && s.modul.coolAt.isNone && fclOn s then
      raise (srcOf 6 1 0) 0x31 0 (updMod (fun m => { m with coolAt := some s.now }) s)
    else s

/-- THERMAL_SHUTDOWN: after a cooling record, the rails go off at its first limit. -/
def thermalShutdown (hotSpot : Int) (s : State) : State :=
  match s.modul.coolAt with
  | none => s
  | some t =>
    let wet := match s.modul.leakAt with
      | none => false
      | some l => decide (l + 20000000 ≤ s.now)
    if pwrOk s && (decide (t + 10000000000 ≤ s.now) || decide (12500 ≤ hotSpot) || wet) then
      railsDown (fun m => { m with protOff := true, needRise := true }) s
    else s

/-! ## The flash programming interface (R491, R492) -/

/-- The interface takes a command: FP_SEL high, and PWR_OK low. -/
def flashPort (f : State → State) (s : State) : State :=
  if pwrOk s then s else f (updMod (fun m => { m with fpSel := true, spiOut := [] }) s)

/-- The status block at 0x0400_0000. -/
def statusBlock (s : State) : List Byte :=
  bytesOf [s.modul.lastSec, s.modul.lastBoot, Word.ofNat s.sec.bootStage, Word.ofNat s.modul.lastStat]

/-- One byte as the interface reads it; nothing is said of the bytes past the status block. -/
def flashByte (s : State) (a : Nat) : Byte :=
  if 0x01050000 ≤ a ∧ a < 0x010D0000 then 0xFF
  else if 0x01000000 ≤ a ∧ a < 0x01020000 then Config.factoryByte a
  else if a < 0x04000000 then sget erased a s.flash
  else if a < 0x04000010 then (statusBlock s).getD (a - 0x04000000) 0
  else Config.freeByte (s.fresh + a)

/-- WRITE_ENABLE. -/
def writeEnable (s : State) : State := flashPort (updMod fun m => { m with wel := true }) s

/-- STATUS_READ: write-enable is bit 1; no write is in progress. -/
def statusRead (s : State) : State := flashPort (updMod fun m => { m with spiOut := [if m.wel then 2 else 0] }) s

/-- READ. -/
def spiRead (addr len : Nat) (s : State) : State :=
  flashPort (fun s => updMod (fun m => { m with spiOut := (List.range len).map fun i => flashByte s (addr + i) })
    { s with fresh := if addr + len ≤ 0x04000010 then s.fresh else s.fresh + (addr + len) }) s

/-- A byte is programmed: bits go from 1 to 0 only. -/
def programByte (a : Nat) (b : Byte) (s : State) : State := flashWrite a [sget erased a s.flash &&& b] s

/-- PAGE_PROGRAM: within one page of 256 bytes of the firmware region, with write-enable set. -/
def pageProgram (addr : Nat) (data : List Byte) (s : State) : State :=
  flashPort (fun s =>
    if !s.modul.wel then s
    else
      let s := updMod (fun m => { m with wel := false }) s
      if 0x01000000 ≤ addr then s
      else ((List.range data.length).zip data).foldl (fun s x => programByte (addr / 256 * 256 + (addr + x.1) % 256) x.2 s) s) s

/-- SECTOR_ERASE: a 64 KiB sector of the firmware region, with write-enable set. -/
def sectorErase (addr : Nat) (s : State) : State :=
  flashPort (fun s =>
    if !s.modul.wel then s
    else
      let s := updMod (fun m => { m with wel := false }) s
      if 0x01000000 ≤ addr then s else { s with flash := sdrop (fun k => k / 65536 == addr / 65536) s.flash }) s

/-! ## JTAG (R486) -/

/-- Another instruction replaces the present one: leaving EXTEST starts the part. -/
def jtagSelect (n : Nat) (s : State) : State :=
  let was := s.modul.jtag
  let s := updMod (fun m => { m with jtag := n }) s
  if was = 3 ∧ n ≠ 3 ∧ s.modul.resetN then leaveReset s else s

/-- BYPASS: one bit is shifted through the bypass register. -/
def bypass (tdi : Bool) (s : State) : State :=
  if !(pwrOk s) then s
  else jtagSelect 0 (updMod (fun m => { m with tdo := if m.jtag = 0 ∧ m.bypass then 1 else 0, bypass := tdi }) s)

/-- IDCODE. -/
def idcode (s : State) : State := if !(pwrOk s) then s else jtagSelect 1 (updMod (fun m => { m with tdo := 0x024120A3 }) s)

/-- The sideband pins of J1 in the order of its positions (log entry 40): PWR_EN, PWR_OK, RESET_N, READY, STAT, TEST_EN, FP_SEL,
then the four SPI pins, whose levels are open, THERM_N and LEAK_N. -/
def sidebandPins (s : State) : Nat :=
  let b := fun (x : Bool) (k : Nat) => if x then 2 ^ k else 0
  b s.modul.pwrEn 0 + b (pwrOk s) 1 + b s.modul.resetN 2 + b (readyPin s) 3 + statOf s * 2 ^ 4 + b s.modul.testEn 7
    + b s.modul.fpSel 8 + (Config.freeByte s.fresh).toNat % 16 * 2 ^ 9 + b (rdF s 0x15000 0 5 == 0) 13
    + b (!(bitOf (rd s 0x15000) 5)) 14

/-- SAMPLE_PRELOAD: samples the boundary, or loads it. -/
def samplePreload (p : Option Nat) (s : State) : State :=
  if !(pwrOk s) then s
  else match p with
  | some v => jtagSelect 2 (updMod (fun m => { m with boundary := v % 2 ^ 15 }) s)
  | none => jtagSelect 2 (drawn (updMod (fun m => { m with tdo := sidebandPins s }) s))

/-- EXTEST: entering it holds the part in reset; leaving it starts the part. -/
def extest (enter : Bool) (s : State) : State :=
  if !(pwrOk s) then s
  else if enter then updMod (fun m => { m with jtag := 3 }) (holdReset s)
  else if s.modul.jtag = 3 then jtagSelect 1 s else s

def execPowerOn (s : State) : Host.Outcome State Fault Refusal := .next (powerOn s)
def execBoot (s : State) : Host.Outcome State Fault Refusal := .next (boot s)
def execReady (s : State) : Host.Outcome State Fault Refusal := .next (ready s)
def execPowerDown (s : State) : Host.Outcome State Fault Refusal := .next (powerDown s)
def execResetAssert (s : State) : Host.Outcome State Fault Refusal := .next (resetAssert s)
def execResetRelease (s : State) : Host.Outcome State Fault Refusal := .next (resetRelease s)
def execVinFault (mv us : Nat) (s : State) : Host.Outcome State Fault Refusal := .next (vinFault mv us s)
def execRailsOff (mv : Nat) (s : State) : Host.Outcome State Fault Refusal := .next (railsOff mv s)
def execVinRestart (mv : Nat) (s : State) : Host.Outcome State Fault Refusal := .next (vinRestart mv s)
def execSensorSample (v : Sample) (s : State) : Host.Outcome State Fault Refusal := .next (sensorSample v s)
def execThermalShutdown (t : Int) (s : State) : Host.Outcome State Fault Refusal := .next (thermalShutdown t s)
def execWriteEnable (s : State) : Host.Outcome State Fault Refusal := .next (writeEnable s)
def execStatusRead (s : State) : Host.Outcome State Fault Refusal := .next (statusRead s)
def execRead (a n : Nat) (s : State) : Host.Outcome State Fault Refusal := .next (spiRead a n s)
def execPageProgram (a : Nat) (l : List Byte) (s : State) : Host.Outcome State Fault Refusal := .next (pageProgram a l s)
def execSectorErase (a : Nat) (s : State) : Host.Outcome State Fault Refusal := .next (sectorErase a s)
def execBypass (b : Bool) (s : State) : Host.Outcome State Fault Refusal := .next (bypass b s)
def execIdcode (s : State) : Host.Outcome State Fault Refusal := .next (idcode s)
def execSamplePreload (p : Option Nat) (s : State) : Host.Outcome State Fault Refusal := .next (samplePreload p s)
def execExtest (e : Bool) (s : State) : Host.Outcome State Fault Refusal := .next (extest e s)

end Sys2Proof.Machine
end

