-- ==== Sys2Proof/Machine/Stack.lean ====
section
/-! DEFINITION. The stacks: port windows, refresh and scrub, self-refresh, the row-error table, and repair (R215–R230). -/

namespace Sys2Proof.Machine

/-- A bank copy is running. -/
def copyRuns (st : StackSt) : Bool := st.copying.isSome && st.copyLeft != 0

/-- The bank copy takes 8 units in a window; after the last, SPARING and GO return to 0 (R228). -/
def copyWindow (n : Nat) (s : State) : State :=
  let st := stk s n
  if !(copyRuns st) then s
  else
    let s := setStk n { st with copyLeft := st.copyLeft - 8 } s
    if st.copyLeft ≤ 8 then wrF (stkReg n 0x30) 31 1 0 (wrF (stkReg n 0) 1 1 0 s) else s

/-- STACK_PORT_WINDOW: dv vertical units and dl Loess units have become ready; the port divides its grants (R215, R228). In
`meets` stack cycles of the window a read and a write of one unit are granted together (R222); no more than were granted. -/
def stackPortWindow (n dv dl meets : Nat) (s : State) : State :=
  if !(powered s) then s
  else
    let st := stk s n
    let cap := if copyRuns st then 242 else 250
    let v := st.carryV + dv
    let l := st.carryL + dl
    let gv := min v (min 125 (max (fld (cfg s (stkReg n 8)) 0 7) (cap - l)))
    let gl := min l (cap - gv)
    copyWindow n (bump (stkReg n 0x20) (min meets gv) (bump (stkReg n 0x2C) gl (bump (stkReg n 0x28) gv
      (setStk n { st with carryV := v - gv, carryL := l - gl } s))))

/-- Mere address of unit u of a bank, in address order. -/
def bankUnit (n bank u : Nat) : Nat := n * 2 ^ 37 + u / 8 % 2 ^ 17 * 2 ^ 20 + u % 8 * 2 ^ 17 + bank * 2 ^ 8

/-- BANK_REFRESH: a refresh of a bank, which delays accesses for some ticks each, 400 at most, and with scrub on reads the bank's
next unit (R218–R220, R226). -/
def bankRefresh (n bank : Nat) (delays : List Nat) (ecc : UnitErr) (s : State) : State :=
  if !(powered s) then s
  else
    let s := bump (stkReg n 0x1C) ((delays.map fun d => min d 400).sum) (bump (stkReg n 0x18) delays.length s)
    if bitOf (cfg s (stkReg n 4)) 1 then
      let u := sget (fun _ => 0) bank (stk s n).scrubAt
      let s := setStk n { stk s n with scrubAt := sset (fun _ => 0) bank ((u + 1) % 2 ^ 20) (stk s n).scrubAt } s
      eccNote (eccOf ecc) (bankUnit n bank u) s
    else s

/-- ROWERR_TABLE_CLEAR (R225). -/
def rowerrTableClear (s : State) : State := iter 24 (fun n s => setStk n { stk s n with rowErr := [] } s) s

/-- SELFREF_ENTER: only between steps (R221). -/
def selfrefEnter (n : Nat) (s : State) : State := if s.ssq.run || !(powered s) then s else wrF (stkReg n 4) 0 1 1 s

/-- STACK_WAKE (R221). -/
def stackWake (n : Nat) (s : State) : State := if powered s then wakeStack n s else s

/-- Entries of the remap table in module flash: one for each row remapped and each bank spared. -/
def remapEntries (s : State) : Nat := (s.stackSt.map fun x => x.2.remaps.length + if x.2.spared.isSome then 1 else 0).sum

/-- Weast writes a remap into the table in module flash, after the entries before it: stack, bank and row, and in bit 31 whether it
is a whole bank (R227, R228, R491; log entry 81). -/
def flashRemap (n bank row mode : Nat) (s : State) : State :=
  let i := 4 * remapEntries s
  if i < 2 ^ 20 then flashWrite (0x010D0000 + i) (leBytes 4 (n + bank * 2 ^ 5 + row * 2 ^ 14 + mode * 2 ^ 31)) s else s

/-- Access units of a bank row. -/
def rowUnits (n bank row : Nat) : List Nat := (List.range 8).map fun i => bankUnit n bank (8 * row + i) / 256

/-- Units that were uncorrectable stay undefined in the copy of a row (R227). -/
def copyRow (ecc : EccMap) (us : List Nat) (s : State) : State :=
  us.foldl (fun s u =>
    if unitEcc ecc u = .uncorrectable then let f := freeBytes 256 s; mereWrite (u * 256) f.1 f.2 else s) (noteUnits ecc us s)

/-- REMAP_ROW: only between steps, while the bank has a spare row left (R227). -/
def remapRow (n bank row : Nat) (ecc : EccMap) (s : State) : State :=
  if s.ssq.run || !(powered s) || decide (64 ≤ sparesUsed (stk s n) bank) then s
  else
    let s := flashRemap n bank row 0 (copyRow ecc (rowUnits n bank row) (wakeStack n s))
    let st := stk s n
    let s := setStk n { st with remaps := st.remaps ++ [(bank, row)] } s
    checkBank n bank st
      (wr (stkReg n 0x30) (Word.ofNat (rowDetail bank row)) (wrF (stkReg n 0x34) 0 16 (st.remaps.length + 1) s))

/-- Banks that a stack's repairs and errors name. -/
def namedBanks (st : StackSt) : List Nat := (st.remaps.map Prod.fst ++ st.ueRows.map Prod.fst).eraseDups

/-- SPARE_BANK: the copy into the spare bank starts, unless the spare bank is in use; other banks that qualify then have none left
(R228, R229). -/
def spareBank (n bank : Nat) (s : State) : State :=
  let st := stk s n
  if !(powered s) || st.spared.isSome || st.copying.isSome then s
  else
    let s := wr (stkReg n 0x30) (Word.ofNat (bank + 2 ^ 26 + 2 ^ 31))
      (setBit (stkReg n 0) 1 (setStk n { st with copying := some bank, copyLeft := 2 ^ 20 } (wakeStack n s)))
    ((namedBanks st).filter fun b => b != bank && qualifies st b).foldl (fun s _ => degrade n s) s

/-- BANK_CHANGEOVER: at a step boundary after the copy's end, the spare serves the bank, and the table in flash says so (R228). -/
def bankChangeover (n : Nat) (s : State) : State :=
  match (stk s n).copying with
  | none => s
  | some b =>
    if s.ssq.run || !(powered s) || (stk s n).copyLeft != 0 then s
    else
      let s := flashRemap n b 0 1 s
      let st := stk s n
      wrF (stkReg n 0x34) 16 10 b
        (setStk n { st with copying := none, spared := some b, ueRows := st.ueRows.filter fun p => p.1 != b } s)

def execStackPortWindow (n : StackId) (dv dl : Nat) (s : State) (m : Nat := 0) : Host.Outcome State Fault Refusal :=
  .next (stackPortWindow n.val dv dl m s)
def execBankRefresh (n : StackId) (b : Fin 512) (t : List Nat) (ecc : UnitErr) (s : State) : Host.Outcome State Fault Refusal :=
  .next (bankRefresh n.val b.val t ecc s)
def execRowerrTableClear (s : State) : Host.Outcome State Fault Refusal := .next (rowerrTableClear s)
def execSelfrefEnter (n : StackId) (s : State) : Host.Outcome State Fault Refusal := .next (selfrefEnter n.val s)
def execStackWake (n : StackId) (s : State) : Host.Outcome State Fault Refusal := .next (stackWake n.val s)
def execRemapRow (n : StackId) (b : Fin 512) (r : Nat) (s : State) (m : EccMap := []) : Host.Outcome State Fault Refusal :=
  .next (remapRow n.val b.val r m s)
def execSpareBank (n : StackId) (b : Fin 512) (s : State) : Host.Outcome State Fault Refusal := .next (spareBank n.val b.val s)
def execBankChangeover (n : StackId) (s : State) : Host.Outcome State Fault Refusal := .next (bankChangeover n.val s)

end Sys2Proof.Machine
end

