-- ==== Sys2Proof/Machine/Control.lean ====
section
/-! DEFINITION. The control space (ch. 17): what each register reads, what each write does, who may make an access, and CONFIG
messages. -/

namespace Sys2Proof.Machine

/-- A word from named bits. -/
def bitSum (l : List (Bool × Nat)) : Nat := (l.map fun x => if x.1 then 2 ^ x.2 else 0).sum

/-! ## What registers read -/

/-- Identity region (R499, table of identity registers); what is not a fuse reads as the register map has it. -/
def idValue (s : State) (a : Nat) : Word :=
  if a = 0x4 then Word.ofNat (0x2400 + gradeOf s / 10 * 16 + gradeOf s % 10 + Config.stepping % 256 * 2 ^ 16)
  else if a = 0x8 then idWord s 0
  else if a = 0xC then idWord s 1
  else if 0x20 ≤ a ∧ a ≤ 0x40 then idWord s (4 + (a - 0x20) / 4)
  else if 0x80 ≤ a ∧ a < 0x140 then idWord s (16 + (a - 0x80) / 4)
  else if 0x400 ≤ a ∧ a < 0x500 then idWord s ((a - 0x400) / 4)
  else rd s a

/-- Time, power and sensors. -/
def clockValue (s : State) (a : Nat) : Word :=
  if a = 0x12014 then tblRead s
  else if a = rDetStatus then setFld (rd s a) 1 1 (if settled s then 1 else 0)
  else if a = 0x13004 then Word.ofNat s.pgv.held
  else if a = 0x13008 then s.pgv.taken
  else if a = 0x1300C then s.pgv.returned
  else if a = 0x15000 then setFld (rd s a) 8 3 (statOf s)
  else rd s a

/-- The sequencer (tables of SSQ registers). -/
def ssqValue (s : State) (a : Nat) : Word :=
  let q := s.ssq
  if a = 0x18004 then Word.ofNat (bitSum [(q.run, 0), (bitOf (rd s a) 1, 1)])
  else if a = 0x18008 then
    Word.ofNat (bitSum [(q.run, 0), (q.halt, 1), (q.freeze, 2), (q.deadlock, 3), (q.stepDone, 4)] + q.result * 2 ^ 5 + q.task * 2 ^ 8)
  else if 0x18100 ≤ a ∧ a < 0x18180 then
    let e := q.skips.getD ((a - 0x18100) / 8) (0, 0)
    if a % 8 = 0 then e.1 else e.2
  else if q.run ∧ a = rCompat + 4 * q.task then setFld (rd s a) 0 1 (if q.oa then 1 else 0)
  else rd s a

/-- A key slot's summary word. -/
def keyWord (k : Key) (i : Nat) : Word := if i = 0 then k.id else Word.ofNat (k.tenant + if k.valid then 2 ^ 31 else 0)

/-- Fault and security regions. -/
def faultValue (s : State) (a : Nat) : Word :=
  if a = rFclStatus then setFld (rd s a) 5 1 (if quietRuns s then 1 else 0)
  else if 0x31000 ≤ a ∧ a < 0x31800 then keyWord (wkey s ((a - 0x31000) / 8)) (a / 4 % 2)
  else if 0x32000 ≤ a ∧ a < 0x32800 then keyWord (okey s ((a - 0x32000) / 8)) (a / 4 % 2)
  else rd s a

/-- A unit's queue register: commands not started, the head blocked on its wait, a command running (R52). -/
def queueValue (s : State) (c u : Nat) : Word :=
  let x := unitOf s (unitKey c u)
  let blocked := x.queue.head?.any fun q => !(waitOk s c q)
  Word.ofNat (x.queue.length + bitSum [(blocked, 16), (x.running.any fun r => !r.ended, 17)])

/-- Rows of an array enter: the pass whose turn it is may go on, or the zeros of an MXA.ZACC (R115, R128, R135). -/
def rowsEnter (s : State) (k : Nat) : Bool :=
  match rowRun s k with
  | some r => if r.q.cmd.opcode = 0x20 then passReady s r else iterReady s r
  | none => false

/-- An array's status. A fill, a row and its write are each within one command, so that none is seen in progress. -/
def arrayValue (s : State) (c a : Nat) : Word :=
  let x := arr s c a
  let rows := rowsEnter s (unitKey c a)
  Word.ofNat (bitSum [(x.shadow.isSome, 1), (rows, 2), (!x.staged.isEmpty, 4)] + x.active.cls * 2 ^ 5
    + x.active.n * 2 ^ 8 + x.active.k * 2 ^ 17)

/-- Channels of an engine whose command, which keeps its channel until it retires (R196), passes a test. -/
def chanBits (s : State) (k : Nat) (p : Run → Bool) : Nat :=
  bitSum ((List.range 8).map fun ch => ((unitOf s k).running.any fun r => r.chan == ch && p r, ch))

/-- Two bits of a segment's power state (R213). -/
def pstate (s : State) (c g : Nat) : Nat :=
  if rdF s rTarnSize 22 6 ≤ g then 2 else if (segOf s c g).changing || (segOf s c g).waking then 3 else (segOf s c g).st

/-- A command that occupies the VXE's pipes (R141). -/
def pipeUnit (q : QCmd) : Bool := [0x20, 0x30, 0x40, 0x50].contains q.cmd.opcode

/-- A core's register, by offset. A command's blocks are in flight while its iterations can go on. -/
def coreValue (s : State) (c off : Nat) : Word :=
  let vxe := (unitOf s (unitKey c 4))
  let rdu := (unitOf s (unitKey c 5)).running.filter fun r => r.q.cmd.opcode == 0x10 && r.skipped == 0 && !r.ended
  let lane := vxe.running.find? fun r => r.q.cmd.opcode == 0x20 && r.skipped == 0 && !r.ended
  let pipes := vxe.running.filter fun r => pipeUnit r.q && r.skipped == 0 && !r.ended && (iterReady s r && !(tapWaits s c))
  if 0x8000 ≤ off ∧ off < 0xA000 then
    let k := (off - 0x8000) / 4
    Word.ofNat (flag s c (2 * k) + flag s c (2 * k + 1) * 2 ^ 16)
  else if 0xA000 ≤ off ∧ off < 0xA028 then queueValue s c ((off - 0xA000) / 4)
  else if 0xB000 ≤ off ∧ off < 0xB100 ∧ off % 0x40 = 0 then arrayValue s c ((off - 0xB000) / 0x40)
  else if 0xB000 ≤ off ∧ off < 0xB100 ∧ off % 0x40 = 4 then Word.ofNat (spareOf (4 * c + (off - 0xB000) / 0x40))
  else if off = 0xB100 then Word.ofNat (bitSum [(!pipes.isEmpty, 0), (pipes.any fun r => !(bitOf r.q.cmd.w4 14), 1), (tapWaits s c, 2)] + ((lane.map fun r => laneSlot r.q).getD 0) * 2 ^ 3)
  else if off = 0xB140 then Word.ofNat (bitSum [(!rdu.isEmpty, 0), (rdu.any fun r => redTap r.q, 1)])
  else if off = 0xB160 then Word.ofNat (bitSum ((List.range 8).map fun p => (pipeOf s c p != {}, p)))
  else if off = 0xC010 then Word.ofNat ((List.range 16).foldl (fun a g => a + pstate s c g * 4 ^ g) 0)
  else if off = 0xC014 then Word.ofNat ((List.range 8).foldl (fun a g => a + pstate s c (16 + g) * 4 ^ g) 0)
  else if off = 0xC020 then
    Word.ofNat (chanBits s (unitKey c 7) (fun _ => true) + (outstOf s c 0).length * 2 ^ 8
      + chanBits s (unitKey c 7) (waitsRelease s) * 2 ^ 18)
  else if off = 0xC040 then Word.ofNat (chanBits s (unitKey c 8) (fun _ => true) + (outstOf s c 1).length * 2 ^ 8)
  else if 0xC100 ≤ off ∧ off < 0xC180 then Word.ofNat (segOf s c ((off - 0xC100) / 4)).owc
  else if off = 0xD000 then clkStatus s c
  else rd s (coreReg c off)

/-- A stack's register, by offset. -/
def stackValue (s : State) (n off : Nat) : Word :=
  if off = 0 then setFld (rd s (stkReg n 0)) 0 1 (rdF s (stkReg n 4) 0 1)
  else if off = 4 then setFld (rd s (stkReg n 4)) 1 1 (fld (cfg s (stkReg n 4)) 1 1)
  else if off = 0x38 then Word.ofNat (bitSum [(!(stk s n).subs.isEmpty, 0)] + (stk s n).subs.length * 2)
  else if 0x100 ≤ off ∧ off < 0x300 then
    match (stk s n).rowErr[(off - 0x100) / 8]? with
    | none => 0
    | some (bank, row, count) => if off % 8 = 0 then Word.ofNat (bank + row * 2 ^ 9 + 2 ^ 31) else Word.ofNat count
  else rd s (stkReg n off)

/-- A port's register, by offset. -/
def portValue (s : State) (p off : Nat) : Word :=
  let t := port s p
  if off = 0 then Word.ofNat (t.state + bitSum [(t.kp, 3)] + t.lock * 2 ^ 4 + t.cause * 2 ^ 12)
  else if off = 8 then Word.ofNat (t.peerCoord + t.peerPort * 2 ^ 18 + bitSum [(t.peerValid, 31)])
  else if off = 0xC then Word.ofNat (t.heldOff + t.holding * 2 ^ 16)
  else rd s (portReg p off)

/-- Fabric-wide and ring registers. -/
def fabValue (s : State) (a : Nat) : Word :=
  if a = 0x400008 then Word.ofNat (bitSum [(fabHeld s, 0)])
  else if a = rQstat then setFld (rd s a) 0 1 (if fabEmpty s then 1 else 0)
  else if a = 0x402000 then
    let up := bitSum ((List.range 5).map fun b => (laneValid s b && portUp s (laneIn s b) && portUp s (laneOut s b), 2 + b))
    Word.ofNat (bitSum [(s.ore.rev, 0), (s.ore.filling, 1)] + up + if s.ore.rev || s.ore.filling then s.ore.model * 2 ^ 7 else 0)
  else rd s a

/-- A register whose writes during a step take effect at the next step, or at the step boundary of its tenant (R79, R108,
R161, R180, R191, R248, R249, R276, R289, R304, R345, R349, R372, R397, R409). -/
def deferred (a : Nat) : Bool :=
  let o := a % 0x10000
  (decide (0x100000 ≤ a) && decide (a < 0x1C0000) &&
    ((decide (0xA080 ≤ o) && decide (o < 0xA090)) || o == 0xB16C || (decide (0xB400 ≤ o) && decide (o < 0xB600) && o % 8 == 0)
      || (decide (0xB600 ≤ o) && decide (o < 0xB700)) || (decide (0xC400 ≤ o) && decide (o < 0xC600))))
  || (decide (0x200000 ≤ a) && decide (a < 0x260000) && (a % 0x4000 == 8 || a % 0x4000 == 0xC))
  || (decide (0x260000 ≤ a) && decide (a < 0x260200))
  || (decide (0x300000 ≤ a) && decide (a < 0x30C000) && a % 0x1000 == 0x10)
  || [0x11000, 0x12000, 0x12004, 0x12008, 0x13000, 0x400010, 0x400014, 0x402004, 0x40200C].contains a
  || (decide (0x402080 ≤ a) && decide (a < 0x402094))
  || (decide (0x402100 ≤ a) && decide (a < 0x402300) && a % 0x20 != 0x1C) || (decide (0x403000 ≤ a) && decide (a < 0x404000))

/-- What an assigned register holds for a reader; a write that waits for a step is not in it yet (log entry 42). -/
def regValue (s : State) (a : Nat) : Word :=
  if deferred a then cfg s a else
  if a < 0x10000 then idValue s a
  else if a < 0x18000 then clockValue s a
  else if a < 0x20000 then ssqValue s a
  else if a < 0x50000 then faultValue s a
  else if 0x100000 ≤ a ∧ a < 0x1C0000 then coreValue s ((a - 0x100000) / 0x10000) (a % 0x10000)
  else if 0x200000 ≤ a ∧ a < 0x260000 then stackValue s ((a - 0x200000) / 0x4000) (a % 0x4000)
  else if 0x300000 ≤ a ∧ a < 0x30C000 then portValue s ((a - 0x300000) / 0x1000) (a % 0x1000)
  else if 0x400000 ≤ a ∧ a < 0x500000 then fabValue s a
  else if 0x800000 ≤ a ∧ a < 0x810000 ∧ (a % 0x100 < 24 ∨ (64 ≤ a % 0x100 ∧ a % 0x100 < 192)) then
    tenCfg s ((a - 0x800000) / 0x100) (a % 0x100 / 4)
  else if a = 0x1010008 then Word.ofNat (s.sessions.filter fun x => x.2.st != 0).length
  else if a = 0x101000C then Word.ofNat (reqInuse s)
  else rd s a

/-- The 64-bit counter whose low word lies at an address: the pairs that a read of the low word latches (R78, R304, R449,
R490). -/
def wideValue (s : State) (a : Nat) : Option Nat :=
  if a = 0x10000 then some (timeCounter s)
  else if a = 0x15018 then some (rd64 s a)
  else if a = 0x18020 then some s.ssq.issue
  else if a = 0x18028 then some s.ssq.freezeTicks
  else if a = 0x20038 then some (s.recov.downTicks + match s.recov.downSince with
    | some t => s.now - t
    | none => 0)
  else none

/-! ## Who may, and where (R12, R23, R468, R494, R498) -/

/-- The security region. -/
def inSec (a : Nat) : Bool := decide (0x30000 ≤ a) && decide (a < 0x50000)

/-- The block of a core that is fused off, or of one that is not live. -/
def inFused (s : State) (a : Nat) : Bool :=
  decide (0x100000 ≤ a) && decide (a < 0x1C0000) && bitOf (rd s rMaskFused) ((a - 0x100000) / 0x10000)
def inLost (s : State) (a : Nat) : Bool :=
  decide (0x100000 ≤ a) && decide (a < 0x1C0000) && !(live s ((a - 0x100000) / 0x10000))

/-- The address is that of a register. -/
def assigned (s : State) (a : Nat) : Bool := (regRow a).isSome && !(inFused s a)

/-- A requester may read an address. -/
def mayReadAt (s : State) (rq : Requester) (a : Nat) : Bool :=
  match rq with
  | .weast => true
  | .config q => qpTenant s q == 0 && (decide (a < 0x10000) || (if inSec a then q == 0 else s.sec.owned))
  | .spu => false

/-- A requester may write an address. -/
def mayWriteAt (s : State) (rq : Requester) (a : Nat) : Bool :=
  match rq with
  | .weast => true
  | .config q =>
    if inSec a then
      q == 0 && (s.sec.owned || a == rMboxCtl || a == rMboxLen || (decide (rMboxBuf ≤ a) && decide (a < rMboxBuf + 16384)))
    else mayWrite s rq
  | .spu => false

/-- An access to no register is counted (R12, R494). -/
def countUnassigned (s : State) : State := bump 0x1010004 1 s

/-! ## Reading (R11, R497) -/

/-- Key of a requester's latch for the pair whose low word is at an address. -/
def latchKey (rq : Requester) (a : Nat) : Nat :=
  match rq with
  | .weast => a
  | .config q => 2 ^ 41 * (q + 1) + a
  | .spu => 2 ^ 40 + a

/-- A read of a register: its value, what it latches, and the read-clear bits it clears. -/
def readReg (rq : Requester) (a : Nat) (s : State) : Word × State :=
  match wideValue s a with
  | some v => (Word.ofNat v, { s with latches := sset zero32 (latchKey rq a) (Word.ofNat (v / 2 ^ 32)) s.latches })
  | none =>
    if 4 ≤ a ∧ (wideValue s (a - 4)).isSome then (sget zero32 (latchKey rq (a - 4)) s.latches, s)
    else
      let rc := ((regRow a).map RegRow.rc).getD 0
      (regValue s a, if rc = 0 then s else wr a (rd s a &&& ~~~(Word.ofNat rc)) s)

/-- The record that a read of the security region without privilege raises. -/
def denied (s : State) : State := raise (srcOf 4 11 0) 0x02 0 s

/-- A control-space read: its value, and the state after it. What a requester reads elsewhere without the right to is not
stated. -/
def ctlRead (rq : Requester) (a : Nat) (s : State) : Word × State :=
  if inSec a && !(mayReadAt s rq a) then (0, denied (if assigned s a then s else countUnassigned s))
  else if !(assigned s a) then (0, countUnassigned s)
  else if !(mayReadAt s rq a) then
    let f := freeBytes 4 s
    (Word.ofNat (leNat f.1), f.2)
  else readReg rq a s

/-! ## Writing (R10, R495) -/

/-- A write of a register with no behaviour of its own: its writable bits take the value, its write-one-to-clear bits are
cleared by ones, but for those that `same` names, whose events set them in the same control cycle (R496); every other bit stays. -/
def plainWriteWith (same : Word) (a : Nat) (v : Word) (s : State) : State :=
  match regRow a with
  | none => s
  | some r =>
    let old := rd s a
    wr a (((old &&& ~~~(Word.ofNat r.rw)) ||| (v &&& Word.ofNat r.rw)) &&& ~~~(v &&& Word.ofNat r.w1c &&& ~~~same)) s

/-- A write with which no event coincides. -/
def plainWrite (a : Nat) (v : Word) (s : State) : State := plainWriteWith 0 a v s

/-- SSQ_CTL: ABORT, then GO with STRICT. -/
def writeSsqCtl (rq : Requester) (v : Word) (s : State) : State :=
  let s := if bitOf v 2 then abort s else s
  if bitOf v 0 then go rq (bitOf v 1) s
  else wrF rSsqCtl 1 1 (fld v 1 1) { s with ssq := { s.ssq with strict := bitOf v 1 } }

/-- FCL_CTL. -/
def writeFclCtl (v : Word) (s : State) : State :=
  let s := if bitOf v 0 then release s else s
  if bitOf v 1 then recover s else s

/-- FCL_INJECT: ignored outside test mode; MODE 0 releases; GO acts by MODE (R447). -/
def writeInject (v : Word) (s : State) : State :=
  let m := fld v 24 3
  if !(testMode s) then s
  else
    let s := plainWrite rInject v s
    if m = 0 then injectRelease s
    else if !(bitOf v 31) then s
    else if m = 1 then injectRaise (fld v 0 16) (fld v 16 8) s
    else if m = 2 then injectRailsHigh (fld v 0 16) s
    else if m = 3 then injectRailsLow (fld v 0 16) s
    else if m = 4 then injectBitFlip (fld v 0 16) s
    else s

/-- SEC_MBOX_CTL: an operation when GO is 1; a reserved OP starts none. -/
def writeMbox (rq : Requester) (v : Word) (s : State) : State :=
  if !(bitOf v 0) then plainWrite rMboxCtl v s
  else match fld v 1 4 with
  | 1 => report rq v [] s
  | 2 => cert rq v [] s
  | 3 => keyInstall rq v [] s
  | 4 => keyDelete rq v s
  | 5 => trustWrite rq v [] s
  | 6 => ownerSet rq v [] s
  | 7 => ownerClear rq v s
  | 8 => fwUpdate rq v [] s
  | 9 => svnCommit rq v s
  | _ => plainWrite rMboxCtl v s

/-- A stack's registers: self-refresh (R221), remapping and sparing (R227, R228). -/
def writeStack (n off : Nat) (v : Word) (s : State) : State :=
  if off = 4 then
    let s := wrF (stkReg n 4) 1 1 (fld v 1 1) s
    if bitOf v 0 then selfrefEnter n s else wrF (stkReg n 4) 0 1 0 s
  else if off = 0x30 then
    if bitOf (rd s (stkReg n 0x30)) 31 then s
    else
      let s := plainWrite (stkReg n 0x30) v s
      if !(bitOf v 31) then s
      else if fld v 26 2 = 0 then remapRow n (fld v 0 9) (fld v 9 17) [] s
      else if fld v 26 2 = 1 then spareBank n (fld v 0 9) s
      else s
  else plainWrite (stkReg n off) v s

/-- A port's registers: EN, RETRAIN and REKEY. -/
def writePort (p off : Nat) (v : Word) (s : State) : State :=
  if off ≠ 4 then plainWrite (portReg p off) v s
  else if !(bitOf v 0) then portDisabled p s
  else
    updPort p (fun t => { t with retrainReq := t.retrainReq || (bitOf v 1 && t.state == 3)
                                 rekeyReq := t.rekeyReq || (bitOf v 2 && t.state == 3) }) (plainWrite (portReg p 4) v s)

/-- Fabric-wide registers, routing tables and the ring. The active bank's entries take no write (R345). -/
def writeFab (a : Nat) (v : Word) (s : State) : State :=
  let m := (a - 0x402100) / 0x20
  if a = rSelf then fabSelfWrite v s
  else if a = rQctl then releaseFab (plainWrite a v s)
  else if a = 0x400004 then (if bitOf v 1 then switch s else s)
  else if 0x401000 ≤ a ∧ a < 0x401800 then (if (a - 0x401000) / 0x400 = rdF s 0x400004 0 1 then s else plainWrite a v s)
  else if a = rOreRevno then revnoWrite v s
  else if a = rFillCtl then fill v s
  else if 0x402100 ≤ a ∧ a < 0x402300 then
    if a % 0x20 = 0xC then modelActivate m v s
    else if a % 0x20 = 0x1C then s
    else modelWrite m (plainWrite a v s)
  else plainWrite a v s

/-- Loader registers (R414). -/
def writeLoader (a : Nat) (v : Word) (s : State) : State :=
  if bitOf (rd s rLdrCtl) 0 then s
  else if a ≠ rLdrCtl then plainWrite a v s
  else if !(bitOf v 0) then ldrCtl v s
  else if bitOf v 1 then ldrUnload v s
  else ldrLoad v [] s

/-- A Mere window as four words give it, when valid and not empty. -/
def windowOf (g : Nat → Word) : Option (Nat × Nat) :=
  let b := (g 0).toNat / 256 * 256 + fld (g 1) 0 10 * 2 ^ 32
  let l := (g 2).toNat / 256 * 256 + fld (g 3) 0 10 * 2 ^ 32
  if bitOf (g 3) 31 ∧ b < l then some (b, l) else none

/-- Window i of tenant t, as written, meets a valid window of another tenant, as written or in force (R470). -/
def windowMeets (s : State) (t i : Nat) : Bool :=
  match windowOf fun j => rd s (tenReg t (16 + 4 * i + j)) with
  | none => false
  | some (b, l) =>
    (List.range 256).any fun n => n != t && (List.range 8).any fun k =>
      [windowOf fun j => rd s (tenReg n (16 + 4 * k + j)), windowOf fun j => tenCfg s n (16 + 4 * k + j)].any fun w =>
        w.any fun x => decide (b < x.2) && decide (x.1 < l)

/-- The rules of R382 hold of the entries as written: every queue pair that is not OFF lies in its tenant's range, and no task
belongs to two tenants. -/
def tenantRules (s : State) : Bool :=
  ((activeQps s).all fun q => q == 0 ||
    let t := qpTenant s q
    let f := rdF s (tenReg t 1) 0 14
    bitOf (rd s (tenReg t 0)) 0 && decide (f ≤ q) && decide (q < f + rdF s (tenReg t 1) 16 15))
  && (List.range 64).all fun k => decide (((List.range 256).filter fun n =>
    bitOf (rd s (tenReg n 0)) 0 && bitOf (rd s (tenReg n (2 + k / 32))) (k % 32)).length ≤ 1)

/-- Tenant entries (R382, R397, R470): whether the write is refused, and the state after it. -/
def writeTenant (t w : Nat) (v same : Word) (s : State) : Bool × State :=
  let s' := plainWrite (tenReg t w) v s
  if w = 15 then (false, vecPendClear t false v same s)
  else if w = 48 then (false, vecPendClear t true v same s)
  else if t = 0 ∧ w = 0 ∧ !(bitOf v 0) then (false, s)
  else if w < 4 then (if tenantRules s' then (false, s') else (true, s))
  else if 16 ≤ w ∧ w < 48 then (if windowMeets s' t ((w - 16) / 4) then (true, s) else (false, s'))
  else (false, s')

/-- Queue contexts (R378, R396): words 1 and 6 change only while STATE is OFF. -/
def writeContext (q w : Nat) (v : Word) (s : State) : Bool × State :=
  if w = 0 then
    (qpState s q == 0 && (fld v 0 2 == 1 || fld v 0 2 == 2) && !(mayLeaveOff s q (Word.ofNat (v.toNat &&& ctx0Mask))),
     qpStateWrite q v s)
  else if qpState s q = 0 then (false, plainWrite (qctx q w) v s)
  else (false, s)

/-- A write of a register, which has passed every check of who may and where: whether Weast refuses it, and the state after
it. `same` names the write-one-to-clear bits whose events come in the same control cycle. -/
def writeReg (rq : Requester) (a : Nat) (v same : Word) (s : State) : Bool × State :=
  if inLost s a then (false, s)
  else if a = rSsqCtl then (false, writeSsqCtl rq v s)
  else if a = 0x10018 then (false, timeSetLow v s)
  else if a = 0x1001C then (false, timeSet v s)
  else if a = 0x12014 then (false, meshTblDataWrite v s)
  else if a = 0x20004 then (false, writeFclCtl v s)
  else if a = rLogTail then (false, logTailWrite v s)
  else if a = rInject then (false, writeInject v s)
  else if a = rMboxCtl then (false, writeMbox rq v s)
  else if 0x100000 ≤ a ∧ a < 0x1C0000 ∧ a % 0x10000 = 0xB16C then (false, plainWrite a (Word.ofNat (max 1 (fld v 0 24))) s)
  else if 0x200000 ≤ a ∧ a < 0x260000 then (false, writeStack ((a - 0x200000) / 0x4000) (a % 0x4000) v s)
  else if 0x300000 ≤ a ∧ a < 0x30C000 then (false, writePort ((a - 0x300000) / 0x1000) (a % 0x1000) v s)
  else if 0x400000 ≤ a ∧ a < 0x500000 then (false, writeFab a v s)
  else if 0x500200 ≤ a ∧ a < 0x500220 then (false, writeLoader a v s)
  else if 0x600000 ≤ a ∧ a < 0x700000 then writeContext ((a - 0x600000) / 64) (a % 64 / 4) v s
  else if 0x800000 ≤ a ∧ a < 0x810000 then writeTenant ((a - 0x800000) / 0x100) (a % 0x100 / 4) v same s
  else (false, plainWriteWith same a v s)

/-- A control-space write: whether it is refused, and the state after it. -/
def ctlWrite (rq : Requester) (a : Nat) (v same : Word) (s : State) : Bool × State :=
  let n := if assigned s a then s else countUnassigned s
  if !(mayWriteAt s rq a) then (true, privRefuse rq n)
  else if !(assigned s a) then (false, n)
  else writeReg rq a v same s

/-! ## The commands of the control space -/

/-- REGISTER_WRITE. -/
def registerWrite (rq : Requester) (a : Nat) (v same : Word) (s : State) : State := if powered s then (ctlWrite rq a v same s).2 else s

/-- A read that answers its requester. -/
def answerRead (r : Word × State) : State := { r.2 with readData := r.1 }

/-- READ_CLEAR: a read of a register with read-clear bits. -/
def readClear (rq : Requester) (a : Nat) (s : State) : State :=
  if powered s && assigned s a && mayReadAt s rq a && ((regRow a).any fun r => r.rc != 0) then answerRead (readReg rq a s) else s

/-- LATCHED_READ: a read of either word of a 64-bit pair. -/
def latchedRead (rq : Requester) (a : Nat) (s : State) : State :=
  if powered s && assigned s a && mayReadAt s rq a && ((wideValue s a).isSome || (decide (4 ≤ a) && (wideValue s (a - 4)).isSome))
  then answerRead (readReg rq a s) else s

/-- UNASSIGNED_ACCESS: a read, or a write of a value. -/
def unassignedAccess (rq : Requester) (a : Nat) (w : Option Word) (s : State) : State :=
  if !(powered s) || assigned s a then s
  else match w with
  | none => answerRead (ctlRead rq a s)
  | some v => (ctlWrite rq a v 0 s).2

/-- SECURITY_READ_DENIED; an address there that no register has is counted too (R12). -/
def securityReadDenied (rq : Requester) (a : Nat) (s : State) : State :=
  if powered s && inSec a && !(mayReadAt s rq a) then answerRead (ctlRead rq a s) else s

/-! ## CONFIG (R377) -/

/-- One record of a CONFIG: its answer in the record's own layout (log entry 41), the value that of a read, or 1 for a write that
is refused. -/
def configRecord (q : Nat) (l : List Byte) (s : State) : List Byte × State :=
  let a := leAt l 0 4
  let op := leAt l 8 4
  let put := fun (v : Nat) => leBytes 4 a ++ leBytes 4 v ++ leBytes 4 op
  if op = 0 then
    let r := ctlRead (.config q) a s
    (put r.1.toNat, r.2)
  else if op = 1 then
    let r := ctlWrite (.config q) a (Word.ofNat (leAt l 4 4)) 0 s
    (put (if r.1 then 1 else 0), r.2)
  else (put 0, s)

/-- A CONFIG's records, in order, and its one reply; on a queue pair of another tenant it is discarded and counted. -/
def configOn (q : Nat) (_h : Hdr) (d : List Byte) (s : State) : State :=
  if qpTenant s q ≠ 0 then bump rRxDrop 1 s
  else
    let r := (List.range (d.length / 12)).foldl (fun (x : List Byte × State) i =>
      let y := configRecord q (slice (12 * i) 12 d) x.2
      (x.1 ++ y.1, y.2)) ([], s)
    sendItem q { ty := 0x08, data := r.1 } r.2

/-- CONFIG: after a fatal record only queue pair 0 is served (R426). -/
def config (m : Datagram) (s : State) : State := receive 0x07 m (fun q _ _ s => (fclState s != 3 || q == 0, s)) configOn s

def execRegisterWrite (rq : Requester) (a : Nat) (v : Word) (s : State) (same : Word := 0) :
    Host.Outcome State Fault Refusal :=
  .next (registerWrite rq a v same s)
def execReadClear (rq : Requester) (a : Nat) (s : State) : Host.Outcome State Fault Refusal := .next (readClear rq a s)
def execLatchedRead (rq : Requester) (a : Nat) (s : State) : Host.Outcome State Fault Refusal := .next (latchedRead rq a s)
def execUnassignedAccess (rq : Requester) (a : Nat) (w : Option Word) (s : State) : Host.Outcome State Fault Refusal :=
  .next (unassignedAccess rq a w s)
def execSecurityReadDenied (rq : Requester) (a : Nat) (s : State) : Host.Outcome State Fault Refusal :=
  .next (securityReadDenied rq a s)
def execConfig (m : Datagram) (s : State) : Host.Outcome State Fault Refusal := .next (config m s)

end Sys2Proof.Machine
end

