-- ==== Sys2Proof/Machine/Turn.lean ====
section
/-! DEFINITION. Waiters on one flag and the order in which they are judged (R58), and with it the events of the units' commands. -/

namespace Sys2Proof.Machine

/-! ## Which event takes what -/

/-- What unit k may do next: the events of its commands; for the SSQ, those of the commands that it holds (R504). -/
def unitEvents (s : State) (k : Nat) : List (State → State) :=
  let c := k / 16
  let skip : List (State → State) := [skippedCommand c (k % 16)]
  if k = ssqKey then (List.range s.ssq.holds.length).flatMap fun n => [syncSet n, syncWait n, skippedCommand n 10]
  else if k = 203 then [oreNop, oreRev, skippedCommand 0 11]
  else match k % 16 with
  | 4 => [vxeNop c, vxeLdprog c, vxeLane c, vxeQconv c, vxePmerge c, vxeTrans c, vxeMmov c] ++ skip
  | 5 => [rduNop c, rduRed c] ++ skip
  | 6 => [spuNop c, spuRun c, spuRdreg c] ++ skip
  | 7 => [fxeNop c, fxeFetch c, fxeStream c, fxeGather c, fxeTpwr c] ++ skip
  | 8 => [sxeNop c, sxeStore c, sxeScatter c, sxeScadd c] ++ skip
  | 9 => [lseNop c, lseAttn c, lseMove c] ++ skip
  | a => [mxaNop c a, mxaLoadw c a, mxaStream c a, mxaZacc c a, shadowFill c a, stagedRead c a []] ++ skip

/-- Units that hold a command, and the SSQ. -/
def holders (s : State) : List Nat := s.units.map Prod.fst ++ [ssqKey]

/-- Flags, at core × 4096 + flag, whose count an event has lowered. -/
def flagDrops (s s' : State) : List Nat :=
  (s.flags.map Prod.fst).filter fun f => decide ((sget zero16 f s'.flags).toNat < (sget zero16 f s.flags).toNat)

/-- Commands that wait in unit k, or run in it. -/
def cmdsOf (s : State) (k : Nat) : List QCmd :=
  if k = ssqKey then s.ssq.holds else (unitOf s k).running.map Run.q ++ (unitOf s k).queue

/-- An event has moved a command on. -/
def moved (s s' : State) (k seq : Nat) : Bool :=
  if k = ssqKey then !(s'.ssq.holds.any fun q => q.seq == seq)
  else runOf s k seq != runOf s' k seq
    || ((unitOf s k).queue.any fun q => q.seq == seq) != ((unitOf s' k).queue.any fun q => q.seq == seq)

/-- The command that an event of unit k has moved on at a flag: one that waits on it, else (an FXE.STREAM at its release flag) the
first that moved. A VXE.LANE may move its partner in the RDU too (R172). -/
def taker (s s' : State) (k f : Nat) : Option QCmd :=
  let l := (cmdsOf s k).filter (fun q => moved s s' k q.seq) ++
    (if k % 16 = 4 then (cmdsOf s (k + 1)).filter (fun q => moved s s' (k + 1) q.seq) else [])
  (l.find? fun q => q.cmd.wen && f % 4096 == q.cmd.wflag).or l.head?

/-- Of two waiters on one flag the first is judged before the second: earlier issue time, then lower core, then lower unit code. -/
def judgedFirst (p q : QCmd) : Bool :=
  decide (p.issue < q.issue) || (p.issue == q.issue &&
    (decide (p.core < q.core) || (p.core == q.core && decide (p.cmd.unit < q.cmd.unit))))

/-- Some other unit has a waiter that could take from flag f now and is judged before q. -/
def preceded (s : State) (k f : Nat) (q : QCmd) : Bool :=
  (holders s).any fun k' => k' != k && (unitEvents s k').any fun ev =>
    let t := ev s
    (flagDrops s t).contains f && (taker s t k' f).any fun p => judgedFirst p q

/-- An event of unit k from s to s' takes from no flag before its turn (R58). -/
def inLine (k : Nat) (s s' : State) : Bool :=
  (flagDrops s s').all fun f => match taker s s' k f with
    | some q => !(preceded s k f q)
    | none => true

/-- An event of unit k; one that would take from a flag before a waiter that is judged first finds its wait not yet met
(R58, log entry 71). -/
def inTurn (k : Nat) (ev : State → State) (s : State) : State :=
  let t := ev s
  if inLine k s t then t else s

/-! ## The commands -/

def execMxaNop (c : CoreId) (a : ArrId) (s : State) : Host.Outcome State Fault Refusal :=
  .next (inTurn (unitKey c.val a.val) (mxaNop c.val a.val) s)
def execMxaLoadw (c : CoreId) (a : ArrId) (s : State) : Host.Outcome State Fault Refusal :=
  .next (inTurn (unitKey c.val a.val) (mxaLoadw c.val a.val) s)
def execMxaStream (c : CoreId) (a : ArrId) (s : State) : Host.Outcome State Fault Refusal :=
  .next (inTurn (unitKey c.val a.val) (mxaStream c.val a.val) s)
def execMxaZacc (c : CoreId) (a : ArrId) (s : State) : Host.Outcome State Fault Refusal :=
  .next (inTurn (unitKey c.val a.val) (mxaZacc c.val a.val) s)
def execShadowFill (c : CoreId) (a : ArrId) (s : State) : Host.Outcome State Fault Refusal :=
  .next (inTurn (unitKey c.val a.val) (shadowFill c.val a.val) s)
def execStagedRead (c : CoreId) (a : ArrId) (ecc : EccMap) (s : State) : Host.Outcome State Fault Refusal :=
  .next (inTurn (unitKey c.val a.val) (stagedRead c.val a.val ecc) s)
def execVxeNop (c : CoreId) (s : State) : Host.Outcome State Fault Refusal := .next (inTurn (unitKey c.val 4) (vxeNop c.val) s)
def execVxeLdprog (c : CoreId) (s : State) : Host.Outcome State Fault Refusal := .next (inTurn (unitKey c.val 4) (vxeLdprog c.val) s)
def execVxeLane (c : CoreId) (s : State) : Host.Outcome State Fault Refusal := .next (inTurn (unitKey c.val 4) (vxeLane c.val) s)
def execVxeQconv (c : CoreId) (s : State) : Host.Outcome State Fault Refusal := .next (inTurn (unitKey c.val 4) (vxeQconv c.val) s)
def execVxePmerge (c : CoreId) (s : State) : Host.Outcome State Fault Refusal := .next (inTurn (unitKey c.val 4) (vxePmerge c.val) s)
def execVxeTrans (c : CoreId) (s : State) : Host.Outcome State Fault Refusal := .next (inTurn (unitKey c.val 4) (vxeTrans c.val) s)
def execVxeMmov (c : CoreId) (s : State) : Host.Outcome State Fault Refusal := .next (inTurn (unitKey c.val 4) (vxeMmov c.val) s)
def execRduNop (c : CoreId) (s : State) : Host.Outcome State Fault Refusal := .next (inTurn (unitKey c.val 5) (rduNop c.val) s)
def execRduRed (c : CoreId) (s : State) : Host.Outcome State Fault Refusal := .next (inTurn (unitKey c.val 5) (rduRed c.val) s)
def execSpuNop (c : CoreId) (s : State) : Host.Outcome State Fault Refusal := .next (inTurn (unitKey c.val 6) (spuNop c.val) s)
def execSpuRun (c : CoreId) (s : State) : Host.Outcome State Fault Refusal := .next (inTurn (unitKey c.val 6) (spuRun c.val) s)
def execSpuRdreg (c : CoreId) (s : State) : Host.Outcome State Fault Refusal := .next (inTurn (unitKey c.val 6) (spuRdreg c.val) s)
def execFxeNop (c : CoreId) (s : State) : Host.Outcome State Fault Refusal := .next (inTurn (unitKey c.val 7) (fxeNop c.val) s)
def execFxeFetch (c : CoreId) (s : State) : Host.Outcome State Fault Refusal := .next (inTurn (unitKey c.val 7) (fxeFetch c.val) s)
def execFxeStream (c : CoreId) (s : State) : Host.Outcome State Fault Refusal := .next (inTurn (unitKey c.val 7) (fxeStream c.val) s)
def execFxeGather (c : CoreId) (s : State) : Host.Outcome State Fault Refusal := .next (inTurn (unitKey c.val 7) (fxeGather c.val) s)
def execFxeTpwr (c : CoreId) (s : State) : Host.Outcome State Fault Refusal := .next (inTurn (unitKey c.val 7) (fxeTpwr c.val) s)
def execSxeNop (c : CoreId) (s : State) : Host.Outcome State Fault Refusal := .next (inTurn (unitKey c.val 8) (sxeNop c.val) s)
def execSxeStore (c : CoreId) (s : State) : Host.Outcome State Fault Refusal := .next (inTurn (unitKey c.val 8) (sxeStore c.val) s)
def execSxeScatter (c : CoreId) (s : State) : Host.Outcome State Fault Refusal := .next (inTurn (unitKey c.val 8) (sxeScatter c.val) s)
def execSxeScadd (c : CoreId) (s : State) : Host.Outcome State Fault Refusal := .next (inTurn (unitKey c.val 8) (sxeScadd c.val) s)
def execLseNop (c : CoreId) (s : State) : Host.Outcome State Fault Refusal := .next (inTurn (unitKey c.val 9) (lseNop c.val) s)
def execLseAttn (c : CoreId) (s : State) : Host.Outcome State Fault Refusal := .next (inTurn (unitKey c.val 9) (lseAttn c.val) s)
def execLseMove (c : CoreId) (s : State) : Host.Outcome State Fault Refusal := .next (inTurn (unitKey c.val 9) (lseMove c.val) s)
def execOreNop (s : State) : Host.Outcome State Fault Refusal := .next (inTurn 203 oreNop s)
def execOreRev (s : State) : Host.Outcome State Fault Refusal := .next (inTurn 203 oreRev s)
def execSkippedCommand (c : CoreId) (u : Fin 12) (s : State) : Host.Outcome State Fault Refusal :=
  .next (inTurn (if u.val = 10 then ssqKey else unitKey c.val u.val) (skippedCommand c.val u.val) s)
def execSyncSet (n : Nat) (s : State) : Host.Outcome State Fault Refusal := .next (inTurn ssqKey (syncSet n) s)
def execSyncWait (n : Nat) (s : State) : Host.Outcome State Fault Refusal := .next (inTurn ssqKey (syncWait n) s)

end Sys2Proof.Machine
end

