-- ==== Sys2Proof/Machine/Dispatch.lean ====
section
/-! DEFINITION. One arm for each command: its meaning. -/

namespace Sys2Proof.Machine

/-- The command's effect on everything but the queue. -/
def exec (i : Instr) (s : State) : Host.Outcome State Fault Refusal :=
  match i with
  | .go x0 x1 => Sys2Proof.Machine.execGo x0 x1 s
  | .stepBeginAfterSettle => Sys2Proof.Machine.execStepBeginAfterSettle s
  | .abort => Sys2Proof.Machine.execAbort s
  | .bundleFetch x0 => Sys2Proof.Machine.execBundleFetch s x0
  | .dispatch => Sys2Proof.Machine.execDispatch s
  | .bundleIssue => Sys2Proof.Machine.execBundleIssue s
  | .tokenGrant => Sys2Proof.Machine.execTokenGrant s
  | .issueTimeAdvance => Sys2Proof.Machine.execIssueTimeAdvance s
  | .skippedCommand x0 x1 => Sys2Proof.Machine.execSkippedCommand x0 x1 s
  | .flagAddHeld x0 x1 => Sys2Proof.Machine.execFlagAddHeld x0 x1 s
  | .deadlockWalk => Sys2Proof.Machine.execDeadlockWalk s
  | .overrun => Sys2Proof.Machine.execOverrun s
  | .stepEnd => Sys2Proof.Machine.execStepEnd s
  | .syncSet x0 => Sys2Proof.Machine.execSyncSet x0 s
  | .syncWait x0 => Sys2Proof.Machine.execSyncWait x0 s
  | .mxaNop x0 x1 => Sys2Proof.Machine.execMxaNop x0 x1 s
  | .mxaLoadw x0 x1 => Sys2Proof.Machine.execMxaLoadw x0 x1 s
  | .mxaStream x0 x1 => Sys2Proof.Machine.execMxaStream x0 x1 s
  | .mxaZacc x0 x1 => Sys2Proof.Machine.execMxaZacc x0 x1 s
  | .shadowFill x0 x1 => Sys2Proof.Machine.execShadowFill x0 x1 s
  | .stagedRead x0 x1 x2 => Sys2Proof.Machine.execStagedRead x0 x1 x2 s
  | .vxeNop x0 => Sys2Proof.Machine.execVxeNop x0 s
  | .vxeLdprog x0 => Sys2Proof.Machine.execVxeLdprog x0 s
  | .vxeLane x0 => Sys2Proof.Machine.execVxeLane x0 s
  | .vxeQconv x0 => Sys2Proof.Machine.execVxeQconv x0 s
  | .vxePmerge x0 => Sys2Proof.Machine.execVxePmerge x0 s
  | .vxeTrans x0 => Sys2Proof.Machine.execVxeTrans x0 s
  | .vxeMmov x0 => Sys2Proof.Machine.execVxeMmov x0 s
  | .rduNop x0 => Sys2Proof.Machine.execRduNop x0 s
  | .rduRed x0 => Sys2Proof.Machine.execRduRed x0 s
  | .spuNop x0 => Sys2Proof.Machine.execSpuNop x0 s
  | .spuRun x0 => Sys2Proof.Machine.execSpuRun x0 s
  | .spuRdreg x0 => Sys2Proof.Machine.execSpuRdreg x0 s
  | .spuCutoff x0 x1 => Sys2Proof.Machine.execSpuCutoff x0 x1 s
  | .halt x0 x1 => Sys2Proof.Machine.execHalt x0 x1 s
  | .li x0 x1 => Sys2Proof.Machine.execLi x0 x1 s
  | .lui x0 x1 => Sys2Proof.Machine.execLui x0 x1 s
  | .add x0 x1 => Sys2Proof.Machine.execAdd x0 x1 s
  | .sub x0 x1 => Sys2Proof.Machine.execSub x0 x1 s
  | .mul x0 x1 => Sys2Proof.Machine.execMul x0 x1 s
  | .addi x0 x1 => Sys2Proof.Machine.execAddi x0 x1 s
  | .and x0 x1 => Sys2Proof.Machine.execAnd x0 x1 s
  | .or x0 x1 => Sys2Proof.Machine.execOr x0 x1 s
  | .xor x0 x1 => Sys2Proof.Machine.execXor x0 x1 s
  | .shl x0 x1 => Sys2Proof.Machine.execShl x0 x1 s
  | .shr x0 x1 => Sys2Proof.Machine.execShr x0 x1 s
  | .sar x0 x1 => Sys2Proof.Machine.execSar x0 x1 s
  | .min x0 x1 => Sys2Proof.Machine.execMin x0 x1 s
  | .max x0 x1 => Sys2Proof.Machine.execMax x0 x1 s
  | .slt x0 x1 => Sys2Proof.Machine.execSlt x0 x1 s
  | .sltu x0 x1 => Sys2Proof.Machine.execSltu x0 x1 s
  | .sel x0 x1 => Sys2Proof.Machine.execSel x0 x1 s
  | .ld1 x0 x1 => Sys2Proof.Machine.execLd1 x0 x1 s
  | .ld2 x0 x1 => Sys2Proof.Machine.execLd2 x0 x1 s
  | .ld4 x0 x1 => Sys2Proof.Machine.execLd4 x0 x1 s
  | .ld8 x0 x1 => Sys2Proof.Machine.execLd8 x0 x1 s
  | .st1 x0 x1 => Sys2Proof.Machine.execSt1 x0 x1 s
  | .st2 x0 x1 => Sys2Proof.Machine.execSt2 x0 x1 s
  | .st4 x0 x1 => Sys2Proof.Machine.execSt4 x0 x1 s
  | .st8 x0 x1 => Sys2Proof.Machine.execSt8 x0 x1 s
  | .fadd x0 x1 => Sys2Proof.Machine.execFadd x0 x1 s
  | .fmul x0 x1 => Sys2Proof.Machine.execFmul x0 x1 s
  | .flt x0 x1 => Sys2Proof.Machine.execFlt x0 x1 s
  | .i2f x0 x1 => Sys2Proof.Machine.execI2f x0 x1 s
  | .f2i x0 x1 => Sys2Proof.Machine.execF2i x0 x1 s
  | .fexp2 x0 x1 => Sys2Proof.Machine.execFexp2 x0 x1 s
  | .flog2 x0 x1 => Sys2Proof.Machine.execFlog2 x0 x1 s
  | .rand x0 x1 => Sys2Proof.Machine.execRand x0 x1 s
  | .blt x0 x1 => Sys2Proof.Machine.execBlt x0 x1 s
  | .beq x0 x1 => Sys2Proof.Machine.execBeq x0 x1 s
  | .bne x0 x1 => Sys2Proof.Machine.execBne x0 x1 s
  | .j x0 x1 => Sys2Proof.Machine.execJ x0 x1 s
  | .fxeNop x0 => Sys2Proof.Machine.execFxeNop x0 s
  | .fxeFetch x0 => Sys2Proof.Machine.execFxeFetch x0 s
  | .fxeStream x0 => Sys2Proof.Machine.execFxeStream x0 s
  | .fxeGather x0 => Sys2Proof.Machine.execFxeGather x0 s
  | .fxeTpwr x0 => Sys2Proof.Machine.execFxeTpwr x0 s
  | .sxeNop x0 => Sys2Proof.Machine.execSxeNop x0 s
  | .sxeStore x0 => Sys2Proof.Machine.execSxeStore x0 s
  | .sxeScatter x0 => Sys2Proof.Machine.execSxeScatter x0 s
  | .sxeScadd x0 => Sys2Proof.Machine.execSxeScadd x0 s
  | .transferIssue x0 x1 x2 => Sys2Proof.Machine.execTransferIssue x0 x1 x2 s
  | .transferLand x0 x1 x2 x3 => Sys2Proof.Machine.execTransferLand x0 x1 x2 x3 s
  | .tarnArrival x0 x1 x2 x3 => Sys2Proof.Machine.execTarnArrival x0 x1 x2 x3 s
  | .tarnStarve x0 x1 x2 => Sys2Proof.Machine.execTarnStarve x0 x1 x2 s
  | .segmentStateChange x0 x1 => Sys2Proof.Machine.execSegmentStateChange x0 x1 s
  | .segmentWake x0 x1 => Sys2Proof.Machine.execSegmentWake x0 x1 s
  | .lseNop x0 => Sys2Proof.Machine.execLseNop x0 s
  | .lseAttn x0 => Sys2Proof.Machine.execLseAttn x0 s
  | .lseMove x0 => Sys2Proof.Machine.execLseMove x0 s
  | .subCommand x0 x1 => Sys2Proof.Machine.execSubCommand x0 x1 s
  | .stackPortWindow x0 x1 x2 x3 => Sys2Proof.Machine.execStackPortWindow x0 x1 x2 s x3
  | .bankRefresh x0 x1 x2 x3 => Sys2Proof.Machine.execBankRefresh x0 x1 x2 x3 s
  | .rowerrTableClear => Sys2Proof.Machine.execRowerrTableClear s
  | .selfrefEnter x0 => Sys2Proof.Machine.execSelfrefEnter x0 s
  | .stackWake x0 => Sys2Proof.Machine.execStackWake x0 s
  | .remapRow x0 x1 x2 x3 => Sys2Proof.Machine.execRemapRow x0 x1 x2 s x3
  | .spareBank x0 x1 => Sys2Proof.Machine.execSpareBank x0 x1 s
  | .bankChangeover x0 => Sys2Proof.Machine.execBankChangeover x0 s
  | .oreNop => Sys2Proof.Machine.execOreNop s
  | .oreRev => Sys2Proof.Machine.execOreRev s
  | .grant x0 x1 x2 => Sys2Proof.Machine.execGrant x0 x1 x2 s
  | .shardArrival x0 x1 x2 x3 => Sys2Proof.Machine.execShardArrival x0 x1 x2 x3 s
  | .ringCredit x0 x1 => Sys2Proof.Machine.execRingCredit x0 x1 s
  | .ringAck x0 x1 x2 => Sys2Proof.Machine.execRingAck x0 x1 x2 s
  | .resend x0 x1 x2 => Sys2Proof.Machine.execResend x0 x1 x2 s
  | .springFetch x0 x1 => Sys2Proof.Machine.execSpringFetch x0 x1 s
  | .shardInject x0 x1 => Sys2Proof.Machine.execShardInject x0 s x1
  | .shardForward x0 => Sys2Proof.Machine.execShardForward x0 s
  | .snakeTile => Sys2Proof.Machine.execSnakeTile s
  | .tileAccept x0 => Sys2Proof.Machine.execTileAccept x0 s
  | .shardTimeout x0 => Sys2Proof.Machine.execShardTimeout x0 s
  | .fill x0 => Sys2Proof.Machine.execFill x0 s
  | .modelActivate x0 x1 => Sys2Proof.Machine.execModelActivate x0 x1 s
  | .revnoWrite x0 => Sys2Proof.Machine.execRevnoWrite x0 s
  | .meshStarve x0 x1 x2 x3 => Sys2Proof.Machine.execMeshStarve x0 x1 s x2 x3
  | .meshTblDataWrite x0 => Sys2Proof.Machine.execMeshTblDataWrite x0 s
  | .seamDrift x0 => Sys2Proof.Machine.execSeamDrift x0 s
  | .clockSlow x0 x1 x2 => Sys2Proof.Machine.execClockSlow x0 x1 x2 s
  | .timeSet x0 => Sys2Proof.Machine.execTimeSet x0 s
  | .ptpMessage x0 => Sys2Proof.Machine.execPtpMessage x0 s
  | .timeExchange x0 x1 x2 x3 => Sys2Proof.Machine.execTimeExchange x0 x1 x2 x3 s
  | .timeLock => Sys2Proof.Machine.execTimeLock s
  | .timeLockLoss => Sys2Proof.Machine.execTimeLockLoss s
  | .linkSignal x0 => Sys2Proof.Machine.execLinkSignal x0 s
  | .authHandshake x0 x1 => Sys2Proof.Machine.execAuthHandshake x0 x1 s
  | .linkBlock x0 x1 x2 => Sys2Proof.Machine.execLinkBlock x0 x1 x2 s
  | .nakRepeat x0 => Sys2Proof.Machine.execNakRepeat x0 s
  | .replay x0 => Sys2Proof.Machine.execReplay x0 s
  | .retrain x0 x1 x2 => Sys2Proof.Machine.execRetrain x0 x1 x2 s
  | .rekey x0 x1 => Sys2Proof.Machine.execRekey x0 x1 s
  | .packetSend x0 => Sys2Proof.Machine.execPacketSend x0 s
  | .packetRoute x0 => Sys2Proof.Machine.execPacketRoute x0 s
  | .remoteWrite x0 x1 => Sys2Proof.Machine.execRemoteWrite x0 x1 s
  | .remoteRead x0 x1 => Sys2Proof.Machine.execRemoteRead x0 x1 s
  | .remoteAdd x0 x1 => Sys2Proof.Machine.execRemoteAdd x0 x1 s
  | .transferData x0 => Sys2Proof.Machine.execTransferData x0 s
  | .transferAck x0 => Sys2Proof.Machine.execTransferAck x0 s
  | .transferTimeout x0 x1 x2 => Sys2Proof.Machine.execTransferTimeout x0 x1 x2 s
  | .switch => Sys2Proof.Machine.execSwitch s
  | .fabSelfWrite x0 => Sys2Proof.Machine.execFabSelfWrite x0 s
  | .submit x0 => Sys2Proof.Machine.execSubmit x0 s
  | .ack x0 => Sys2Proof.Machine.execAck x0 s
  | .credit x0 => Sys2Proof.Machine.execCredit x0 s
  | .config x0 => Sys2Proof.Machine.execConfig x0 s
  | .load x0 => Sys2Proof.Machine.execLoad x0 s
  | .spillin x0 => Sys2Proof.Machine.execSpillin x0 s
  | .ohtResend x0 => Sys2Proof.Machine.execOhtResend x0 s
  | .ohtDead x0 => Sys2Proof.Machine.execOhtDead x0 s
  | .arpRequest x0 x1 x2 => Sys2Proof.Machine.execArpRequest x0 x1 x2 s
  | .neighbourSolicitation x0 x1 x2 => Sys2Proof.Machine.execNeighbourSolicitation x0 x1 x2 s
  | .echoRequest x0 x1 => Sys2Proof.Machine.execEchoRequest x0 x1 s
  | .pfcFrame x0 x1 => Sys2Proof.Machine.execPfcFrame x0 x1 s
  | .generate x0 => Sys2Proof.Machine.execGenerate x0 s
  | .cancel x0 => Sys2Proof.Machine.execCancel x0 s
  | .park x0 => Sys2Proof.Machine.execPark x0 s
  | .close x0 => Sys2Proof.Machine.execClose x0 s
  | .spillinRequest x0 => Sys2Proof.Machine.execSpillinRequest x0 s
  | .stepBuild x0 => Sys2Proof.Machine.execStepBuild x0 s
  | .ringStepStart x0 => Sys2Proof.Machine.execRingStepStart x0 s
  | .segmentResult x0 x1 x2 => Sys2Proof.Machine.execSegmentResult x0 x1 x2 s
  | .stepCommit => Sys2Proof.Machine.execStepCommit s
  | .commitTimeout => Sys2Proof.Machine.execCommitTimeout s
  | .accountingBoundary => Sys2Proof.Machine.execAccountingBoundary s
  | .hotIdlePark x0 => Sys2Proof.Machine.execHotIdlePark x0 s
  | .sessionExpiry x0 => Sys2Proof.Machine.execSessionExpiry x0 s
  | .sessionMoveDone x0 x1 => Sys2Proof.Machine.execSessionMoveDone x0 x1 s
  | .vecPendClear x0 x1 x2 x3 => Sys2Proof.Machine.execVecPendClear x0 x1 x2 s x3
  | .qpStateWrite x0 x1 => Sys2Proof.Machine.execQpStateWrite x0 x1 s
  | .qpOff x0 => Sys2Proof.Machine.execQpOff x0 s
  | .ldrLoad x0 x1 => Sys2Proof.Machine.execLdrLoad x0 s x1
  | .ldrUnload x0 => Sys2Proof.Machine.execLdrUnload x0 s
  | .faultRecord => Sys2Proof.Machine.execFaultRecord s
  | .brokenWire x0 => Sys2Proof.Machine.execBrokenWire x0 s
  | .recoveryReset => Sys2Proof.Machine.execRecoveryReset s
  | .recoveryRestore => Sys2Proof.Machine.execRecoveryRestore s
  | .recoveryLeave => Sys2Proof.Machine.execRecoveryLeave s
  | .recover => Sys2Proof.Machine.execRecover s
  | .release => Sys2Proof.Machine.execRelease s
  | .logTailWrite x0 => Sys2Proof.Machine.execLogTailWrite x0 s
  | .ageingMeasure => Sys2Proof.Machine.execAgeingMeasure s
  | .injectRaise x0 x1 => Sys2Proof.Machine.execInjectRaise x0 x1 s
  | .injectRailsHigh x0 => Sys2Proof.Machine.execInjectRailsHigh x0 s
  | .injectRailsLow x0 => Sys2Proof.Machine.execInjectRailsLow x0 s
  | .injectBitFlip x0 => Sys2Proof.Machine.execInjectBitFlip x0 s
  | .injectRelease => Sys2Proof.Machine.execInjectRelease s
  | .report x0 x1 x2 => Sys2Proof.Machine.execReport x0 x1 s x2
  | .cert x0 x1 x2 => Sys2Proof.Machine.execCert x0 x1 s x2
  | .keyInstall x0 x1 x2 => Sys2Proof.Machine.execKeyInstall x0 x1 s x2
  | .keyDelete x0 x1 => Sys2Proof.Machine.execKeyDelete x0 x1 s
  | .trustWrite x0 x1 x2 => Sys2Proof.Machine.execTrustWrite x0 x1 s x2
  | .ownerSet x0 x1 x2 => Sys2Proof.Machine.execOwnerSet x0 x1 s x2
  | .ownerClear x0 x1 => Sys2Proof.Machine.execOwnerClear x0 x1 s
  | .fwUpdate x0 x1 x2 => Sys2Proof.Machine.execFwUpdate x0 x1 s x2
  | .svnCommit x0 x1 => Sys2Proof.Machine.execSvnCommit x0 x1 s
  | .powerOn => Sys2Proof.Machine.execPowerOn s
  | .boot => Sys2Proof.Machine.execBoot s
  | .ready => Sys2Proof.Machine.execReady s
  | .powerDown => Sys2Proof.Machine.execPowerDown s
  | .resetAssert => Sys2Proof.Machine.execResetAssert s
  | .resetRelease => Sys2Proof.Machine.execResetRelease s
  | .vinFault x0 x1 => Sys2Proof.Machine.execVinFault x0 x1 s
  | .railsOff x0 => Sys2Proof.Machine.execRailsOff x0 s
  | .vinRestart x0 => Sys2Proof.Machine.execVinRestart x0 s
  | .sensorSample x0 => Sys2Proof.Machine.execSensorSample x0 s
  | .thermalShutdown x0 => Sys2Proof.Machine.execThermalShutdown x0 s
  | .writeEnable => Sys2Proof.Machine.execWriteEnable s
  | .statusRead => Sys2Proof.Machine.execStatusRead s
  | .read x0 x1 => Sys2Proof.Machine.execRead x0 x1 s
  | .pageProgram x0 x1 => Sys2Proof.Machine.execPageProgram x0 x1 s
  | .sectorErase x0 => Sys2Proof.Machine.execSectorErase x0 s
  | .bypass x0 => Sys2Proof.Machine.execBypass x0 s
  | .idcode => Sys2Proof.Machine.execIdcode s
  | .samplePreload x0 => Sys2Proof.Machine.execSamplePreload x0 s
  | .extest x0 => Sys2Proof.Machine.execExtest x0 s
  | .registerWrite x0 x1 x2 x3 => Sys2Proof.Machine.execRegisterWrite x0 x1 x2 s x3
  | .readClear x0 x1 => Sys2Proof.Machine.execReadClear x0 x1 s
  | .latchedRead x0 x1 => Sys2Proof.Machine.execLatchedRead x0 x1 s
  | .unassignedAccess x0 x1 x2 => Sys2Proof.Machine.execUnassignedAccess x0 x1 x2 s
  | .securityReadDenied x0 x1 => Sys2Proof.Machine.execSecurityReadDenied x0 x1 s
  | .droppedFrame x0 => Sys2Proof.Machine.execDroppedFrame x0 s
  | .portDisabled x0 => Sys2Proof.Machine.execPortDisabled x0 s

end Sys2Proof.Machine
end

