-- ==== Sys2Proof/WellFormed.lean ====
section
/-! DEFINITION. Commands whose operands the block's interfaces can carry: every field within the width that the manual gives
it. The meanings are total on every command; a command outside these bounds cannot arise at the part's pins or links. -/

namespace Sys2Proof

/-- Every field of a packet within its width (R325), and its data as long as LEN says, but for a READ, which carries
none. -/
def Packet.wf (p : Packet) : Bool :=
  decide (p.dest < 2 ^ 24) && decide (p.cls < 8) && decide (p.dim < 4) && decide (p.src < 2 ^ 24) && decide (p.task < 64)
    && decide (p.op < 32) && decide (p.hops < 256) && decide (p.tag < 2 ^ 16) && decide (p.addr < 2 ^ 42)
    && decide (p.rfcore < 16) && decide (p.rflag < 4096) && decide (p.len < 2 ^ 17) && decide (p.rcnt < 2 ^ 16)
    && decide (p.cmdid < 2 ^ 16) && decide (p.status < 256) && decide (p.atype < 16)
    && (if p.op = 2 then p.data.isEmpty else decide (p.data.length = p.len ∧ p.len ≤ 4096))

/-- A Tarn request names a port and a bank of the core and a line, and goes the way that its port goes (R181, R184). -/
def TarnReq.wf (r : TarnReq) : Bool :=
  decide (r.port < 17) && decide (r.bank < 64) && decide (r.line < 2 ^ 15)
    && (if r.isWrite then [10, 11, 14, 15, 16].contains r.port else !([10, 14].contains r.port))

/-- An access to a core's Tarn at an address: 27 address bits (R181). -/
def Access.wf (a : Nat) (x : Access) : Bool :=
  decide (a < 2 ^ 27) && match x with
    | .rd n => decide (n ≤ 2 ^ 16)
    | .wr l => decide (l.length ≤ 2 ^ 16)

/-- A hello's numbers fit their fields: an endpoint's coordinates, a port, a 32-byte nonce (R321). -/
def PeerHello.wf (h : PeerHello) : Bool :=
  decide (h.coord < 2 ^ 18) && decide (h.port < 12) && decide (h.nonce.length = 32)
    && [h.ephX, h.ephY, h.devX, h.devY, h.sigR, h.sigS].all fun x => decide (x < 2 ^ 384)

/-- A datagram fits a frame (R373, R375). -/
def Datagram.wf (m : Datagram) : Bool := decide (m.port < 2 ^ 16) && decide (m.bytes.length ≤ 9136)

/-- Access units of the part's Mere (24 stacks of 2^37 bytes), each named at most once (R224). -/
def eccMapWf (m : EccMap) : Bool := (m.all fun e => decide (e.1 < 24 * 2 ^ 29)) && decide (m.map Prod.fst).Nodup

/-- A queue pair of the part. -/
def wfQp (q : Nat) : Bool := decide (q < 16384)

/-- A command that the interfaces can carry. -/
def Instr.wf : Instr → Bool
  | .stagedRead _ _ m => eccMapWf m
  | .transferLand _ _ _ m => eccMapWf m
  | .bundleFetch m => eccMapWf m
  | .ldrLoad _ m => eccMapWf m
  | .subCommand _ m => eccMapWf m
  | .tarnArrival _ _ a x => x.wf a
  | .tarnStarve _ r l => r.wf && l.all TarnReq.wf
  | .stackPortWindow _ _ _ _ => true
  | .remapRow _ _ row m => decide (row < 2 ^ 17) && eccMapWf m
  | .grant _ _ n => decide (n ≤ 8)
  | .shardArrival _ _ q l => decide (q < 2 ^ 32) && decide (l.length ≤ 131152)
  | .ringAck _ _ q => decide (q < 2 ^ 32)
  | .resend _ _ q => decide (q < 2 ^ 32)
  | .shardInject _ m => eccMapWf m
  | .springFetch _ l => decide (l.length ≤ 131152)
  | .meshStarve _ _ _ l => l.all fun h => decide (h.input ≤ 8) && decide (h.vc < 4)
  | .authHandshake _ h => h.wf
  | .linkBlock _ _ b => decide (b.length = 1285)
  | .rekey _ h => h.wf
  | .packetRoute p => p.wf
  | .remoteWrite p m => p.wf && eccMapWf m
  | .remoteRead p m => p.wf && eccMapWf m
  | .remoteAdd p m => p.wf && eccMapWf m
  | .transferData p => p.wf
  | .transferAck p => p.wf
  | .submit m => m.wf
  | .ack m => m.wf
  | .credit m => m.wf
  | .config m => m.wf
  | .load m => m.wf
  | .spillin m => m.wf
  | .ohtResend q => wfQp q
  | .ohtDead q => wfQp q
  | .pfcFrame p n => decide (p < 8) && decide (n < 2 ^ 16)
  | .generate q => wfQp q
  | .cancel q => wfQp q
  | .park q => wfQp q
  | .close q => wfQp q
  | .spillinRequest q => wfQp q
  | .hotIdlePark k => decide (k < 131072)
  | .sessionExpiry k => decide (k < 131072)
  | .sessionMoveDone k _ => decide (k < 131072)
  | .qpStateWrite q _ => wfQp q
  | .qpOff q => wfQp q
  | .brokenWire n => decide (n < 2 ^ 16)
  | .injectRaise n c => decide (n < 2 ^ 16) && decide (c < 256)
  | .injectRailsHigh n => decide (n < 2 ^ 16)
  | .injectRailsLow n => decide (n < 2 ^ 16)
  | .injectBitFlip n => decide (n < 2 ^ 16)
  | .read a _ => decide (a < 2 ^ 32)
  | .pageProgram a l => decide (a < 2 ^ 32) && decide (l.length ≤ 256)
  | .sectorErase a => decide (a < 2 ^ 32)
  | .report _ _ m => eccMapWf m
  | .cert _ _ m => eccMapWf m
  | .keyInstall _ _ m => eccMapWf m
  | .trustWrite _ _ m => eccMapWf m
  | .ownerSet _ _ m => eccMapWf m
  | .fwUpdate _ _ m => eccMapWf m
  | .registerWrite _ a _ _ => decide (a < 2 ^ 26)
  | .readClear _ a => decide (a < 2 ^ 26)
  | .latchedRead _ a => decide (a < 2 ^ 26)
  | .unassignedAccess _ a _ => decide (a < 2 ^ 32)
  | .securityReadDenied _ a => decide (a < 2 ^ 26)
  | _ => true

end Sys2Proof
end

