-- ==== Sys2Proof/Safety.lean ====
section
/-! DEFINITION. What counts as a safe step of the block: it answers a next state. The canonical form of the state's stores, the
invariant that every step keeps. -/

namespace Sys2Proof.Machine

/-- A command completes in a state. -/
def Completes (i : Instr) (s : State) : Prop := ∃ t, exec i s = .next t

/-- A step that neither faults nor refuses. -/
def StepSafe (s : State) : Prop := ∃ t, step s = .next t

/-- The addressed memories and the control space are in their canonical form: addresses strictly rising, and no entry equal to
what an unlisted address reads as. -/
def memoriesCanonical (s : State) : Bool :=
  swf zero8 s.tarn && swf zero8 s.mere && swf erased s.flash && swf resetWord s.csr && swf resetWord s.eff

/-- So are the stores of the engines. -/
def storesCanonical (s : State) : Bool :=
  swf zero32 s.latches && swf zero32 s.acc && swf zero32 s.treg && swf ones32 s.mask && swf zero32 s.progs
    && swf (fun _ => 0) s.spu && swf (fun _ => {}) s.pipes && swf (fun _ => {}) s.arrays && swf zero16 s.flags
    && swf (fun _ => {}) s.units && swf (fun _ => []) s.outst && swf (fun _ => {}) s.segs && swf (fun _ => {}) s.stackSt
    && swf (fun _ => {}) s.ports && swf zero8 s.meshTbl && swf zero8 s.meshEff
    && swf (fun _ => {}) s.qps && swf (fun _ => {}) s.sessions && swf (fun _ => {}) s.tasks && swf (fun _ => {}) s.cmodels
    && swf (fun _ => []) s.tarnWait && swf (fun _ => []) s.granted && swf (fun _ => []) s.meshWait && swf (fun _ => 8) s.meshLast
    && swf (fun _ => 0) s.meshHeld && swf (fun _ => 0) s.turns && swf (fun _ => 0) s.ore.accepted
    && swf (fun _ => 0) s.ssq.tapV && swf (fun _ => 0) s.ssq.tapR && swf (fun _ => 0) s.charged && swf (fun _ => 0) s.refill
    && swf (fun _ => 0) s.fired && swf (fun _ => 0) s.pfcPaused && swf (fun _ => {}) s.sec.wkeys && swf (fun _ => {}) s.sec.okeys

/-- Every store of the state is in its canonical form. -/
def canonical (s : State) : Bool := memoriesCanonical s && storesCanonical s

/-! ## Conditions that statements share -/

/-- From s to t the counter at an address has grown by n, and stops at 0xFFFF_FFFF (R78 and its likes). -/
def counts (s t : State) (a n : Nat) : Prop := (rd t a).toNat = min ((rd s a).toNat + n) 0xFFFFFFFF

/-- A source asserts an error of a cause to the fault collector (R416, R419). -/
def asserts (t : State) (source cause : Nat) : Prop := (t.pend.any fun p => p.source == source && p.cause == cause) = true

/-- The memories are as they were. -/
def memoriesStay (s t : State) : Prop := t.tarn = s.tarn ∧ t.mere = s.mere ∧ t.flash = s.flash

/-- Only words at the addresses that a test picks may differ. -/
def registersStay (s t : State) (p : Nat → Prop) : Prop := ∀ a, ¬ p a → rd t a = rd s a

/-- A completion of queue pair q for a CID, with a status, is queued or has been sent and is not acknowledged (R379). -/
def completionOf (t : State) (q cid status : Nat) : Prop :=
  ∃ c : Completion, c.q = q ∧ c.cid = cid ∧ c.status = status ∧
    (c ∈ (qpOf t q).queued ∨ ∃ m ∈ (qpOf t q).sent, c ∈ m.item.comps)

/-- Head entry e of queue pair q is read and served, of an operation code (R379, R381). -/
def entryRead (s : State) (q opc : Nat) (e : Entry) : Prop :=
  powered s = true ∧ s.recov.silent = false ∧ reqInuse s < 65536 ∧ headEntry s q = some e ∧ entryOk e = true ∧
    cidHeld s q e.cid = false ∧ e.opc = opc

/-- A write of SEC_MBOX_CTL by a requester that may starts operation op, none running. -/
def mailboxRuns (s : State) (rq : Requester) (v : Word) (op : Nat) : Prop :=
  powered s = true ∧ bitOf v 0 = true ∧ fld v 1 4 = op ∧ bitOf (rd s rMboxCtl) 0 = false ∧ mailboxAllowed s rq op = true

/-- The state as an operation of the mailbox sees it. -/
def mailboxState (s : State) (v : Word) : State := wr rMboxCtl (Word.ofNat (v.toNat &&& 0x103FFE)) s

/-- RESULT of the mailbox (table of security registers). -/
def mailboxResult (t : State) : Nat := rdF t rMboxCtl 16 4

/-- The part has gone through a cold reset: registers at their reset values but for the fuses, memories but module flash and
every key lost. -/
def coldStart (s t : State) : Prop :=
  (∀ a, a ≠ rMaskFused → rd t a = resetWord a) ∧ rd t rMaskFused = rd s rMaskFused ∧ t.tarn = [] ∧ t.mere = [] ∧ t.flash = s.flash
    ∧ t.requests = [] ∧ t.sessions = [] ∧ t.qps = [] ∧ t.units = [] ∧ t.pend = [] ∧ t.ssq = {} ∧ t.sec.wkeys = [] ∧ t.sec.okeys = []
    ∧ t.sec.seed = s.sec.seed ∧ t.sec.trust = s.sec.trust ∧ t.sec.svnMin = s.sec.svnMin ∧ t.coreRecord = s.coreRecord

/-- A step of task k may begin now at an entry of its stream (R32, R34, R301). -/
def stepMayBegin (s : State) (k entry : Nat) : Prop :=
  stepFree s = true ∧ taskLoaded s k = true ∧ entry * 16 < streamLen s k ∧ bitOf (rd s rDetCtl) 0 = s.time.osc

/-- A step of task k has begun at an entry. -/
def stepBeganAt (t : State) (k entry : Nat) : Prop :=
  t.ssq.run = true ∧ t.ssq.held = false ∧ t.ssq.task = k ∧ t.ssq.fetchOff = entry * 16 ∧ t.ssq.issue = 0

/-- A step has begun (R35): the issue time is 0, the flags of live cores are 0, the skip log is empty; the counters of the SSQ and
the memories are as they were in s. -/
def stepBegun (s t : State) : Prop :=
  t.ssq.run = true ∧ t.ssq.held = false ∧ t.ssq.stepDone = false ∧ t.ssq.issue = 0 ∧ t.ssq.skips = []
    ∧ (∀ c f, live s c = true → f < 4096 → flag t c f = 0)
    ∧ (∀ a, 0x18030 ≤ a → a < 0x18064 → rd t a = rd s a)
    ∧ t.mere = s.mere ∧ t.tarn = s.tarn ∧ t.acc = s.acc

/-- The step is ending as by ABORT (R70): nothing is left to dispatch, to issue or to start, and every running command is to end
at its iteration boundary. -/
def stepEnding (s t : State) : Prop :=
  t.ssq.run = true ∧ t.ssq.aborting = true ∧ t.ssq.bundles = [] ∧ t.ssq.holds = [] ∧ t.pgv.reqs = []
    ∧ (∀ k, (unitOf t k).queue = []) ∧ (∀ k, (unitOf t k).running.all fun r => r.err)
    ∧ t.flags = s.flags ∧ t.tarn = s.tarn ∧ t.mere = s.mere

/-- Segments of core c are on, so that an access to them goes on at once (R194). -/
def segsReady (s : State) (c : Nat) (l : List Nat) : Prop := (l.all fun g => segOn s c g) = true

/-- The scalar-pipe instructions that write rd from rd, ra, rb and imm: pipe, operation code and result (table of the instruction
set, R177, R178). -/
def pipeResult (i : Instr) : Option (CoreId × PipeId × Nat × (DWord → DWord → DWord → DWord → DWord)) :=
  match i with
  | .li c p => some (c, p, 0x01, fun _ _ _ m => m)
  | .lui c p => some (c, p, 0x02, fun d _ _ m => (d &&& 0xFFFFFFFF) ||| (m <<< 32))
  | .add c p => some (c, p, 0x08, fun _ a b _ => a + b)
  | .sub c p => some (c, p, 0x09, fun _ a b _ => a - b)
  | .mul c p => some (c, p, 0x0A, fun _ a b _ => a * b)
  | .addi c p => some (c, p, 0x0B, fun _ a _ m => a + m)
  | .and c p => some (c, p, 0x0C, fun _ a b _ => a &&& b)
  | .or c p => some (c, p, 0x0D, fun _ a b _ => a ||| b)
  | .xor c p => some (c, p, 0x0E, fun _ a b _ => a ^^^ b)
  | .shl c p => some (c, p, 0x0F, fun _ a b m => a <<< ((b + m).toNat % 64))
  | .shr c p => some (c, p, 0x10, fun _ a b m => a >>> ((b + m).toNat % 64))
  | .sar c p => some (c, p, 0x11, fun _ a b m => a.sshiftRight ((b + m).toNat % 64))
  | .min c p => some (c, p, 0x12, fun _ a b _ => if b.toInt < a.toInt then b else a)
  | .max c p => some (c, p, 0x13, fun _ a b _ => if a.toInt < b.toInt then b else a)
  | .slt c p => some (c, p, 0x14, fun _ a b _ => if a.toInt < b.toInt then 1 else 0)
  | .sltu c p => some (c, p, 0x15, fun _ a b _ => if a.toNat < b.toNat then 1 else 0)
  | .sel c p => some (c, p, 0x16, fun d a b _ => if d ≠ 0 then a else b)
  | .fadd c p => some (c, p, 0x30, fun _ a b _ => ext (fadd (low a) (low b)))
  | .fmul c p => some (c, p, 0x31, fun _ a b _ => ext (fmul (low a) (low b)))
  | .flt c p => some (c, p, 0x32, fun _ a b _ => if vlt (f32 (low a)) (f32 (low b)) then 1 else 0)
  | .i2f c p => some (c, p, 0x33, fun _ a _ _ => ext (i2f a.toInt))
  | .f2i c p => some (c, p, 0x34, fun _ a _ _ => BitVec.ofInt 64 (f2i 64 (low a)))
  | .fexp2 c p => some (c, p, 0x35, fun _ a _ _ => ext (exp2W (low a)))
  | .flog2 c p => some (c, p, 0x36, fun _ a _ _ => ext (log2W (low a)))
  | .rand c p => some (c, p, 0x38, fun _ a b m => randOf a b m)
  | _ => none

/-- The loads and stores of a pipe: pipe, operation code, bytes, and whether it stores. -/
def pipeAccess (i : Instr) : Option (CoreId × PipeId × Nat × Nat × Bool) :=
  match i with
  | .ld1 c p => some (c, p, 0x20, 1, false)
  | .ld2 c p => some (c, p, 0x21, 2, false)
  | .ld4 c p => some (c, p, 0x22, 4, false)
  | .ld8 c p => some (c, p, 0x23, 8, false)
  | .st1 c p => some (c, p, 0x24, 1, true)
  | .st2 c p => some (c, p, 0x25, 2, true)
  | .st4 c p => some (c, p, 0x26, 4, true)
  | .st8 c p => some (c, p, 0x27, 8, true)
  | _ => none

/-- The branches of a pipe: pipe, operation code, and the condition on ra and rb. -/
def pipeBranch (i : Instr) : Option (CoreId × PipeId × Nat × (DWord → DWord → Bool)) :=
  match i with
  | .blt c p => some (c, p, 0x3C, fun a b => decide (a.toInt < b.toInt))
  | .beq c p => some (c, p, 0x3D, fun a b => a == b)
  | .bne c p => some (c, p, 0x3E, fun a b => a != b)
  | .j c p => some (c, p, 0x3F, fun _ _ => true)
  | _ => none

/-- Pipe p of core c runs, and comes to an instruction of an operation code within its budget, with no reserved bit, and in segments
that are on. -/
def pipeAt (s : State) (c p opc : Nat) : Prop :=
  engines s = true ∧ s.ssq.aborting = false ∧ (pipeOf s c p).nins ≠ 0 ∧ (insAt s c p).opc = opc ∧ (insAt s c p).rsv = 0 ∧
    (pipeOf s c p).count < max 1 (fld (cfg s (coreReg c 0xB16C)) 0 24) ∧ segsReady s c (insSegs s c p (insAt s c p))

/-- The pipe has gone on from s to instruction pc, or its run has ended past the program's end; nothing but the count of
instructions, the pipe and the unit's running command differs beside spu and tarn. -/
def pipeGoes (c p pc : Nat) (s t : State) : Prop :=
  (pc < (pipeOf s c p).nins → pipeOf t c p = { pipeOf s c p with pc := pc, count := (pipeOf s c p).count + 1 } ∧ t.units = s.units) ∧
    ((pipeOf s c p).nins ≤ pc → pipeOf t c p = {}) ∧
    (∀ q : PipeId, q.val ≠ p → pipeOf t c q.val = pipeOf s c q.val) ∧
    (rd t (coreReg c 0xB164)).toNat = min ((rd s (coreReg c 0xB164)).toNat + 1) 0xFFFFFFFF ∧
    t.mere = s.mere ∧ t.acc = s.acc ∧ t.treg = s.treg ∧ t.mask = s.mask

/-! ## The ring -/

/-- A ring packet of a kind, under a revolution number and a sequence number, waits at a port to be sent (R348). -/
def ringQueued (t : State) (p kind revno n : Nat) : Prop :=
  ∃ k : Packet, (10, k) ∈ (port t p).txq ∧ k.op = 7 ∧ k.status = kind ∧ k.addr = revno ∧ k.tag = n % 65536

/-- The last packets that wait at a port bring a shard to the successor (R348). -/
def shardQueued (t : State) (p : Nat) (l : List Byte) : Prop :=
  ∃ before last : List (Nat × Packet), (port t p).txq = before ++ last ∧ (last.flatMap fun e => e.2.data) = l ∧
    ∀ e ∈ last, e.1 = 10 ∧ e.2.op = 7 ∧ e.2.status = ringData

/-! ## Units -/

/-- The commands of a core's units: core, unit code and operation code (tables of opcodes). -/
def unitCommand (i : Instr) : Option (CoreId × Nat × Nat) :=
  match i with
  | .mxaNop c a => some (c, a.val, 0)
  | .mxaLoadw c a => some (c, a.val, 0x10)
  | .mxaStream c a => some (c, a.val, 0x20)
  | .mxaZacc c a => some (c, a.val, 0x30)
  | .vxeNop c => some (c, 4, 0)
  | .vxeLdprog c => some (c, 4, 0x10)
  | .vxeLane c => some (c, 4, 0x20)
  | .vxeQconv c => some (c, 4, 0x30)
  | .vxePmerge c => some (c, 4, 0x40)
  | .vxeTrans c => some (c, 4, 0x50)
  | .vxeMmov c => some (c, 4, 0x60)
  | .rduNop c => some (c, 5, 0)
  | .rduRed c => some (c, 5, 0x10)
  | .spuNop c => some (c, 6, 0)
  | .spuRun c => some (c, 6, 0x10)
  | .spuRdreg c => some (c, 6, 0x20)
  | .fxeNop c => some (c, 7, 0)
  | .fxeFetch c => some (c, 7, 0x10)
  | .fxeStream c => some (c, 7, 0x20)
  | .fxeGather c => some (c, 7, 0x30)
  | .fxeTpwr c => some (c, 7, 0x40)
  | .sxeNop c => some (c, 8, 0)
  | .sxeStore c => some (c, 8, 0x10)
  | .sxeScatter c => some (c, 8, 0x20)
  | .sxeScadd c => some (c, 8, 0x30)
  | .lseNop c => some (c, 9, 0)
  | .lseAttn c => some (c, 9, 0x10)
  | .lseMove c => some (c, 9, 0x20)
  | _ => none

/-- Head q of unit key k may start as p (R46): its issue time is reached, its bundle issued and granted, its unit has nothing
running, its wait is met, no scoreboard holds it back, and its tokens are there. -/
def mayStartAs (s : State) (k : Nat) (q : QCmd) (p : Prep) : Prop :=
  stepOpen s = true ∧ headOf s k = some q ∧ q.refused = 0 ∧ judge s q = .ok p ∧ (unitOf s k).running = [] ∧
    reached s q = true ∧ bundleGranted s q.bundle = true ∧ (startWaits p.run.nest = true → waitOk s q.core q = true) ∧
    sbBlock s k q p.run.claims = none ∧ taps q.cmd = false ∧
    (p.cost ≤ q.drawn ∨ (q.asked = false ∧ p.cost - q.drawn ≤ grantLeft s q.bundle))

/-- It has started: it has left the queue, and its wait at level 0 has been taken once. -/
def hasStarted (k : Nat) (q : QCmd) (p : Prep) (s t : State) : Prop :=
  (unitOf t k).queue = (unitOf s k).queue.tail ∧
    (q.cmd.sen = false → q.cmd.wen = true → startWaits p.run.nest = true →
      flag t q.core q.cmd.wflag = flag s q.core q.cmd.wflag - q.cmd.wcnt)

/-- The iteration that a run of unit k has come to may begin: its wait is met and the segments that it touches are on; the
engines run and no abort is under way. -/
def mayIterate (s : State) (r : Run) : Prop :=
  engines s = true ∧ s.ssq.aborting = false ∧ iterReady s r = true ∧ segsReady s r.q.core (runSegs r r.it fun _ => true)

/-- No waiter of another unit that could take from a flag now is judged before one of unit k (R58). -/
def firstInLine (s : State) (k : Nat) : Prop := ∀ (f : Nat) (q : QCmd), preceded s k f q = false

/-- Run r is the one that a unit's event of an operation code goes on with, and its iteration may begin. -/
def goesOn (s : State) (k op : Nat) (r : Run) : Prop :=
  firstInLine s k ∧ mayIterate s r ∧ r.q.cmd.opcode = op ∧
    firstRun s k (fun r => r.q.cmd.opcode == op && r.skipped == 0 && iterReady s r) = some r

/-- Tarn byte a of core c. -/
def tarnByte (s : State) (c a : Nat) : Byte := sget zero8 (tarnKey c a) s.tarn

end Sys2Proof.Machine
end

