-- ==== Sys2Proof/Certificates/Slice0/Obligations.lean ====
section
/-! DEFINITION. Statements about the block, from the numbered rules of its manual. `canonical` is the invariant that every step
keeps (StepKeepsCanonical). -/

open Sys2Proof Sys2Proof.Machine

/-- For every command c and state s, a step of s with c at the front of its queue is exec of c on s with the rest of the
queue; with an empty queue the step leaves the state as it is (the model's choice, log entry 1).
(spec/95_what_each_step_holds.md.) -/
def Obligations.StepRunsFront : Prop :=
  (∀ (c : Instr) (rest : List Instr) (s : State),
    step { s with pending := c :: rest } = exec c { s with pending := rest }) ∧
  ∀ s : State, s.pending = [] → step s = .next s

/-- Every one of the 222 commands, in every state, completes, and leaves the queue of waiting commands as it was.
(spec/95_what_each_step_holds.md.) -/
def Obligations.CommandsKeepQueue : Prop :=
  ∀ (c : Instr) (s : State), ∃ t, exec c s = .next t ∧ t.pending = s.pending

/-- After reset every store of the state is in canonical form, the queue is empty, every register of the map reads the
reset value of its row, and TARN_SIZE is a nonzero multiple of 4 MiB, at most 2^27. What Mere holds then is the
model's choice, log entry 2. (R10, R195, R214, R494, R501, log entry 2.) -/
def Obligations.ResetState : Prop :=
  canonical State.reset = true ∧ State.reset.pending = [] ∧ (∀ a : Nat, rd State.reset a = resetWord a) ∧
  (rd State.reset rTarnSize).toNat % 2 ^ 22 = 0 ∧ 0 < (rd State.reset rTarnSize).toNat ∧ (rd State.reset rTarnSize).toNat ≤ 2 ^ 27

/-- From every state whose memories, control space and engine stores are in canonical form (keys strictly rising, no entry
equal to what an unlisted key reads as), one step leads to a state of which the same holds. (R181, R214, R494.) -/
def Obligations.StepKeepsCanonical : Prop :=
  ∀ s t : State, canonical s = true → step s = .next t → canonical t = true

/-- GO from a requester that may write, in a powered part in RUN with no step running, for a loaded task and an entry
inside its stream, with the oscillators settled for the mode selected, begins a step; so does STEP_BEGIN_AFTER_SETTLE
for a step held for the oscillators. The issue time is 0, every flag of every live core is 0, the skip log is empty,
the statistics counters of the SSQ are as they were, and Mere, Tarn and the accumulators are as they were. (R35.) -/
def Obligations.StepBegins : Prop :=
  (∀ (rq : Requester) (strict : Bool) (s : State), canonical s = true → powered s = true → fclState s = 0 →
    mayWrite s rq = true → s.ssq.run = false → bitOf (rd s (rCompat + 4 * rdF s rSsqTask 0 6)) 1 = true →
    (rd s rSsqEntry).toNat * 16 < streamLen s (rdF s rSsqTask 0 6) →
    bitOf (rd s rDetCtl) 0 = s.time.osc →
    ∃ t, exec (.go rq strict) s = .next t ∧ stepBegun s t ∧ t.ssq.task = rdF s rSsqTask 0 6 ∧ t.ssq.strict = strict
      ∧ t.ssq.fetchOff = (rd s rSsqEntry).toNat * 16) ∧
  ∀ s : State, canonical s = true → engines s = true → s.ssq.run = true → s.ssq.held = true → s.ssq.aborting = false →
    ∃ t, exec .stepBeginAfterSettle s = .next t ∧ stepBegun s t ∧ t.ssq.task = s.ssq.task

/-- GO that names a task that is not loaded, or an entry at or beyond the end of its section, ends the step at once with
result STREAM and STEP_DONE set, and the SSQ holds the contained fault with cause 0x10; nothing is dispatched. (R34.) -/
def Obligations.GoEndsOutsideStream : Prop :=
  ∀ (rq : Requester) (strict : Bool) (s : State), canonical s = true → powered s = true → fclState s = 0 →
    mayWrite s rq = true → s.ssq.run = false →
    (bitOf (rd s (rCompat + 4 * rdF s rSsqTask 0 6)) 1 = false ∨
      streamLen s (rdF s rSsqTask 0 6) ≤ (rd s rSsqEntry).toNat * 16) →
    ∃ t, exec (.go rq strict) s = .next t ∧ t.ssq.run = false ∧ t.ssq.result = 5 ∧ t.ssq.stepDone = true ∧ t.ssq.issue = 0
      ∧ t.ssq.skips = [] ∧ (∀ c f, live s c = true → f < 4096 → flag t c f = 0)
      ∧ (t.pend.any fun p => p.source == srcOf 4 0 0 && p.cause == 0x10) = true ∧ t.units = s.units

/-- A write of SSQ_CTL with GO = 1 while a step runs starts nothing: it changes the STRICT bit of the same write and
nothing else. (R32.) -/
def Obligations.GoWhileRunning : Prop :=
  ∀ (rq : Requester) (strict : Bool) (s : State), powered s = true → mayWrite s rq = true → s.ssq.run = true →
    exec (.go rq strict) s =
      .next (wrF rSsqCtl 1 1 (if strict then 1 else 0) { s with ssq := { s.ssq with strict := strict } })

/-- With a step running that is not held, not halted and not yet ending, ABORT discards every undispatched and queued
command, makes the running ones end, and keeps result ABORT; OVERRUN does so past the step limit with result OVERRUN
and the fault 0x13; DEADLOCK_WALK does so after 2^20 ticks without a retirement when the wait table has a cycle, with
result DEADLOCK, the status bit set and the fault 0x12. (R70, R72, R73.) -/
def Obligations.StepAborts : Prop :=
  ∀ s : State, canonical s = true → engines s = true → s.ssq.run = true → s.ssq.held = false → s.ssq.aborting = false → s.ssq.halt = false →
    (∃ t, exec .abort s = .next t ∧ stepEnding s t ∧ t.ssq.result = 6) ∧
    (bitOf (rd s rStepLimit) 31 = true → s.ssq.began + fld (rd s rStepLimit) 0 24 * 1024 ≤ s.now →
      ∃ t, exec .overrun s = .next t ∧ stepEnding s t ∧ t.ssq.result = 3
        ∧ (t.pend.any fun p => p.source == srcOf 4 0 0 && p.cause == 0x13) = true) ∧
    (s.ssq.lastRetire + 2 ^ 20 ≤ s.now → workLeft s = true → hasCycle (waitTable s) = true →
      ∃ t, exec .deadlockWalk s = .next t ∧ stepEnding s t ∧ t.ssq.result = 2 ∧ t.ssq.deadlock = true
        ∧ (rd t rDeadlockCount).toNat = min ((rd s rDeadlockCount).toNat + 1) 0xFFFFFFFF
        ∧ (t.pend.any fun p => p.source == srcOf 4 0 0 && p.cause == 0x12) = true)

/-- A bundle that lies inside the section and passes the checks, with room in the stream buffer for its commands, is
appended to the fetched bundles: its issue time is that of the bundle before plus ISSUE_DELTA, its tag, fences, token
count and commands are those of its bytes, and the fetch offset moves past its 16 + 32 × COUNT bytes; of the bundles
before it only the one that it is joined to changes, and that only in its tokens (log entry 59). Units, flags, Tarn
and Mere stay. A bundle whose CHECK or reserved bits are wrong ends the step with result STREAM and the fault 0x10.
One that the buffer has no room for is not fetched. (R36, R37, R38.) -/
def Obligations.BundleFetched : Prop :=
  ∀ (ecc : EccMap) (s : State), stepOpen s = true → s.ssq.endSeen = false →
    let h := streamBytes s s.ssq.fetchOff 16
    let count := leAt h 0 4 / 2 ^ 16 % 32
    let l := streamBytes s s.ssq.fetchOff (16 + 32 * count)
    count ≤ 16 → s.ssq.fetchOff + 16 + 32 * count ≤ streamLen s s.ssq.task →
    (8192 < buffered s + count → exec (.bundleFetch ecc) s = .next s) ∧
    (buffered s + count ≤ 8192 → bundleOk l count = true →
      ∃ (t : State) (old : List Bundle) (b : Bundle), exec (.bundleFetch ecc) s = .next t
        ∧ t.ssq = { s.ssq with
            fetchOff := s.ssq.fetchOff + 16 + 32 * count, lastIssue := s.ssq.lastIssue + leAt h 0 2,
            nextBundle := s.ssq.nextBundle + 1, bundles := old ++ [b], endSeen := (leAt h 3 1).testBit 3 }
        ∧ (b.lead = b.id ∨ count = 0 → old = s.ssq.bundles) ∧ old.length = s.ssq.bundles.length
        ∧ (∀ (n : Nat) (x y : Bundle), s.ssq.bundles[n]? = some x → old[n]? = some y →
            y = { x with tokens := y.tokens, asked := y.asked, granted := y.granted } ∧ (x.id ≠ b.lead → y = x))
        ∧ t.units = s.units ∧ t.flags = s.flags ∧ t.tarn = s.tarn ∧ t.mere = s.mere
        ∧ b.issue = s.ssq.lastIssue + leAt h 0 2 ∧ b.tag = leAt h 6 2 ∧ b.fence = leAt h 3 1 ∧ b.tokens = leAt h 4 4 % 4096
        ∧ b.issued = false ∧ b.cmds.length = count
        ∧ ∀ i, i < count → b.cmds[i]? = some (i, Cmd.ofBytes (slice (16 + 32 * i) 32 l))) ∧
    (buffered s + count ≤ 8192 → bundleOk l count = false → canonical s = true →
      ∃ t, exec (.bundleFetch ecc) s = .next t ∧ stepEnding s t ∧ t.ssq.result = 5
        ∧ (t.pend.any fun p => p.source == srcOf 4 0 0 && p.cause == 0x10) = true)

/-- The next command in stream order, within the run-ahead limit and with room in its queues, goes to the queue of each
unit it is for, with the issue time and tag of its bundle and the reason with which the checks of dispatch refuse it
(0 for none); a command for no unit queue is held by the SSQ. (R42, R51, R52, R53.) -/
def Obligations.Dispatched : Prop :=
  ∀ (s : State) (b : Bundle) (slot : Nat) (c : Cmd), canonical s = true → stepOpen s = true → nextCmd s = some (b, slot, c) →
    b.issue ≤ s.ssq.issue + fld (rd s rRunahead) 0 24 → fullQueue s c = none →
    ∃ t, exec .dispatch s = .next t ∧ t.tarn = s.tarn ∧ t.mere = s.mere ∧ t.csr = s.csr ∧ t.flags = s.flags ∧
      (targets s c = [] → ∃ q : QCmd, t.ssq.holds = s.ssq.holds ++ [q] ∧ q.cmd = c ∧ q.tag = b.tag ∧ q.issue = b.issue
        ∧ q.refused = dispatchReason s b.fence c ∧ t.units = s.units) ∧
      ∀ n ∈ targets s c, ∃ q : QCmd,
        (unitOf t (unitKey n c.unit)).queue = (unitOf s (unitKey n c.unit)).queue ++ [q]
        ∧ (unitOf t (unitKey n c.unit)).running = (unitOf s (unitKey n c.unit)).running
        ∧ q.cmd = c ∧ q.core = n ∧ q.tag = b.tag ∧ q.slot = slot ∧ q.issue = b.issue
        ∧ q.refused = dispatchReason s b.fence c

/-- The first bundle not yet issued, once its issue time is reached and its fences are met, is marked issued; unless it
needs none, its tokens are asked of the PGV behind every earlier request; nothing else changes. (R39, R40.) -/
def Obligations.BundleIssued : Prop :=
  ∀ (s : State) (b : Bundle), stepOpen s = true → nextIssue s = some b → b.issue ≤ s.ssq.issue → fencesMet s b = true →
    exec .bundleIssue s = .next { s with
      ssq := { s.ssq with bundles := s.ssq.bundles.map fun x => if x.id = b.id then { x with issued := true, asked := true } else x }
      pgv := { s.pgv with reqs := s.pgv.reqs ++
        if b.asked then [] else [{ bundle := b.id, isDraw := false, unit := 0, seq := 0, amount := b.tokens }] } }

/-- The first request at the PGV, when the pool has what it asks for (a bundle that asks for more than the pool is granted
the pool), is served: for a bundle with a command still to start, the tokens held and taken rise by the grant and the
request leaves; for a direct draw of the command at the head of its unit, the command holds what it drew. A request
that cannot be served holds back every later one. (R40, R408.) -/
def Obligations.TokensGranted : Prop :=
  ∀ (s : State) (r : PgvReq) (rest : List PgvReq), canonical s = true → engines s = true → s.ssq.run = true → s.ssq.aborting = false →
    s.pgv.reqs = r :: rest →
    (s.pgv.held + min r.amount (poolSize s) ≤ poolSize s → r.isDraw = false → unstarted s r.bundle = true →
      ∃ t, exec .tokenGrant s = .next t ∧ t.pgv.reqs = rest ∧ t.pgv.held = s.pgv.held + min r.amount (poolSize s)
        ∧ t.pgv.taken = s.pgv.taken + Word.ofNat (min r.amount (poolSize s))
        ∧ t.ssq.bundles = s.ssq.bundles.map fun x =>
            if x.id = r.bundle then { x with granted := true, grant := min r.amount (poolSize s) } else x) ∧
    (∀ q : QCmd, s.pgv.held + min r.amount (poolSize s) ≤ poolSize s → r.isDraw = true → headOf s r.unit = some q → q.seq = r.seq →
      ∃ t, exec .tokenGrant s = .next t ∧ t.pgv.reqs = rest ∧ t.pgv.held = s.pgv.held + min r.amount (poolSize s)
        ∧ headOf t r.unit = some { q with asked := false, drawn := q.drawn + min r.amount (poolSize s) }) ∧
    (poolSize s < s.pgv.held + min r.amount (poolSize s) → exec .tokenGrant s = .next s)

/-- One tick of a running step adds 1 to the time tick. When nothing is late, issue time goes from T to T + 1 and nothing
is frozen; when an item is late, or the step is halted, issue time stays and the tick is counted as frozen. (R47, R50,
R69.) -/
def Obligations.IssueTimeTick : Prop :=
  ∀ s : State, canonical s = true → engines s = true → s.ssq.run = true → s.ssq.held = false → s.ssq.aborting = false →
    let s' := countTicks { s with now := s.now + 1 }
    ∃ t, exec .issueTimeAdvance s = .next t ∧ t.now = s.now + 1 ∧
      (s.ssq.halt = false → lateItems s' = [] → t.ssq.issue = s.ssq.issue + 1 ∧ t.ssq.freeze = false
        ∧ t.ssq.freezeTicks = s.ssq.freezeTicks ∧ t.units = s.units) ∧
      (s.ssq.halt = true ∨ lateItems s' ≠ [] → t.ssq.issue = s.ssq.issue ∧ t.ssq.freeze = true
        ∧ t.ssq.freezeTicks = s.ssq.freezeTicks + 1) ∧
      t.flags = s.flags ∧ t.tarn = s.tarn ∧ t.mere = s.mere

/-- A command judged bad at the head of its unit, with its issue time reached, its level-0 wait met, no earlier command
still to write what it reads (log entry 72) and no waiter on its flag before it (R58), is counted and logged with its
tag, place, reason and issue time. In strict mode the step halts and the command stays; otherwise it leaves the queue.
(R68, R69.) -/
def Obligations.CommandSkipped : Prop :=
  ∀ (c : CoreId) (u : Fin 12) (q : QCmd) (e : Nat) (s : State), canonical s = true → stepOpen s = true → u.val ≠ 10 →
    firstRun s (unitKey c.val u.val) (fun r => r.skipped != 0) = none → headOf s (unitKey c.val u.val) = some q →
    headFree s (unitKey c.val u.val) q = true → judge s q = .error e → e ≠ 0 → reached s q = true → taps q.cmd = false →
    q.core = c.val → q.cmd.unit = u.val →
    (startWaits (skipNest s q) = true → waitOk s q.core q = true) → readsHeld s q e = false → s.ssq.skips.length < 16 →
    inLine (unitKey c.val u.val) s (skippedCommand c.val u.val s) = true →
    ∃ t, exec (.skippedCommand c u) s = .next t
      ∧ t.ssq.skips = s.ssq.skips ++
        [(Word.ofNat (q.tag % 2 ^ 16 + q.slot % 16 * 2 ^ 16 + e % 256 * 2 ^ 20 + 2 ^ 31), Word.ofNat q.issue)]
      ∧ (rd t rSkipCount).toNat = min ((rd s rSkipCount).toNat + 1) 0xFFFFFFFF
      ∧ (s.ssq.strict = true → t.ssq.halt = true ∧ t.units = s.units ∧ t.flags = s.flags)
      ∧ (s.ssq.strict = false → (unitOf t (unitKey c.val u.val)).queue = (unitOf s (unitKey c.val u.val)).queue.tail)

/-- The first add held for a flag for which the flag has room is added to the flag and is held no more; while there is
none nothing changes. No count is dropped or saturated. (R57.) -/
def Obligations.HeldAddApplied : Prop :=
  ∀ (c : CoreId) (f : Fin 4096) (s : State), canonical s = true → engines s = true →
    let first := s.heldAdds.find? fun h => h.core == c.val && h.flag == f.val && decide (flag s c.val f.val + h.n ≤ 65535)
    (∀ h : HeldAdd, first = some h →
      ∃ t, exec (.flagAddHeld c f) s = .next t ∧ flag t c.val f.val = flag s c.val f.val + h.n
        ∧ t.heldAdds = s.heldAdds.erase h
        ∧ ∀ c' f', c'.val * 4096 + f' ≠ c.val * 4096 + f.val → flag t (c' : CoreId).val f' = flag s c'.val f') ∧
    (first = none → exec (.flagAddHeld c f) s = .next s)

/-- The n-th SYNC.SET that the SSQ holds, when it may act, consumes its wait and adds its immediate, and SCNT with SEN =
1, to flag SFLAG of each core it sets; a SYNC.WAIT consumes and adds SCNT when SEN = 1. Either then leaves the SSQ.
Stated for a command whose adds find room, whose waited flag is not the one it sets, and which no other waiter on that
flag precedes (R58). (R504.) -/
def Obligations.SyncActs : Prop :=
  ∀ (n : Nat) (q : QCmd) (s : State), canonical s = true → (q.cmd.wen = true → q.cmd.wflag ≠ q.cmd.sflag) →
    (holdAt s true n = some q → inLine ssqKey s (syncSet n s) = true →
      (∀ c ∈ holdSets s q, flag s c q.cmd.sflag + (fld q.cmd.w4 0 16 + if q.cmd.sen then q.cmd.scnt else 0) ≤ 65535) →
      ∃ t, exec (.syncSet n) s = .next t ∧ t.ssq.holds = s.ssq.holds.filter (fun x => x.seq != q.seq)
        ∧ (∀ c ∈ holdSets s q, flag t c q.cmd.sflag =
            flag s c q.cmd.sflag + (fld q.cmd.w4 0 16 + if q.cmd.sen then q.cmd.scnt else 0))
        ∧ (q.cmd.wen = true → ∀ c ∈ holdCores s q, flag t c q.cmd.wflag = flag s c q.cmd.wflag - q.cmd.wcnt)) ∧
    (holdAt s false n = some q → inLine ssqKey s (syncWait n s) = true → (q.cmd.sen = true → ∀ c ∈ holdSets s q, flag s c q.cmd.sflag + q.cmd.scnt ≤ 65535) →
      ∃ t, exec (.syncWait n) s = .next t ∧ t.ssq.holds = s.ssq.holds.filter (fun x => x.seq != q.seq)
        ∧ (∀ c ∈ holdSets s q, flag t c q.cmd.sflag = flag s c q.cmd.sflag + if q.cmd.sen then q.cmd.scnt else 0)
        ∧ (q.cmd.wen = true → ∀ c ∈ holdCores s q, flag t c q.cmd.wflag = flag s c q.cmd.wflag - q.cmd.wcnt))

/-- When the END bundle has been issued and everything of the step has retired, and not before, the step ends: RUN clears,
STEP_DONE sets and the result is written. Each flag of a live core that is not 0 is counted and reads 0 afterwards;
with such a flag the result is RESIDUE, and Weast notes the step as failed for the batch in hand. (R41, R59.) -/
def Obligations.StepEnds : Prop :=
  ∀ s : State, canonical s = true → engines s = true → s.ssq.run = true → s.ssq.held = false → s.ssq.aborting = false →
    s.ssq.halt = false →
    (allDone s = true → ∃ t, exec .stepEnd s = .next t ∧ t.ssq.run = false ∧ t.ssq.stepDone = true
      ∧ t.ssq.result = (if residue s = 0 then s.ssq.result else 4)
      ∧ (rd t rFlagResidue).toNat = min ((rd s rFlagResidue).toNat + residue s) 0xFFFFFFFF
      ∧ (∀ c f, live s c = true → f < 4096 → flag t c f = 0) ∧ t.tarn = s.tarn ∧ t.mere = s.mere ∧ t.acc = s.acc
      ∧ (residue s ≠ 0 → ∀ b : Batch, s.batch = some b → b.ended = none →
          ∃ b' : Batch, t.batch = some b' ∧ b'.ended = some s.now ∧ (b.self, false) ∈ b'.segs)) ∧
    (allDone s = false → exec .stepEnd s = .next s)

/-- LI, LUI, ADD, SUB, MUL, ADDI, AND, OR, XOR, SHL, SHR, SAR, MIN, MAX, SLT, SLTU, SEL, FADD, FMUL, FLT, I2F, F2I, FEXP2,
FLOG2 and RAND write their result to rd (x0 ignores the write), leave every other register of every pipe, Tarn, Mere
and the vector and array storage as they were, count one instruction, and the pipe goes on to the next or ends past
its program. (R174, R176, R177, R178.) -/
def Obligations.PipeArithmetic : Prop :=
  ∀ (i : Instr) (c : CoreId) (p : PipeId) (opc : Nat) (f : DWord → DWord → DWord → DWord → DWord) (s : State),
    canonical s = true → pipeResult i = some (c, p, opc, f) → pipeAt s c.val p.val opc →
    let n := insAt s c.val p.val
    ∃ t, exec i s = .next t
      ∧ (n.rd ≠ 0 → xReg t c.val p.val n.rd =
          f (xReg s c.val p.val n.rd) (xReg s c.val p.val n.ra) (xReg s c.val p.val n.rb) n.imm)
      ∧ (∀ (c' : CoreId) (p' : PipeId) (r : Fin 32), c' ≠ c ∨ p' ≠ p ∨ r.val ≠ n.rd →
          xReg t c'.val p'.val r.val = xReg s c'.val p'.val r.val)
      ∧ xReg t c.val p.val 0 = 0 ∧ t.tarn = s.tarn ∧ pipeGoes c.val p.val ((pipeOf s c.val p.val).pc + 1) s t

/-- LD1 to LD8 write the little-endian bytes at ra + imm, zero-extended, to rd; ST1 to ST8 write the low bytes of rb there
and leave every other byte of Tarn as it was. The access lies in the run's window. Registers other than a load's rd,
Mere and the other storage stay. (R176, R177, R85.) -/
def Obligations.PipeAccesses : Prop :=
  ∀ (i : Instr) (c : CoreId) (p : PipeId) (opc n : Nat) (st : Bool) (s : State),
    canonical s = true → pipeAccess i = some (c, p, opc, n, st) → pipeAt s c.val p.val opc →
    let w := insAt s c.val p.val
    let a := (xReg s c.val p.val w.ra + w.imm).toNat
    (pipeOf s c.val p.val).winLo ≤ a → a + n - 1 ≤ (pipeOf s c.val p.val).winHi →
    ∃ t, exec i s = .next t
      ∧ (st = false → t.tarn = s.tarn ∧ (w.rd ≠ 0 → xReg t c.val p.val w.rd = BitVec.ofNat 64 (tarnLe s c.val a n)))
      ∧ (st = true → t.spu = s.spu ∧ tarnRead t c.val a n = leBytes n (xReg s c.val p.val w.rb).toNat
          ∧ ∀ b, b < tarnKey c.val a ∨ tarnKey c.val a + n ≤ b → sget zero8 b t.tarn = sget zero8 b s.tarn)
      ∧ (∀ (c' : CoreId) (p' : PipeId) (r : Fin 32), c' ≠ c ∨ p' ≠ p ∨ r.val ≠ w.rd →
          xReg t c'.val p'.val r.val = xReg s c'.val p'.val r.val)
      ∧ pipeGoes c.val p.val ((pipeOf s c.val p.val).pc + 1) s t

/-- BLT, BEQ, BNE and J go to the instruction imm places away when their condition holds and the target lies in the
program, and to the next instruction when it does not hold; they write no register and no memory. (R176, R177.) -/
def Obligations.PipeBranches : Prop :=
  ∀ (i : Instr) (c : CoreId) (p : PipeId) (opc : Nat) (f : DWord → DWord → Bool) (s : State),
    canonical s = true → pipeBranch i = some (c, p, opc, f) → pipeAt s c.val p.val opc →
    let w := insAt s c.val p.val
    let dest : Int := ((pipeOf s c.val p.val).pc : Int) + w.imm.toInt
    let taken := f (xReg s c.val p.val w.ra) (xReg s c.val p.val w.rb)
    (taken = true → 0 ≤ dest ∧ dest < ((pipeOf s c.val p.val).nins : Int)) →
    ∃ t, exec i s = .next t ∧ t.spu = s.spu ∧ t.tarn = s.tarn
      ∧ pipeGoes c.val p.val (if taken then dest.toNat else (pipeOf s c.val p.val).pc + 1) s t

/-- HALT ends the run of its pipe, counted as an instruction. SPU_CUTOFF ends a run whose budget is used up, whose next
word is not an instruction, or whose next load, store or branch is out of range: it is counted in SPU_CUTOFF, the SPU
holds the contained fault 0x14, with the command's tag when it held none of that cause, and Tarn is as it was. Stated
where the segments that the instruction is fetched from are on. (R176.) -/
def Obligations.PipeStops : Prop :=
  ∀ (c : CoreId) (p : PipeId) (s : State), canonical s = true →
    (pipeAt s c.val p.val 0 →
      ∃ t, exec (.halt c p) s = .next t ∧ pipeOf t c.val p.val = {} ∧ t.spu = s.spu ∧ t.tarn = s.tarn ∧ t.pend = s.pend
        ∧ (rd t (coreReg c.val 0xB164)).toNat = min ((rd s (coreReg c.val 0xB164)).toNat + 1) 0xFFFFFFFF) ∧
    (engines s = true → s.ssq.aborting = false → (pipeOf s c.val p.val).nins ≠ 0 →
      segsReady s c.val (fetchSegs s c.val p.val) →
      (insBad s c.val p.val (insAt s c.val p.val) = true ∨ insOut s c.val p.val (insAt s c.val p.val) = true) →
      ∃ t, exec (.spuCutoff c p) s = .next t ∧ pipeOf t c.val p.val = {} ∧ t.tarn = s.tarn
        ∧ (rd t (coreReg c.val 0xB168)).toNat = min ((rd s (coreReg c.val 0xB168)).toNat + 1) 0xFFFFFFFF
        ∧ asserts t (srcOf 0 c.val 6) 0x14
        ∧ (¬ asserts s (srcOf 0 c.val 6) 0x14 → ∃ e : Pend, t.pend = s.pend ++ [e]
            ∧ e.detail = ((runOf s (spuKey c.val) (pipeOf s c.val p.val).seq).map fun r => r.q.tag).getD 0))

/-- For every command of the arrays, the VXE, the RDU, the SPU, the FXE, the SXE and the LSE (their NOPs too): when its
head is judged good, every condition of starting holds and no waiter on its flag is judged before it (R58), the
command starts. It leaves its queue, and a wait at level 0 is taken from its flag once. (R46, R52, R55.) -/
def Obligations.UnitsStart : Prop :=
  ∀ (i : Instr) (c : CoreId) (u op : Nat) (q : QCmd) (p : Prep) (s : State), canonical s = true →
    unitCommand i = some (c, u, op) → q.core = c.val → q.cmd.unit = u → q.cmd.opcode = op →
    mayStartAs s (unitKey c.val u) q p → firstInLine s (unitKey c.val u) →
    ∃ t, exec i s = .next t ∧ hasStarted (unitKey c.val u) q p s t

/-- ORE.NOP and ORE.REV leave the engine's queue when their head is judged good, every condition of starting holds, no
waiter on their flag is judged before them (R58), and neither a revolution nor a fill runs. ORE.REV then begins a
revolution of its model with the number that ORE_REVNO holds, and ORE_REVNO steps to the next, 0 after 0xFFFF_FFFE.
(R43, R46, R58, R357, R361, R370.) -/
def Obligations.RingCommandsStart : Prop :=
  ∀ (q : QCmd) (p : Prep) (s : State), canonical s = true → q.cmd.unit = 11 → q.core < 12 → s.ore.rev = false →
    s.ore.filling = false → mayStartAs s oreKey q p → firstInLine s oreKey →
    (q.cmd.opcode = 0 → ∃ t, exec .oreNop s = .next t ∧ hasStarted oreKey q p s t) ∧
    (q.cmd.opcode = 0x10 →
      ∃ t, exec .oreRev s = .next t ∧ hasStarted oreKey q p s t ∧ t.ore.rev = true ∧ t.ore.model = revModel q
        ∧ t.ore.revno = (rd s rOreRevno).toNat ∧ (rd t rOreRevno).toNat = ((rd s rOreRevno).toNat + 1) % 0xFFFFFFFF)

/-- One iteration of a running MXA.ZACC that may begin writes 0 to every accumulator of its operand's rows and columns,
and leaves every other accumulator, Tarn and the tile registers as they were. (R115.) -/
def Obligations.MxaZeros : Prop :=
  ∀ (c : CoreId) (a : ArrId) (r : Run) (s : State), canonical s = true → mayIterate s r →
    firstInLine s (unitKey c.val a.val) → headIs s (unitKey c.val a.val) 0x30 = none →
    rowRun s (unitKey c.val a.val) = some r → r.q.cmd.opcode = 0x30 → r.empty = false →
    let d := r.desc.getD 0 {}
    let row0 := (d.base + r.nest.offset r.it 0).toNat
    32 * d.colb + d.e 0 ≤ 256 → row0 + d.e 1 ≤ 1024 →
    ∃ t, exec (.mxaZacc c a) s = .next t ∧ t.tarn = s.tarn ∧ t.treg = s.treg ∧ t.mere = s.mere
      ∧ (∀ m j, m < d.e 1 → j < d.e 0 → accAt t c.val a.val (row0 + m) (32 * d.colb + j) = 0)
      ∧ ∀ (c' : CoreId) (a' : ArrId) (row col : Nat), row < 1024 → col < 256 →
          (c' ≠ c ∨ a' ≠ a ∨ row < row0 ∨ row0 + d.e 1 ≤ row ∨ col < 32 * d.colb ∨ 32 * d.colb + d.e 0 ≤ col) →
          accAt t c'.val a'.val row col = accAt s c'.val a'.val row col

/-- One pass of a running MXA.STREAM that is ready, no command of its opcode starting, whose activations are in segments
that are on and before which no waiter on its flag is judged: its tile is the one it swaps in (the shadow, empty
afterwards) or the active one; each accumulator of its rows and columns becomes the sum for its row and column,
overwritten or added as AMODE says, and 0 in the place of the sum past the tile's columns or with a zero tile; every
other accumulator, Tarn and Mere stay. (R109, R118, R119, R123, R262, R264.) -/
def Obligations.MxaPassSums : Prop :=
  ∀ (c : CoreId) (a : ArrId) (r : Run) (s : State), canonical s = true → engines s = true → s.ssq.aborting = false →
    firstInLine s (unitKey c.val a.val) → headIs s (unitKey c.val a.val) 0x20 = none →
    (∀ q, headOf s (unitKey c.val a.val) = some q → started s (unitKey c.val a.val) q.seq = false) →
    rowRun s (unitKey c.val a.val) = some r → r.q.cmd.opcode = 0x20 → passReady s r = true →
    segsReady s c.val (runSegs r r.it fun j => j == 0) →
    let x := r.desc.getD 0 {}
    let o := r.desc.getD 2 {}
    let row0 := (o.base + r.nest.offset r.it 2).toNat
    let swaps := (mxaWsrc r.q == 0 && loadsAt r r.it) || (mxaWsrc r.q == 1 && r.it == 0)
    let tile := if swaps then (arr s c.val a.val).shadow.getD {} else (arr s c.val a.val).active
    let adds := mxaAmode r.q == 1 || (mxaAmode r.q == 2 && r.nest.digit r.it (mxaAlvl r.q) != 0)
    32 * o.colb + o.e 0 ≤ 256 → row0 + x.e 1 ≤ 1024 →
    ∃ t, exec (.mxaStream c a) s = .next t ∧ t.tarn = s.tarn ∧ t.mere = s.mere ∧ (arr t c.val a.val).active = tile
      ∧ (swaps = true → (arr t c.val a.val).shadow = none)
      ∧ (∀ m j, m < x.e 1 → j < o.e 0 →
          let xs := (readRow s (.tarn c.val) x r.nest r.it 0 (m, 0, 0)).1
          let sum := if tile.k = 0 ∨ tile.n ≤ j then 0 else
            (columnOut tile.cls tile.dt x.dtype xs (tile.codes.getD j []) (tile.scales.getD j []) (tile.csum.getD j 0)
              (mxaZpen r.q) (mxaZp r.q)).1
          accAt t c.val a.val (row0 + m) (32 * o.colb + j) =
            (accumulate (o.dtype == 8) adds (accAt s c.val a.val (row0 + m) (32 * o.colb + j)) sum).1)
      ∧ ∀ (c' : CoreId) (a' : ArrId) (row col : Nat), row < 1024 → col < 256 →
          (c' ≠ c ∨ a' ≠ a ∨ row < row0 ∨ row0 + x.e 1 ≤ row ∨ col < 32 * o.colb ∨ 32 * o.colb + o.e 0 ≤ col) →
          accAt t c'.val a'.val row col = accAt s c'.val a'.val row col

/-- For I8 weights and I8 or U8 activations the sum for a row and a column is the exact sum of the products of their
codes, less the zero point times the column sum when ZPEN is 1, kept to 32 bits; added to an accumulator it saturates
at the I32 limits and is otherwise exact. (R109, R124, R262.) -/
def Obligations.IntegerSums : Prop :=
  ∀ (at_ : Nat) (x codes scales : List Nat) (csum old : Word) (zpen : Bool) (zp : Int), at_ = 0 ∨ at_ = 1 →
    let exact : Int := ((x.zip codes).map fun p => intOf at_ p.1 * intOf 0 p.2).sum - if zpen then zp * csum.toInt else 0
    (columnOut 0 0 at_ x codes scales csum zpen zp).1 = BitVec.ofInt 32 exact ∧
    (-2 ^ 31 ≤ exact → exact < 2 ^ 31 →
      ((accumulate false true old (BitVec.ofInt 32 exact)).1).toInt = max (-2 ^ 31) (min (2 ^ 31 - 1) (old.toInt + exact)))

/-- SHADOW_FILL, when the shadow is free for the next tile of the load under way and the tile's segments are on, puts
there the tile read from the operand, or the one staged for it, and counts the load. STAGED_READ, with room in the
staging buffer, stages the next tile of a direct load, with every weight zero when a unit it reads is beyond
correction. Both are stated for a load before which no waiter on its flag is judged (R58). The tile that is active,
Tarn, Mere and the accumulators stay. (R116, R117, R121.) -/
def Obligations.MxaLoads : Prop :=
  ∀ (c : CoreId) (a : ArrId) (r : Run) (i : Nat) (s : State), canonical s = true → engines s = true → s.ssq.aborting = false →
    let k := unitKey c.val a.val
    let ar := arr s c.val a.val
    let d := r.desc.getD (wOp r) {}
    metThrough s r i = true → firstInLine s k →
    (((unitOf s k).running.find? fun r => !(loadDone r)) = some r → nextLoad r = some i → shadowBusy s k = false →
      (d.kind ≠ 2 ∨ (ar.staged.find? fun t => t.1 == r.q.seq && t.2.1 == i).isSome) → segsReady s c.val (rowSegs d r.nest i (wOp r)) →
      ∃ t, exec (.shadowFill c a) s = .next t ∧ (arr t c.val a.val).active = ar.active
        ∧ (arr t c.val a.val).shadow = some (((ar.staged.find? fun t => t.1 == r.q.seq && t.2.1 == i).map fun t => t.2.2).getD
            (readTile s c.val d r.nest i (wOp r)))
        ∧ (rd t (arrReg c.val a.val 0xC)).toNat = min ((rd s (arrReg c.val a.val 0xC)).toNat + 1) 0xFFFFFFFF
        ∧ t.tarn = s.tarn ∧ t.mere = s.mere ∧ t.acc = s.acc) ∧
    (∀ ecc : EccMap, stagingFits ar (d.e 1 * rowBytes d.dtype (d.e 0)) = true →
      ((unitOf s k).running.find? fun r => (r.desc.getD (wOp r) {}).kind == 2 && (nextStage ar r).isSome) = some r →
      nextStage ar r = some i →
      ∃ t tile, exec (.stagedRead c a ecc) s = .next t ∧ (arr t c.val a.val).staged = ar.staged ++ [(r.q.seq, i, tile)]
        ∧ (arr t c.val a.val).active = ar.active ∧ (arr t c.val a.val).shadow = ar.shadow
        ∧ tile.codes = ((readTile s c.val d r.nest i (wOp r)).codes.map fun l =>
            if anyUe ecc (((List.range (d.e 1)).flatMap fun col =>
              unitsOf (rowAddr d r.nest i (wOp r) col 0 0) (rowBytes d.dtype (d.e 0))).eraseDups) then l.map (fun _ => 0) else l)
        ∧ t.tarn = s.tarn ∧ t.mere = s.mere ∧ t.acc = s.acc)

/-- An iteration of VXE.LDPROG puts the 64 words at its operand into its slot and marks the slot valid; an iteration of
VXE.MMOV moves the 128 bytes at its operand into its mask tile, or the mask tile's bytes to Tarn. The accumulators,
tile registers and Mere stay, and so do Tarn (but for a store's 128 bytes) and every other mask tile and slot. (R154,
R158.) -/
def Obligations.LanePrograms : Prop :=
  ∀ (c : CoreId) (r : Run) (s : State), canonical s = true →
    let k := unitKey c.val 4
    let a := imageAt (r.desc.getD 0 {}) r.nest r.it
    (goesOn s k 0x10 r →
      ∃ t, exec (.vxeLdprog c) s = .next t ∧ progOf t c.val (fld r.q.cmd.w4 0 6) = wordsOf 64 (tarnRead s c.val a 256)
        ∧ progValid t c.val (fld r.q.cmd.w4 0 6) = true
        ∧ (∀ n, n < 64 → n ≠ fld r.q.cmd.w4 0 6 → progOf t c.val n = progOf s c.val n)
        ∧ t.tarn = s.tarn ∧ t.mere = s.mere ∧ t.acc = s.acc ∧ t.treg = s.treg ∧ t.mask = s.mask) ∧
    (goesOn s k 0x60 r → bitOf r.q.cmd.w4 4 = false →
      ∃ t, exec (.vxeMmov c) s = .next t
        ∧ (∀ i, i < 32 → maskWord t c.val (fld r.q.cmd.w4 0 4) i = Word.ofNat (leAt (tarnRead s c.val a 128) (4 * i) 4))
        ∧ (∀ m i, m < 16 → i < 32 → m ≠ fld r.q.cmd.w4 0 4 → maskWord t c.val m i = maskWord s c.val m i)
        ∧ t.tarn = s.tarn ∧ t.mere = s.mere ∧ t.acc = s.acc ∧ t.treg = s.treg) ∧
    (goesOn s k 0x60 r → bitOf r.q.cmd.w4 4 = true →
      ∃ t, exec (.vxeMmov c) s = .next t ∧ t.mask = s.mask
        ∧ (∀ i, i < 32 → Word.ofNat (leAt (tarnRead t c.val a 128) (4 * i) 4) = maskWord s c.val (fld r.q.cmd.w4 0 4) i)
        ∧ (∀ b, b < tarnKey c.val a ∨ tarnKey c.val a + 128 ≤ b → sget zero8 b t.tarn = sget zero8 b s.tarn)
        ∧ t.mere = s.mere ∧ t.acc = s.acc ∧ t.treg = s.treg)

/-- An iteration of a VXE.LANE with a tile-register destination, no tap and no source in the tile registers: each element
of its walk becomes the program's OUT for it converted to the destination's type, and a masked one keeps its value, or
becomes zero with MK = 1 or OA behaviour. Tarn, Mere, the accumulators, the masks and the programs stay. (R142, R151,
R155, R159.) -/
def Obligations.LaneResults : Prop :=
  ∀ (c : CoreId) (r : Run) (s : State), canonical s = true → goesOn s (unitKey c.val 4) 0x20 r →
    firstRun s (unitKey c.val 4) (fun r => r.q.cmd.opcode == 0x20 && r.skipped == 0) = some r → laneTap r.q = false →
    laneDst r.q = true → r.empty = false → (∀ d ∈ r.desc.dropLast, d.kind ≠ 4) → r.desc ≠ [] →
    let img := progOf s c.val (laneSlot r.q)
    let w := walkOf r.desc
    let d := r.desc.getD (r.desc.length - 1) {}
    d.kind = 4 → d.base + r.nest.offset r.it (r.desc.length - 1) = 0 → w.blocks ≤ 64 →
    ∃ t, exec (.vxeLane c) s = .next t ∧ t.tarn = s.tarn ∧ t.mere = s.mere ∧ t.acc = s.acc ∧ t.mask = s.mask ∧ t.progs = s.progs
      ∧ ∀ (row : Nat × Nat × Nat) (c0 : Nat), c0 < w.1 → row.1 < w.2.1 → row.2.1 < w.2.2.1 → row.2.2 < w.2.2.2 →
        tregAt t c.val (w.block c0 row).1 (w.block c0 row).2 =
          match (laneRow s c.val r img w row (32 * (c0 / 32)) (min 32 (w.1 - 32 * (c0 / 32)))).getD (c0 % 32) none with
          | some v => Word.ofNat (convOut d.dtype (outIsInt img r.desc) (oa s && (r.desc.getD 0 {}).kind == 3)
              (if fld r.q.cmd.w4 16 6 = 0 then none else some (cfg s (coreReg c.val (0xB400 + 8 * fld r.q.cmd.w4 16 6)))) v).1
          | none => if bitOf r.q.cmd.w4 6 || oa s then 0 else tregAt s c.val (w.block c0 row).1 (w.block c0 row).2

/-- An iteration of a running VXE.QCONV, VXE.PMERGE, VXE.TRANS or RDU.RED without a tap, that may begin and before which
no waiter on its flag is judged (R58), makes its conversion, merge, transpose or reduction, and the command goes on to
its next iteration or completes. Mere, the accumulators, the mask tiles, the lane programs and the SPU registers stay.
(R162, R163, R165, R168, R137.) -/
def Obligations.VectorIterations : Prop :=
  ∀ (c : CoreId) (r : Run) (s : State), canonical s = true → r.ended = false →
    let k := unitKey c.val 4
    let kr := unitKey c.val 5
    let same := fun t : State => t.mere = s.mere ∧ t.acc = s.acc ∧ t.mask = s.mask ∧ t.progs = s.progs ∧ t.spu = s.spu
    (goesOn s k 0x30 r → exec (.vxeQconv c) s = .next (endIter k r.q.seq (qconvBody c.val r (takeWait k r s)))
      ∧ same (qconvBody c.val r (takeWait k r s))) ∧
    (goesOn s k 0x40 r → exec (.vxePmerge c) s = .next (endIter k r.q.seq (pmergeBody c.val r (takeWait k r s)))
      ∧ same (pmergeBody c.val r (takeWait k r s))) ∧
    (goesOn s k 0x50 r → exec (.vxeTrans c) s = .next (endIter k r.q.seq (transBody c.val r (takeWait k r s)))
      ∧ same (transBody c.val r (takeWait k r s))) ∧
    (goesOn s kr 0x10 r → firstRun s kr (fun r => r.q.cmd.opcode == 0x10 && r.skipped == 0) = some r → redTap r.q = false →
      exec (.rduRed c) s = .next (endIter kr r.q.seq (redBody c.val r (takeWait kr r s)))
      ∧ same (redBody c.val r (takeWait kr r s)))

/-- An iteration of an untapped RDU.RED along dimension 0 of one Tarn row of up to 32 elements, with a tile-register
destination: SUM, MAX, MIN and SUMSQ leave the pairwise tree's value of the row; the tile register's other elements,
Tarn and Mere stay. (R168, R506, R507.) -/
def Obligations.ReductionOfOne : Prop :=
  ∀ (c : CoreId) (r : Run) (s : State), canonical s = true → goesOn s (unitKey c.val 5) 0x10 r →
    firstRun s (unitKey c.val 5) (fun r => r.q.cmd.opcode == 0x10 && r.skipped == 0) = some r → redTap r.q = false →
    redDir r.q = false → redAcc r.q = false → redOp r.q ≠ 3 → redOp r.q < 5 → r.empty = false →
    let d := r.desc.getD 0 {}
    let o := r.desc.getD 1 {}
    d.kind = 1 → d.rank = 1 → 0 < d.e 0 → d.e 0 ≤ 32 → redExt d = (d.e 0, 1, 1, 1) → o.kind = 4 →
    o.base + r.nest.offset r.it 1 = 0 →
    ∃ t, exec (.rduRed c) s = .next t ∧ t.tarn = s.tarn ∧ t.mere = s.mere ∧ t.acc = s.acc
      ∧ some (tregAt t c.val 0 0) = (treeOf (redCombine (redOp r.q) (isIntDt d.dtype))
          ((srcRow s c.val d r.nest r.it 0 0 (d.e 0, 1, 1, 1) (0, 0, 0)).map
            fun v => redLeaf (redOp r.q) (isIntDt d.dtype) 0 v)).map RedVal.word
      ∧ ∀ (n : Fin 64) (e : Fin 1024), (n.val ≠ 0 ∨ e.val ≠ 0) → tregAt t c.val n.val e.val = tregAt s c.val n.val e.val

/-- An iteration of SPU.RUN that may begin, no waiter on its flag being judged before it (R58), loads its pipe:
instruction 0 of the program at operand 0, x1 from the command's words 5 and 6, x2 the base address of operand 1 in
that iteration, and that operand's range as the window. SPU.RDREG writes the stream-visible register of its index,
zero-extended, to its register of its pipe. (R74, R174, R176, R177.) -/
def Obligations.PipeRunsBegin : Prop :=
  ∀ (c : CoreId) (r : Run) (s : State), canonical s = true → engines s = true → s.ssq.aborting = false →
    let k := spuKey c.val
    let p := fld r.q.cmd.w4 0 3
    (firstInLine s k → firstRun s k (fun r => r.q.cmd.opcode == 0x10 && r.skipped == 0 && !r.open_ && iterReady s r) = some r → r.empty = false →
      r.err = false →
      let d := r.desc.getD 0 {}
      let w := r.desc.getD 1 {}
      let base := w.base + r.nest.offset r.it 1 * 64
      ∃ t, exec (.spuRun c) s = .next t ∧ (pipeOf t c.val p).pc = 0 ∧ (pipeOf t c.val p).prog = rowAddr d r.nest r.it 0 0 0 0
        ∧ (pipeOf t c.val p).nins = d.e 0 / 8 ∧ (pipeOf t c.val p).count = 0
        ∧ (pipeOf t c.val p).winLo = (base + (strideSpan w w.ext).1).toNat
        ∧ (pipeOf t c.val p).winHi = (base + (strideSpan w w.ext).2).toNat
        ∧ (xReg t c.val p 1).toNat = r.q.cmd.w5.toNat + 2 ^ 32 * r.q.cmd.w6.toNat
        ∧ (xReg t c.val p 2) = BitVec.ofInt 64 base
        ∧ (∀ n, 3 ≤ n → n < 32 → xReg t c.val p n = xReg s c.val p n) ∧ t.tarn = s.tarn ∧ t.mere = s.mere) ∧
    (goesOn s k 0x20 r → fld r.q.cmd.w4 5 5 ≠ 0 →
      ∃ t, exec (.spuRdreg c) s = .next t ∧ t.tarn = s.tarn ∧ t.mere = s.mere ∧ t.csr = (endIter k r.q.seq (takeWait k r s)).csr
        ∧ xReg t c.val (fld r.q.cmd.w4 10 3) (fld r.q.cmd.w4 5 5) =
          BitVec.ofNat 64 ((rdregRead (fld r.q.cmd.w4 0 5) s).1).toNat)

/-- With fewer than 512 transfers outstanding on the engine, the first transfer still to be issued of the command on the
channel, when it is that command's turn and the transfer lies within the part, becomes outstanding; no byte of Tarn or
Mere changes. Where the turn is another channel's, nothing changes. The turn goes to the first started command that
can issue, beginning after the one that issued last. (R196, R197, R198.) -/
def Obligations.TransfersIssue : Prop :=
  ∀ (c : CoreId) (e : Engine) (ch : Fin 8) (r : Run) (x : Xfer) (rest : List Xfer) (s : State), canonical s = true →
    engines s = true → s.ssq.aborting = false → (outstOf s c.val (engNo e)).length < 512 →
    turnRun s c.val (engNo e) = some r → r.todo = x :: rest →
    (r.chan ≠ ch.val → exec (.transferIssue c e ch) s = .next s) ∧
    (r.chan = ch.val → x.remote = false → ∃ t, exec (.transferIssue c e ch) s = .next t ∧ outstOf t c.val (engNo e) = outstOf s c.val (engNo e) ++ [x]
      ∧ (unitOf t (unitKey c.val (engUnit (engNo e)))).running =
          ((unitOf s (unitKey c.val (engUnit (engNo e)))).running.map fun y => if y.q.seq = r.q.seq then { y with todo := rest } else y)
      ∧ t.tarn = s.tarn ∧ t.mere = s.mere ∧ t.transit = s.transit
      ∧ sget (fun _ => 0) (c.val * 2 + engNo e) t.turns = r.q.seq + 1) ∧
    mayIssue s c.val (engNo e) r = true ∧
    ((∃ y ∈ (unitOf s (unitKey c.val (engUnit (engNo e)))).running, mayIssue s c.val (engNo e) y = true
        ∧ sget (fun _ => 0) (c.val * 2 + engNo e) s.turns ≤ y.q.seq) →
      sget (fun _ => 0) (c.val * 2 + engNo e) s.turns ≤ r.q.seq)

/-- Where the segments that a transfer touches are on and no earlier write of the engine to the same place is outstanding:
a copy from Mere to the engine's own Tarn, with every unit it reads clean, leaves the bytes read at its destination; a
copy from the engine's own Tarn to Mere, with every unit it merges into clean, leaves its bytes there. Every other
byte of Tarn and Mere stays, and the transfer is outstanding no more. (R88, R190, R194, R200, R226, R278.) -/
def Obligations.TransfersLand : Prop :=
  ∀ (c : CoreId) (e : Engine) (n : Nat) (m : EccMap) (x : Xfer) (a b : Nat) (s : State), canonical s = true → engines s = true →
    (outstOf s c.val (engNo e))[n]? = some x → endsOn s x = true → pathHolds s c.val (engNo e) n x = false → x.addDst = 0 → x.addSrc = 0 →
    (x.src = .mere a → x.dst = .tarn c.val b → (∀ u ∈ unitsOf a x.len, unitEcc m u = .clean) →
      ∃ t, exec (.transferLand c e n m) s = .next t ∧ tarnRead t c.val b x.len = mereRead s a x.len ∧ t.mere = s.mere
        ∧ (∀ k, k < tarnKey c.val b ∨ tarnKey c.val b + x.len ≤ k → sget zero8 k t.tarn = sget zero8 k s.tarn)
        ∧ outstOf t c.val (engNo e) = (outstOf s c.val (engNo e)).erase x) ∧
    (x.src = .tarn c.val a → x.dst = .mere b → (∀ u ∈ unitsOf b x.len, unitEcc m u = .clean) →
      ∃ t, exec (.transferLand c e n m) s = .next t ∧ mereRead t b x.len = tarnRead s c.val a x.len ∧ t.tarn = s.tarn
        ∧ (∀ k, k < b ∨ b + x.len ≤ k → sget zero8 k t.mere = sget zero8 k s.mere)
        ∧ outstOf t c.val (engNo e) = (outstOf s c.val (engNo e)).erase x)

/-- With no head of that opcode to start, FXE.FETCH, FXE.STREAM, FXE.GATHER, SXE.STORE, SXE.SCATTER and SXE.SCADD go on
with the first running command of their opcode that may open its next iteration, no waiter on its flag being judged
before it (R58), and cut that iteration; no byte of Tarn or Mere changes by it. (R197, R203, R207.) -/
def Obligations.IterationsCut : Prop :=
  ∀ (i : Instr) (c : CoreId) (u op : Nat) (r : Run) (s : State), canonical s = true → engines s = true → s.ssq.aborting = false →
    unitCommand i = some (c, u, op) → (u = 7 ∧ (op = 0x10 ∨ op = 0x20 ∨ op = 0x30)) ∨ (u = 8 ∧ op ≠ 0) →
    firstInLine s (unitKey c.val u) → headIs s (unitKey c.val u) op = none →
    (firstRun s (unitKey c.val u) fun r => r.q.cmd.opcode == op && mayOpen s r) = some r →
    exec i s = .next (openIter c.val (u - 7) r s) ∧ (openIter c.val (u - 7) r s).tarn = s.tarn
      ∧ (openIter c.val (u - 7) r s).mere = s.mere ∧ (openIter c.val (u - 7) r s).outst = s.outst

/-- A read or a write that arrives at a live core at whose ingress nothing waits: inside the task's window, with the
segments that it touches on, a read answers the bytes there, and a write leaves its bytes there and every other byte
of Tarn as it was; where they are not all on, it waits, a write counted in its segments, each segment in retention or
off that is not changing begins to wake, counted in TARN_WAKE, and no byte changes. Outside the window it is dropped,
counted in TARN_WIN_DROP, recorded with cause 0x16, and no byte of Tarn changes. (R24, R190, R193, R194.) -/
def Obligations.TarnArrives : Prop :=
  ∀ (c : CoreId) (k : TaskId) (a : Nat) (acc : Access) (s : State), canonical s = true → engines s = true →
    live s c.val = true → (∀ x ∈ s.ingress, x.core ≠ c.val) →
    let n := accLen acc
    let inside := inTarn s c.val k.val a ((a + n : Nat) - 1)
    (inside = true → segsOn s c.val a n = true →
      ∃ t, exec (.tarnArrival c k a acc) s = .next t ∧ t.ingress = s.ingress ∧ t.mere = s.mere ∧ match acc with
        | .rd n => t.out = s.out ++ [.tarnData c.val true (tarnRead s c.val a n)] ∧ t.tarn = s.tarn
        | .wr l => t.out = s.out ++ [.tarnData c.val true []] ∧ tarnRead t c.val a l.length = l
            ∧ ∀ b, b < tarnKey c.val a ∨ tarnKey c.val a + l.length ≤ b → sget zero8 b t.tarn = sget zero8 b s.tarn) ∧
    (inside = true → segsOn s c.val a n = false →
      let sleeps := fun g => (segOf s c.val g).st != 0 && !(segOf s c.val g).changing && !(segOf s c.val g).waking
      ∃ t, exec (.tarnArrival c k a acc) s = .next t ∧ t.ingress = s.ingress ++ [{ core := c.val, addr := a, acc := acc }]
        ∧ t.tarn = s.tarn ∧ t.mere = s.mere ∧ t.out = s.out
        ∧ counts s t (coreReg c.val 0xC008) ((segSpan a n).filter sleeps).length
        ∧ ∀ g ∈ segSpan a n, segOf t c.val g = { segOf s c.val g with
            owc := (segOf s c.val g).owc + (match acc with | .rd _ => 0 | .wr _ => 1)
            waking := (segOf s c.val g).waking || sleeps g }) ∧
    (inside = false →
      ∃ t, exec (.tarnArrival c k a acc) s = .next t ∧ t.tarn = s.tarn ∧ t.mere = s.mere ∧ t.ingress = s.ingress
        ∧ t.out = s.out ++ [.tarnData c.val false []] ∧ counts s t (coreReg c.val 0xC00C) 1 ∧ asserts t (srcOf 0 c.val 10) 0x16)

/-- FXE.TPWR, when it starts, asks each segment that it names and that is not in its state for that state. A segment asked
for another state begins to change once no write to it is outstanding (to on at once), and then reaches it; one that
goes off loses its bytes, which read zero, and no other byte changes. A segment that an access has woken reaches on.
At the banks, a request alone is granted; of two at one bank and at different rows that of the earlier port is
granted, and the other waits, counted in TARN_CONFLICT. Stated where nothing waits at the core's ingress and nothing
was waiting at its banks. (R184, R185, R192, R193, R194, R195.) -/
def Obligations.SegmentsChange : Prop :=
  ∀ (c : CoreId) (g : Fin 24) (v : Nat) (s : State), canonical s = true → engines s = true → live s c.val = true →
    (∀ x ∈ s.ingress, x.core ≠ c.val) →
    let sg := segOf s c.val g.val
    (sg.target = some v → sg.st ≠ v → sg.changing = false → sg.waking = false → (v = 0 ∨ sg.owc = 0) →
      exec (.segmentStateChange c g) s = .next (setSeg c.val g.val { sg with changing := true } s)) ∧
    (sg.target = some v → sg.changing = true → sg.waking = false →
      ∃ t, exec (.segmentStateChange c g) s = .next t ∧ segOf t c.val g.val = { sg with st := v, target := none, changing := false }
        ∧ (∀ a, a < 2 ^ 27 → tarnByte t c.val a = if v = 2 ∧ a / 2 ^ 22 = g.val then 0 else tarnByte s c.val a)
        ∧ ∀ (c' : CoreId) (a : Nat), c' ≠ c → a < 2 ^ 27 → tarnByte t c'.val a = tarnByte s c'.val a) ∧
    (sg.waking = true →
      ∃ t, exec (.segmentWake c g) s = .next t ∧ segOf t c.val g.val = { sg with st := 0, waking := false } ∧ t.tarn = s.tarn
        ∧ t.csr = s.csr) ∧
    (∀ (q : QCmd) (p : Prep), q.core = c.val → q.cmd.unit = 7 → q.cmd.opcode = 0x40 → mayStartAs s (unitKey c.val 7) q p →
      firstInLine s (unitKey c.val 7) →
      ∃ t, exec (.fxeTpwr c) s = .next t ∧ t.tarn = s.tarn ∧ t.mere = s.mere ∧ ∀ i ∈ tpwrSegs q,
        if (segOf s c.val i).st = fld q.cmd.w4 10 2 then segOf t c.val i = segOf s c.val i
        else segOf t c.val i = { segOf s c.val i with target := some (fld q.cmd.w4 10 2) }) ∧
    (sget (fun _ => []) c.val s.tarnWait = [] → ∀ q : TarnReq, q.port < 17 → q.bank < 64 →
      (∃ t, exec (.tarnStarve c q []) s = .next t ∧ sget (fun _ => []) c.val t.granted = [q]
        ∧ sget (fun _ => []) c.val t.tarnWait = [] ∧ registersStay s t (fun _ => False) ∧ memoriesStay s t) ∧
      ∀ r : TarnReq, r.bank = q.bank → r.line ≠ q.line → q.port < r.port → r.port < 17 →
        ∃ t, exec (.tarnStarve c r [q]) s = .next t ∧ sget (fun _ => []) c.val t.granted = [q]
          ∧ sget (fun _ => []) c.val t.tarnWait = [{ req := r, refused := 1 }] ∧ counts s t (coreReg c.val 0xC000) 1
          ∧ memoriesStay s t)

/-- STACK_PORT_WINDOW divides a window's grants between vertical traffic and Loess reads, within 125 units and 250 (242
while a bank is copied), counts them and the cycles in which both meet, and keeps the rest waiting; it takes a running
copy on, and with its last units SPARING and GO return to 0. BANK_REFRESH counts the accesses it delays and their
ticks, 400 at most each, and with scrub on goes on to the bank's next unit and notes what its code found.
ROWERR_TABLE_CLEAR empties every row-error table; SELFREF_ENTER sets SELFREF between steps only; STACK_WAKE clears it
and counts. REMAP_ROW, between steps while one is left, remaps a row to a spare one and enters it in the table in
flash (laid out by the model's choice, log entry 81), and with no unit beyond correction no byte of Mere changes.
SPARE_BANK starts the copy of a bank while the spare bank is free, with the stack degraded where another bank
qualifies; BANK_CHANGEOVER puts the spare bank in service between steps once the copy is done. No byte of Mere or Tarn
changes by the others. (R215, R219, R220, R221, R222, R225, R226, R227, R228, R229, R491.) -/
def Obligations.StacksServe : Prop :=
  ∀ (n : StackId) (b : Fin 512) (s : State), canonical s = true → powered s = true →
    let st := stk s n.val
    let r := stkReg n.val
    (∀ dv dl m : Nat,
      let v := st.carryV + dv
      let l := st.carryL + dl
      let cap := if copyRuns st then 242 else 250
      ∃ (gv gl : Nat) (t : State), exec (.stackPortWindow n dv dl m) s = .next t ∧ gv ≤ v ∧ gv ≤ 125 ∧ gl ≤ l ∧ gv + gl ≤ cap
        ∧ (v ≤ 125 → v + l ≤ cap → gv = v ∧ gl = l) ∧ (v ≤ fld (cfg s (r 8)) 0 7 → v ≤ 125 → gv = v)
        ∧ (stk t n.val).carryV = v - gv ∧ (stk t n.val).carryL = l - gl
        ∧ counts s t (r 0x28) gv ∧ counts s t (r 0x2C) gl ∧ counts s t (r 0x20) (min m gv)
        ∧ (copyRuns st = true → (stk t n.val).copyLeft = st.copyLeft - 8
            ∧ (st.copyLeft ≤ 8 → bitOf (rd t (r 0)) 1 = false ∧ bitOf (rd t (r 0x30)) 31 = false)) ∧ memoriesStay s t) ∧
    (∀ (l : List Nat) (e : UnitErr),
      ∃ t, exec (.bankRefresh n b l e) s = .next t ∧ counts s t (r 0x18) l.length
        ∧ counts s t (r 0x1C) ((l.map fun d => min d 400).sum) ∧ memoriesStay s t
        ∧ (bitOf (cfg s (r 4)) 1 = false → t.stackSt = s.stackSt)
        ∧ (bitOf (cfg s (r 4)) 1 = true →
          (stk t n.val).scrubAt = sset (fun _ => 0) b.val ((sget (fun _ => 0) b.val st.scrubAt + 1) % 2 ^ 20) st.scrubAt
          ∧ (eccOf e = .corrected → counts s t (r 0x10) 1)
          ∧ (eccOf e = .uncorrectable → counts s t (r 0x14) 1 ∧ asserts t (srcOf 1 n.val 0) 0x17))) ∧
    (∃ t, exec .rowerrTableClear s = .next t ∧ (∀ m : StackId, stk t m.val = { stk s m.val with rowErr := [] })
      ∧ t.csr = s.csr ∧ memoriesStay s t) ∧
    (s.ssq.run = false → ∃ t, exec (.selfrefEnter n) s = .next t ∧ bitOf (rd t (r 4)) 0 = true
      ∧ registersStay s t (fun a => a = r 4) ∧ t.stackSt = s.stackSt ∧ memoriesStay s t) ∧
    (s.ssq.run = true → exec (.selfrefEnter n) s = .next s) ∧
    (bitOf (rd s (r 4)) 0 = true → ∃ t, exec (.stackWake n) s = .next t ∧ bitOf (rd t (r 4)) 0 = false
      ∧ counts s t (r 0x24) 1 ∧ t.stackSt = s.stackSt ∧ memoriesStay s t) ∧
    (∀ (row : Nat) (m : EccMap), s.ssq.run = false → sparesUsed st b.val < 64 →
      ∃ t, exec (.remapRow n b row m) s = .next t ∧ (stk t n.val).remaps = st.remaps ++ [(b.val, row)]
        ∧ rdF t (r 0x34) 0 16 = (st.remaps.length + 1) % 2 ^ 16 ∧ t.tarn = s.tarn
        ∧ ((∀ u ∈ rowUnits n.val b.val row, unitEcc m u ≠ .uncorrectable) → t.mere = s.mere)
        ∧ (4 * remapEntries s < 2 ^ 20 → ∀ i, i < 4 → sget erased (0x010D0000 + 4 * remapEntries s + i) t.flash =
            (leBytes 4 (n.val + b.val * 2 ^ 5 + row * 2 ^ 14)).getD i 0)
        ∧ ∀ a, a < 0x010D0000 ∨ 0x011D0000 ≤ a → sget erased a t.flash = sget erased a s.flash) ∧
    (∀ (row : Nat) (m : EccMap), s.ssq.run = true ∨ 64 ≤ sparesUsed st b.val → exec (.remapRow n b row m) s = .next s) ∧
    (st.spared = none → st.copying = none →
      ∃ t, exec (.spareBank n b) s = .next t ∧ (stk t n.val).copying = some b.val ∧ copyRuns (stk t n.val) = true
        ∧ bitOf (rd t (r 0)) 1 = true ∧ rd t (r 0x30) = Word.ofNat (b.val + 2 ^ 26 + 2 ^ 31) ∧ memoriesStay s t
        ∧ ((∃ x ∈ namedBanks st, x ≠ b.val ∧ qualifies st x = true) →
            bitOf (rd t (r 0)) 2 = true ∧ bitOf (rd t 0x20044) 2 = true ∧ asserts t (srcOf 1 n.val 3) 0x23)) ∧
    (st.spared ≠ none ∨ st.copying ≠ none → exec (.spareBank n b) s = .next s) ∧
    (st.copying = some b.val → st.copyLeft = 0 → s.ssq.run = false →
      ∃ t, exec (.bankChangeover n) s = .next t ∧ (stk t n.val).copying = none ∧ (stk t n.val).spared = some b.val
        ∧ rdF t (r 0x34) 16 10 = b.val ∧ t.mere = s.mere ∧ t.tarn = s.tarn) ∧
    (s.ssq.run = true ∨ st.copyLeft ≠ 0 → exec (.bankChangeover n) s = .next s)

/-- An iteration of a running LSE.ATTN or LSE.MOVE that begins, with room at every engine it names, its segments on and no
waiter on its flag judged before it (R58), sends one sub-command to each of them, behind those already there.
SUB_COMMAND, where the segments of its operands are on and the timetable has slots for its moves, takes the first sub-
command of an engine's queue, whatever it is, and leaves every other queue as it was: an attention writes no Mere, a
move no Tarn. One of a single entry with length 0, for a format of one query head, leaves an empty partial: minus
infinity, a sum of 0 and zeros. (R237, R240, R241, R242.) -/
def Obligations.LoessServes : Prop :=
  (∀ (c : CoreId) (r : Run) (op : Nat) (s : State), canonical s = true → engines s = true → s.ssq.aborting = false →
    op = 0x10 ∨ op = 0x20 → headIs s (lseKey c.val) op = none → firstInLine s (lseKey c.val) →
    (firstRun s (lseKey c.val) fun r => r.q.cmd.opcode == op && r.skipped == 0 && !r.unsent.isEmpty) = none →
    (firstRun s (lseKey c.val) fun r => r.q.cmd.opcode == op && r.skipped == 0 && !r.open_ && iterReady s r) = some r →
    segsReady s c.val (runSegs r r.it fun _ => true) → r.empty = false → r.q.core = c.val → (∀ n : StackId, (stk s n.val).subs.length < 64) → lseNamed r.q ≠ [] →
    ∃ t, exec (if op = 0x10 then .lseAttn c else .lseMove c) s = .next t ∧ t.mere = s.mere
      ∧ (∀ n : StackId, (stk t n.val).subs = (stk s n.val).subs ++ if n.val ∈ lseNamed r.q then [subFor r n.val] else [])
      ∧ (op = 0x20 → t.tarn = s.tarn)) ∧
  ∀ (n : StackId) (ecc : EccMap) (x : Sub) (rest : List Sub) (p : Pool) (s : State), canonical s = true → engines s = true →
    (stk s n.val).subs = x :: rest → subReaches s n.val x = true → segsReady s x.core (subSegs x) →
    poolOf s x.fmt = some p → x.core < 12 →
    ∃ t, exec (.subCommand n ecc) s = .next t ∧ (stk t n.val).subs = rest
      ∧ (∀ m : StackId, m ≠ n → (stk t m.val).subs = (stk s m.val).subs)
      ∧ (x.attn = true → t.mere = s.mere) ∧ (x.attn = false → t.tarn = s.tarn)
      ∧ (x.attn = true → (x.ops.getD 1 {}).e 1 = 1 → p.hq = 1 →
          let e := tableEntry s x.core (x.ops.getD 1 {}) 0
          entryBad e 3 = false → leAt e 4 4 = 0 →
          tarnRead t x.core (rowAddr (x.ops.getD 2 {}) {} 0 0 0 x.part 0) (4 * (p.d + 2)) = bytesOf (emptyPart p.d))

/-- While a revolution runs: a CREDIT adds one credit to the lane of its port; an ACK marks the slot whose shard the
successor has; a RESEND sends the shard again from its slot; a GRANT opens the lane of its port with its credits, and
a second one opens nothing. Each that comes by a port that is no lane's is counted in ORE_STALE. A shard of another
member that passes the check takes a slot, counts as received, is acknowledged and is held as verified, and its
sequence number is taken; so does the copy that the spring answers with. Tarn and Mere stay. (R351, R354, R355, R356,
R357, R366.) -/
def Obligations.RingReceives : Prop :=
  ∀ (p : PortId) (b : LaneId) (q : Nat) (s : State), canonical s = true → engines s = true → s.ssq.aborting = false →
    s.ore.rev = true → s.ore.ended = false → s.ore.filling = false → b.val < s.ore.lanes.length → s.ore.revno < 2 ^ 32 →
    let rev := Word.ofNat s.ore.revno
    let j := q * s.ore.lanes.length + b.val
    (portUp s p.val = true → laneOfOut s p.val = some b.val →
      (∃ t, exec (.ringCredit p rev) s = .next t ∧ (lane t b.val).credits = (lane s b.val).credits + 1
        ∧ (lane t b.val).slots = (lane s b.val).slots ∧ t.csr = s.csr ∧ memoriesStay s t) ∧
      (∀ x : Slot, slotOf s j = some x → x.sent = true → x.delivered = false →
        ∃ t, exec (.ringAck p rev q) s = .next t ∧ slotOf t j = some { x with acked := true } ∧ memoriesStay s t) ∧
      (∀ x : Slot, slotOf s j = some x → x.sent = true → x.acked = false →
        ∃ t, exec (.resend p rev q) s = .next t ∧ shardQueued t (laneOut s b.val) x.bytes ∧ t.ore = s.ore ∧ memoriesStay s t) ∧
      (∀ n : Nat, (lane s b.val).granted = false →
        ∃ t, exec (.grant p rev n) s = .next t ∧ lane t b.val = { lane s b.val with granted := true, credits := n }
          ∧ (∀ b' : LaneId, b' ≠ b → lane t b'.val = lane s b'.val) ∧ t.csr = s.csr ∧ memoriesStay s t) ∧
      (∀ n : Nat, (lane s b.val).granted = true →
        ∃ t, exec (.grant p rev n) s = .next t ∧ t.ore = s.ore ∧ t.csr = s.csr ∧ memoriesStay s t)) ∧
    (portUp s p.val = true → laneOfOut s p.val = none →
      ∀ i ∈ [Instr.ringCredit p rev, .ringAck p rev q, .resend p rev q, .grant p rev 8],
        ∃ t, exec i s = .next t ∧ counts s t rStale 1 ∧ t.ore = s.ore ∧ memoriesStay s t) ∧
    (∀ l : List Byte, (dueRecv s j).2 = false → shDue s l (dueRecv s j).1 = true →
      let held := fun t : State => counts s t rReceived 1 ∧ (lane t b.val).has q = true
        ∧ ((lane t b.val).slots.any fun x => x.js == j + mWave s s.ore.model && x.verified && x.bytes == l && !x.sent) = true
        ∧ ringQueued t (laneIn s b.val) ringAcked s.ore.revno q ∧ memoriesStay s t
      (portUp s p.val = true → laneOfIn s p.val = some b.val → (lane s b.val).has q = false → (lane s b.val).slots.length < 8 →
        j < tilesT s → ∃ t, exec (.shardArrival p rev q l) s = .next t ∧ held t) ∧
      ((lane s b.val).asking = [q] → ∃ t, exec (.springFetch b l) s = .next t ∧ held t))

/-- SHARD_INJECT, at its turn, with its GRANT and credits, sends the member's own shard from the slice image, and keeps it
in a slot, when it passes the check and every unit reads well; SHARD_FORWARD sends the verified shard held for the
next send; SNAKE_TILE puts the next verified tile into the empty snake with its record; TILE_ACCEPT lands the tile's
record at the core and adds 1 to its tile flag; SHARD_TIMEOUT ends the revolution on this member with cause 0x1A and
frees its slots. (R353, R355, R358, R359, R360, R361, R365, R368.) -/
def Obligations.RingSends : Prop :=
  ∀ (b : LaneId) (c : CoreId) (ecc : EccMap) (s : State), canonical s = true → engines s = true → s.ssq.aborting = false → s.ore.rev = true →
    s.ore.ended = false → s.ore.filling = false →
    let m := s.ore.model
    let j := s.ore.sends
    let round := ringN s * mWave s m
    (∀ tn : Nat, maySend s b.val true = true → j < tilesT s → j % round < mWave s m → tenantOfTask s (mOwner s m) = some tn →
      let d := dueTile s j
      let a := sliceAt s m (d.round * mWave s m + d.index)
      let l := mereRead s a (80 + min (leAt (mereRead s (a + 16) 4) 0 4) (mMaxlen s m))
      inMereOf s tn a ((a + l.length : Nat) - 1) = true → shDue s l d = true → anyUe ecc (unitsOf a l.length) = false →
      ∃ t, exec (.shardInject b ecc) s = .next t ∧ counts s t rInjected 1 ∧ t.ore.sends = j + 1
        ∧ (lane t b.val).credits = (lane s b.val).credits - 1
        ∧ ((lane t b.val).slots.any fun x => x.js == j && x.own && x.sent && x.bytes == l) = true
        ∧ shardQueued t (laneOut s b.val) l ∧ memoriesStay s t) ∧
    (∀ x : Slot, maySend s b.val false = true → j < tilesT s → mWave s m ≤ j % round → slotOf s j = some x →
      x.verified = true → x.sent = false →
      ∃ t, exec (.shardForward b) s = .next t ∧ counts s t rForwarded 1 ∧ t.ore.sends = j + 1
        ∧ shardQueued t (laneOut s b.val) x.bytes ∧ memoriesStay s t) ∧
    (∀ x : Slot, s.ore.snake = none → slotOf s s.ore.tiles = some x → x.verified = true → x.delivered = false →
      live s c.val = true → acceptedOf s c.val < tilesT s →
      let d := dueTile s s.ore.tiles
      ∃ t, exec .snakeTile s = .next t ∧ counts s t rTiles 1 ∧ t.ore.tiles = s.ore.tiles + 1
        ∧ t.ore.snake = some ((shOpen s x.bytes).getD [], shOrigin x.bytes ++
            [Word.ofNat (d.spring + d.index * 65536), Word.ofNat d.round, Word.ofNat (shLen x.bytes), 0])
        ∧ memoriesStay s t) ∧
    (∀ (r : Run) (pt : List Byte) (ws : List Word), live s c.val = true → revRun s = some r → s.ore.snake = some (pt, ws) →
      ws.length = 8 → acceptedOf s c.val + 1 = s.ore.tiles → acceptedOf s c.val + 1 < tilesT s →
      ((snakeOrder.takeWhile fun x => x != c.val).filter (live s)).all (fun x => decide (acceptedOf s c.val < acceptedOf s x)) = true →
      (acceptedOf s c.val < 8 ∨ 1 ≤ flag s c.val (revR r.q)) → revT r.q ≠ revR r.q → flag s c.val (revT r.q) < 65535 →
      let k := acceptedOf s c.val
      ∃ t, exec (.tileAccept c) s = .next t ∧ acceptedOf t c.val = k + 1 ∧ t.mere = s.mere
        ∧ tarnRead t c.val (rowAddr (r.desc.getD 1 {}) {} 0 1 (k % 8) 0 0) 64 = bytesOf (ws ++ List.replicate 8 0)
        ∧ flag t c.val (revT r.q) = flag s c.val (revT r.q) + 1
        ∧ flag t c.val (revR r.q) = flag s c.val (revR r.q) - if 8 ≤ k then 1 else 0) ∧
    (b.val < s.ore.lanes.length → (lane s b.val).recvSeq * s.ore.lanes.length + b.val < tilesT s →
      (lane s b.val).slots.length < 8 →
      (lane s b.val).since + (1000 * max 1 (fld (cfg s 0x40200C) 0 20) - (lane s b.val).waited) ≤ s.now →
      ∃ t, exec (.shardTimeout b) s = .next t ∧ t.ore.ended = true ∧ counts s t rOreTimeout 1 ∧ asserts t (srcOf 4 2 0) 0x1A
        ∧ (t.ore.lanes.all fun l => l.slots.isEmpty) = true ∧ memoriesStay s t)

/-- FILL with GO = 1, while no ring command and no fill runs, starts a fill of the model it names with this member as seed
when the bit says so or there is no ring. A write of word 3 of a model entry with ACTIVE = 1 makes the model active
when VERIFIED equals EXPECT; any other write of it leaves the model inactive with VERIFIED 0. ORE_REVNO takes a
written value while no ring command runs, and all ones as 0. No other register and no memory changes by the last two.
(R357, R370, R371.) -/
def Obligations.RingTables : Prop :=
  ∀ (v : Word) (m : Fin 16) (s : State), canonical s = true → powered s = true →
    (engines s = true → s.ore.filling = false → s.ore.rev = false → (unitOf s oreKey).running = [] → bitOf v 0 = true →
      ∃ t, exec (.fill v) s = .next t ∧ t.ore.filling = true ∧ t.ore.model = fld v 2 4
        ∧ t.ore.seed = (bitOf v 1 || !(ringNamed s)) ∧ t.ore.lanes.length = ringB s
        ∧ rd t rFillCtl = Word.ofNat (v.toNat % 64) ∧ memoriesStay s t) ∧
    (s.ore.filling = false → bitOf v 30 = true → rdF s (modelReg m.val 7) 0 24 = rdF s (modelReg m.val 6) 0 24 →
      ∃ t, exec (.modelActivate m v) s = .next t ∧ bitOf (rd t (modelReg m.val 3)) 30 = true
        ∧ fld (rd t (modelReg m.val 3)) 0 23 = fld v 0 23 ∧ registersStay s t (fun a => a = modelReg m.val 3) ∧ memoriesStay s t) ∧
    (bitOf v 30 = false ∨ rdF s (modelReg m.val 7) 0 24 ≠ rdF s (modelReg m.val 6) 0 24 →
      ∃ t, exec (.modelActivate m v) s = .next t ∧ bitOf (rd t (modelReg m.val 3)) 30 = false ∧ rd t (modelReg m.val 7) = 0
        ∧ registersStay s t (fun a => a = modelReg m.val 3 ∨ a = modelReg m.val 7) ∧ memoriesStay s t) ∧
    ((unitOf s oreKey).running = [] →
      ∃ t, exec (.revnoWrite v) s = .next t ∧ rd t rOreRevno = (if v = 0xFFFFFFFF then 0 else v)
        ∧ registersStay s t (fun a => a = rOreRevno) ∧ memoriesStay s t) ∧
    ((unitOf s oreKey).running ≠ [] → exec (.revnoWrite v) s = .next s)

/-- A mesh cycle at an output grants one flit at most: a flit that comes alone and has credit is granted when the mesh is
not scheduled, in the slot that it owns, or, when it may, in a leftover cycle, which is counted; without credit it
waits. A waiting flit with credit that is not granted is refused once more, and at the 64th time counted; not
scheduled, the only starved flit goes first. A write of the slot-table data register stores its four entries without
their reserved bits and moves the address on by 4; a crossing that drifts is marked and asserted; a slow core counts
its slow spell and its cycles and runs slower by at most 12 per cent, a pin slip in reproducible mode, and asserts a
part-class error for a deeper droop. TIME_SET loads the counter once, before the first task is loaded, and is refused
and counted afterwards. A measurement of PTP or of the fabric parent sets the offset register and steers by at most 50
ppm, but not while the lock is lost. The lock sets after 1 s in bounds; when it is lost it clears, is counted and
asserted. No memory changes. The mesh cycles come with the command by the model's choice, log entry 83. (R283, R284,
R287, R293, R294, R295, R297, R298, R299, R300, R305.) -/
def Obligations.MeshAndTime : Prop :=
  ∀ (s : State), canonical s = true → powered s = true →
    (∀ (r : Fin 12) (p : Fin 9) (cyc : Nat), engines s = true → hasMeshPort r.val p.val = true →
      let k := r.val * 9 + p.val
      let l := sget (fun _ => []) k s.meshWait
      let owner := slotOwner s r.val p.val cyc
      let granted := fun (t : State) (h : MeshHead) (n : Nat) => sget (fun _ => []) k t.meshWait = []
        ∧ sget (fun _ => 8) k t.meshLast = h.input ∧ counts s t (meshReg r.val 0xC) n ∧ memoriesStay s t
      (∀ h : MeshHead, l = [] → newHead s r.val [] h = true →
        (hasCredit s r.val p.val h.vc = true → meshScheduled s = false →
          ∃ t, exec (.meshStarve r p cyc [h]) s = .next t ∧ granted t h 0) ∧
        (hasCredit s r.val p.val h.vc = true → meshScheduled s = true → owner = some (h.input, h.vc) →
          ∃ t, exec (.meshStarve r p cyc [h]) s = .next t ∧ granted t h 0) ∧
        (hasCredit s r.val p.val h.vc = true → meshScheduled s = true → owner = none → takesLeftover { head := h } = true →
          ∃ t, exec (.meshStarve r p cyc [h]) s = .next t ∧ granted t h 1) ∧
        (hasCredit s r.val p.val h.vc = false →
          ∃ t, exec (.meshStarve r p cyc [h]) s = .next t ∧ sget (fun _ => []) k t.meshWait = [{ head := h }] ∧ memoriesStay s t)) ∧
      (∀ w : MeshWait, l = [w] → hasCredit s r.val p.val w.head.vc = true → meshScheduled s = true → owner = none →
        takesLeftover w = false →
        ∃ t, exec (.meshStarve r p cyc []) s = .next t ∧ sget (fun _ => []) k t.meshWait = [{ w with refused := w.refused + 1 }]
          ∧ counts s t (meshReg r.val 4) (if w.refused + 1 = 64 then 1 else 0) ∧ memoriesStay s t) ∧
      ∀ w ∈ l, meshScheduled s = false → hasCredit s r.val p.val w.head.vc = true → meshStarved w = true →
        (∀ x ∈ l, x ≠ w → meshStarved x = false) →
        ∃ t, exec (.meshStarve r p cyc []) s = .next t ∧ sget (fun _ => 8) k t.meshLast = w.head.input ∧ memoriesStay s t) ∧
    (∀ (v : Word) (k : Nat), tblPlace s = some k →
      ∃ t, exec (.meshTblDataWrite v) s = .next t
        ∧ sgetMany (fun _ => 0) k 4 t.meshTbl = (leBytes 4 v.toNat).map (fun b => b &&& 0x7F)
        ∧ (∀ e, e < k ∨ k + 4 ≤ e → sget zero8 e t.meshTbl = sget zero8 e s.meshTbl)
        ∧ rdF t 0x12010 0 13 = (rdF s 0x12010 0 13 + 4) % 2 ^ 13 ∧ registersStay s t (fun a => a = 0x12010) ∧ memoriesStay s t) ∧
    (∀ i : Fin 16, bitOf (rd s 0x1200C) i.val = true →
      ∃ t, exec (.seamDrift i) s = .next t ∧ bitOf (rd t 0x1200C) (16 + i.val) = true
        ∧ asserts t (srcOf 3 (16 + i.val) 1) 0x20 ∧ registersStay s t (fun a => a = 0x1200C) ∧ memoriesStay s t) ∧
    (∀ (c : CoreId) (pct n : Nat), live s c.val = true →
      ∃ t, exec (.clockSlow c pct n) s = .next t ∧ counts s t (coreReg c.val 0xD004) 1 ∧ counts s t (coreReg c.val 0xD008) n
        ∧ (0 < n → slowedBy t c.val = min 12 pct)
        ∧ (repro s = true → counts s t (coreReg c.val 0xD00C) 1 ∧ bitOf (rd t rDetStatus) 2 = true)
        ∧ (12 < pct → asserts t (srcOf 0 c.val 12) 0x21) ∧ memoriesStay s t) ∧
    (∀ h : Word, timeIsSet s = false →
      ∃ t, exec (.timeSet h) s = .next t ∧ timeCounter t = (rd s 0x10018).toNat + h.toNat * 2 ^ 32 ∧ t.time.setDone = true
        ∧ memoriesStay s t) ∧
    (∀ h : Word, timeIsSet s = true →
      ∃ t, exec (.timeSet h) s = .next t ∧ t.time = s.time ∧ counts s t 0x10020 1 ∧ memoriesStay s t) ∧
    (let steers := fun (t : State) (off : Int) => (rd t rTimeOffset).toInt = max (-2 ^ 31) (min (2 ^ 31 - 1) off) ∧
        (s.time.lost = false → -50000 ≤ t.time.steerPpb ∧ t.time.steerPpb ≤ 50000) ∧
        (s.time.lost = true → t.time.steerPpb = s.time.steerPpb) ∧ t.time.sourceAt = s.now ∧ memoriesStay s t
     (∀ r : Nat, timeSrc s = 1 → ∃ t, exec (.ptpMessage (.delayResp r)) s = .next t
        ∧ steers t ((((s.time.syncArrived : Int) - s.time.syncOrigin) - ((r : Int) - s.time.delayLeft)) / 2)) ∧
      (∀ t1 t2 t3 t4 : Nat, timeSrc s = 2 → (port s (rdF s rTimeCtl 2 4)).state = 3 →
        ∃ t, exec (.timeExchange t1 t2 t3 t4) s = .next t ∧ steers t ((((t2 : Int) - t1) - ((t4 : Int) - t3)) / 2))) ∧
    (∀ g : Nat, s.time.goodSince = some g → timeSrc s = 1 ∨ timeSrc s = 2 → g + 10 ^ 9 ≤ s.now → sourceLost s = false →
      ∃ t, exec .timeLock s = .next t ∧ bitOf (rd t rTimeStatus) 0 = true ∧ registersStay s t (fun a => a = rTimeStatus)
        ∧ t.time.lost = false ∧ memoriesStay s t) ∧
    (bitOf (rd s rTimeStatus) 0 = true → sourceLost s = true ∨ 10000000 < (rd s rTimeOffset).toInt.natAbs →
      ∃ t, exec .timeLockLoss s = .next t ∧ bitOf (rd t rTimeStatus) 0 = false ∧ bitOf (rd t rTimeStatus) 1 = sourceLost s
        ∧ t.time.lost = true ∧ counts s t 0x10014 1 ∧ asserts t (srcOf 4 6 0) 0x03 ∧ memoriesStay s t)

/-- LINK_SIGNAL takes an enabled port from DOWN to TRAIN and from TRAIN, locked, to AUTH; the handshake takes it to UP
with fresh keys when the peer's key is on the trust list and its signature verifies, else to DOWN with an assertion (a
peer key that is not on the list never passes); REKEY, which either end begins, makes new keys for both directions and
keeps the old ones for what is under way (both ends' confirmation is part of the command by the model's choice, log
entry 88); RETRAIN comes back to UP with every lane locked and sends again what is kept, stays in RETRAIN after a
failure, and goes DOWN after the third; a disabled port goes DOWN, and what waited is counted as lost. No memory
changes. (R306, R315, R320, R321, R322, R323.) -/
def Obligations.LinkStates : Prop :=
  ∀ (p : PortId) (s : State), canonical s = true → powered s = true →
    let o := port s p.val
    (portsMayTrain s = true → portEn s p.val = true → o.broken = false → o.state = 0 ∨ o.state = 1 →
      ∃ t, exec (.linkSignal p) s = .next t
        ∧ port t p.val = (if o.state = 0 then { o with state := 1 } else { o with state := 2, lock := 0xFF }) ∧ t.csr = s.csr
        ∧ (∀ p' : PortId, p' ≠ p → port t p'.val = port s p'.val) ∧ memoriesStay s t) ∧
    (o.state ≠ 0 → ∃ t, exec (.portDisabled p) s = .next t ∧ port t p.val = { state := 0, cause := 5, broken := o.broken }
      ∧ bitOf (rd t (portReg p.val 4)) 0 = false ∧ counts s t (portReg p.val 0x30) (o.txq.length + o.unacked.length)
      ∧ (∀ p' : PortId, p' ≠ p → port t p'.val = port s p'.val) ∧ memoriesStay s t) ∧
    (∀ h : PeerHello, portsMayTrain s = true → portEn s p.val = true → o.state = 2 → bitOf (rd s rSelf) 31 = true →
      ∃ t, exec (.authHandshake p h) s = .next t ∧ t.out.length = s.out.length + 1 ∧ memoriesStay s t
        ∧ (match (exchange p.val h s).1 with
          | some k => (port t p.val).state = 3 ∧ (port t p.val).txKey = k.1.1 ∧ (port t p.val).rxKey = k.2.1
              ∧ (port t p.val).peerCoord = h.coord ∧ (port t p.val).txCount = 0 ∧ (port t p.val).rxCount = 0
          | none => (port t p.val).state = 0 ∧ (port t p.val).cause = 4 ∧ asserts t (srcOf 2 p.val 0) 0x04)
        ∧ (s.sec.trust.contains (sha384 (beBytes 48 h.devX ++ beBytes 48 h.devY)) = false → (port t p.val).state = 0)) ∧
    (∀ h : PeerHello, o.state = 3 →
      ∃ t, exec (.rekey p h) s = .next t ∧ t.out.length = s.out.length + 1 ∧ memoriesStay s t
        ∧ (match (exchange p.val h s).1 with
          | some k => (port t p.val).state = 3 ∧ (port t p.val).kp = !o.kp ∧ (port t p.val).rkp = !o.rkp
              ∧ (port t p.val).txKey = k.1.1 ∧ (port t p.val).rxKey = k.2.1
              ∧ (port t p.val).oldRx = some (o.rxKey, o.rxSalt, o.rxCount)
          | none => (port t p.val).state = 0)) ∧
    (∀ c : RetrainCause, retrainDue o c = true →
      (∃ t, exec (.retrain p c .locked) s = .next t ∧ (port t p.val).state = 3 ∧ (port t p.val).retrainFails = 0
        ∧ (port t p.val).lock = 0xFF ∧ (port t p.val).replayBuf = o.replayBuf ∧ t.out.length = s.out.length + o.replayBuf.length
        ∧ counts s t (portReg p.val 0x28) 1 ∧ memoriesStay s t) ∧
      (o.retrainFails < 2 → ∃ t, exec (.retrain p c .failed) s = .next t ∧ (port t p.val).state = 4
        ∧ (port t p.val).retrainFails = o.retrainFails + 1 ∧ counts s t (portReg p.val 0x28) 1 ∧ memoriesStay s t) ∧
      (2 ≤ o.retrainFails → ∃ t, exec (.retrain p c .failed) s = .next t ∧ (port t p.val).state = 0
        ∧ counts s t (portReg p.val 0x28) 1 ∧ asserts t (srcOf 2 p.val 0) 0x1B ∧ memoriesStay s t))

/-- A block of which a codeword fails is counted by codeword, and the next block sent asks for a resend; a block whose tag
fails is counted and asked for again too, and the fourth within 1 ms takes the port DOWN with an assertion; a data
block that bears the expected sequence number under the key in use is accepted, and its packets enter the part; a late
answer is asked for again after 1 us; a NAK has every kept block sent again. PACKET_SEND sends one block: an idle one
when no packet may begin and none is under way, or when 2,048 blocks are kept, and else a data block, which is kept
until it is acknowledged; one that asks for a resend is counted. A lone packet of at most 1,264 bytes goes out whole
in its block, with zeros after it. (R309, R310, R311, R312, R313, R314, R316, R318, R324.) -/
def Obligations.LinkBlocks : Prop :=
  ∀ (p : PortId) (s : State), canonical s = true → powered s = true → (port s p.val).state = 3 →
    let o := port s p.val
    let asks := fun t : State => (port t p.val).nak = true ∧ (port t p.val).expect = o.expect ∧ t.out = s.out ∧ memoriesStay s t
    (∀ (fec : Fec) (block : List Byte), codeFails fec.first = true ∨ codeFails fec.second = true →
      ∃ t, exec (.linkBlock p fec block) s = .next t ∧ counts s t (portReg p.val 0x18) (fecCount fec codeFails)
        ∧ counts s t (portReg p.val 0x14) (fecCount fec codeFixed) ∧ asks t) ∧
    (∀ (fec : Fec) (block : List Byte), codeFails fec.first = false → codeFails fec.second = false →
      (leAt block 0 5).testBit 37 = o.rkp →
      let got := gcmOpen o.rxKey (o.rxSalt * 2 ^ 64 + o.rxCount) (block.take 5) (block.drop 5)
      let fails := (o.tagFails.filter fun x => decide (s.now < x + 1000000)).length
      (∀ payload : List Byte, got = some payload → (leAt block 0 5).testBit 36 = false → leAt block 0 5 % 4096 = o.expect →
        ∃ t, exec (.linkBlock p fec block) s = .next t ∧ (port t p.val).expect = (o.expect + 1) % 4096
          ∧ (port t p.val).waiting = false ∧ (port t p.val).rxCount = o.rxCount + 1
          ∧ t.transit = s.transit ++ ((takePackets (blockLen + 16) (o.rxBytes ++ payload)).1.map fun k => (p.val, k))
          ∧ memoriesStay s t) ∧
      (got = none → fails < 3 → ∃ t, exec (.linkBlock p fec block) s = .next t ∧ counts s t (portReg p.val 0x1C) 1 ∧ asks t) ∧
      (got = none → 3 ≤ fails → ∃ t, exec (.linkBlock p fec block) s = .next t ∧ counts s t (portReg p.val 0x1C) 1
        ∧ (port t p.val).state = 0 ∧ (port t p.val).cause = 3 ∧ asserts t (srcOf 2 p.val 0) 0x1C ∧ memoriesStay s t)) ∧
    (o.waiting = true → o.nak = false → o.nakAt + 1000 ≤ s.now → ∃ t, exec (.nakRepeat p) s = .next t ∧ asks t) ∧
    (o.resendDue = true → ∃ t, exec (.replay p) s = .next t ∧ (port t p.val).resendDue = false
      ∧ (port t p.val).replayBuf = o.replayBuf ∧ t.out.length = s.out.length + o.replayBuf.length ∧ memoriesStay s t) ∧
    (o.resendDue = false →
      let one := fun t : State => t.out.length = s.out.length + 1 ∧ (port t p.val).txCount = o.txCount + 1 ∧ (port t p.val).nak = false
        ∧ (o.nak = true → (port t p.val).waiting = true ∧ (port t p.val).nakAt = s.now) ∧ memoriesStay s t
      (2048 ≤ o.replayBuf.length ∨ (o.txRest = [] ∧ nextTx o = none) →
        ∃ t, exec (.packetSend p) s = .next t ∧ one t ∧ (port t p.val).replayBuf = o.replayBuf ∧ (port t p.val).txq = o.txq
          ∧ (port t p.val).nextSeq = o.nextSeq ∧ counts s t (portReg p.val 0x20) (if o.nak then 1 else 0)) ∧
      (o.replayBuf.length < 2048 → o.txRest ≠ [] ∨ nextTx o ≠ none →
        ∃ (t : State) (b : SentBlock), exec (.packetSend p) s = .next t ∧ one t ∧ (port t p.val).replayBuf = o.replayBuf ++ [b]
          ∧ b.seq = o.nextSeq ∧ b.payload.length = 1264 ∧ (port t p.val).nextSeq = (o.nextSeq + 1) % 4096) ∧
      ∀ (v : Nat) (k : Packet), o.replayBuf.length < 2048 → o.txRest = [] → o.txq = [(v, k)] → nextTx o = some (v, k) →
        (pktBytes k).length ≤ 1264 →
        ∃ (t : State) (b : SentBlock), exec (.packetSend p) s = .next t ∧ one t ∧ (port t p.val).replayBuf = o.replayBuf ++ [b]
          ∧ b.payload = pktBytes k ++ List.replicate (1264 - (pktBytes k).length) 0 ∧ (port t p.val).txq = []
          ∧ (port t p.val).txRest = [] ∧ counts s t (portReg p.val (0x40 + 8 * min v 10)) 1)

/-- A packet that waits at this part, not of the ring, with no earlier one of its source, destination and class waiting
before it: one that writes, reads or adds at a live core or at Mere of this part is delivered; one for a unit that
this part has not is answered with UNIT; one for another part joins the transmit queue of an UP port of its route when
there is room, with one hop more when it came in by a port; one past the hop limit, or with no route, is dropped,
counted and asserted, and one of the request, forwarded or collective class so dropped is answered. Management packets
are stated where the timetable has slots for them. SWITCH makes the other routing bank active only while held and
empty, and is otherwise counted. A write of FAB_SELF takes effect and is kept in module flash. (R308, R325, R327,
R328, R333, R334, R335, R336, R338, R340.) -/
def Obligations.PacketsRouted : Prop :=
  ∀ (k : Packet) (s : State), canonical s = true → powered s = true →
    let p := ((s.transit.find? fun x => x.2 == k).map Prod.fst).getD 12
    let left := dropFirst (fun x => x.2 == k) s.transit
    let hops := if p < 12 then k.hops + 1 else k.hops
    let d := ((List.range 3).find? fun d => epCoord k.dest d != epCoord (rd s rSelf).toNat d).getD 0
    let e := rtEntry s d (epCoord k.dest d)
    let ups := (List.range 12).filter fun i => bitOf e i && (port s i).state == 3
    let told := fun (t : State) (st : Nat) => memoriesStay s t ∧
      (answered k = false → t.transit = left ∧ t.inbox = s.inbox) ∧
      (answered k = true → isHere s k.src = false → t.transit = left ++ [(12, replyTo s k 5 st)] ∧ t.inbox = s.inbox) ∧
      (answered k = true → isHere s k.src = true → t.transit = left ∧ t.inbox = s.inbox ++ [replyTo s k 5 st])
    ((s.transit.any fun x => x.2 == k) = true → orderHolds s k = false →
      (isHere s k.dest = true → (k.op = 1 ∨ k.op = 2 ∨ k.op = 3) → mayCross s k (entryEnd p k) (destEnd p k) = true →
        (unitOk s k = true → ∃ t, exec (.packetRoute k) s = .next t ∧ t.inbox = s.inbox ++ [k] ∧ t.transit = left
          ∧ memoriesStay s t) ∧
        (unitOk s k = false → epUnit k.dest ≠ 32 → ∃ t, exec (.packetRoute k) s = .next t ∧ t.inbox = s.inbox
          ∧ t.transit = left ++ [(12, replyTo s k (if k.op = 2 then 4 else 5) 2)] ∧ memoriesStay s t)) ∧
      (isHere s k.dest = false → epUnit k.dest ≠ 34 → 1 ≤ k.op → k.op ≤ 8 → k.op ≠ 7 →
        (hops ≤ fld (cfg s 0x400014) 0 8 → bitOf e 13 = true → ups ≠ [] →
          (∀ i ∈ ups, mayCross s k (entryEnd p k) (portEnd i) = true ∧ ∀ v : Nat, txBytes (port s i) v + pktSize k ≤ 16384) →
          ∃ t, ∃ i ∈ ups, ∃ k' : Packet, exec (.packetRoute k) s = .next t
            ∧ (port t i).txq = (port s i).txq ++ [(pktVc k', k')] ∧ k'.dest = k.dest ∧ k'.src = k.src ∧ k'.data = k.data
            ∧ k'.hops = hops ∧ k'.dim = d ∧ (bitOf e 12 = true → k'.d = true) ∧ t.transit = left ∧ memoriesStay s t) ∧
        (hops ≤ fld (cfg s 0x400014) 0 8 → bitOf e 13 = false ∨ ups = [] →
          ∃ t, exec (.packetRoute k) s = .next t ∧ counts s t rUnroutable 1 ∧ told t 4
            ∧ asserts t (srcOf 2 (if p < 12 then p else min (epUnit k.src) 11) 1) 0x05) ∧
        (fld (cfg s 0x400014) 0 8 < hops →
          ∃ t, exec (.packetRoute k) s = .next t ∧ counts s t rHopDrop 1 ∧ told t 5
            ∧ asserts t (srcOf 2 (if p < 12 then p else min (epUnit k.src) 11) 1) 0x05))) ∧
    (fabHeld s = true → fabEmpty s = true →
      ∃ t, exec .switch s = .next t ∧ rdF t 0x400004 0 1 = 1 - rdF s 0x400004 0 1
        ∧ registersStay s t (fun a => a = 0x400004) ∧ memoriesStay s t) ∧
    (fabHeld s = false ∨ fabEmpty s = false →
      ∃ t, exec .switch s = .next t ∧ counts s t rSwitchRefused 1 ∧ registersStay s t (fun a => a = rSwitchRefused)
        ∧ memoriesStay s t) ∧
    ∀ v : Word, ∃ t, exec (.fabSelfWrite v) s = .next t ∧ rd t rSelf = v &&& 0x8003FFFF
      ∧ flashRead t 0x011D0000 4 = leBytes 4 (v &&& 0x8003FFFF).toNat
      ∧ (∀ a, a < 0x011D0000 ∨ 0x011D0004 ≤ a → sget erased a t.flash = sget erased a s.flash)
      ∧ registersStay s t (fun a => a = rSelf) ∧ t.tarn = s.tarn ∧ t.mere = s.mere

/-- An access that is next in its order, at segments that are on, with every Mere unit clean: a WRITE inside its task's
windows leaves its data at its address in Tarn or Mere and nothing else there; a READ answers the bytes there in
packets of at most 4 KiB; an ADD leaves the sums; a range outside the windows is counted, answered with that status
and changes no memory, and so is a unit that is not there and, in reproducible mode, an add into a region that another
has open. The last packet of a transfer is acknowledged, after its flag add. A DATA reply that answers a whole read
lands its data and ends the transfer; a good ACK ends a write; a transfer whose reply is late fails with an assertion,
and its tag rests; a reply to no transfer, or one that comes late, is counted and writes nothing. (R105, R200, R329,
R330, R331, R332.) -/
def Obligations.RemoteAccesses : Prop :=
  ∀ (k : Packet) (s : State), canonical s = true → engines s = true →
    let u := epUnit k.dest
    let n := addSpan k
    let due := fun m : Nat => earlierLeft s k = false ∧ segsReady s u (remoteSegs k m)
    let made := fun (t : State) (st : Nat) => t.inbox = dropFirst (fun x => x == k) s.inbox ∧ t.flash = s.flash
      ∧ (k.lastx = true → k.rsen = false → badOf s k = 0 → t.transit = s.transit ++ [(12, replyTo s k 5 st)])
      ∧ (k.lastx = true → k.rsen = true → badOf s k = 0 → live s k.rfcore = true → flag s k.rfcore k.rflag + k.rcnt ≤ 65535 →
          t.transit = s.transit ++ [(12, replyTo s k 5 st)] ∧ flag t k.rfcore k.rflag = flag s k.rfcore k.rflag + k.rcnt)
    let answers := fun (t : State) (st : Nat) (l : List Byte) => t.inbox = dropFirst (fun x => x == k) s.inbox ∧ memoriesStay s t
      ∧ t.transit = s.transit ++ ((dataPackets s k (fun _ => st) l).map fun d => (12, d))
    (k.op = 1 → k.data.length = k.len → due k.len →
      (u < 12 → live s u = true → remoteOk s k k.len = true →
        ∃ t, exec (.remoteWrite k []) s = .next t ∧ tarnRead t u k.addr k.len = k.data ∧ t.mere = s.mere ∧ made t 0
          ∧ ∀ b, b < tarnKey u k.addr ∨ tarnKey u k.addr + k.len ≤ b → sget zero8 b t.tarn = sget zero8 b s.tarn) ∧
      (u = 16 → remoteOk s k k.len = true →
        ∃ t, exec (.remoteWrite k []) s = .next t ∧ mereRead t k.addr k.len = k.data ∧ t.tarn = s.tarn ∧ made t 0
          ∧ ∀ b, b < k.addr ∨ k.addr + k.len ≤ b → sget zero8 b t.mere = sget zero8 b s.mere) ∧
      (unitOk s k = true → k.len ≠ 0 → remoteOk s k k.len = false →
        ∃ t, exec (.remoteWrite k []) s = .next t ∧ counts s t rRemoteRefuse 1 ∧ memoriesStay s t ∧ made t 1) ∧
      (unitOk s k = false → ∃ t, exec (.remoteWrite k []) s = .next t ∧ memoriesStay s t ∧ made t 2)) ∧
    (k.op = 2 → due k.len →
      (u < 12 → live s u = true → remoteOk s k k.len = true →
        ∃ t, exec (.remoteRead k []) s = .next t ∧ answers t 0 (tarnRead s u k.addr k.len)) ∧
      (u = 16 → remoteOk s k k.len = true →
        ∃ t, exec (.remoteRead k []) s = .next t ∧ answers t 0 (mereRead s k.addr k.len)) ∧
      (unitOk s k = true → remoteOk s k k.len = false →
        ∃ t, exec (.remoteRead k []) s = .next t ∧ counts s t rRemoteRefuse 1 ∧ answers t 1 []) ∧
      (unitOk s k = false → u ≠ 32 → ∃ t, exec (.remoteRead k []) s = .next t ∧ answers t 2 [])) ∧
    (k.op = 3 → k.data.length = k.len → due n → remoteOk s k n = true →
      let sums := addInto (if k.atype = 9 then 9 else 8) k.atype
      (u < 12 → live s u = true → repro s = false →
        ∃ t, exec (.remoteAdd k []) s = .next t ∧ tarnRead t u k.addr n = sums (tarnRead s u k.addr n) k.data
          ∧ t.mere = s.mere ∧ made t 0
          ∧ ∀ b, b < tarnKey u k.addr ∨ tarnKey u k.addr + n ≤ b → sget zero8 b t.tarn = sget zero8 b s.tarn) ∧
      (u = 16 → repro s = false →
        ∃ t, exec (.remoteAdd k []) s = .next t ∧ mereRead t k.addr n = sums (mereRead s k.addr n) k.data
          ∧ t.tarn = s.tarn ∧ made t 0) ∧
      (unitOk s k = true → repro s = true → regionsFree s k n = false →
        ∃ t, exec (.remoteAdd k []) s = .next t ∧ counts s t rAddClash 1 ∧ memoriesStay s t ∧ made t 6)) ∧
    (k.op = 4 ∨ k.op = 5 → u < 12 → (replyFor s k).all (fun x => replyLate s x.2) = true →
      ∃ t, exec (if k.op = 4 then .transferData k else .transferAck k) s = .next t ∧ counts s t rLateReply 1 ∧ t.outst = s.outst
        ∧ t.inbox = dropFirst (fun x => x == k) s.inbox ∧ memoriesStay s t) ∧
    (∀ (e c a : Nat) (x : Xfer), u < 12 → replyFor s k = some (e, x) → replyLate s x = false → k.status = 0 →
      (k.op = 4 → k.lastx = true → x.got = 0 → x.failed = false → x.dst = .tarn c a → k.len = x.len → k.data.length = k.len →
        ∃ t, exec (.transferData k) s = .next t ∧ tarnRead t c a x.len = k.data ∧ t.mere = s.mere
          ∧ (outstOf t u e).length + 1 = (outstOf s u e).length
          ∧ ∀ b, b < tarnKey c a ∨ tarnKey c a + x.len ≤ b → sget zero8 b t.tarn = sget zero8 b s.tarn) ∧
      (k.op = 5 → ∃ t, exec (.transferAck k) s = .next t ∧ outstOf t u e = (outstOf s u e).erase x ∧ memoriesStay s t)) ∧
    ∀ (c : CoreId) (e : Engine) (i : Nat) (x : Xfer), (outstOf s c.val (engNo e))[i]? = some x → x.remote = true → x.got = 0 →
      x.sent + xferTicks s ≤ s.now →
      ∃ t, exec (.transferTimeout c e i) s = .next t ∧ outstOf t c.val (engNo e) = (outstOf s c.val (engNo e)).erase x
        ∧ (x.tag, s.now) ∈ t.failedTags ∧ asserts t (srcOf 0 c.val (engUnit (engNo e))) 0x15

/-- A SUBMIT, ACK, CREDIT, LOAD or SPILLIN that passes the checks and bears the number expected next on a queue pair that
is not in ERROR, and that the part can take, is accepted: the number goes on by 1. One that bears another number has
no such effect and changes no memory. Either is counted as received. A datagram of wrong form, for an OFF pair, or
whose tag fails is counted as dropped and changes no other register and no memory. (R375, R376.) -/
def Obligations.HostMessages : Prop :=
  ∀ (ty : Nat) (c : Datagram → Instr), (ty, c) ∈ [(0x01, Instr.submit), (0x04, .ack), (0x05, .credit), (0x09, .load), (0x0B, .spillin)] →
    ∀ (m : Datagram) (s : State), canonical s = true → ohtOn s = true →
    (∀ (h : Hdr) (d : List Byte), judgeMsg m s = .good h d → h.ty = ty → qpState s h.q ≠ 2 →
      (h.psn = rxPsn s h.q → fclState s ≠ 3 → (qpOf s h.q).offPend = false → sqUsed s h.q + nEnt d ≤ sqSize s h.q →
        ∃ t, exec (c m) s = .next t ∧ rxPsn t h.q = (rxPsn s h.q + 1) % 2 ^ 24 ∧ counts s t rRxFrames 1) ∧
      (h.psn ≠ rxPsn s h.q →
        ∃ t, exec (c m) s = .next t ∧ rxPsn t h.q = rxPsn s h.q ∧ counts s t rRxFrames 1 ∧ memoriesStay s t)) ∧
    (judgeMsg m s = .form → ∃ t, exec (c m) s = .next t ∧ counts s t rRxFrames 1 ∧ counts s t rRxDrop 1
      ∧ registersStay s t (fun a => a = rRxFrames ∨ a = rRxDrop) ∧ memoriesStay s t) ∧
    (judgeMsg m s = .off → ∃ t, exec (c m) s = .next t ∧ counts s t rRxFrames 1 ∧ counts s t rRxDrop 1 ∧ counts s t rNoqp 1
      ∧ registersStay s t (fun a => a = rRxFrames ∨ a = rRxDrop ∨ a = rNoqp) ∧ memoriesStay s t) ∧
    (judgeMsg m s = .tag → ∃ t, exec (c m) s = .next t ∧ counts s t rRxFrames 1 ∧ counts s t rAuthFail 1
      ∧ registersStay s t (fun a => a = rRxFrames ∨ a = rAuthFail) ∧ memoriesStay s t)

/-- An accepted ACK drops the sent messages that its APSN covers; a CREDIT adds to the completion entries that the host
can take, up to 65535; a SUBMIT that fits appends its entries to the ring, each with its acceptance number and the
token area, and moves the tail; one that does not fit is counted, and nothing is accepted; a LOAD adds its bytes to
the image that a seed receives, and an empty one ends it; a SPILLIN adds its bytes to the image that comes back; a
CONFIG of tenant 0 of an owned part that writes SSQ_ENTRY leaves the value there, and one of another tenant is counted
as dropped (the model's choice, log entry 57). (R370, R376, R377, R378, R379, R386, R470.) -/
def Obligations.HostEffects : Prop :=
  ∀ (m : Datagram) (h : Hdr) (d : List Byte) (s : State), canonical s = true → ohtOn s = true → judgeMsg m s = .good h d →
    qpState s h.q ≠ 2 → h.psn = rxPsn s h.q →
    let q := h.q
    let p := qpOf s q
    (h.ty = 0x04 → (∀ x ∈ p.sent, x.item.spill = none) → p.outq = [] → p.queued = [] →
      let n := (h.apsn + 1 + 2 ^ 24 - (txPsn s q + 2 ^ 24 - p.sent.length) % 2 ^ 24) % 2 ^ 24
      ∃ t, exec (.ack m) s = .next t ∧ (qpOf t q).sent = (if n = 0 ∨ p.sent.length < n then p.sent else p.sent.drop n)
        ∧ memoriesStay s t) ∧
    (h.ty = 0x05 → p.queued = [] →
      ∃ t, exec (.credit m) s = .next t ∧ cqCredit t q = min 65535 (cqCredit s q + leAt d 0 4) ∧ memoriesStay s t) ∧
    (h.ty = 0x01 → fclState s ≠ 3 → p.offPend = false → p.asm = none → h.cont = false → 0 < nEnt d →
      (sqUsed s q + nEnt d ≤ sqSize s q →
        ∃ t, exec (.submit m) s = .next t ∧ (qpOf t q).ring = p.ring ++ (List.range (nEnt d)).map (fun i =>
            { acc := s.nextReq + i, tick := timeCounter s, bytes := slice (8 + 64 * i) 64 d
              toks := wordsOf (nTokw d) (d.drop (8 + 64 * nEnt d)) })
          ∧ (qpOf t q).asm = none ∧ sqTail t q = (sqTail s q + nEnt d) % (2 * sqSize s q) % 2 ^ 13
          ∧ t.nextReq = s.nextReq + nEnt d ∧ memoriesStay s t) ∧
      (sqSize s q < sqUsed s q + nEnt d →
        ∃ t, exec (.submit m) s = .next t ∧ (qpOf t q).ring = p.ring ∧ rxPsn t q = rxPsn s q ∧ counts s t rQfull 1
          ∧ memoriesStay s t)) ∧
    (h.ty = 0x09 → fclState s ≠ 3 → s.ore.filling = true → s.ore.seed = true → (s.ore.fillPart ++ d).length < 80 →
      (d ≠ [] → s.ore.last = false → ∃ t, exec (.load m) s = .next t ∧ t.ore = { s.ore with fillPart := s.ore.fillPart ++ d }
        ∧ memoriesStay s t) ∧
      (d = [] → ∃ t, exec (.load m) s = .next t ∧ t.ore.last = true ∧ t.ore.fillPart = s.ore.fillPart ∧ memoriesStay s t)) ∧
    (h.ty = 0x0B → fclState s ≠ 3 →
      ∃ t, exec (.spillin m) s = .next t ∧ (qpOf t q).inImage = p.inImage ++ d ∧ memoriesStay s t) ∧
    (h.ty = 0x07 → fclState s ≠ 3 →
      (qpTenant s q = 0 → s.sec.owned = true → ∀ v : Word, d = leBytes 4 0x18010 ++ leBytes 4 v.toNat ++ leBytes 4 1 →
        ∃ t, exec (.config m) s = .next t ∧ rd t 0x18010 = v ∧ memoriesStay s t) ∧
      (qpTenant s q ≠ 0 → ∃ t, exec (.config m) s = .next t ∧ counts s t rRxDrop 1 ∧ rxPsn t q = (rxPsn s q + 1) % 2 ^ 24
        ∧ memoriesStay s t))

/-- With the host port on: unacknowledged messages go out again, as they were, after the resend time, and a pair whose
acknowledgements stay away goes to ERROR; an ARP request, a neighbour solicitation and an echo request are answered; a
pause holds a priority back for its quanta; a frame dropped for its form is counted. A write of ones clears pending
vectors, but those whose source fires in the same control cycle. A write of STATE takes an OFF pair to READY with
every count 0 when its ring and range allow it, and a pair that has left OFF back to OFF once nothing is in flight (at
once, or later by QP_OFF); leaving ERROR restarts the numbering. (R373, R374, R376, R378, R383, R396, R466, R496.) -/
def Obligations.HostPort : Prop :=
  ∀ s : State, canonical s = true → powered s = true →
    (∀ q : Nat, ohtOn s = true → qpState s q = 1 → (qpOf s q).sent ≠ [] →
      let p := qpOf s q
      (p.lastSend + 1000 * max 1 (rdF s rOhtRto 0 16) ≤ s.now → pfcHeld s = false → p.outq = [] → p.queued = [] →
        ∃ t, exec (.ohtResend q) s = .next t ∧ qpOf t q = { p with lastSend := s.now } ∧ counts s t rRetx p.sent.length
          ∧ (∀ a : Nat × Nat, hostAddr s q = some a → t.out = s.out ++ p.sent.map fun m => .oht q a.1 a.2 m.bytes)
          ∧ memoriesStay s t) ∧
      (p.lastAdvance + 1000000 * max 1 (rdF s rOhtDead 0 16) ≤ s.now →
        ∃ t, exec (.ohtDead q) s = .next t ∧ qpState t q = 2 ∧ t.qps = s.qps ∧ registersStay s t (fun a => a = qctx q 0)
          ∧ memoriesStay s t)) ∧
    (∀ (sender mac : Nat) (payload : List Byte), ohtOn s = true →
      (isV6 s = false → exec (.arpRequest (ownV4 s) sender mac) s =
        .next { s with out := s.out ++ [.arp (ownMac s) (ownV4 s) sender mac] }) ∧
      (isV6 s = true → exec (.neighbourSolicitation (ownV6 s) sender mac) s =
        .next { s with out := s.out ++ [.arp (ownMac s) (ownV6 s) sender mac] }) ∧
      exec (.echoRequest sender payload) s = .next { s with out := s.out ++ [.echo sender payload] }) ∧
    (∀ prio quanta : Nat, ohtOn s = true → pfcOn s prio = true →
      ∃ t, exec (.pfcFrame prio quanta) s = .next t ∧ t.csr = s.csr ∧ memoriesStay s t
        ∧ sget (fun _ => 0) prio t.pfcPaused = (if quanta = 0 then 0 else s.now + ceilDiv (quanta * 16) 25)
        ∧ ∀ p, p ≠ prio → sget (fun _ => 0) p t.pfcPaused = sget (fun _ => 0) p s.pfcPaused) ∧
    (∀ w : DropCause, ohtOn s = true → w = .tooLong ∨ w = .fragment ∨ w = .protocol →
      ∃ t, exec (.droppedFrame w) s = .next t ∧ counts s t rRxDrop 1 ∧ registersStay s t (fun a => a = rRxDrop) ∧ memoriesStay s t) ∧
    (∀ (n : Fin 256) (high : Bool) (v same : Word),
      let a := tenReg n.val (if high then 48 else 15)
      ∃ t, exec (.vecPendClear n high v same) s = .next t ∧ rd t a = rd s a &&& ~~~(v &&& ~~~same) ∧ registersStay s t (fun b => b = a)
        ∧ memoriesStay s t) ∧
    ∀ (q : Nat) (v : Word), q < 16384 →
      let w := Word.ofNat (v.toNat &&& ctx0Mask)
      (qpState s q = 0 → fld v 0 2 = 1 →
        (mayLeaveOff s q w = true → ∃ t, exec (.qpStateWrite q v) s = .next t ∧ rd t (qctx q 0) = w ∧ qpState t q = 1
          ∧ txPsn t q = 0 ∧ rxPsn t q = 0 ∧ sqHead t q = 0 ∧ sqTail t q = 0 ∧ cqCredit t q = 0 ∧ inflight t q = 0
          ∧ rd t (0x34000 + 4 * q) = rd s (0x34000 + 4 * q) + 1 ∧ qpOf t q = {}
          ∧ (∀ q', q' ≠ q → qpOf t q' = qpOf s q') ∧ memoriesStay s t) ∧
        (mayLeaveOff s q w = false → exec (.qpStateWrite q v) s = .next s)) ∧
      (qpState s q = 1 ∨ qpState s q = 2 → fld v 0 2 = 0 →
        (inflight s q = 0 → ∃ t, exec (.qpStateWrite q v) s = .next t ∧ qpState t q = 0 ∧ qpOf t q = {} ∧ memoriesStay s t) ∧
        (inflight s q ≠ 0 → ∃ t, exec (.qpStateWrite q v) s = .next t ∧ t.csr = s.csr ∧ (qpOf t q).offPend = true
          ∧ memoriesStay s t)) ∧
      (qpState s q = 2 → fld v 0 2 = 1 → ∃ t, exec (.qpStateWrite q v) s = .next t ∧ qpState t q = 1 ∧ rxPsn t q = 0
        ∧ rd t (0x34000 + 4 * q) = rd s (0x34000 + 4 * q) + 1 ∧ memoriesStay s t) ∧
      ((qpOf s q).offPend = true → inflight s q = 0 → ∃ t, exec (.qpOff q) s = .next t ∧ qpState t q = 0 ∧ qpOf t q = {}
        ∧ memoriesStay s t)

/-- When the head entry is well formed, its CID is not held and Weast may read it, it leaves its ring. GENERATE of a new
session binds a request to the slot that is free for it, whose session is new; of a HOT session it makes the session
BUSY; with a model that is not active, or a part that does not serve, it completes with that status. CANCEL marks a
request that is in a step, ends one that is not, and otherwise completes with TOO_LATE or NOT_FOUND. PARK of a HOT
session begins its park at the cold place, of a COLD one completes; CLOSE frees the slot; SPILLIN, where Weast's
accesses to Mere move (log entry 89), opens the image that came back as a COLD session. A malformed entry, or a CID
that is held, completes with BAD_ENTRY. (R288, R379, R381, R385, R386, R387, R392.) -/
def Obligations.EntriesRead : Prop :=
  ∀ (q : Nat) (e : Entry) (s : State), canonical s = true → q < 16384 →
    let pops := fun t : State => (qpOf t q).ring = (qpOf s q).ring.tail
      ∧ sqHead t q = (sqHead s q + 1) % (2 * sqSize s q) % 2 ^ 13 ∧ t.tarn = s.tarn ∧ t.flash = s.flash
    let x := sess s e.session
    let fits := noSession s (qpTenant s q) e.cmod e.session = false ∧ boundBy s e.session = none
    (entryRead s q 1 e → fclState s < 2 → cmActive s e.cmod = true → (cmodel s e.cmod).tenant = qpTenant s q →
      e.f 30 1 ≤ (cmodel s e.cmod).stops.length →
      let bound := fun (t : State) (k : Nat) => ∃ r : Request, t.requests = s.requests ++ [r] ∧ r.q = q ∧ r.cid = e.cid ∧ r.acc = e.acc
        ∧ r.st = 1 ∧ r.slot = k ∧ r.task = (cmodel s e.cmod).task ∧ r.maxnew = e.maxnew ∧ r.toks = (e.toks.drop e.toff).take e.nin
        ∧ r.nout = 0 ∧ r.inStep = false ∧ r.keep = (e.f 1 1).testBit 1
      (∀ k : Nat, e.news = true → openSlot s (qpTenant s q) = some k → e.nin + e.maxnew ≤ longestOf s e.cmod →
        ∃ t, exec (.generate q) s = .next t ∧ pops t ∧ t.mere = s.mere ∧ bound t k ∧ (sess t k).st = 1 ∧ (sess t k).pos = 0
          ∧ (sess t k).tenant = qpTenant s q ∧ (sess t k).cmodel = e.cmod ∧ (sess t k).alloc = 0
          ∧ ∀ k', k' ≠ k → sess t k' = sess s k') ∧
      (e.news = false → x.st = 2 → fits → x.pos + (e.nin + e.maxnew) ≤ longestOf s e.cmod →
        ∃ t, exec (.generate q) s = .next t ∧ pops t ∧ t.mere = s.mere ∧ bound t e.session
          ∧ sess t e.session = { x with st := 1, ttl := e.ttl } ∧ ∀ k', k' ≠ e.session → sess t k' = sess s k')) ∧
    (entryRead s q 1 e → fclState s < 2 → cmActive s e.cmod = false →
      ∃ t, exec (.generate q) s = .next t ∧ pops t ∧ completionOf t q e.cid 7 ∧ t.requests = s.requests ∧ t.mere = s.mere) ∧
    (entryRead s q 1 e → 2 ≤ fclState s →
      ∃ t, exec (.generate q) s = .next t ∧ pops t ∧ completionOf t q e.cid 11 ∧ t.requests = s.requests ∧ t.mere = s.mere) ∧
    (entryRead s q 2 e →
      (∀ r : Request, (s.requests.find? fun r => r.q == q && r.cid == e.nin) = some r → r.st ≠ 5 →
        (r.inStep = true → ∃ t, exec (.cancel q) s = .next t ∧ pops t ∧ t.mere = s.mere ∧ completionOf t q e.cid 0
          ∧ t.requests = s.requests.map fun y => if y.acc = r.acc then { y with st := 5 } else y) ∧
        (r.inStep = false → (s.requests.find? fun y => y.acc == r.acc) = some r →
          ∃ t, exec (.cancel q) s = .next t ∧ pops t ∧ completionOf t q e.cid 0 ∧ completionOf t q e.nin 1
            ∧ t.requests = s.requests.filter fun y => y.acc != r.acc)) ∧
      ((s.requests.find? fun r => r.q == q && r.cid == e.nin) = none →
        ∃ t, exec (.cancel q) s = .next t ∧ pops t ∧ t.mere = s.mere ∧ t.requests = s.requests
          ∧ completionOf t q e.cid (if cidDone s q e.nin then 2 else 10))) ∧
    (entryRead s q 3 e → fits →
      (∀ (p : Pool) (a : Nat), x.st = 2 → poolOf s x.fmt = some p → coldPlace s x.fmt p (imageSize p x.pos) = some a →
        ∃ t, exec (.park q) s = .next t ∧ pops t ∧ t.mere = s.mere ∧ completionOf t q e.cid 0
          ∧ sess t e.session = { x with st := 3, cold := a, ttl := e.ttl, deadline := timeCounter s + ttlTicks s x.tenant e.ttl }
          ∧ ∀ k', k' ≠ e.session → sess t k' = sess s k') ∧
      (x.st = 3 ∨ x.st = 4 → ∃ t, exec (.park q) s = .next t ∧ pops t ∧ t.mere = s.mere ∧ completionOf t q e.cid 0
        ∧ t.sessions = s.sessions)) ∧
    (entryRead s q 4 e → fits → x.st ≠ 1 → x.st ≠ 5 →
      ∃ t, exec (.close q) s = .next t ∧ pops t ∧ completionOf t q e.cid 0 ∧ sess t e.session = {}
        ∧ ∀ k', k' ≠ e.session → sess t k' = sess s k') ∧
    (entryRead s q 5 e → weastFree s = true → fclState s < 2 → cmActive s e.cmod = true → (cmodel s e.cmod).tenant = qpTenant s q →
      ∀ (p : Pool) (k a : Nat), poolOf s (cmodel s e.cmod).fmt = some p →
        let l := (qpOf s q).inImage
        let img := stripRuns (l.length + 1) l
        leAt l 8 4 ≤ p.longest → leAt l 12 4 = (cmodel s e.cmod).fmt → 32 ≤ l.length → img.length = imageSize p (leAt l 8 4) →
        openSlot s (qpTenant s q) = some k → coldPlace s (cmodel s e.cmod).fmt p img.length = some a →
        ∃ t, exec (.spillinRequest q) s = .next t ∧ pops t ∧ completionOf t q e.cid 0 ∧ (qpOf t q).inImage = []
          ∧ (sess t k).st = 4 ∧ (sess t k).pos = leAt l 8 4 ∧ (sess t k).cold = a ∧ (sess t k).tenant = qpTenant s q
          ∧ mereRead t a img.length = img
          ∧ ∀ b, b < a ∨ a + img.length ≤ b → sget zero8 b t.mere = sget zero8 b s.mere) ∧
    (powered s = true → s.recov.silent = false → reqInuse s < 65536 → headEntry s q = some e →
      entryOk e = false ∨ cidHeld s q e.cid = true → (e.opc = 5 → weastFree s = true) →
      ∀ i ∈ (if e.opc = 2 then [Instr.cancel q] else if e.opc = 3 then [.park q] else if e.opc = 4 then [.close q]
        else if e.opc = 5 then [.spillinRequest q] else [.generate q]),
      ∃ t, exec i s = .next t ∧ pops t ∧ t.mere = s.mere ∧ completionOf t q e.cid 6 ∧ t.requests = s.requests ∧ t.sessions = s.sessions)

/-- With no step running and none to commit, a loaded task without a serving section begins a management step; a task
whose requests leave nothing to run begins none; a request in DECODE whose session is BUSY, with frames and units, is
the batch of the next step, and its cost moves from LEFT to RESERVED. A ring task begins step k at the time k times P,
with its revolution number, even with an empty batch, and at no other time. A segment's result is noted once, and the
management packet that brought it is taken. Once the step has ended here and every segment has reported OK the batch
commits: a decode moves its session on by one position, and its units are charged. When a segment is late the step
fails, and a request of a decode with retries left waits again with its units returned to LEFT; of Mere only the row
that the step was to append changes. (R30, R388, R389, R390, R391, R393.) -/
def Obligations.StepsServed : Prop :=
  ∀ s : State, canonical s = true →
    (∀ k : TaskId, (taskImg s k.val).serve = [] → stepMayBegin s k.val 0 →
      ∃ t, exec (.stepBuild k) s = .next t ∧ stepBeganAt t k.val 0 ∧ t.stepNo = s.stepNo + 1 ∧ t.mere = s.mere ∧ t.tarn = s.tarn
        ∧ t.batch = some { task := k.val, k := s.stepNo + 1, nseg := (taskImg s k.val).nseg }) ∧
    (∀ k : TaskId, stepFree s = true → taskLoaded s k.val = true → (taskImg s k.val).serve ≠ [] → (taskImg s k.val).period = 0 →
      ordered s k.val = [] → exec (.stepBuild k) s = .next s) ∧
    (∀ (k : TaskId) (r : Request),
      let i := taskImg s k.val
      let cost := rdF s (tenReg r.tenant 9) 0 8
      i.serve ≠ [] → i.period = 0 → s.requests = [r] → r.task = k.val → r.tenant < 256 → r.st = 4 → r.inStep = false → r.toks ≠ [] →
      (sess s r.slot).st = 1 → ceilDiv ((sess s r.slot).pos + 1) 16 ≤ (sess s r.slot).alloc → 1 ≤ i.decLimit → 96 ≤ i.f 20 4 →
      cost ≤ unitsLeft s r.tenant → stepMayBegin s k.val (i.entryOf 0) →
      ∃ t, exec (.stepBuild k) s = .next t ∧ stepBeganAt t k.val (i.entryOf 0) ∧ t.stepNo = s.stepNo + 1 ∧ t.mere = s.mere
        ∧ (∃ b : Batch, t.batch = some b ∧ b.task = k.val ∧ b.k = s.stepNo + 1 ∧ b.decode = [r.acc] ∧ b.prefill = [] ∧ b.ended = none)
        ∧ t.requests = [{ r with inStep := true, reserved := cost }]
        ∧ rd t (tenReg r.tenant 7) = rd s (tenReg r.tenant 7) - Word.ofNat cost
        ∧ rd t (tenReg r.tenant 8) = rd s (tenReg r.tenant 8) + Word.ofNat cost) ∧
    (∀ k : TaskId,
      let i := taskImg s k.val
      let n := timeCounter s / i.period
      (i.period ≠ 0 → timeCounter s % i.period = 0 → ordered s k.val = [] → (unitOf s oreKey).running = [] → 64 ≤ i.f 20 4 →
        stepMayBegin s k.val (i.entryOf 2) →
        ∃ t, exec (.ringStepStart k) s = .next t ∧ stepBeganAt t k.val (i.entryOf 2) ∧ t.stepNo = n ∧ t.mere = s.mere
          ∧ t.batch = some { task := k.val, k := n, nseg := i.nseg, self := i.f 56 2 }
          ∧ rd t rOreRevno = Word.ofNat (n * i.f 4 2 % (2 ^ 32 - 1))) ∧
      (i.period = 0 ∨ timeCounter s % i.period ≠ 0 ∨ stepFree s = false → exec (.ringStepStart k) s = .next s)) ∧
    (∀ (b : Batch) (seg : Nat) (ok : Bool), powered s = true → s.batch = some b →
      (seg < b.nseg → seg ≠ b.self → (b.segs.any fun x => x.1 == seg) = false →
        exec (.segmentResult seg b.k ok) s = .next { s with
          batch := some { b with segs := b.segs ++ [(seg, ok)] }
          mail := dropFirst (fun k => k.op == 8 && k.data == resultData b.k seg ok) s.mail }) ∧
      ((b.segs.any fun x => x.1 == seg) = true → exec (.segmentResult seg b.k ok) s = .next s)) ∧
    (∀ b : Batch, powered s = true → s.recov.silent = false → s.batch = some b → b.ended.isSome = true →
      (b.members = [] → someFail b = true ∨ allOk b = true → exec .stepCommit s = .next { s with batch := none }) ∧
      (someFail b = false → allOk b = false → exec .stepCommit s = .next s) ∧
      (∀ r : Request, b.decode = [r.acc] → b.prefill = [] → someFail b = false → allOk b = true → s.requests = [r] →
        b.named.contains r.slot = false → r.keep = true → r.q < 16384 → r.tenant < 256 → (sess s r.slot).st = 1 →
        ∃ t, exec .stepCommit s = .next t ∧ t.batch = none ∧ (sess t r.slot).pos = (sess s r.slot).pos + 1
          ∧ counts s t (statReg r.tenant 1) 1 ∧ counts s t (statReg r.tenant 2) r.reserved
          ∧ chargedOf t r.tenant = chargedOf s r.tenant + r.reserved ∧ memoriesStay s t)) ∧
    ∀ (b : Batch) (at_ : Nat), powered s = true → s.recov.silent = false → s.batch = some b → b.ended = some at_ →
      someFail b = false → allOk b = false → at_ + 1000 * rdF s 0x500038 0 20 ≤ s.now →
      (b.members = [] → exec .commitTimeout s = .next { s with batch := none }) ∧
      (∀ r : Request, b.decode = [r.acc] → b.prefill = [] → s.requests = [r] → r.st ≠ 5 → b.named.contains r.slot = false →
        b.conseq = false → r.retries < rdF s 0x500034 0 2 → r.tenant < 256 →
        let x := sess s r.slot
        ∃ t, exec .commitTimeout s = .next t ∧ t.batch = none ∧ t.tarn = s.tarn ∧ t.flash = s.flash ∧ t.sessions = s.sessions
          ∧ t.requests = [{ r with inStep := false, reserved := 0, retries := r.retries + 1 }]
          ∧ rd t (tenReg r.tenant 7) = rd s (tenReg r.tenant 7) + Word.ofNat r.reserved
          ∧ ∀ (p : Pool) (fr a : Nat), poolOf s x.fmt = some p → frameOf s p r.slot x.s0 (x.pos / 16) = some fr →
            (∀ l, l < p.nl → a < rowAt p ((x.s0 + x.pos / 16) % 24) fr l (x.pos % 16)
              ∨ rowAt p ((x.s0 + x.pos / 16) % 24) fr l (x.pos % 16) + p.rb ≤ a) →
            sget zero8 a t.mere = sget zero8 a s.mere)

/-- A HOT session idle for HOT_IDLE begins its park at the cold place found. A COLD session at its deadline that no
request has bound is freed, or with SPILL set begins to spill. A park that is done leaves the session COLD without
frames and, for one stripe of one layer, its rows in the cold image; one that failed leaves it HOT. A restore that is
done leaves it BUSY with its request in PREFILL or DECODE, or HOT without one; one that failed leaves it COLD, and its
request ends. Moves and spills are stated where the slot tables leave them a way (R288; log entry 89). At an
accounting boundary each statistics counter is latched and cleared, and LEFT is renewed. (R247, R288, R385, R386,
R387, R394.) -/
def Obligations.SessionsMove : Prop :=
  ∀ s : State, canonical s = true → powered s = true →
    (∀ k : Nat, s.recov.silent = false →
      let x := sess s k
      x.tenant < 256 → x.cold < 24 * 2 ^ 37 →
      (x.st = 2 → x.idle + 1000000 * rdF s (tenReg x.tenant 12) 0 16 ≤ s.now → ∀ (p : Pool) (a : Nat), poolOf s x.fmt = some p →
        coldPlace s x.fmt p (imageSize p x.pos) = some a →
        ∃ t, exec (.hotIdlePark k) s = .next t ∧ memoriesStay s t ∧ t.csr = s.csr
          ∧ sess t k = { x with st := 3, cold := a, deadline := timeCounter s + ttlTicks s x.tenant x.ttl }
          ∧ ∀ k', k' ≠ k → sess t k' = sess s k') ∧
      (x.st = 4 → x.deadline ≤ timeCounter s → boundBy s k = none → mayLeave s x.tenant = true →
        ∃ t, exec (.sessionExpiry k) s = .next t ∧ counts s t (statReg x.tenant 10) 1 ∧ memoriesStay s t
          ∧ (bitOf (tenCfg s x.tenant 0) 1 = false → sess t k = {})
          ∧ (bitOf (tenCfg s x.tenant 0) 1 = true → (sess t k).st = 6 ∧ counts s t (statReg x.tenant 12) 1)) ∧
      ∀ p : Pool, poolOf s x.fmt = some p →
        (x.st = 3 → ∃ t, exec (.sessionMoveDone k false) s = .next t ∧ t.csr = s.csr ∧ memoriesStay s t
          ∧ sess t k = { x with st := 2, idle := s.now }) ∧
        (x.st = 3 → rowsReach false x s = true → ∃ t, exec (.sessionMoveDone k true) s = .next t ∧ t.tarn = s.tarn ∧ t.flash = s.flash
          ∧ sess t k = { x with st := 4, alloc := 0 } ∧ counts s t (statReg x.tenant 8) 1
          ∧ counts s t (statReg x.tenant 13) (imageSize p x.pos / 256)
          ∧ ∀ fr : Nat, p.nl = 1 → 1 ≤ x.pos → x.pos ≤ 16 → frameOf s p k x.s0 0 = some fr →
              let im := imageRow p x.cold x.pos 0 0
              (∀ g, g < x.alloc → pteAt p k x.s0 g + 4 ≤ im ∨ im + x.pos * p.rb ≤ pteAt p k x.s0 g) →
              mereRead t im (x.pos * p.rb) = mereRead s (rowAt p (x.s0 % 24) fr 0 0) (x.pos * p.rb)) ∧
        (x.st = 5 → boundBy s k = none →
          (∃ t, exec (.sessionMoveDone k false) s = .next t ∧ sess t k = { x with st := 4, alloc := 0 } ∧ t.tarn = s.tarn) ∧
          (rowsReach true x s = true → ∃ t, exec (.sessionMoveDone k true) s = .next t ∧ sess t k = { x with st := 2, idle := s.now } ∧ t.tarn = s.tarn
            ∧ counts s t (statReg x.tenant 9) 1)) ∧
        ∀ r : Request, x.st = 5 → s.requests = [r] → r.slot = k → r.st = 2 → r.q < 16384 →
          (∃ t, exec (.sessionMoveDone k false) s = .next t ∧ t.requests = [] ∧ completionOf t r.q r.cid 4 ∧ t.tarn = s.tarn) ∧
          (rowsReach true x s = true → ∃ t, exec (.sessionMoveDone k true) s = .next t ∧ sess t k = { x with st := 1 } ∧ t.tarn = s.tarn
            ∧ t.requests = [{ r with st := if r.fed < r.toks.length then 3 else 4 }] ∧ counts s t (statReg x.tenant 9) 1)) ∧
    (timeCounter s % (s.acctP * 10 ^ 6) = 0 → timeCounter s ≠ s.acctAt →
      ∃ t, exec .accountingBoundary s = .next t ∧ memoriesStay s t ∧ t.acctAt = timeCounter s ∧ t.acctP = acctPeriod s
        ∧ rd t 0x1010000 = rd s 0x1010000 + 1 ∧ rd t 0x1010084 = rd s 0x1010004 ∧ rd t 0x1010004 = 0
        ∧ ∀ n, n < 256 →
          let res := (rd s (tenReg n 8)).toNat
          (∀ c, c < 16 → rd t (statReg n c + 0x80) = rd s (statReg n c) ∧ rd t (statReg n c) = 0)
            ∧ chargedOf t n = 0 ∧ refillOf t n = max res (rd s (tenReg n 6)).toNat
            ∧ (rd t (tenReg n 7)).toNat = max res (rd s (tenReg n 6)).toNat - res ∧ rd t (tenReg n 8) = rd s (tenReg n 8)) ∧
    (timeCounter s % (s.acctP * 10 ^ 6) ≠ 0 → exec .accountingBoundary s = .next s)

/-- LDR_CTL with GO, no loader operation running: a load of the running task ends with result 8, of a task that is not in
exactly one tenant's list with result 9. Otherwise the load is whole or leaves nothing: when every check passes the
task is loaded with its image, and every other task keeps its own; when one fails the task is unloaded, no memory and
no other register has changed but those of a stack that the reading of the image woke, and the status holds the result
and its detail. It waits with GO set while the running image leaves Weast no way to Mere (log entries 89, 90). Stated
for an image whose units read clean. An unload clears the task at once, or waits with GO set for the end of its
running step. (R221, R288, R401, R402, R403, R405.) -/
def Obligations.Loads : Prop :=
  ∀ (v : Word) (s : State), canonical s = true → engines s = true → bitOf (rd s rLdrCtl) 0 = false →
    let k := fld v 2 6
    let go := wrF rLdrCtl 0 1 0 (ldrCtl v s)
    let s' := wrF (rCompat + 4 * k) 1 1 0 { go with tasks := sset (fun _ => {}) k {} go.tasks }
    let only := fun t : State => registersStay s t (fun a => a = rLdrStatus ∨ a = rLdrCtl ∨ a = rCompat + 4 * k)
    let woken := fun t : State => registersStay s t (fun a => a = rLdrStatus ∨ a = rLdrCtl ∨ a = rCompat + 4 * k
      ∨ ∃ n : StackId, a = stkReg n.val 4 ∨ a = stkReg n.val 0x24)
    (fld v 0 2 = 1 → (s.ssq.run = true ∧ s.ssq.task = k) →
      ∃ t, exec (.ldrLoad v []) s = .next t ∧ rd t rLdrStatus = Word.ofNat (8 + k * 2 ^ 4) ∧ t.tasks = s.tasks
        ∧ registersStay s t (fun a => a = rLdrStatus ∨ a = rLdrCtl) ∧ memoriesStay s t) ∧
    (fld v 0 2 = 1 → (s.ssq.run = false ∨ s.ssq.task ≠ k) → weastFree s = false →
      ∃ t, exec (.ldrLoad v []) s = .next t ∧ t.tasks = s.tasks ∧ bitOf (rd t rLdrCtl) 0 = true
        ∧ registersStay s t (fun a => a = rLdrCtl) ∧ memoriesStay s t) ∧
    (fld v 0 2 = 1 → (s.ssq.run = false ∨ s.ssq.task ≠ k) → weastFree s = true →
      ((tenantsOf s k).length ≠ 1 →
        ∃ t, exec (.ldrLoad v []) s = .next t ∧ rd t rLdrStatus = Word.ofNat (9 + k * 2 ^ 4) ∧ taskLoaded t k = false ∧ only t
          ∧ memoriesStay s t) ∧
      ∀ n : Nat, tenantsOf s k = [n] →
        ∃ t, exec (.ldrLoad v []) s = .next t ∧ bitOf (rd t rLdrCtl) 0 = false ∧
          match loadImage k n (rd64 s 0x500208) (rd s 0x500218).toNat (rd s 0x50021C).toNat (rd64 s 0x500210)
            (readImage n (rd64 s 0x500208) [] s') with
          | .ok _ => taskLoaded t k = true ∧ rd t rLdrStatus = Word.ofNat (k * 2 ^ 4) ∧ (taskImg t k).tenant = n
              ∧ (taskImg t k).src = rd64 s 0x500208 ∧ ∀ k', k' ≠ k → taskImg t k' = taskImg s k'
          | .error (.fail r d) => taskLoaded t k = false ∧ taskImg t k = {} ∧ woken t ∧ memoriesStay s t
              ∧ rd t rLdrStatus = Word.ofNat (r + k * 2 ^ 4 + d % 2 ^ 16 * 2 ^ 16)) ∧
    (fld v 0 2 = 3 → (s.ssq.run = false ∨ s.ssq.task ≠ k) →
      ∃ t, exec (.ldrUnload v) s = .next t ∧ taskLoaded t k = false ∧ taskImg t k = {} ∧ only t ∧ memoriesStay s t
        ∧ bitOf (rd t rLdrCtl) 0 = false) ∧
    (fld v 0 2 = 3 → (s.ssq.run = true ∧ s.ssq.task = k) →
      ∃ t, exec (.ldrUnload v) s = .next t ∧ t.tasks = s.tasks ∧ bitOf (rd t rLdrCtl) 0 = true
        ∧ registersStay s t (fun a => a = rLdrCtl) ∧ memoriesStay s t)

/-- With an error asserted, FAULT_RECORD takes that of the lowest source. While the log has room, its eight words stand at
the head, and the head moves on; with the log full, a record of a corrected error is lost and counted. A corrected
error is counted; a contained one is counted and noted for the step in hand, unless its step has ended; a part-class
one in RUN begins a recovery, in a later phase begins it again, and past the limit holds the part; a part-class or
fatal one is kept in flash too; a fatal one stops the part. A broken wire asserts; the tail never passes the head;
injection acts in test mode only. (R417, R418, R425, R426, R427, R428, R429, R430, R435, R438, R447.) -/
def Obligations.FaultsRecorded : Prop :=
  ∀ s : State, canonical s = true →
    (∀ p : Pend, fclOn s = true → nextPend s = some p →
      let c := classOf p.cause
      let head := rdF s rLogHead 0 9
      let full := logUsed head (rdF s rLogTail 0 9) = 256
      let ws := recordWords s p (c == 2 && fclState s == 0 && !(limited s))
      ∃ t, exec .faultRecord s = .next t ∧ t.tarn = s.tarn
        ∧ (¬ full → rdF t rLogHead 0 9 = (head + 1) % 512
            ∧ ∀ i, i < 8 → rd t (0x21000 + 0x20 * (head % 256) + 4 * i) = ws.getD i 0)
        ∧ (full → c = 0 → rdF t rLogHead 0 9 = head ∧ counts s t rLogLost 1)
        ∧ (c = 0 → counts s t rCeCount 1 ∧ t.pend = s.pend.erase p ∧ memoriesStay s t)
        ∧ (c = 1 → counts s t rCtCount 1 ∧ memoriesStay s t ∧ ∀ b : Batch, s.batch = some b → b.ended = none →
            ∃ b' : Batch, t.batch = some b' ∧ b'.failed = (b.failed || (failsStep p.cause && !(stepOver p s))) ∧ b'.decode = b.decode)
        ∧ (2 ≤ c → flashRead t (0x01040000 + 32 * s.recov.ringAt) 32 = bytesOf ws)
        ∧ (c = 2 → counts s t rPtCount 1
            ∧ (fclState s = 0 → limited s = false → fclState t = 1 ∧ rdF t rFclStatus 2 2 = 0 ∧ counts s t rRecovCount 1)
            ∧ (fclState s = 1 → rdF s rFclStatus 2 2 ≠ 0 → limited s = false →
                fclState t = 1 ∧ rdF t rFclStatus 2 2 = 1 ∧ counts s t rRestart 1)
            ∧ (fclState s = 0 → limited s = true → fclState t = 2))
        ∧ (c = 3 → fclState t = 3 ∧
            (p.source ≠ srcOf 4 3 0 → p.source ≠ srcOf 4 4 0 → p.source ≠ srcOf 4 7 0 → t.requests = []))) ∧
    (∀ n : Nat, fclOn s = true → sourceOk n = true → n ∉ s.recov.broken →
      ∃ t, exec (.brokenWire n) s = .next t ∧ asserts t n (if srcKind n = 0 ∨ srcKind n = 2 then 0x25 else 0x32)
        ∧ n ∈ t.recov.broken ∧ bitOf (rd t rService) 4 = true ∧ registersStay s t (fun a => a = rService) ∧ memoriesStay s t) ∧
    (∀ v : Word, powered s = true →
      (logUsed (rdF s rLogHead 0 9) (fld v 0 9) ≤ logUsed (rdF s rLogHead 0 9) (rdF s rLogTail 0 9) →
        ∃ t, exec (.logTailWrite v) s = .next t ∧ rd t rLogTail = Word.ofNat (fld v 0 9)
          ∧ registersStay s t (fun a => a = rLogTail) ∧ memoriesStay s t) ∧
      (logUsed (rdF s rLogHead 0 9) (rdF s rLogTail 0 9) < logUsed (rdF s rLogHead 0 9) (fld v 0 9) →
        exec (.logTailWrite v) s = .next s)) ∧
    (∀ n cause : Nat, testMode s = true → sourceOk n = true →
      (∃ t, exec (.injectRaise n cause) s = .next t ∧ asserts t n (cause % 256) ∧ memoriesStay s t
        ∧ registersStay s t (fun a => a = rInject)) ∧
      (∃ t, exec (.injectRailsHigh n) s = .next t ∧ n ∈ t.recov.railsHeld ∧ rdF t rInject 24 3 = 2 ∧ t.pend = s.pend ∧ memoriesStay s t
        ∧ registersStay s t (fun a => a = rInject)) ∧
      (∃ t, exec (.injectRailsLow n) s = .next t ∧ n ∈ t.recov.railsHeld ∧ rdF t rInject 24 3 = 3 ∧ t.pend = s.pend ∧ memoriesStay s t
        ∧ registersStay s t (fun a => a = rInject)) ∧
      (hasSramCode n = true → ∃ t, exec (.injectBitFlip n) s = .next t ∧ counts s t rSramCe 1 ∧ memoriesStay s t
        ∧ registersStay s t (fun a => a = rInject ∨ a = rSramCe)) ∧
      ∃ t, exec .injectRelease s = .next t ∧ t.recov.railsHeld = [] ∧ rdF t rInject 24 3 = 0 ∧ memoriesStay s t
        ∧ t.recov.broken = s.recov.broken.filter fun b => !(s.recov.railsHeld.contains b)) ∧
    (testMode s = false → ∀ n cause : Nat, exec (.injectRaise n cause) s = .next s ∧ exec (.injectRailsHigh n) s = .next s
      ∧ exec (.injectRailsLow n) s = .next s ∧ exec (.injectBitFlip n) s = .next s ∧ exec .injectRelease s = .next s)

/-- RECOVER in RUN asserts a part-class error, and otherwise does nothing; RELEASE in HOLD begins a recovery at its reset
phase with an empty history. The reset phase loses Tarn, the accumulators, registers, flags and queues of the cores
and of the SSQ, keeps every task's Tarn windows and, when no write was under way, Mere, and goes on to restore or
holds the part. Restore is done once. Leave comes when the quiet period is over: with every ledger in balance the part
is in RUN, else it stays in the recovery with an assertion. A periodic measurement reads every monitor of every live
core. (R430, R432, R433, R434, R436, R438, R445, R448.) -/
def Obligations.Recoveries : Prop :=
  ∀ s : State, canonical s = true →
    (powered s = true →
      (fclState s = 0 → ∃ t, exec .recover s = .next t ∧ asserts t (srcOf 4 10 0) 0x28 ∧ t.csr = s.csr ∧ memoriesStay s t) ∧
      (fclState s ≠ 0 → exec .recover s = .next s) ∧
      (fclState s = 2 → ∃ t, exec .release s = .next t ∧ fclState t = 1 ∧ rdF t rFclStatus 2 2 = 1 ∧ counts s t rRecovCount 1
        ∧ t.recov.history = [] ∧ t.recov.firstAt = s.now ∧ registersStay s t (fun a => a = rFclStatus ∨ a = rRecovCount)
        ∧ memoriesStay s t) ∧
      (fclState s ≠ 2 → exec .release s = .next s)) ∧
    (powered s = true → fclState s = 1 → s.recov.resetDone = false → (s.ssq.run = true → s.recov.firstAt + 1000000 ≤ s.now) →
      ∃ t, exec .recoveryReset s = .next t ∧ t.tarn = [] ∧ t.acc = [] ∧ t.treg = [] ∧ t.mask = [] ∧ t.spu = [] ∧ t.flags = []
        ∧ t.units = [] ∧ t.outst = [] ∧ t.ssq = {} ∧ (fclState t = 1 ∧ rdF t rFclStatus 2 2 = 2 ∧ t.recov.resetDone = true ∨ fclState t = 2)
        ∧ (s.outst = [] → fclState t = 1 → t.mere = s.mere)
        ∧ ∀ (c : CoreId) (k w : Nat), k < 64 → w < 2 →
            rd t (coreReg c.val (0xC400 + 8 * k + 4 * w)) = rd s (coreReg c.val (0xC400 + 8 * k + 4 * w))) ∧
    (powered s = true → fclState s = 1 → s.recov.resetDone = true → s.recov.restoreDone = false → (∀ x ∈ s.tasks, x.1 < 64) →
      ∃ t, exec .recoveryRestore s = .next t ∧ t.recov = { s.recov with restoreDone := true } ∧ fclState t = 1
        ∧ (s.tasks = [] → t = { s with recov := { s.recov with restoreDone := true } })) ∧
    (powered s = true → fclState s = 1 → s.recov.restoreDone = true → s.recov.lastAt + quietTicks s ≤ s.now →
      rdF s rFclStatus 2 2 ≠ 3 →
      ∃ t, exec .recoveryLeave s = .next t ∧ counts s t 0x14008 1 ∧ memoriesStay s t
        ∧ ((ledgers s).all (fun l => l.2) = true → fclState t = 0 ∧ rdF t rFclStatus 2 2 = 0
            ∧ rd t rLastRecov = Word.ofNat ((s.now - s.recov.firstAt) / 1000) ∧ t.pend = s.pend
            ∧ (s.requests = [] → t.recov.downSince = none))
        ∧ ((ledgers s).all (fun l => l.2) = false → fclState t = 1 ∧ rdF t rFclStatus 2 2 = 3 ∧ asserts t (srcOf 4 9 0) 0x22)) ∧
    (engines s = true → s.recov.ageAt + 14400 * 10 ^ 9 ≤ timeCounter s →
      ∃ t, exec .ageingMeasure s = .next t ∧ t.recov.ageAt = timeCounter s ∧ t.recov.measures = s.recov.measures + 1 ∧ memoriesStay s t
        ∧ ∀ (c : CoreId) (k : Nat), live s c.val = true → k < 16 →
            rd t (coreReg c.val (0xD100 + 4 * k)) = Word.ofNat (ux 16 (Config.slack c.val k (rdF s (coreReg c.val 0xD140) 0 12)
              (rdF s (coreReg c.val 0xD140) 12 3) (s.recov.measures + 1)))) ∧
    (timeCounter s < s.recov.ageAt + 14400 * 10 ^ 9 → exec .ageingMeasure s = .next s)

/-- An operation whose requester may start it and whose buffer is good, with every Mere unit of it clean: REPORT leaves a
report over the nonce with its signature in the buffer; CERT leaves the certificates; KEY_INSTALL puts a key that
unwraps into the first free WIU slot or its OHT slot, and counts one that does not unwrap; KEY_DELETE zeroes a valid
slot; TRUST_WRITE replaces the trust list; OWNER_SET and OWNER_CLEAR take effect at the next power-on; FW_UPDATE
writes an image that verifies to flash; SVN_COMMIT raises the fused minimum to the running version, 64 times at most.
A bad buffer ends any operation with its result and nothing else, and a requester that may not start it starts none.
(R451, R452, R458, R460, R461, R462, R463, R468, R469, R472.) -/
def Obligations.MailboxOperations : Prop :=
  ∀ (rq : Requester) (v : Word) (s : State), canonical s = true →
    let s' := mailboxState s v
    (∀ b : MBuf, mboxBuf s' = .ok b →
      (mailboxRuns s rq v 1 → 4304 ≤ b.len →
        let body := reportBody s' (bufRead s' b 32)
        ∃ t k, exec (.report rq v []) s = .next t ∧ mailboxResult t = 0 ∧ t.sec = s.sec ∧ t.tarn = s.tarn ∧ t.flash = s.flash
          ∧ bufRead t b (body.length + 96) = body ++ beBytes 48 (ecSign Config.deviceKey k (sha384 body)).1
              ++ beBytes 48 (ecSign Config.deviceKey k (sha384 body)).2) ∧
      (mailboxRuns s rq v 2 → Config.certificates.length ≤ b.len →
        ∃ t, exec (.cert rq v []) s = .next t ∧ mailboxResult t = 0 ∧ t.sec = s.sec ∧ t.tarn = s.tarn ∧ t.flash = s.flash
          ∧ bufRead t b Config.certificates.length = Config.certificates) ∧
      (mailboxRuns s rq v 3 → s.modul.testMode = false → 172 ≤ b.len →
        let l := bufRead s' b 172
        wrappedOk (fun u => u == 0 || u == 1) l = true →
        (unwrap s l = none → ∃ t, exec (.keyInstall rq v []) s = .next t ∧ mailboxResult t = 4 ∧ counts s t rUnwrapFail 1 ∧ t.sec = s.sec
          ∧ memoriesStay s t) ∧
        ∀ key : List Byte, unwrap s l = some key →
          let x : Key := { key := beNat key, id := Word.ofNat (leAt l 0 4), tenant := leAt l 4 1, valid := true }
          (∀ k : Nat, leAt l 5 1 = 0 → (∀ j, j < 256 → (wkey s j).valid = true → (wkey s j).id ≠ x.id) →
            ((List.range 256).find? fun j => !(wkey s j).valid) = some k →
            ∃ t, exec (.keyInstall rq v []) s = .next t ∧ mailboxResult t = 0 ∧ wkey t k = x ∧ (∀ j, j ≠ k → wkey t j = wkey s j)
              ∧ t.sec.okeys = s.sec.okeys ∧ memoriesStay s t) ∧
          (leAt l 5 1 = 1 → (∀ q ∈ activeQps s, rdF s (qctx q 6) 0 8 ≠ leAt l 6 1) →
            ∃ t, exec (.keyInstall rq v []) s = .next t ∧ mailboxResult t = 0
              ∧ okey t (leAt l 6 1) = { x with id := Word.ofNat (leAt l 8 4) } ∧ t.sec.wkeys = s.sec.wkeys ∧ memoriesStay s t)) ∧
      (mailboxRuns s rq v 4 → bitOf v 5 = true →
        ∃ t, exec (.keyDelete rq v) s = .next t ∧ mailboxResult t = (if (okey s (fld v 6 8)).valid then 0 else 5)
          ∧ (okey t (fld v 6 8)).valid = false ∧ (∀ j, j ≠ fld v 6 8 → okey t j = okey s j) ∧ t.sec.wkeys = s.sec.wkeys
          ∧ memoriesStay s t) ∧
      (mailboxRuns s rq v 4 → bitOf v 5 = false →
        ∃ t, exec (.keyDelete rq v) s = .next t ∧ mailboxResult t = (if (wkey s (fld v 6 8)).valid then 0 else 5)
          ∧ (wkey t (fld v 6 8)).valid = false ∧ (∀ j, j ≠ fld v 6 8 → wkey t j = wkey s j) ∧ t.sec.okeys = s.sec.okeys
          ∧ memoriesStay s t) ∧
      (mailboxRuns s rq v 5 →
        let n := leNat (bufRead s' b 4)
        4 ≤ b.len → n ≤ 8192 → 4 + 48 * n ≤ b.len →
        ∃ t, exec (.trustWrite rq v []) s = .next t ∧ mailboxResult t = 0 ∧ memoriesStay s t
          ∧ t.sec = { s.sec with trust := (List.range n).map fun i => slice (4 + 48 * i) 48 (bufRead s' b (4 + 48 * n)) }) ∧
      (mailboxRuns s rq v 6 → s.sec.owned = false ∨ rq = .config 0 → 172 ≤ b.len →
        wrappedOk (fun u => u == 2) (bufRead s' b 172) = true → ∀ key : List Byte, unwrap s (bufRead s' b 172) = some key →
        ∃ t, exec (.ownerSet rq v []) s = .next t ∧ mailboxResult t = 0 ∧ t.sec = { s.sec with nextSeed := some key } ∧ memoriesStay s t) ∧
      (mailboxRuns s rq v 7 →
        ∃ t, exec (.ownerClear rq v) s = .next t ∧ mailboxResult t = 0 ∧ t.sec = { s.sec with nextClear := true, nextSeed := none }
          ∧ memoriesStay s t) ∧
      (mailboxRuns s rq v 8 →
        let l := bufRead s' b b.len
        ∃ t, exec (.fwUpdate rq v []) s = .next t ∧ t.sec = s.sec ∧ t.tarn = s.tarn ∧ t.mere = s.mere ∧
          match verifyImage s.sec.svnMin (fun off n => slice off n l) with
          | .ok _ => mailboxResult t = 0 ∧ bitOf (rd t rSecStatus) 3 = true ∧ flashRead t 0 l.length = l
              ∧ ∀ a, l.length ≤ a → sget erased a t.flash = sget erased a s.flash
          | .error _ => mailboxResult t = 8 ∧ t.flash = s.flash) ∧
      (mailboxRuns s rq v 9 →
        let run := rdF s rSecSvn 0 16
        ∃ t, exec (.svnCommit rq v) s = .next t ∧ memoriesStay s t
          ∧ (s.sec.svnMin < run → s.sec.svnRaises < 64 → mailboxResult t = 0 ∧ t.sec.svnMin = run
              ∧ t.sec.svnRaises = s.sec.svnRaises + 1 ∧ rdF t rSecSvn 16 16 = run ∧ rdF t rSecSvn 0 16 = run)
          ∧ (s.sec.svnMin < run → 64 ≤ s.sec.svnRaises → mailboxResult t = 6 ∧ t.sec = s.sec))) ∧
    ∀ (ecc : EccMap) (i : Instr) (op : Nat), (i, op) ∈ [(Instr.report rq v ecc, 1), (.cert rq v ecc, 2), (.keyInstall rq v ecc, 3),
        (.keyDelete rq v, 4), (.trustWrite rq v ecc, 5), (.ownerSet rq v ecc, 6), (.ownerClear rq v, 7), (.fwUpdate rq v ecc, 8),
        (.svnCommit rq v, 9)] →
      (∀ e : Nat, mboxBuf s' = .error e → mailboxRuns s rq v op →
        ∃ t, exec i s = .next t ∧ mailboxResult t = e % 16 ∧ t.sec = s.sec ∧ registersStay s t (fun a => a = rMboxCtl)
          ∧ memoriesStay s t) ∧
      (mailboxAllowed s rq op = false → ∃ t, exec i s = .next t ∧ t.sec = s.sec ∧ registersStay s t (fun a => a = rPrivFail)
        ∧ memoriesStay s t)

/-- With its rails off and what R476 asks for, POWER_ON brings the part up from a cold reset. BOOT counts itself and
samples TEST_EN; an image that fails a check leaves the part unstarted with the stage, and one that passes starts
Weast with the queue pair 0 key and the live cores. READY follows. A fall of PWR_EN, a supply below its limits and a
cooling shutdown turn the rails off; RESET_N holds and restarts the part; each is a cold reset, which keeps the fuses,
module flash, seed, trust list, minimum version and core record. A supply outside its limits for longer than allowed
and a crossed cooling limit each assert an error once. (R429, R454, R455, R466, R475, R476, R477, R478, R479, R487,
R488, R489.) -/
def Obligations.ModuleSupply : Prop :=
  ∀ s : State, canonical s = true →
    (s.modul.life = .off → s.modul.protOff = false → vinGood s.modul.vinMv = true → lowLongEnough s = true →
      (s.modul.needRise = true → s.modul.coolOk = true) →
      ∃ t, exec .powerOn s = .next t ∧ coldStart s t ∧ t.modul.life = .starting ∧ t.modul.pwrEn = true) ∧
    (s.modul.life ≠ .off → exec .powerOn s = .next s) ∧
    (s.modul.life = .starting →
      let n := min (s.sec.bootCnt + 1) 0xFFFFFFFF
      ∃ t, exec .boot s = .next t ∧ rd t rSecBootCnt = Word.ofNat n ∧ t.sec.bootCnt = n ∧ t.modul.testMode = s.modul.testEn
        ∧ flashRead t 0x01020000 4 = leBytes 4 n ∧ t.tarn = s.tarn ∧ t.mere = s.mere ∧
        match verifyImage s.sec.svnMin (flashRead (bootCount s)) with
        | .error stage => t.modul.life = .bootFailed ∧ bitOf (rd t rSecStatus) 2 = true ∧ t.sec.bootStage = stage
        | .ok i => t.modul.life = .booted ∧ t.sec.mfw = i.digest ∧ t.sec.fwVersion = i.version ∧ t.sec.wkeys = []
            ∧ rd t rSecSvn = Word.ofNat (i.svn + s.sec.svnMin * 2 ^ 16)
            ∧ okey t 0 = { key := qp0Key { takeOwner s.sec with bootCnt := n }, id := Word.ofNat n, tenant := 0, valid := true }
            ∧ rd t rMaskLive = Word.ofNat (0xFFF - (rdF s rMaskFused 0 12 ||| s.coreRecord % 2 ^ 12))) ∧
    (s.modul.life = .booted → fclState s ≠ 3 → exec .ready s = .next { s with modul := { s.modul with life := .ready } }) ∧
    (s.modul.life ≠ .off →
      (∃ t, exec .powerDown s = .next t ∧ coldStart s t ∧ t.modul.life = .off ∧ t.modul.pwrEn = false ∧ t.modul.offAt = some s.now) ∧
      (∃ t, exec .resetAssert s = .next t ∧ coldStart s t ∧ t.modul.life = .inReset ∧ t.modul.resetN = false) ∧
      (s.modul.resetN = false → s.modul.jtag ≠ 3 →
        ∃ t, exec .resetRelease s = .next t ∧ coldStart s t ∧ t.modul.life = .starting ∧ t.modul.resetN = true)) ∧
    (∀ mv us : Nat,
      let bad := (!(vinGood mv) && decide (2000 < us)) || (!(vinRide mv) && decide (20 < us))
      (bad = true → s.modul.vinBadAt = none → fclOn s = true →
        ∃ t, exec (.vinFault mv us) s = .next t ∧ asserts t (srcOf 6 0 0) 0x30 ∧ t.modul.vinBadAt = some s.now ∧ t.csr = s.csr
          ∧ memoriesStay s t) ∧
      (bad = false → exec (.vinFault mv us) s = .next { s with modul := { s.modul with vinMv := mv } })) ∧
    (∀ mv : Nat, s.modul.life ≠ .off →
      mv < 55000 ∨ (vinGood mv = false ∧ ∃ b, s.modul.vinBadAt = some b ∧ b + 100000000 ≤ s.now) →
      ∃ t, exec (.railsOff mv) s = .next t ∧ coldStart s t ∧ t.modul.life = .off ∧ t.modul.protOff = true) ∧
    (∀ mv : Nat, s.modul.life = .off → vinGood mv = true → s.modul.pwrEn = true → s.modul.protOff = true → s.modul.needRise = false →
      s.modul.fpSel = false → ∃ t, exec (.vinRestart mv) s = .next t ∧ coldStart s t ∧ t.modul.life = .starting) ∧
    (∀ v : Sample, s.modul.life ≠ .off →
      ∃ t, exec (.sensorSample v) s = .next t ∧ memoriesStay s t ∧ rd t 0x15004 = Word.ofNat (v.vinMv % 2 ^ 17)
        ∧ rd t 0x15014 = Word.ofNat (max (rd s 0x15014).toNat (v.pin10Dw % 2 ^ 16))
        ∧ (∀ n, n < 12 → rd t (0x15100 + 4 * n) = Word.ofNat (ux 16 (v.tcore.getD n 0)))
        ∧ (∀ n, n < 24 → rd t (0x15140 + 4 * n) = Word.ofNat (ux 16 (v.tstack.getD n 0)))
        ∧ (shutdown v = true → s.modul.coolAt = none → fclOn s = true →
            asserts t (srcOf 6 1 0) 0x31 ∧ t.modul.coolAt = some s.now)
        ∧ (shutdown v = false → t.pend = s.pend)) ∧
    ∀ (hot : Int) (at_ : Nat), s.modul.life ≠ .off → s.modul.coolAt = some at_ → at_ + 10000000000 ≤ s.now ∨ 12500 ≤ hot →
      ∃ t, exec (.thermalShutdown hot) s = .next t ∧ coldStart s t ∧ t.modul.life = .off ∧ t.modul.needRise = true

/-- With PWR_OK low the interface works: WRITE_ENABLE sets the latch that STATUS_READ shows; READ gives the bytes of
flash, all ones for the region of Weast's keys; PAGE_PROGRAM with the latch set clears bits of the bytes it names in
the firmware region and of nothing else, SECTOR_ERASE sets its sector to ones, and each clears the latch; without the
latch, or outside that region, neither changes flash. With PWR_OK high none of them does anything. JTAG works with
PWR_OK high: BYPASS is one bit long, IDCODE shifts out 0x024120A3, PRELOAD loads the boundary, EXTEST holds the part
in a cold reset and leaving it starts the part. (R486, R491, R492.) -/
def Obligations.FlashAndJtag : Prop :=
  ∀ s : State, canonical s = true →
    (s.modul.life = .off →
      (∃ t, exec .writeEnable s = .next t ∧ t.modul.wel = true ∧ t.csr = s.csr ∧ memoriesStay s t) ∧
      (∃ t, exec .statusRead s = .next t ∧ t.modul.spiOut = [if s.modul.wel then 2 else 0] ∧ t.csr = s.csr ∧ memoriesStay s t) ∧
      (∀ a n : Nat,
        (a + n ≤ 0x01050000 → ∃ t, exec (.read a n) s = .next t ∧ t.modul.spiOut = flashRead s a n ∧ memoriesStay s t) ∧
        (0x01050000 ≤ a → a + n ≤ 0x010D0000 →
          ∃ t, exec (.read a n) s = .next t ∧ t.modul.spiOut = List.replicate n 0xFF ∧ memoriesStay s t)) ∧
      (∀ (a : Nat) (l : List Byte), s.modul.wel = true → a < 0x01000000 → a % 256 + l.length ≤ 256 →
        ∃ t, exec (.pageProgram a l) s = .next t ∧ t.modul.wel = false ∧ t.tarn = s.tarn ∧ t.mere = s.mere ∧ t.csr = s.csr
          ∧ (∀ i, i < l.length → sget erased (a + i) t.flash = sget erased (a + i) s.flash &&& l.getD i 0)
          ∧ ∀ b, b < a ∨ a + l.length ≤ b → sget erased b t.flash = sget erased b s.flash) ∧
      (∀ a : Nat, s.modul.wel = true → a < 0x01000000 →
        ∃ t, exec (.sectorErase a) s = .next t ∧ t.modul.wel = false ∧ t.tarn = s.tarn ∧ t.mere = s.mere ∧ t.csr = s.csr
          ∧ ∀ b, sget erased b t.flash = if b / 65536 = a / 65536 then 0xFF else sget erased b s.flash) ∧
      ∀ (a : Nat) (l : List Byte), s.modul.wel = false ∨ 0x01000000 ≤ a → ∀ i ∈ [Instr.pageProgram a l, .sectorErase a],
        ∃ t, exec i s = .next t ∧ t.modul.wel = false ∧ memoriesStay s t) ∧
    (s.modul.life ≠ .off → ∀ (a n : Nat) (l : List Byte),
      ∀ i ∈ [Instr.writeEnable, .statusRead, .read a n, .pageProgram a l, .sectorErase a], exec i s = .next s) ∧
    (s.modul.life ≠ .off → s.modul.jtag ≠ 3 →
      (∀ b : Bool, ∃ t, exec (.bypass b) s = .next t ∧ t.modul.jtag = 0 ∧ t.modul.bypass = b
        ∧ t.modul.tdo = (if s.modul.jtag = 0 ∧ s.modul.bypass = true then 1 else 0) ∧ t.csr = s.csr ∧ memoriesStay s t) ∧
      (∃ t, exec .idcode s = .next t ∧ t.modul.jtag = 1 ∧ t.modul.tdo = 0x024120A3 ∧ t.csr = s.csr ∧ memoriesStay s t) ∧
      (∀ v : Nat, ∃ t, exec (.samplePreload (some v)) s = .next t ∧ t.modul.jtag = 2 ∧ t.modul.boundary = v % 2 ^ 15 ∧ t.csr = s.csr
        ∧ memoriesStay s t) ∧
      (∃ t, exec (.samplePreload none) s = .next t ∧ t.modul.jtag = 2 ∧ t.modul.tdo % 2 = (if s.modul.pwrEn then 1 else 0)
        ∧ t.csr = s.csr ∧ memoriesStay s t) ∧
      ∃ t, exec (.extest true) s = .next t ∧ coldStart s t ∧ t.modul.jtag = 3 ∧ t.modul.life = .inReset) ∧
    (s.modul.life ≠ .off → s.modul.jtag = 3 → s.modul.resetN = true →
      ∃ t, exec (.extest false) s = .next t ∧ coldStart s t ∧ t.modul.jtag ≠ 3 ∧ t.modul.life = .starting)

/-- A write of an SSQ register by a requester that may changes its writable bits to the value, clears the write-one-to-
clear bits that it names, but those whose event comes in the same control cycle, and leaves every other bit and
register; one without the right changes nothing but its own count. A read of a read-clear register returns its value
and clears those bits. A read of the low word of a pair latches the high word for its requester, and a read of the
high word returns the latch. An access to no register reads 0, changes nothing and is counted. A read of the security
region without privilege returns 0 and asserts an error; at no register it is counted too. (R10, R11, R12, R78, R468,
R494, R495, R496, R497.) -/
def Obligations.ControlSpace : Prop :=
  ∀ (rq : Requester) (a : Nat) (s : State), canonical s = true → powered s = true →
    (∀ (v same : Word) (r : RegRow), 0x18008 ≤ a → a < 0x20000 → regRow a = some r →
      (mayWriteAt s rq a = true → ∃ t, exec (.registerWrite rq a v same) s = .next t
        ∧ rd t a = ((rd s a &&& ~~~(Word.ofNat r.rw)) ||| (v &&& Word.ofNat r.rw)) &&& ~~~(v &&& Word.ofNat r.w1c &&& ~~~same)
        ∧ registersStay s t (fun b => b = a) ∧ memoriesStay s t) ∧
      (mayWriteAt s rq a = false → ∃ t, exec (.registerWrite rq a v same) s = .next t ∧ registersStay s t (fun b => b = rPrivFail)
        ∧ memoriesStay s t)) ∧
    (∀ r : RegRow, regRow a = some r → r.rc ≠ 0 → assigned s a = true → mayReadAt s rq a = true → wideValue s a = none →
      ¬ (4 ≤ a ∧ (wideValue s (a - 4)).isSome = true) →
      ∃ t, exec (.readClear rq a) s = .next t ∧ t.readData = regValue s a ∧ rd t a = rd s a &&& ~~~(Word.ofNat r.rc)
        ∧ registersStay s t (fun b => b = a) ∧ memoriesStay s t) ∧
    (∀ v : Nat, wideValue s a = some v → assigned s a = true → mayReadAt s rq a = true →
      (∃ t, exec (.latchedRead rq a) s = .next t ∧ t.readData = Word.ofNat v
        ∧ sget zero32 (latchKey rq a) t.latches = Word.ofNat (v / 2 ^ 32) ∧ t.csr = s.csr ∧ memoriesStay s t) ∧
      (assigned s (a + 4) = true → mayReadAt s rq (a + 4) = true →
        exec (.latchedRead rq (a + 4)) s = .next { s with readData := sget zero32 (latchKey rq a) s.latches })) ∧
    (assigned s a = false → inSec a = false →
      (∃ t, exec (.unassignedAccess rq a none) s = .next t ∧ t.readData = 0 ∧ counts s t 0x1010004 1
        ∧ registersStay s t (fun b => b = 0x1010004) ∧ memoriesStay s t) ∧
      ∀ v : Word, ∃ t, exec (.unassignedAccess rq a (some v)) s = .next t ∧ counts s t 0x1010004 1
        ∧ registersStay s t (fun b => b = 0x1010004 ∨ b = rPrivFail) ∧ memoriesStay s t) ∧
    (inSec a = true → mayReadAt s rq a = false →
      ∃ t, exec (.securityReadDenied rq a) s = .next t ∧ t.readData = 0 ∧ asserts t (srcOf 4 11 0) 0x02 ∧ memoriesStay s t
        ∧ (assigned s a = true → t.csr = s.csr)
        ∧ (assigned s a = false → counts s t 0x1010004 1 ∧ registersStay s t (fun b => b = 0x1010004)))
end

