-- ==== Sys2Proof/Laws/Crypto.lean ====
section
/-! SUPPORT. What is sealed under a key opens under it. -/

namespace Sys2Proof.Machine

theorem length_leBytes (n v : Nat) : (leBytes n v).length = n := by
  induction n generalizing v with
  | zero => rfl
  | succ n ih => simp [leBytes, ih]

theorem length_beBytes (n v : Nat) : (beBytes n v).length = n := by simp [beBytes, length_leBytes]

/-- Two byte lists added bit by bit, as long as the shorter. -/
def xorBytes (l k : List Byte) : List Byte := (l.zip k).map fun p => p.1 ^^^ p.2

theorem length_xorBytes (l k : List Byte) : (xorBytes l k).length = min l.length k.length := by simp [xorBytes]

theorem xorBytes_twice {l k : List Byte} (h : l.length ≤ k.length) : xorBytes (xorBytes l k) k = l := by
  apply List.ext_getElem
  · simp [length_xorBytes]; omega
  · intro i h1 h2
    simp [xorBytes]

/-- A stream cipher whose keystream block i is g i, from block o. -/
def ctrFrom (g : Nat → List Byte) (o : Nat) (l : List Byte) : List Byte :=
  (List.range ((l.length + 15) / 16)).flatMap fun i => xorBytes ((l.drop (16 * i)).take 16) (g (o + i))

theorem ctrFrom_cons {g : Nat → List Byte} {o : Nat} {l : List Byte} (h : l ≠ []) :
    ctrFrom g o l = xorBytes (l.take 16) (g o) ++ ctrFrom g (o + 1) (l.drop 16) := by
  have hl : 0 < l.length := List.length_pos_of_ne_nil h
  have hn : (l.length + 15) / 16 = ((l.drop 16).length + 15) / 16 + 1 := by simp; omega
  unfold ctrFrom
  rw [hn, List.range_succ_eq_map, List.flatMap_cons, List.flatMap_map]
  simp only [Nat.mul_zero, List.drop_zero, Nat.add_zero]
  congr 1
  apply List.flatMap_congr
  intro i _
  rw [List.drop_drop]
  congr 2
  · congr 1; omega
  · omega

theorem length_ctrFrom {g : Nat → List Byte} (hg : ∀ i, (g i).length = 16) {n : Nat} :
    ∀ {o : Nat} {l : List Byte}, l.length ≤ n → (ctrFrom g o l).length = l.length := by
  induction n with
  | zero => intro o l h; have : l = [] := List.length_eq_zero_iff.mp (by omega); subst this; rfl
  | succ n ih =>
    intro o l h
    by_cases he : l = []
    · subst he; rfl
    · have hl : 0 < l.length := List.length_pos_of_ne_nil he
      rw [ctrFrom_cons he, List.length_append, length_xorBytes, hg, ih (by simp; omega)]
      simp; omega

theorem ctrFrom_twice {g : Nat → List Byte} (hg : ∀ i, (g i).length = 16) {n : Nat} :
    ∀ {o : Nat} {l : List Byte}, l.length ≤ n → ctrFrom g o (ctrFrom g o l) = l := by
  induction n with
  | zero => intro o l h; have : l = [] := List.length_eq_zero_iff.mp (by omega); subst this; simp [ctrFrom]
  | succ n ih =>
    intro o l h
    by_cases he : l = []
    · subst he; simp [ctrFrom]
    · have hl : 0 < l.length := List.length_pos_of_ne_nil he
      have hlen : (ctrFrom g o l).length = l.length := length_ctrFrom hg h
      have hne : ctrFrom g o l ≠ [] := by intro h0; rw [h0] at hlen; simp at hlen; omega
      rw [ctrFrom_cons hne]
      rw [ctrFrom_cons he] at hlen ⊢
      have hx : (xorBytes (l.take 16) (g o)).length = min 16 l.length := by simp [length_xorBytes, hg]
      by_cases h16 : l.length ≤ 16
      · have hd : l.drop 16 = [] := by simp; omega
        have hc : ctrFrom g (o + 1) ([] : List Byte) = [] := rfl
        rw [hd, hc, List.append_nil, List.take_of_length_le (l := xorBytes _ _) (by omega), List.take_of_length_le h16,
          List.drop_of_length_le (by rw [length_xorBytes]; omega), hc, List.append_nil, xorBytes_twice (by rw [hg]; omega)]
      · have h1 : (xorBytes (l.take 16) (g o)).length = 16 := by omega
        rw [List.take_left' h1, List.drop_left' h1, ih (by simp; omega), xorBytes_twice (by rw [hg]; simp),
          List.take_append_drop]

theorem length_gcmSeal (key iv : Nat) (aad pt : List Byte) : (gcmSeal key iv aad pt).length = pt.length + 16 := by
  have hc : gcmCtr (aesKeys key) iv pt =
      ctrFrom (fun i => beBytes 16 (aesBlock (aesKeys key) (iv * 2 ^ 32 + (i + 2) % 2 ^ 32))) 0 pt := by
    unfold gcmCtr ctrFrom xorBytes; simp
  simp only [gcmSeal, List.length_append, hc, gcmTag, length_beBytes]
  rw [length_ctrFrom (fun i => length_beBytes _ _) (Nat.le_refl _)]

/-- What is read within a list's first part does not look at the rest. -/
theorem slice_append {h x : List Byte} {o n : Nat} (hn : o + n ≤ h.length) : slice o n (h ++ x) = slice o n h := by
  have : (List.drop o (h ++ x)).take n = (List.drop o h).take n := by
    rw [List.drop_append_of_le_length (by omega), List.take_append_of_le_length (by simp; omega)]
  simp only [slice, this]

theorem leAt_append {h x : List Byte} {o n : Nat} (hn : o + n ≤ h.length) : leAt (h ++ x) o n = leAt h o n := by
  rw [leAt, slice_append hn, leAt]

/-- Opening with the key, the nonce and the associated data of the sealing gives back what was sealed. -/
theorem gcmOpen_gcmSeal (key iv : Nat) (aad pt : List Byte) : gcmOpen key iv aad (gcmSeal key iv aad pt) = some pt := by
  let g : Nat → List Byte := fun i => beBytes 16 (aesBlock (aesKeys key) (iv * 2 ^ 32 + (i + 2) % 2 ^ 32))
  have hg : ∀ i, (g i).length = 16 := fun i => length_beBytes _ _
  have hc : ∀ l, gcmCtr (aesKeys key) iv l = ctrFrom g 0 l := by
    intro l; unfold gcmCtr ctrFrom xorBytes; simp [g]
  have ht : ∀ ct, (gcmTag (aesKeys key) iv aad ct).length = 16 := fun ct => length_beBytes _ _
  unfold gcmOpen gcmSeal
  have hl : (gcmCtr (aesKeys key) iv pt ++ gcmTag (aesKeys key) iv aad (gcmCtr (aesKeys key) iv pt)).length - 16 =
      (gcmCtr (aesKeys key) iv pt).length := by simp [ht]
  simp only []
  rw [if_neg (by simp [ht]), hl, List.take_left' rfl, List.drop_left' rfl, if_pos rfl, hc, hc,
    ctrFrom_twice hg (Nat.le_refl _)]

/-- What bears another tag does not open. -/
theorem gcmOpen_bad {key iv : Nat} {aad ct tag : List Byte} (hl : tag.length = 16) (h : gcmTag (aesKeys key) iv aad ct ≠ tag) :
    gcmOpen key iv aad (ct ++ tag) = none := by
  have hn : (ct ++ tag).length - 16 = ct.length := by simp [hl]
  unfold gcmOpen
  simp only [hn, List.take_left' rfl, List.drop_left' rfl]
  rw [if_neg (by simp [hl]), if_neg h]

end Sys2Proof.Machine
end

