-- ==== Sys2Proof/Laws/Sparse.lean ====
section
/-! SUPPORT. Laws of the sparse stores: a read after a write, other keys left alone, and the canonical form kept by every
operation. -/

namespace Sys2Proof.Machine

variable {α : Type} [DecidableEq α] {d : Nat → α}

/-- The canonical form from a bound holds from every smaller one. -/
theorem swfFrom_weaken {b b' : Nat} {l : List (Nat × α)} (h : swfFrom d b l = true) (hb : b' ≤ b) : swfFrom d b' l = true := by
  cases l with
  | nil => rfl
  | cons e r =>
    obtain ⟨j, v⟩ := e
    simp only [swfFrom, Bool.and_eq_true, decide_eq_true_eq] at h ⊢
    exact ⟨⟨by omega, h.1.2⟩, h.2⟩

/-- A key below the first listed one reads as unlisted. -/
theorem sget_below {b k : Nat} {l : List (Nat × α)} (h : swfFrom d b l = true) (hk : k < b) : sget d k l = d k := by
  cases l with
  | nil => rfl
  | cons e r =>
    obtain ⟨j, v⟩ := e
    simp only [swfFrom, Bool.and_eq_true, decide_eq_true_eq] at h
    simp [sget, show k ≠ j by omega, show k < j by omega]

/-- A write keeps the canonical form. -/
theorem swfFrom_sset {b k : Nat} {v : α} {l : List (Nat × α)} (h : swfFrom d b l = true) (hk : b ≤ k) :
    swfFrom d b (sset d k v l) = true := by
  induction l generalizing b with
  | nil => by_cases hv : v = d k <;> simp [sset, hv, swfFrom, hk]
  | cons e r ih =>
    obtain ⟨j, w⟩ := e
    simp only [swfFrom, Bool.and_eq_true, decide_eq_true_eq] at h
    obtain ⟨⟨h1, h2⟩, h3⟩ := h
    by_cases hkj : k = j
    · subst hkj
      by_cases hv : v = d k
      · simpa [sset, hv] using swfFrom_weaken h3 (by omega)
      · simp [sset, hv, swfFrom, hk, h3]
    · by_cases hlt : k < j
      · by_cases hv : v = d k
        · simp [sset, hkj, hlt, hv, swfFrom, h1, h2, h3]
        · simp [sset, hkj, hlt, hv, swfFrom, h2, h3, hk, show k + 1 ≤ j by omega]
      · simp [sset, hkj, hlt, swfFrom, h1, h2, ih h3 (by omega)]

/-- A read after a write to the same key gives the value written. -/
theorem sget_sset_same {b k : Nat} {v : α} {l : List (Nat × α)} (h : swfFrom d b l = true) :
    sget d k (sset d k v l) = v := by
  induction l generalizing b with
  | nil => by_cases hv : v = d k <;> simp [sset, hv, sget]
  | cons e r ih =>
    obtain ⟨j, w⟩ := e
    simp only [swfFrom, Bool.and_eq_true, decide_eq_true_eq] at h
    by_cases hkj : k = j
    · subst hkj
      by_cases hv : v = d k
      · simp [sset, hv, sget_below h.2 (Nat.lt_succ_self _)]
      · simp [sset, hv, sget]
    · by_cases hlt : k < j
      · by_cases hv : v = d k <;> simp [sset, hkj, hlt, hv, sget]
      · simp [sset, hkj, hlt, sget, ih h.2]

/-- A write leaves every other key alone. -/
theorem sget_sset_other {b j k : Nat} {v : α} {l : List (Nat × α)} (h : swfFrom d b l = true) (hj : j ≠ k) :
    sget d j (sset d k v l) = sget d j l := by
  induction l generalizing b with
  | nil => by_cases hv : v = d k <;> simp [sset, hv, sget, hj]
  | cons e r ih =>
    obtain ⟨i, w⟩ := e
    simp only [swfFrom, Bool.and_eq_true, decide_eq_true_eq] at h
    by_cases hki : k = i
    · subst hki
      by_cases hv : v = d k
      · simp only [sset, hv, if_true, sget, hj, if_false]
        by_cases hlt : j < k
        · simp [hlt, sget_below h.2 (show j < k + 1 by omega)]
        · simp [hlt]
      · simp [sset, hv, sget, hj]
    · by_cases hlt : k < i
      · by_cases hv : v = d k
        · simp [sset, hki, hlt, hv]
        · simp only [sset, hki, hlt, hv, if_false, if_true, sget, hj]
          by_cases hjk : j < k
          · simp [hjk, show j ≠ i by omega, show j < i by omega]
          · simp [hjk]
      · simp only [sset, hki, hlt, if_false, sget]
        rw [ih h.2]

/-- A run of writes keeps the canonical form. -/
theorem swfFrom_ssetMany {b k : Nat} {vs : List α} {l : List (Nat × α)} (h : swfFrom d b l = true) (hk : b ≤ k) :
    swfFrom d b (ssetMany d k vs l) = true := by
  induction vs generalizing k l with
  | nil => exact h
  | cons v r ih => exact ih (swfFrom_sset h hk) (by omega)

/-- A run of writes leaves every key outside it alone. -/
theorem sget_ssetMany_outside {b j k : Nat} {vs : List α} {l : List (Nat × α)} (h : swfFrom d b l = true) (hk : b ≤ k)
    (hj : j < k ∨ k + vs.length ≤ j) : sget d j (ssetMany d k vs l) = sget d j l := by
  induction vs generalizing k l with
  | nil => rfl
  | cons v r ih =>
    simp only [List.length_cons] at hj
    rw [ssetMany, ih (swfFrom_sset h hk) (by omega) (by omega), sget_sset_other h (by omega)]

/-- A read inside a run of writes gives the value written there. -/
theorem sget_ssetMany_inside {b i k : Nat} {vs : List α} {l : List (Nat × α)} (h : swfFrom d b l = true) (hk : b ≤ k)
    (hi : i < vs.length) : sget d (k + i) (ssetMany d k vs l) = vs[i] := by
  induction vs generalizing i k l with
  | nil => simp at hi
  | cons v r ih =>
    cases i with
    | zero =>
      rw [ssetMany, sget_ssetMany_outside (swfFrom_sset h hk) (by omega) (by omega)]
      simpa using sget_sset_same h
    | succ n =>
      have := ih (l := sset d k v l) (k := k + 1) (i := n) (swfFrom_sset h hk) (by omega) (by simpa using hi)
      rw [ssetMany, show k + (n + 1) = k + 1 + n by omega, this]
      simp

/-- Removing keys keeps the canonical form. -/
theorem swfFrom_filter {b : Nat} {l : List (Nat × α)} (p : Nat × α → Bool) (h : swfFrom d b l = true) :
    swfFrom d b (l.filter p) = true := by
  induction l generalizing b with
  | nil => rfl
  | cons e r ih =>
    obtain ⟨j, v⟩ := e
    simp only [swfFrom, Bool.and_eq_true, decide_eq_true_eq] at h
    by_cases hp : p (j, v) = true
    · simp [hp, swfFrom, h.1.1, h.1.2, ih h.2]
    · simpa [List.filter_cons, hp] using ih (swfFrom_weaken h.2 (by omega))

/-- Two stores in canonical form that read alike at every key are equal data. -/
theorem swfFrom_ext {b : Nat} {l m : List (Nat × α)} (hl : swfFrom d b l = true) (hm : swfFrom d b m = true)
    (h : ∀ k, sget d k l = sget d k m) : l = m := by
  induction l generalizing b m with
  | nil =>
    cases m with
    | nil => rfl
    | cons e r =>
      obtain ⟨j, v⟩ := e
      simp only [swfFrom, Bool.and_eq_true, decide_eq_true_eq] at hm
      exact absurd (by simpa [sget] using (h j).symm) hm.1.2
  | cons e r ih =>
    obtain ⟨j, v⟩ := e
    simp only [swfFrom, Bool.and_eq_true, decide_eq_true_eq] at hl
    cases m with
    | nil => exact absurd (by simpa [sget] using h j) hl.1.2
    | cons e' r' =>
      obtain ⟨j', v'⟩ := e'
      simp only [swfFrom, Bool.and_eq_true, decide_eq_true_eq] at hm
      rcases Nat.lt_trichotomy j j' with hlt | heq | hgt
      · exact absurd (by simpa [sget, show j ≠ j' by omega, hlt] using h j) hl.1.2
      · subst heq
        have hv : v = v' := by simpa [sget] using h j
        subst hv
        refine congrArg _ (ih hl.2 hm.2 fun k => ?_)
        rcases Nat.lt_trichotomy k j with h1 | h1 | h1
        · rw [sget_below hl.2 (by omega), sget_below hm.2 (by omega)]
        · subst h1
          rw [sget_below hl.2 (by omega), sget_below hm.2 (by omega)]
        · simpa [sget, show k ≠ j by omega, show ¬ k < j by omega] using h k
      · exact absurd (by simpa [sget, show j' ≠ j by omega, hgt] using (h j').symm) hm.1.2

/-- The canonical form of a whole store after a write, a run of writes, and a removal. -/
theorem swf_sset {k : Nat} {v : α} {l : List (Nat × α)} (h : swf d l = true) : swf d (sset d k v l) = true :=
  swfFrom_sset h (Nat.zero_le _)

theorem swf_ssetMany {k : Nat} {vs : List α} {l : List (Nat × α)} (h : swf d l = true) : swf d (ssetMany d k vs l) = true :=
  swfFrom_ssetMany h (Nat.zero_le _)

theorem swf_filter {l : List (Nat × α)} (p : Nat × α → Bool) (h : swf d l = true) : swf d (l.filter p) = true :=
  swfFrom_filter p h

theorem swf_sdrop {l : List (Nat × α)} (p : Nat → Bool) (h : swf d l = true) : swf d (sdrop p l) = true :=
  swfFrom_filter _ h

/-- Stores in canonical form are equal when they read alike. -/
theorem swf_ext {l m : List (Nat × α)} (hl : swf d l = true) (hm : swf d m = true) (h : ∀ k, sget d k l = sget d k m) :
    l = m := swfFrom_ext hl hm h

end Sys2Proof.Machine
end

