-- ==== Sys2Proof/Laws/State.lean ====
section
/-! SUPPORT. What each update of the state leaves alone: one lemma for each field and update. -/

namespace Sys2Proof.Machine

variable (s : State)

@[simp] theorem wr_pending (a : Nat) (v : Word) : (wr a v s).pending = s.pending := rfl
@[simp] theorem wr_eff (a : Nat) (v : Word) : (wr a v s).eff = s.eff := rfl
@[simp] theorem wr_latches (a : Nat) (v : Word) : (wr a v s).latches = s.latches := rfl
@[simp] theorem wr_readData (a : Nat) (v : Word) : (wr a v s).readData = s.readData := rfl
@[simp] theorem wr_tarn (a : Nat) (v : Word) : (wr a v s).tarn = s.tarn := rfl
@[simp] theorem wr_mere (a : Nat) (v : Word) : (wr a v s).mere = s.mere := rfl
@[simp] theorem wr_acc (a : Nat) (v : Word) : (wr a v s).acc = s.acc := rfl
@[simp] theorem wr_treg (a : Nat) (v : Word) : (wr a v s).treg = s.treg := rfl
@[simp] theorem wr_mask (a : Nat) (v : Word) : (wr a v s).mask = s.mask := rfl
@[simp] theorem wr_progs (a : Nat) (v : Word) : (wr a v s).progs = s.progs := rfl
@[simp] theorem wr_spu (a : Nat) (v : Word) : (wr a v s).spu = s.spu := rfl
@[simp] theorem wr_pipes (a : Nat) (v : Word) : (wr a v s).pipes = s.pipes := rfl
@[simp] theorem wr_arrays (a : Nat) (v : Word) : (wr a v s).arrays = s.arrays := rfl
@[simp] theorem wr_flags (a : Nat) (v : Word) : (wr a v s).flags = s.flags := rfl
@[simp] theorem wr_heldAdds (a : Nat) (v : Word) : (wr a v s).heldAdds = s.heldAdds := rfl
@[simp] theorem wr_units (a : Nat) (v : Word) : (wr a v s).units = s.units := rfl
@[simp] theorem wr_outst (a : Nat) (v : Word) : (wr a v s).outst = s.outst := rfl
@[simp] theorem wr_turns (a : Nat) (v : Word) : (wr a v s).turns = s.turns := rfl
@[simp] theorem wr_segs (a : Nat) (v : Word) : (wr a v s).segs = s.segs := rfl
@[simp] theorem wr_ssq (a : Nat) (v : Word) : (wr a v s).ssq = s.ssq := rfl
@[simp] theorem wr_pgv (a : Nat) (v : Word) : (wr a v s).pgv = s.pgv := rfl
@[simp] theorem wr_stackSt (a : Nat) (v : Word) : (wr a v s).stackSt = s.stackSt := rfl
@[simp] theorem wr_ore (a : Nat) (v : Word) : (wr a v s).ore = s.ore := rfl
@[simp] theorem wr_ports (a : Nat) (v : Word) : (wr a v s).ports = s.ports := rfl
@[simp] theorem wr_transit (a : Nat) (v : Word) : (wr a v s).transit = s.transit := rfl
@[simp] theorem wr_inbox (a : Nat) (v : Word) : (wr a v s).inbox = s.inbox := rfl
@[simp] theorem wr_regions (a : Nat) (v : Word) : (wr a v s).regions = s.regions := rfl
@[simp] theorem wr_remoteBad (a : Nat) (v : Word) : (wr a v s).remoteBad = s.remoteBad := rfl
@[simp] theorem wr_heldAcks (a : Nat) (v : Word) : (wr a v s).heldAcks = s.heldAcks := rfl
@[simp] theorem wr_fabWait (a : Nat) (v : Word) : (wr a v s).fabWait = s.fabWait := rfl
@[simp] theorem wr_mail (a : Nat) (v : Word) : (wr a v s).mail = s.mail := rfl
@[simp] theorem wr_nextTag (a : Nat) (v : Word) : (wr a v s).nextTag = s.nextTag := rfl
@[simp] theorem wr_failedTags (a : Nat) (v : Word) : (wr a v s).failedTags = s.failedTags := rfl
@[simp] theorem wr_meshTbl (a : Nat) (v : Word) : (wr a v s).meshTbl = s.meshTbl := rfl
@[simp] theorem wr_meshEff (a : Nat) (v : Word) : (wr a v s).meshEff = s.meshEff := rfl
@[simp] theorem wr_ingress (a : Nat) (v : Word) : (wr a v s).ingress = s.ingress := rfl
@[simp] theorem wr_tarnWait (a : Nat) (v : Word) : (wr a v s).tarnWait = s.tarnWait := rfl
@[simp] theorem wr_granted (a : Nat) (v : Word) : (wr a v s).granted = s.granted := rfl
@[simp] theorem wr_meshWait (a : Nat) (v : Word) : (wr a v s).meshWait = s.meshWait := rfl
@[simp] theorem wr_meshLast (a : Nat) (v : Word) : (wr a v s).meshLast = s.meshLast := rfl
@[simp] theorem wr_meshHeld (a : Nat) (v : Word) : (wr a v s).meshHeld = s.meshHeld := rfl
@[simp] theorem wr_now (a : Nat) (v : Word) : (wr a v s).now = s.now := rfl
@[simp] theorem wr_time (a : Nat) (v : Word) : (wr a v s).time = s.time := rfl
@[simp] theorem wr_pend (a : Nat) (v : Word) : (wr a v s).pend = s.pend := rfl
@[simp] theorem wr_recov (a : Nat) (v : Word) : (wr a v s).recov = s.recov := rfl
@[simp] theorem wr_qps (a : Nat) (v : Word) : (wr a v s).qps = s.qps := rfl
@[simp] theorem wr_sessions (a : Nat) (v : Word) : (wr a v s).sessions = s.sessions := rfl
@[simp] theorem wr_requests (a : Nat) (v : Word) : (wr a v s).requests = s.requests := rfl
@[simp] theorem wr_cmodels (a : Nat) (v : Word) : (wr a v s).cmodels = s.cmodels := rfl
@[simp] theorem wr_batch (a : Nat) (v : Word) : (wr a v s).batch = s.batch := rfl
@[simp] theorem wr_stepNo (a : Nat) (v : Word) : (wr a v s).stepNo = s.stepNo := rfl
@[simp] theorem wr_nextReq (a : Nat) (v : Word) : (wr a v s).nextReq = s.nextReq := rfl
@[simp] theorem wr_acctP (a : Nat) (v : Word) : (wr a v s).acctP = s.acctP := rfl
@[simp] theorem wr_acctAt (a : Nat) (v : Word) : (wr a v s).acctAt = s.acctAt := rfl
@[simp] theorem wr_charged (a : Nat) (v : Word) : (wr a v s).charged = s.charged := rfl
@[simp] theorem wr_refill (a : Nat) (v : Word) : (wr a v s).refill = s.refill := rfl
@[simp] theorem wr_fired (a : Nat) (v : Word) : (wr a v s).fired = s.fired := rfl
@[simp] theorem wr_tasks (a : Nat) (v : Word) : (wr a v s).tasks = s.tasks := rfl
@[simp] theorem wr_sec (a : Nat) (v : Word) : (wr a v s).sec = s.sec := rfl
@[simp] theorem wr_flash (a : Nat) (v : Word) : (wr a v s).flash = s.flash := rfl
@[simp] theorem wr_coreRecord (a : Nat) (v : Word) : (wr a v s).coreRecord = s.coreRecord := rfl
@[simp] theorem wr_modul (a : Nat) (v : Word) : (wr a v s).modul = s.modul := rfl
@[simp] theorem wr_pfcPaused (a : Nat) (v : Word) : (wr a v s).pfcPaused = s.pfcPaused := rfl
@[simp] theorem wr_out (a : Nat) (v : Word) : (wr a v s).out = s.out := rfl
@[simp] theorem wr_fresh (a : Nat) (v : Word) : (wr a v s).fresh = s.fresh := rfl

@[simp] theorem tarnWrite_pending (c a : Nat) (l : List Byte) : (tarnWrite c a l s).pending = s.pending := rfl
@[simp] theorem tarnWrite_csr (c a : Nat) (l : List Byte) : (tarnWrite c a l s).csr = s.csr := rfl
@[simp] theorem tarnWrite_eff (c a : Nat) (l : List Byte) : (tarnWrite c a l s).eff = s.eff := rfl
@[simp] theorem tarnWrite_latches (c a : Nat) (l : List Byte) : (tarnWrite c a l s).latches = s.latches := rfl
@[simp] theorem tarnWrite_readData (c a : Nat) (l : List Byte) : (tarnWrite c a l s).readData = s.readData := rfl
@[simp] theorem tarnWrite_mere (c a : Nat) (l : List Byte) : (tarnWrite c a l s).mere = s.mere := rfl
@[simp] theorem tarnWrite_acc (c a : Nat) (l : List Byte) : (tarnWrite c a l s).acc = s.acc := rfl
@[simp] theorem tarnWrite_treg (c a : Nat) (l : List Byte) : (tarnWrite c a l s).treg = s.treg := rfl
@[simp] theorem tarnWrite_mask (c a : Nat) (l : List Byte) : (tarnWrite c a l s).mask = s.mask := rfl
@[simp] theorem tarnWrite_progs (c a : Nat) (l : List Byte) : (tarnWrite c a l s).progs = s.progs := rfl
@[simp] theorem tarnWrite_spu (c a : Nat) (l : List Byte) : (tarnWrite c a l s).spu = s.spu := rfl
@[simp] theorem tarnWrite_pipes (c a : Nat) (l : List Byte) : (tarnWrite c a l s).pipes = s.pipes := rfl
@[simp] theorem tarnWrite_arrays (c a : Nat) (l : List Byte) : (tarnWrite c a l s).arrays = s.arrays := rfl
@[simp] theorem tarnWrite_flags (c a : Nat) (l : List Byte) : (tarnWrite c a l s).flags = s.flags := rfl
@[simp] theorem tarnWrite_heldAdds (c a : Nat) (l : List Byte) : (tarnWrite c a l s).heldAdds = s.heldAdds := rfl
@[simp] theorem tarnWrite_units (c a : Nat) (l : List Byte) : (tarnWrite c a l s).units = s.units := rfl
@[simp] theorem tarnWrite_outst (c a : Nat) (l : List Byte) : (tarnWrite c a l s).outst = s.outst := rfl
@[simp] theorem tarnWrite_turns (c a : Nat) (l : List Byte) : (tarnWrite c a l s).turns = s.turns := rfl
@[simp] theorem tarnWrite_segs (c a : Nat) (l : List Byte) : (tarnWrite c a l s).segs = s.segs := rfl
@[simp] theorem tarnWrite_ssq (c a : Nat) (l : List Byte) : (tarnWrite c a l s).ssq = s.ssq := rfl
@[simp] theorem tarnWrite_pgv (c a : Nat) (l : List Byte) : (tarnWrite c a l s).pgv = s.pgv := rfl
@[simp] theorem tarnWrite_stackSt (c a : Nat) (l : List Byte) : (tarnWrite c a l s).stackSt = s.stackSt := rfl
@[simp] theorem tarnWrite_ore (c a : Nat) (l : List Byte) : (tarnWrite c a l s).ore = s.ore := rfl
@[simp] theorem tarnWrite_ports (c a : Nat) (l : List Byte) : (tarnWrite c a l s).ports = s.ports := rfl
@[simp] theorem tarnWrite_transit (c a : Nat) (l : List Byte) : (tarnWrite c a l s).transit = s.transit := rfl
@[simp] theorem tarnWrite_inbox (c a : Nat) (l : List Byte) : (tarnWrite c a l s).inbox = s.inbox := rfl
@[simp] theorem tarnWrite_regions (c a : Nat) (l : List Byte) : (tarnWrite c a l s).regions = s.regions := rfl
@[simp] theorem tarnWrite_remoteBad (c a : Nat) (l : List Byte) : (tarnWrite c a l s).remoteBad = s.remoteBad := rfl
@[simp] theorem tarnWrite_heldAcks (c a : Nat) (l : List Byte) : (tarnWrite c a l s).heldAcks = s.heldAcks := rfl
@[simp] theorem tarnWrite_fabWait (c a : Nat) (l : List Byte) : (tarnWrite c a l s).fabWait = s.fabWait := rfl
@[simp] theorem tarnWrite_mail (c a : Nat) (l : List Byte) : (tarnWrite c a l s).mail = s.mail := rfl
@[simp] theorem tarnWrite_nextTag (c a : Nat) (l : List Byte) : (tarnWrite c a l s).nextTag = s.nextTag := rfl
@[simp] theorem tarnWrite_failedTags (c a : Nat) (l : List Byte) : (tarnWrite c a l s).failedTags = s.failedTags := rfl
@[simp] theorem tarnWrite_meshTbl (c a : Nat) (l : List Byte) : (tarnWrite c a l s).meshTbl = s.meshTbl := rfl
@[simp] theorem tarnWrite_meshEff (c a : Nat) (l : List Byte) : (tarnWrite c a l s).meshEff = s.meshEff := rfl
@[simp] theorem tarnWrite_ingress (c a : Nat) (l : List Byte) : (tarnWrite c a l s).ingress = s.ingress := rfl
@[simp] theorem tarnWrite_tarnWait (c a : Nat) (l : List Byte) : (tarnWrite c a l s).tarnWait = s.tarnWait := rfl
@[simp] theorem tarnWrite_granted (c a : Nat) (l : List Byte) : (tarnWrite c a l s).granted = s.granted := rfl
@[simp] theorem tarnWrite_meshWait (c a : Nat) (l : List Byte) : (tarnWrite c a l s).meshWait = s.meshWait := rfl
@[simp] theorem tarnWrite_meshLast (c a : Nat) (l : List Byte) : (tarnWrite c a l s).meshLast = s.meshLast := rfl
@[simp] theorem tarnWrite_meshHeld (c a : Nat) (l : List Byte) : (tarnWrite c a l s).meshHeld = s.meshHeld := rfl
@[simp] theorem tarnWrite_now (c a : Nat) (l : List Byte) : (tarnWrite c a l s).now = s.now := rfl
@[simp] theorem tarnWrite_time (c a : Nat) (l : List Byte) : (tarnWrite c a l s).time = s.time := rfl
@[simp] theorem tarnWrite_pend (c a : Nat) (l : List Byte) : (tarnWrite c a l s).pend = s.pend := rfl
@[simp] theorem tarnWrite_recov (c a : Nat) (l : List Byte) : (tarnWrite c a l s).recov = s.recov := rfl
@[simp] theorem tarnWrite_qps (c a : Nat) (l : List Byte) : (tarnWrite c a l s).qps = s.qps := rfl
@[simp] theorem tarnWrite_sessions (c a : Nat) (l : List Byte) : (tarnWrite c a l s).sessions = s.sessions := rfl
@[simp] theorem tarnWrite_requests (c a : Nat) (l : List Byte) : (tarnWrite c a l s).requests = s.requests := rfl
@[simp] theorem tarnWrite_cmodels (c a : Nat) (l : List Byte) : (tarnWrite c a l s).cmodels = s.cmodels := rfl
@[simp] theorem tarnWrite_batch (c a : Nat) (l : List Byte) : (tarnWrite c a l s).batch = s.batch := rfl
@[simp] theorem tarnWrite_stepNo (c a : Nat) (l : List Byte) : (tarnWrite c a l s).stepNo = s.stepNo := rfl
@[simp] theorem tarnWrite_nextReq (c a : Nat) (l : List Byte) : (tarnWrite c a l s).nextReq = s.nextReq := rfl
@[simp] theorem tarnWrite_acctP (c a : Nat) (l : List Byte) : (tarnWrite c a l s).acctP = s.acctP := rfl
@[simp] theorem tarnWrite_acctAt (c a : Nat) (l : List Byte) : (tarnWrite c a l s).acctAt = s.acctAt := rfl
@[simp] theorem tarnWrite_charged (c a : Nat) (l : List Byte) : (tarnWrite c a l s).charged = s.charged := rfl
@[simp] theorem tarnWrite_refill (c a : Nat) (l : List Byte) : (tarnWrite c a l s).refill = s.refill := rfl
@[simp] theorem tarnWrite_fired (c a : Nat) (l : List Byte) : (tarnWrite c a l s).fired = s.fired := rfl
@[simp] theorem tarnWrite_tasks (c a : Nat) (l : List Byte) : (tarnWrite c a l s).tasks = s.tasks := rfl
@[simp] theorem tarnWrite_sec (c a : Nat) (l : List Byte) : (tarnWrite c a l s).sec = s.sec := rfl
@[simp] theorem tarnWrite_flash (c a : Nat) (l : List Byte) : (tarnWrite c a l s).flash = s.flash := rfl
@[simp] theorem tarnWrite_coreRecord (c a : Nat) (l : List Byte) : (tarnWrite c a l s).coreRecord = s.coreRecord := rfl
@[simp] theorem tarnWrite_modul (c a : Nat) (l : List Byte) : (tarnWrite c a l s).modul = s.modul := rfl
@[simp] theorem tarnWrite_pfcPaused (c a : Nat) (l : List Byte) : (tarnWrite c a l s).pfcPaused = s.pfcPaused := rfl
@[simp] theorem tarnWrite_out (c a : Nat) (l : List Byte) : (tarnWrite c a l s).out = s.out := rfl
@[simp] theorem tarnWrite_fresh (c a : Nat) (l : List Byte) : (tarnWrite c a l s).fresh = s.fresh := rfl

@[simp] theorem mereWrite_pending (a : Nat) (l : List Byte) : (mereWrite a l s).pending = s.pending := rfl
@[simp] theorem mereWrite_csr (a : Nat) (l : List Byte) : (mereWrite a l s).csr = s.csr := rfl
@[simp] theorem mereWrite_eff (a : Nat) (l : List Byte) : (mereWrite a l s).eff = s.eff := rfl
@[simp] theorem mereWrite_latches (a : Nat) (l : List Byte) : (mereWrite a l s).latches = s.latches := rfl
@[simp] theorem mereWrite_readData (a : Nat) (l : List Byte) : (mereWrite a l s).readData = s.readData := rfl
@[simp] theorem mereWrite_tarn (a : Nat) (l : List Byte) : (mereWrite a l s).tarn = s.tarn := rfl
@[simp] theorem mereWrite_acc (a : Nat) (l : List Byte) : (mereWrite a l s).acc = s.acc := rfl
@[simp] theorem mereWrite_treg (a : Nat) (l : List Byte) : (mereWrite a l s).treg = s.treg := rfl
@[simp] theorem mereWrite_mask (a : Nat) (l : List Byte) : (mereWrite a l s).mask = s.mask := rfl
@[simp] theorem mereWrite_progs (a : Nat) (l : List Byte) : (mereWrite a l s).progs = s.progs := rfl
@[simp] theorem mereWrite_spu (a : Nat) (l : List Byte) : (mereWrite a l s).spu = s.spu := rfl
@[simp] theorem mereWrite_pipes (a : Nat) (l : List Byte) : (mereWrite a l s).pipes = s.pipes := rfl
@[simp] theorem mereWrite_arrays (a : Nat) (l : List Byte) : (mereWrite a l s).arrays = s.arrays := rfl
@[simp] theorem mereWrite_flags (a : Nat) (l : List Byte) : (mereWrite a l s).flags = s.flags := rfl
@[simp] theorem mereWrite_heldAdds (a : Nat) (l : List Byte) : (mereWrite a l s).heldAdds = s.heldAdds := rfl
@[simp] theorem mereWrite_units (a : Nat) (l : List Byte) : (mereWrite a l s).units = s.units := rfl
@[simp] theorem mereWrite_outst (a : Nat) (l : List Byte) : (mereWrite a l s).outst = s.outst := rfl
@[simp] theorem mereWrite_turns (a : Nat) (l : List Byte) : (mereWrite a l s).turns = s.turns := rfl
@[simp] theorem mereWrite_segs (a : Nat) (l : List Byte) : (mereWrite a l s).segs = s.segs := rfl
@[simp] theorem mereWrite_ssq (a : Nat) (l : List Byte) : (mereWrite a l s).ssq = s.ssq := rfl
@[simp] theorem mereWrite_pgv (a : Nat) (l : List Byte) : (mereWrite a l s).pgv = s.pgv := rfl
@[simp] theorem mereWrite_stackSt (a : Nat) (l : List Byte) : (mereWrite a l s).stackSt = s.stackSt := rfl
@[simp] theorem mereWrite_ore (a : Nat) (l : List Byte) : (mereWrite a l s).ore = s.ore := rfl
@[simp] theorem mereWrite_ports (a : Nat) (l : List Byte) : (mereWrite a l s).ports = s.ports := rfl
@[simp] theorem mereWrite_transit (a : Nat) (l : List Byte) : (mereWrite a l s).transit = s.transit := rfl
@[simp] theorem mereWrite_inbox (a : Nat) (l : List Byte) : (mereWrite a l s).inbox = s.inbox := rfl
@[simp] theorem mereWrite_regions (a : Nat) (l : List Byte) : (mereWrite a l s).regions = s.regions := rfl
@[simp] theorem mereWrite_remoteBad (a : Nat) (l : List Byte) : (mereWrite a l s).remoteBad = s.remoteBad := rfl
@[simp] theorem mereWrite_heldAcks (a : Nat) (l : List Byte) : (mereWrite a l s).heldAcks = s.heldAcks := rfl
@[simp] theorem mereWrite_fabWait (a : Nat) (l : List Byte) : (mereWrite a l s).fabWait = s.fabWait := rfl
@[simp] theorem mereWrite_mail (a : Nat) (l : List Byte) : (mereWrite a l s).mail = s.mail := rfl
@[simp] theorem mereWrite_nextTag (a : Nat) (l : List Byte) : (mereWrite a l s).nextTag = s.nextTag := rfl
@[simp] theorem mereWrite_failedTags (a : Nat) (l : List Byte) : (mereWrite a l s).failedTags = s.failedTags := rfl
@[simp] theorem mereWrite_meshTbl (a : Nat) (l : List Byte) : (mereWrite a l s).meshTbl = s.meshTbl := rfl
@[simp] theorem mereWrite_meshEff (a : Nat) (l : List Byte) : (mereWrite a l s).meshEff = s.meshEff := rfl
@[simp] theorem mereWrite_ingress (a : Nat) (l : List Byte) : (mereWrite a l s).ingress = s.ingress := rfl
@[simp] theorem mereWrite_tarnWait (a : Nat) (l : List Byte) : (mereWrite a l s).tarnWait = s.tarnWait := rfl
@[simp] theorem mereWrite_granted (a : Nat) (l : List Byte) : (mereWrite a l s).granted = s.granted := rfl
@[simp] theorem mereWrite_meshWait (a : Nat) (l : List Byte) : (mereWrite a l s).meshWait = s.meshWait := rfl
@[simp] theorem mereWrite_meshLast (a : Nat) (l : List Byte) : (mereWrite a l s).meshLast = s.meshLast := rfl
@[simp] theorem mereWrite_meshHeld (a : Nat) (l : List Byte) : (mereWrite a l s).meshHeld = s.meshHeld := rfl
@[simp] theorem mereWrite_now (a : Nat) (l : List Byte) : (mereWrite a l s).now = s.now := rfl
@[simp] theorem mereWrite_time (a : Nat) (l : List Byte) : (mereWrite a l s).time = s.time := rfl
@[simp] theorem mereWrite_pend (a : Nat) (l : List Byte) : (mereWrite a l s).pend = s.pend := rfl
@[simp] theorem mereWrite_recov (a : Nat) (l : List Byte) : (mereWrite a l s).recov = s.recov := rfl
@[simp] theorem mereWrite_qps (a : Nat) (l : List Byte) : (mereWrite a l s).qps = s.qps := rfl
@[simp] theorem mereWrite_sessions (a : Nat) (l : List Byte) : (mereWrite a l s).sessions = s.sessions := rfl
@[simp] theorem mereWrite_requests (a : Nat) (l : List Byte) : (mereWrite a l s).requests = s.requests := rfl
@[simp] theorem mereWrite_cmodels (a : Nat) (l : List Byte) : (mereWrite a l s).cmodels = s.cmodels := rfl
@[simp] theorem mereWrite_batch (a : Nat) (l : List Byte) : (mereWrite a l s).batch = s.batch := rfl
@[simp] theorem mereWrite_stepNo (a : Nat) (l : List Byte) : (mereWrite a l s).stepNo = s.stepNo := rfl
@[simp] theorem mereWrite_nextReq (a : Nat) (l : List Byte) : (mereWrite a l s).nextReq = s.nextReq := rfl
@[simp] theorem mereWrite_acctP (a : Nat) (l : List Byte) : (mereWrite a l s).acctP = s.acctP := rfl
@[simp] theorem mereWrite_acctAt (a : Nat) (l : List Byte) : (mereWrite a l s).acctAt = s.acctAt := rfl
@[simp] theorem mereWrite_charged (a : Nat) (l : List Byte) : (mereWrite a l s).charged = s.charged := rfl
@[simp] theorem mereWrite_refill (a : Nat) (l : List Byte) : (mereWrite a l s).refill = s.refill := rfl
@[simp] theorem mereWrite_fired (a : Nat) (l : List Byte) : (mereWrite a l s).fired = s.fired := rfl
@[simp] theorem mereWrite_tasks (a : Nat) (l : List Byte) : (mereWrite a l s).tasks = s.tasks := rfl
@[simp] theorem mereWrite_sec (a : Nat) (l : List Byte) : (mereWrite a l s).sec = s.sec := rfl
@[simp] theorem mereWrite_flash (a : Nat) (l : List Byte) : (mereWrite a l s).flash = s.flash := rfl
@[simp] theorem mereWrite_coreRecord (a : Nat) (l : List Byte) : (mereWrite a l s).coreRecord = s.coreRecord := rfl
@[simp] theorem mereWrite_modul (a : Nat) (l : List Byte) : (mereWrite a l s).modul = s.modul := rfl
@[simp] theorem mereWrite_pfcPaused (a : Nat) (l : List Byte) : (mereWrite a l s).pfcPaused = s.pfcPaused := rfl
@[simp] theorem mereWrite_out (a : Nat) (l : List Byte) : (mereWrite a l s).out = s.out := rfl
@[simp] theorem mereWrite_fresh (a : Nat) (l : List Byte) : (mereWrite a l s).fresh = s.fresh := rfl

@[simp] theorem flashWrite_pending (a : Nat) (l : List Byte) : (flashWrite a l s).pending = s.pending := rfl
@[simp] theorem flashWrite_csr (a : Nat) (l : List Byte) : (flashWrite a l s).csr = s.csr := rfl
@[simp] theorem flashWrite_eff (a : Nat) (l : List Byte) : (flashWrite a l s).eff = s.eff := rfl
@[simp] theorem flashWrite_latches (a : Nat) (l : List Byte) : (flashWrite a l s).latches = s.latches := rfl
@[simp] theorem flashWrite_readData (a : Nat) (l : List Byte) : (flashWrite a l s).readData = s.readData := rfl
@[simp] theorem flashWrite_tarn (a : Nat) (l : List Byte) : (flashWrite a l s).tarn = s.tarn := rfl
@[simp] theorem flashWrite_mere (a : Nat) (l : List Byte) : (flashWrite a l s).mere = s.mere := rfl
@[simp] theorem flashWrite_acc (a : Nat) (l : List Byte) : (flashWrite a l s).acc = s.acc := rfl
@[simp] theorem flashWrite_treg (a : Nat) (l : List Byte) : (flashWrite a l s).treg = s.treg := rfl
@[simp] theorem flashWrite_mask (a : Nat) (l : List Byte) : (flashWrite a l s).mask = s.mask := rfl
@[simp] theorem flashWrite_progs (a : Nat) (l : List Byte) : (flashWrite a l s).progs = s.progs := rfl
@[simp] theorem flashWrite_spu (a : Nat) (l : List Byte) : (flashWrite a l s).spu = s.spu := rfl
@[simp] theorem flashWrite_pipes (a : Nat) (l : List Byte) : (flashWrite a l s).pipes = s.pipes := rfl
@[simp] theorem flashWrite_arrays (a : Nat) (l : List Byte) : (flashWrite a l s).arrays = s.arrays := rfl
@[simp] theorem flashWrite_flags (a : Nat) (l : List Byte) : (flashWrite a l s).flags = s.flags := rfl
@[simp] theorem flashWrite_heldAdds (a : Nat) (l : List Byte) : (flashWrite a l s).heldAdds = s.heldAdds := rfl
@[simp] theorem flashWrite_units (a : Nat) (l : List Byte) : (flashWrite a l s).units = s.units := rfl
@[simp] theorem flashWrite_outst (a : Nat) (l : List Byte) : (flashWrite a l s).outst = s.outst := rfl
@[simp] theorem flashWrite_turns (a : Nat) (l : List Byte) : (flashWrite a l s).turns = s.turns := rfl
@[simp] theorem flashWrite_segs (a : Nat) (l : List Byte) : (flashWrite a l s).segs = s.segs := rfl
@[simp] theorem flashWrite_ssq (a : Nat) (l : List Byte) : (flashWrite a l s).ssq = s.ssq := rfl
@[simp] theorem flashWrite_pgv (a : Nat) (l : List Byte) : (flashWrite a l s).pgv = s.pgv := rfl
@[simp] theorem flashWrite_stackSt (a : Nat) (l : List Byte) : (flashWrite a l s).stackSt = s.stackSt := rfl
@[simp] theorem flashWrite_ore (a : Nat) (l : List Byte) : (flashWrite a l s).ore = s.ore := rfl
@[simp] theorem flashWrite_ports (a : Nat) (l : List Byte) : (flashWrite a l s).ports = s.ports := rfl
@[simp] theorem flashWrite_transit (a : Nat) (l : List Byte) : (flashWrite a l s).transit = s.transit := rfl
@[simp] theorem flashWrite_inbox (a : Nat) (l : List Byte) : (flashWrite a l s).inbox = s.inbox := rfl
@[simp] theorem flashWrite_regions (a : Nat) (l : List Byte) : (flashWrite a l s).regions = s.regions := rfl
@[simp] theorem flashWrite_remoteBad (a : Nat) (l : List Byte) : (flashWrite a l s).remoteBad = s.remoteBad := rfl
@[simp] theorem flashWrite_heldAcks (a : Nat) (l : List Byte) : (flashWrite a l s).heldAcks = s.heldAcks := rfl
@[simp] theorem flashWrite_fabWait (a : Nat) (l : List Byte) : (flashWrite a l s).fabWait = s.fabWait := rfl
@[simp] theorem flashWrite_mail (a : Nat) (l : List Byte) : (flashWrite a l s).mail = s.mail := rfl
@[simp] theorem flashWrite_nextTag (a : Nat) (l : List Byte) : (flashWrite a l s).nextTag = s.nextTag := rfl
@[simp] theorem flashWrite_failedTags (a : Nat) (l : List Byte) : (flashWrite a l s).failedTags = s.failedTags := rfl
@[simp] theorem flashWrite_meshTbl (a : Nat) (l : List Byte) : (flashWrite a l s).meshTbl = s.meshTbl := rfl
@[simp] theorem flashWrite_meshEff (a : Nat) (l : List Byte) : (flashWrite a l s).meshEff = s.meshEff := rfl
@[simp] theorem flashWrite_ingress (a : Nat) (l : List Byte) : (flashWrite a l s).ingress = s.ingress := rfl
@[simp] theorem flashWrite_tarnWait (a : Nat) (l : List Byte) : (flashWrite a l s).tarnWait = s.tarnWait := rfl
@[simp] theorem flashWrite_granted (a : Nat) (l : List Byte) : (flashWrite a l s).granted = s.granted := rfl
@[simp] theorem flashWrite_meshWait (a : Nat) (l : List Byte) : (flashWrite a l s).meshWait = s.meshWait := rfl
@[simp] theorem flashWrite_meshLast (a : Nat) (l : List Byte) : (flashWrite a l s).meshLast = s.meshLast := rfl
@[simp] theorem flashWrite_meshHeld (a : Nat) (l : List Byte) : (flashWrite a l s).meshHeld = s.meshHeld := rfl
@[simp] theorem flashWrite_now (a : Nat) (l : List Byte) : (flashWrite a l s).now = s.now := rfl
@[simp] theorem flashWrite_time (a : Nat) (l : List Byte) : (flashWrite a l s).time = s.time := rfl
@[simp] theorem flashWrite_pend (a : Nat) (l : List Byte) : (flashWrite a l s).pend = s.pend := rfl
@[simp] theorem flashWrite_recov (a : Nat) (l : List Byte) : (flashWrite a l s).recov = s.recov := rfl
@[simp] theorem flashWrite_qps (a : Nat) (l : List Byte) : (flashWrite a l s).qps = s.qps := rfl
@[simp] theorem flashWrite_sessions (a : Nat) (l : List Byte) : (flashWrite a l s).sessions = s.sessions := rfl
@[simp] theorem flashWrite_requests (a : Nat) (l : List Byte) : (flashWrite a l s).requests = s.requests := rfl
@[simp] theorem flashWrite_cmodels (a : Nat) (l : List Byte) : (flashWrite a l s).cmodels = s.cmodels := rfl
@[simp] theorem flashWrite_batch (a : Nat) (l : List Byte) : (flashWrite a l s).batch = s.batch := rfl
@[simp] theorem flashWrite_stepNo (a : Nat) (l : List Byte) : (flashWrite a l s).stepNo = s.stepNo := rfl
@[simp] theorem flashWrite_nextReq (a : Nat) (l : List Byte) : (flashWrite a l s).nextReq = s.nextReq := rfl
@[simp] theorem flashWrite_acctP (a : Nat) (l : List Byte) : (flashWrite a l s).acctP = s.acctP := rfl
@[simp] theorem flashWrite_acctAt (a : Nat) (l : List Byte) : (flashWrite a l s).acctAt = s.acctAt := rfl
@[simp] theorem flashWrite_charged (a : Nat) (l : List Byte) : (flashWrite a l s).charged = s.charged := rfl
@[simp] theorem flashWrite_refill (a : Nat) (l : List Byte) : (flashWrite a l s).refill = s.refill := rfl
@[simp] theorem flashWrite_fired (a : Nat) (l : List Byte) : (flashWrite a l s).fired = s.fired := rfl
@[simp] theorem flashWrite_tasks (a : Nat) (l : List Byte) : (flashWrite a l s).tasks = s.tasks := rfl
@[simp] theorem flashWrite_sec (a : Nat) (l : List Byte) : (flashWrite a l s).sec = s.sec := rfl
@[simp] theorem flashWrite_coreRecord (a : Nat) (l : List Byte) : (flashWrite a l s).coreRecord = s.coreRecord := rfl
@[simp] theorem flashWrite_modul (a : Nat) (l : List Byte) : (flashWrite a l s).modul = s.modul := rfl
@[simp] theorem flashWrite_pfcPaused (a : Nat) (l : List Byte) : (flashWrite a l s).pfcPaused = s.pfcPaused := rfl
@[simp] theorem flashWrite_out (a : Nat) (l : List Byte) : (flashWrite a l s).out = s.out := rfl
@[simp] theorem flashWrite_fresh (a : Nat) (l : List Byte) : (flashWrite a l s).fresh = s.fresh := rfl

@[simp] theorem accSet_pending (c a row col : Nat) (v : Word) : (accSet c a row col v s).pending = s.pending := rfl
@[simp] theorem accSet_csr (c a row col : Nat) (v : Word) : (accSet c a row col v s).csr = s.csr := rfl
@[simp] theorem accSet_eff (c a row col : Nat) (v : Word) : (accSet c a row col v s).eff = s.eff := rfl
@[simp] theorem accSet_latches (c a row col : Nat) (v : Word) : (accSet c a row col v s).latches = s.latches := rfl
@[simp] theorem accSet_readData (c a row col : Nat) (v : Word) : (accSet c a row col v s).readData = s.readData := rfl
@[simp] theorem accSet_tarn (c a row col : Nat) (v : Word) : (accSet c a row col v s).tarn = s.tarn := rfl
@[simp] theorem accSet_mere (c a row col : Nat) (v : Word) : (accSet c a row col v s).mere = s.mere := rfl
@[simp] theorem accSet_treg (c a row col : Nat) (v : Word) : (accSet c a row col v s).treg = s.treg := rfl
@[simp] theorem accSet_mask (c a row col : Nat) (v : Word) : (accSet c a row col v s).mask = s.mask := rfl
@[simp] theorem accSet_progs (c a row col : Nat) (v : Word) : (accSet c a row col v s).progs = s.progs := rfl
@[simp] theorem accSet_spu (c a row col : Nat) (v : Word) : (accSet c a row col v s).spu = s.spu := rfl
@[simp] theorem accSet_pipes (c a row col : Nat) (v : Word) : (accSet c a row col v s).pipes = s.pipes := rfl
@[simp] theorem accSet_arrays (c a row col : Nat) (v : Word) : (accSet c a row col v s).arrays = s.arrays := rfl
@[simp] theorem accSet_flags (c a row col : Nat) (v : Word) : (accSet c a row col v s).flags = s.flags := rfl
@[simp] theorem accSet_heldAdds (c a row col : Nat) (v : Word) : (accSet c a row col v s).heldAdds = s.heldAdds := rfl
@[simp] theorem accSet_units (c a row col : Nat) (v : Word) : (accSet c a row col v s).units = s.units := rfl
@[simp] theorem accSet_outst (c a row col : Nat) (v : Word) : (accSet c a row col v s).outst = s.outst := rfl
@[simp] theorem accSet_turns (c a row col : Nat) (v : Word) : (accSet c a row col v s).turns = s.turns := rfl
@[simp] theorem accSet_segs (c a row col : Nat) (v : Word) : (accSet c a row col v s).segs = s.segs := rfl
@[simp] theorem accSet_ssq (c a row col : Nat) (v : Word) : (accSet c a row col v s).ssq = s.ssq := rfl
@[simp] theorem accSet_pgv (c a row col : Nat) (v : Word) : (accSet c a row col v s).pgv = s.pgv := rfl
@[simp] theorem accSet_stackSt (c a row col : Nat) (v : Word) : (accSet c a row col v s).stackSt = s.stackSt := rfl
@[simp] theorem accSet_ore (c a row col : Nat) (v : Word) : (accSet c a row col v s).ore = s.ore := rfl
@[simp] theorem accSet_ports (c a row col : Nat) (v : Word) : (accSet c a row col v s).ports = s.ports := rfl
@[simp] theorem accSet_transit (c a row col : Nat) (v : Word) : (accSet c a row col v s).transit = s.transit := rfl
@[simp] theorem accSet_inbox (c a row col : Nat) (v : Word) : (accSet c a row col v s).inbox = s.inbox := rfl
@[simp] theorem accSet_regions (c a row col : Nat) (v : Word) : (accSet c a row col v s).regions = s.regions := rfl
@[simp] theorem accSet_remoteBad (c a row col : Nat) (v : Word) : (accSet c a row col v s).remoteBad = s.remoteBad := rfl
@[simp] theorem accSet_heldAcks (c a row col : Nat) (v : Word) : (accSet c a row col v s).heldAcks = s.heldAcks := rfl
@[simp] theorem accSet_fabWait (c a row col : Nat) (v : Word) : (accSet c a row col v s).fabWait = s.fabWait := rfl
@[simp] theorem accSet_mail (c a row col : Nat) (v : Word) : (accSet c a row col v s).mail = s.mail := rfl
@[simp] theorem accSet_nextTag (c a row col : Nat) (v : Word) : (accSet c a row col v s).nextTag = s.nextTag := rfl
@[simp] theorem accSet_failedTags (c a row col : Nat) (v : Word) : (accSet c a row col v s).failedTags = s.failedTags := rfl
@[simp] theorem accSet_meshTbl (c a row col : Nat) (v : Word) : (accSet c a row col v s).meshTbl = s.meshTbl := rfl
@[simp] theorem accSet_meshEff (c a row col : Nat) (v : Word) : (accSet c a row col v s).meshEff = s.meshEff := rfl
@[simp] theorem accSet_ingress (c a row col : Nat) (v : Word) : (accSet c a row col v s).ingress = s.ingress := rfl
@[simp] theorem accSet_tarnWait (c a row col : Nat) (v : Word) : (accSet c a row col v s).tarnWait = s.tarnWait := rfl
@[simp] theorem accSet_granted (c a row col : Nat) (v : Word) : (accSet c a row col v s).granted = s.granted := rfl
@[simp] theorem accSet_meshWait (c a row col : Nat) (v : Word) : (accSet c a row col v s).meshWait = s.meshWait := rfl
@[simp] theorem accSet_meshLast (c a row col : Nat) (v : Word) : (accSet c a row col v s).meshLast = s.meshLast := rfl
@[simp] theorem accSet_meshHeld (c a row col : Nat) (v : Word) : (accSet c a row col v s).meshHeld = s.meshHeld := rfl
@[simp] theorem accSet_now (c a row col : Nat) (v : Word) : (accSet c a row col v s).now = s.now := rfl
@[simp] theorem accSet_time (c a row col : Nat) (v : Word) : (accSet c a row col v s).time = s.time := rfl
@[simp] theorem accSet_pend (c a row col : Nat) (v : Word) : (accSet c a row col v s).pend = s.pend := rfl
@[simp] theorem accSet_recov (c a row col : Nat) (v : Word) : (accSet c a row col v s).recov = s.recov := rfl
@[simp] theorem accSet_qps (c a row col : Nat) (v : Word) : (accSet c a row col v s).qps = s.qps := rfl
@[simp] theorem accSet_sessions (c a row col : Nat) (v : Word) : (accSet c a row col v s).sessions = s.sessions := rfl
@[simp] theorem accSet_requests (c a row col : Nat) (v : Word) : (accSet c a row col v s).requests = s.requests := rfl
@[simp] theorem accSet_cmodels (c a row col : Nat) (v : Word) : (accSet c a row col v s).cmodels = s.cmodels := rfl
@[simp] theorem accSet_batch (c a row col : Nat) (v : Word) : (accSet c a row col v s).batch = s.batch := rfl
@[simp] theorem accSet_stepNo (c a row col : Nat) (v : Word) : (accSet c a row col v s).stepNo = s.stepNo := rfl
@[simp] theorem accSet_nextReq (c a row col : Nat) (v : Word) : (accSet c a row col v s).nextReq = s.nextReq := rfl
@[simp] theorem accSet_acctP (c a row col : Nat) (v : Word) : (accSet c a row col v s).acctP = s.acctP := rfl
@[simp] theorem accSet_acctAt (c a row col : Nat) (v : Word) : (accSet c a row col v s).acctAt = s.acctAt := rfl
@[simp] theorem accSet_charged (c a row col : Nat) (v : Word) : (accSet c a row col v s).charged = s.charged := rfl
@[simp] theorem accSet_refill (c a row col : Nat) (v : Word) : (accSet c a row col v s).refill = s.refill := rfl
@[simp] theorem accSet_fired (c a row col : Nat) (v : Word) : (accSet c a row col v s).fired = s.fired := rfl
@[simp] theorem accSet_tasks (c a row col : Nat) (v : Word) : (accSet c a row col v s).tasks = s.tasks := rfl
@[simp] theorem accSet_sec (c a row col : Nat) (v : Word) : (accSet c a row col v s).sec = s.sec := rfl
@[simp] theorem accSet_flash (c a row col : Nat) (v : Word) : (accSet c a row col v s).flash = s.flash := rfl
@[simp] theorem accSet_coreRecord (c a row col : Nat) (v : Word) : (accSet c a row col v s).coreRecord = s.coreRecord := rfl
@[simp] theorem accSet_modul (c a row col : Nat) (v : Word) : (accSet c a row col v s).modul = s.modul := rfl
@[simp] theorem accSet_pfcPaused (c a row col : Nat) (v : Word) : (accSet c a row col v s).pfcPaused = s.pfcPaused := rfl
@[simp] theorem accSet_out (c a row col : Nat) (v : Word) : (accSet c a row col v s).out = s.out := rfl
@[simp] theorem accSet_fresh (c a row col : Nat) (v : Word) : (accSet c a row col v s).fresh = s.fresh := rfl

@[simp] theorem tregSet_pending (c r e : Nat) (v : Word) : (tregSet c r e v s).pending = s.pending := rfl
@[simp] theorem tregSet_csr (c r e : Nat) (v : Word) : (tregSet c r e v s).csr = s.csr := rfl
@[simp] theorem tregSet_eff (c r e : Nat) (v : Word) : (tregSet c r e v s).eff = s.eff := rfl
@[simp] theorem tregSet_latches (c r e : Nat) (v : Word) : (tregSet c r e v s).latches = s.latches := rfl
@[simp] theorem tregSet_readData (c r e : Nat) (v : Word) : (tregSet c r e v s).readData = s.readData := rfl
@[simp] theorem tregSet_tarn (c r e : Nat) (v : Word) : (tregSet c r e v s).tarn = s.tarn := rfl
@[simp] theorem tregSet_mere (c r e : Nat) (v : Word) : (tregSet c r e v s).mere = s.mere := rfl
@[simp] theorem tregSet_acc (c r e : Nat) (v : Word) : (tregSet c r e v s).acc = s.acc := rfl
@[simp] theorem tregSet_mask (c r e : Nat) (v : Word) : (tregSet c r e v s).mask = s.mask := rfl
@[simp] theorem tregSet_progs (c r e : Nat) (v : Word) : (tregSet c r e v s).progs = s.progs := rfl
@[simp] theorem tregSet_spu (c r e : Nat) (v : Word) : (tregSet c r e v s).spu = s.spu := rfl
@[simp] theorem tregSet_pipes (c r e : Nat) (v : Word) : (tregSet c r e v s).pipes = s.pipes := rfl
@[simp] theorem tregSet_arrays (c r e : Nat) (v : Word) : (tregSet c r e v s).arrays = s.arrays := rfl
@[simp] theorem tregSet_flags (c r e : Nat) (v : Word) : (tregSet c r e v s).flags = s.flags := rfl
@[simp] theorem tregSet_heldAdds (c r e : Nat) (v : Word) : (tregSet c r e v s).heldAdds = s.heldAdds := rfl
@[simp] theorem tregSet_units (c r e : Nat) (v : Word) : (tregSet c r e v s).units = s.units := rfl
@[simp] theorem tregSet_outst (c r e : Nat) (v : Word) : (tregSet c r e v s).outst = s.outst := rfl
@[simp] theorem tregSet_turns (c r e : Nat) (v : Word) : (tregSet c r e v s).turns = s.turns := rfl
@[simp] theorem tregSet_segs (c r e : Nat) (v : Word) : (tregSet c r e v s).segs = s.segs := rfl
@[simp] theorem tregSet_ssq (c r e : Nat) (v : Word) : (tregSet c r e v s).ssq = s.ssq := rfl
@[simp] theorem tregSet_pgv (c r e : Nat) (v : Word) : (tregSet c r e v s).pgv = s.pgv := rfl
@[simp] theorem tregSet_stackSt (c r e : Nat) (v : Word) : (tregSet c r e v s).stackSt = s.stackSt := rfl
@[simp] theorem tregSet_ore (c r e : Nat) (v : Word) : (tregSet c r e v s).ore = s.ore := rfl
@[simp] theorem tregSet_ports (c r e : Nat) (v : Word) : (tregSet c r e v s).ports = s.ports := rfl
@[simp] theorem tregSet_transit (c r e : Nat) (v : Word) : (tregSet c r e v s).transit = s.transit := rfl
@[simp] theorem tregSet_inbox (c r e : Nat) (v : Word) : (tregSet c r e v s).inbox = s.inbox := rfl
@[simp] theorem tregSet_regions (c r e : Nat) (v : Word) : (tregSet c r e v s).regions = s.regions := rfl
@[simp] theorem tregSet_remoteBad (c r e : Nat) (v : Word) : (tregSet c r e v s).remoteBad = s.remoteBad := rfl
@[simp] theorem tregSet_heldAcks (c r e : Nat) (v : Word) : (tregSet c r e v s).heldAcks = s.heldAcks := rfl
@[simp] theorem tregSet_fabWait (c r e : Nat) (v : Word) : (tregSet c r e v s).fabWait = s.fabWait := rfl
@[simp] theorem tregSet_mail (c r e : Nat) (v : Word) : (tregSet c r e v s).mail = s.mail := rfl
@[simp] theorem tregSet_nextTag (c r e : Nat) (v : Word) : (tregSet c r e v s).nextTag = s.nextTag := rfl
@[simp] theorem tregSet_failedTags (c r e : Nat) (v : Word) : (tregSet c r e v s).failedTags = s.failedTags := rfl
@[simp] theorem tregSet_meshTbl (c r e : Nat) (v : Word) : (tregSet c r e v s).meshTbl = s.meshTbl := rfl
@[simp] theorem tregSet_meshEff (c r e : Nat) (v : Word) : (tregSet c r e v s).meshEff = s.meshEff := rfl
@[simp] theorem tregSet_ingress (c r e : Nat) (v : Word) : (tregSet c r e v s).ingress = s.ingress := rfl
@[simp] theorem tregSet_tarnWait (c r e : Nat) (v : Word) : (tregSet c r e v s).tarnWait = s.tarnWait := rfl
@[simp] theorem tregSet_granted (c r e : Nat) (v : Word) : (tregSet c r e v s).granted = s.granted := rfl
@[simp] theorem tregSet_meshWait (c r e : Nat) (v : Word) : (tregSet c r e v s).meshWait = s.meshWait := rfl
@[simp] theorem tregSet_meshLast (c r e : Nat) (v : Word) : (tregSet c r e v s).meshLast = s.meshLast := rfl
@[simp] theorem tregSet_meshHeld (c r e : Nat) (v : Word) : (tregSet c r e v s).meshHeld = s.meshHeld := rfl
@[simp] theorem tregSet_now (c r e : Nat) (v : Word) : (tregSet c r e v s).now = s.now := rfl
@[simp] theorem tregSet_time (c r e : Nat) (v : Word) : (tregSet c r e v s).time = s.time := rfl
@[simp] theorem tregSet_pend (c r e : Nat) (v : Word) : (tregSet c r e v s).pend = s.pend := rfl
@[simp] theorem tregSet_recov (c r e : Nat) (v : Word) : (tregSet c r e v s).recov = s.recov := rfl
@[simp] theorem tregSet_qps (c r e : Nat) (v : Word) : (tregSet c r e v s).qps = s.qps := rfl
@[simp] theorem tregSet_sessions (c r e : Nat) (v : Word) : (tregSet c r e v s).sessions = s.sessions := rfl
@[simp] theorem tregSet_requests (c r e : Nat) (v : Word) : (tregSet c r e v s).requests = s.requests := rfl
@[simp] theorem tregSet_cmodels (c r e : Nat) (v : Word) : (tregSet c r e v s).cmodels = s.cmodels := rfl
@[simp] theorem tregSet_batch (c r e : Nat) (v : Word) : (tregSet c r e v s).batch = s.batch := rfl
@[simp] theorem tregSet_stepNo (c r e : Nat) (v : Word) : (tregSet c r e v s).stepNo = s.stepNo := rfl
@[simp] theorem tregSet_nextReq (c r e : Nat) (v : Word) : (tregSet c r e v s).nextReq = s.nextReq := rfl
@[simp] theorem tregSet_acctP (c r e : Nat) (v : Word) : (tregSet c r e v s).acctP = s.acctP := rfl
@[simp] theorem tregSet_acctAt (c r e : Nat) (v : Word) : (tregSet c r e v s).acctAt = s.acctAt := rfl
@[simp] theorem tregSet_charged (c r e : Nat) (v : Word) : (tregSet c r e v s).charged = s.charged := rfl
@[simp] theorem tregSet_refill (c r e : Nat) (v : Word) : (tregSet c r e v s).refill = s.refill := rfl
@[simp] theorem tregSet_fired (c r e : Nat) (v : Word) : (tregSet c r e v s).fired = s.fired := rfl
@[simp] theorem tregSet_tasks (c r e : Nat) (v : Word) : (tregSet c r e v s).tasks = s.tasks := rfl
@[simp] theorem tregSet_sec (c r e : Nat) (v : Word) : (tregSet c r e v s).sec = s.sec := rfl
@[simp] theorem tregSet_flash (c r e : Nat) (v : Word) : (tregSet c r e v s).flash = s.flash := rfl
@[simp] theorem tregSet_coreRecord (c r e : Nat) (v : Word) : (tregSet c r e v s).coreRecord = s.coreRecord := rfl
@[simp] theorem tregSet_modul (c r e : Nat) (v : Word) : (tregSet c r e v s).modul = s.modul := rfl
@[simp] theorem tregSet_pfcPaused (c r e : Nat) (v : Word) : (tregSet c r e v s).pfcPaused = s.pfcPaused := rfl
@[simp] theorem tregSet_out (c r e : Nat) (v : Word) : (tregSet c r e v s).out = s.out := rfl
@[simp] theorem tregSet_fresh (c r e : Nat) (v : Word) : (tregSet c r e v s).fresh = s.fresh := rfl

@[simp] theorem maskSet_pending (c m i : Nat) (v : Word) : (maskSet c m i v s).pending = s.pending := rfl
@[simp] theorem maskSet_csr (c m i : Nat) (v : Word) : (maskSet c m i v s).csr = s.csr := rfl
@[simp] theorem maskSet_eff (c m i : Nat) (v : Word) : (maskSet c m i v s).eff = s.eff := rfl
@[simp] theorem maskSet_latches (c m i : Nat) (v : Word) : (maskSet c m i v s).latches = s.latches := rfl
@[simp] theorem maskSet_readData (c m i : Nat) (v : Word) : (maskSet c m i v s).readData = s.readData := rfl
@[simp] theorem maskSet_tarn (c m i : Nat) (v : Word) : (maskSet c m i v s).tarn = s.tarn := rfl
@[simp] theorem maskSet_mere (c m i : Nat) (v : Word) : (maskSet c m i v s).mere = s.mere := rfl
@[simp] theorem maskSet_acc (c m i : Nat) (v : Word) : (maskSet c m i v s).acc = s.acc := rfl
@[simp] theorem maskSet_treg (c m i : Nat) (v : Word) : (maskSet c m i v s).treg = s.treg := rfl
@[simp] theorem maskSet_progs (c m i : Nat) (v : Word) : (maskSet c m i v s).progs = s.progs := rfl
@[simp] theorem maskSet_spu (c m i : Nat) (v : Word) : (maskSet c m i v s).spu = s.spu := rfl
@[simp] theorem maskSet_pipes (c m i : Nat) (v : Word) : (maskSet c m i v s).pipes = s.pipes := rfl
@[simp] theorem maskSet_arrays (c m i : Nat) (v : Word) : (maskSet c m i v s).arrays = s.arrays := rfl
@[simp] theorem maskSet_flags (c m i : Nat) (v : Word) : (maskSet c m i v s).flags = s.flags := rfl
@[simp] theorem maskSet_heldAdds (c m i : Nat) (v : Word) : (maskSet c m i v s).heldAdds = s.heldAdds := rfl
@[simp] theorem maskSet_units (c m i : Nat) (v : Word) : (maskSet c m i v s).units = s.units := rfl
@[simp] theorem maskSet_outst (c m i : Nat) (v : Word) : (maskSet c m i v s).outst = s.outst := rfl
@[simp] theorem maskSet_turns (c m i : Nat) (v : Word) : (maskSet c m i v s).turns = s.turns := rfl
@[simp] theorem maskSet_segs (c m i : Nat) (v : Word) : (maskSet c m i v s).segs = s.segs := rfl
@[simp] theorem maskSet_ssq (c m i : Nat) (v : Word) : (maskSet c m i v s).ssq = s.ssq := rfl
@[simp] theorem maskSet_pgv (c m i : Nat) (v : Word) : (maskSet c m i v s).pgv = s.pgv := rfl
@[simp] theorem maskSet_stackSt (c m i : Nat) (v : Word) : (maskSet c m i v s).stackSt = s.stackSt := rfl
@[simp] theorem maskSet_ore (c m i : Nat) (v : Word) : (maskSet c m i v s).ore = s.ore := rfl
@[simp] theorem maskSet_ports (c m i : Nat) (v : Word) : (maskSet c m i v s).ports = s.ports := rfl
@[simp] theorem maskSet_transit (c m i : Nat) (v : Word) : (maskSet c m i v s).transit = s.transit := rfl
@[simp] theorem maskSet_inbox (c m i : Nat) (v : Word) : (maskSet c m i v s).inbox = s.inbox := rfl
@[simp] theorem maskSet_regions (c m i : Nat) (v : Word) : (maskSet c m i v s).regions = s.regions := rfl
@[simp] theorem maskSet_remoteBad (c m i : Nat) (v : Word) : (maskSet c m i v s).remoteBad = s.remoteBad := rfl
@[simp] theorem maskSet_heldAcks (c m i : Nat) (v : Word) : (maskSet c m i v s).heldAcks = s.heldAcks := rfl
@[simp] theorem maskSet_fabWait (c m i : Nat) (v : Word) : (maskSet c m i v s).fabWait = s.fabWait := rfl
@[simp] theorem maskSet_mail (c m i : Nat) (v : Word) : (maskSet c m i v s).mail = s.mail := rfl
@[simp] theorem maskSet_nextTag (c m i : Nat) (v : Word) : (maskSet c m i v s).nextTag = s.nextTag := rfl
@[simp] theorem maskSet_failedTags (c m i : Nat) (v : Word) : (maskSet c m i v s).failedTags = s.failedTags := rfl
@[simp] theorem maskSet_meshTbl (c m i : Nat) (v : Word) : (maskSet c m i v s).meshTbl = s.meshTbl := rfl
@[simp] theorem maskSet_meshEff (c m i : Nat) (v : Word) : (maskSet c m i v s).meshEff = s.meshEff := rfl
@[simp] theorem maskSet_ingress (c m i : Nat) (v : Word) : (maskSet c m i v s).ingress = s.ingress := rfl
@[simp] theorem maskSet_tarnWait (c m i : Nat) (v : Word) : (maskSet c m i v s).tarnWait = s.tarnWait := rfl
@[simp] theorem maskSet_granted (c m i : Nat) (v : Word) : (maskSet c m i v s).granted = s.granted := rfl
@[simp] theorem maskSet_meshWait (c m i : Nat) (v : Word) : (maskSet c m i v s).meshWait = s.meshWait := rfl
@[simp] theorem maskSet_meshLast (c m i : Nat) (v : Word) : (maskSet c m i v s).meshLast = s.meshLast := rfl
@[simp] theorem maskSet_meshHeld (c m i : Nat) (v : Word) : (maskSet c m i v s).meshHeld = s.meshHeld := rfl
@[simp] theorem maskSet_now (c m i : Nat) (v : Word) : (maskSet c m i v s).now = s.now := rfl
@[simp] theorem maskSet_time (c m i : Nat) (v : Word) : (maskSet c m i v s).time = s.time := rfl
@[simp] theorem maskSet_pend (c m i : Nat) (v : Word) : (maskSet c m i v s).pend = s.pend := rfl
@[simp] theorem maskSet_recov (c m i : Nat) (v : Word) : (maskSet c m i v s).recov = s.recov := rfl
@[simp] theorem maskSet_qps (c m i : Nat) (v : Word) : (maskSet c m i v s).qps = s.qps := rfl
@[simp] theorem maskSet_sessions (c m i : Nat) (v : Word) : (maskSet c m i v s).sessions = s.sessions := rfl
@[simp] theorem maskSet_requests (c m i : Nat) (v : Word) : (maskSet c m i v s).requests = s.requests := rfl
@[simp] theorem maskSet_cmodels (c m i : Nat) (v : Word) : (maskSet c m i v s).cmodels = s.cmodels := rfl
@[simp] theorem maskSet_batch (c m i : Nat) (v : Word) : (maskSet c m i v s).batch = s.batch := rfl
@[simp] theorem maskSet_stepNo (c m i : Nat) (v : Word) : (maskSet c m i v s).stepNo = s.stepNo := rfl
@[simp] theorem maskSet_nextReq (c m i : Nat) (v : Word) : (maskSet c m i v s).nextReq = s.nextReq := rfl
@[simp] theorem maskSet_acctP (c m i : Nat) (v : Word) : (maskSet c m i v s).acctP = s.acctP := rfl
@[simp] theorem maskSet_acctAt (c m i : Nat) (v : Word) : (maskSet c m i v s).acctAt = s.acctAt := rfl
@[simp] theorem maskSet_charged (c m i : Nat) (v : Word) : (maskSet c m i v s).charged = s.charged := rfl
@[simp] theorem maskSet_refill (c m i : Nat) (v : Word) : (maskSet c m i v s).refill = s.refill := rfl
@[simp] theorem maskSet_fired (c m i : Nat) (v : Word) : (maskSet c m i v s).fired = s.fired := rfl
@[simp] theorem maskSet_tasks (c m i : Nat) (v : Word) : (maskSet c m i v s).tasks = s.tasks := rfl
@[simp] theorem maskSet_sec (c m i : Nat) (v : Word) : (maskSet c m i v s).sec = s.sec := rfl
@[simp] theorem maskSet_flash (c m i : Nat) (v : Word) : (maskSet c m i v s).flash = s.flash := rfl
@[simp] theorem maskSet_coreRecord (c m i : Nat) (v : Word) : (maskSet c m i v s).coreRecord = s.coreRecord := rfl
@[simp] theorem maskSet_modul (c m i : Nat) (v : Word) : (maskSet c m i v s).modul = s.modul := rfl
@[simp] theorem maskSet_pfcPaused (c m i : Nat) (v : Word) : (maskSet c m i v s).pfcPaused = s.pfcPaused := rfl
@[simp] theorem maskSet_out (c m i : Nat) (v : Word) : (maskSet c m i v s).out = s.out := rfl
@[simp] theorem maskSet_fresh (c m i : Nat) (v : Word) : (maskSet c m i v s).fresh = s.fresh := rfl

@[simp] theorem spuSet_pending (c p r : Nat) (v : DWord) : (spuSet c p r v s).pending = s.pending := rfl
@[simp] theorem spuSet_csr (c p r : Nat) (v : DWord) : (spuSet c p r v s).csr = s.csr := rfl
@[simp] theorem spuSet_eff (c p r : Nat) (v : DWord) : (spuSet c p r v s).eff = s.eff := rfl
@[simp] theorem spuSet_latches (c p r : Nat) (v : DWord) : (spuSet c p r v s).latches = s.latches := rfl
@[simp] theorem spuSet_readData (c p r : Nat) (v : DWord) : (spuSet c p r v s).readData = s.readData := rfl
@[simp] theorem spuSet_tarn (c p r : Nat) (v : DWord) : (spuSet c p r v s).tarn = s.tarn := rfl
@[simp] theorem spuSet_mere (c p r : Nat) (v : DWord) : (spuSet c p r v s).mere = s.mere := rfl
@[simp] theorem spuSet_acc (c p r : Nat) (v : DWord) : (spuSet c p r v s).acc = s.acc := rfl
@[simp] theorem spuSet_treg (c p r : Nat) (v : DWord) : (spuSet c p r v s).treg = s.treg := rfl
@[simp] theorem spuSet_mask (c p r : Nat) (v : DWord) : (spuSet c p r v s).mask = s.mask := rfl
@[simp] theorem spuSet_progs (c p r : Nat) (v : DWord) : (spuSet c p r v s).progs = s.progs := rfl
@[simp] theorem spuSet_pipes (c p r : Nat) (v : DWord) : (spuSet c p r v s).pipes = s.pipes := rfl
@[simp] theorem spuSet_arrays (c p r : Nat) (v : DWord) : (spuSet c p r v s).arrays = s.arrays := rfl
@[simp] theorem spuSet_flags (c p r : Nat) (v : DWord) : (spuSet c p r v s).flags = s.flags := rfl
@[simp] theorem spuSet_heldAdds (c p r : Nat) (v : DWord) : (spuSet c p r v s).heldAdds = s.heldAdds := rfl
@[simp] theorem spuSet_units (c p r : Nat) (v : DWord) : (spuSet c p r v s).units = s.units := rfl
@[simp] theorem spuSet_outst (c p r : Nat) (v : DWord) : (spuSet c p r v s).outst = s.outst := rfl
@[simp] theorem spuSet_turns (c p r : Nat) (v : DWord) : (spuSet c p r v s).turns = s.turns := rfl
@[simp] theorem spuSet_segs (c p r : Nat) (v : DWord) : (spuSet c p r v s).segs = s.segs := rfl
@[simp] theorem spuSet_ssq (c p r : Nat) (v : DWord) : (spuSet c p r v s).ssq = s.ssq := rfl
@[simp] theorem spuSet_pgv (c p r : Nat) (v : DWord) : (spuSet c p r v s).pgv = s.pgv := rfl
@[simp] theorem spuSet_stackSt (c p r : Nat) (v : DWord) : (spuSet c p r v s).stackSt = s.stackSt := rfl
@[simp] theorem spuSet_ore (c p r : Nat) (v : DWord) : (spuSet c p r v s).ore = s.ore := rfl
@[simp] theorem spuSet_ports (c p r : Nat) (v : DWord) : (spuSet c p r v s).ports = s.ports := rfl
@[simp] theorem spuSet_transit (c p r : Nat) (v : DWord) : (spuSet c p r v s).transit = s.transit := rfl
@[simp] theorem spuSet_inbox (c p r : Nat) (v : DWord) : (spuSet c p r v s).inbox = s.inbox := rfl
@[simp] theorem spuSet_regions (c p r : Nat) (v : DWord) : (spuSet c p r v s).regions = s.regions := rfl
@[simp] theorem spuSet_remoteBad (c p r : Nat) (v : DWord) : (spuSet c p r v s).remoteBad = s.remoteBad := rfl
@[simp] theorem spuSet_heldAcks (c p r : Nat) (v : DWord) : (spuSet c p r v s).heldAcks = s.heldAcks := rfl
@[simp] theorem spuSet_fabWait (c p r : Nat) (v : DWord) : (spuSet c p r v s).fabWait = s.fabWait := rfl
@[simp] theorem spuSet_mail (c p r : Nat) (v : DWord) : (spuSet c p r v s).mail = s.mail := rfl
@[simp] theorem spuSet_nextTag (c p r : Nat) (v : DWord) : (spuSet c p r v s).nextTag = s.nextTag := rfl
@[simp] theorem spuSet_failedTags (c p r : Nat) (v : DWord) : (spuSet c p r v s).failedTags = s.failedTags := rfl
@[simp] theorem spuSet_meshTbl (c p r : Nat) (v : DWord) : (spuSet c p r v s).meshTbl = s.meshTbl := rfl
@[simp] theorem spuSet_meshEff (c p r : Nat) (v : DWord) : (spuSet c p r v s).meshEff = s.meshEff := rfl
@[simp] theorem spuSet_ingress (c p r : Nat) (v : DWord) : (spuSet c p r v s).ingress = s.ingress := rfl
@[simp] theorem spuSet_tarnWait (c p r : Nat) (v : DWord) : (spuSet c p r v s).tarnWait = s.tarnWait := rfl
@[simp] theorem spuSet_granted (c p r : Nat) (v : DWord) : (spuSet c p r v s).granted = s.granted := rfl
@[simp] theorem spuSet_meshWait (c p r : Nat) (v : DWord) : (spuSet c p r v s).meshWait = s.meshWait := rfl
@[simp] theorem spuSet_meshLast (c p r : Nat) (v : DWord) : (spuSet c p r v s).meshLast = s.meshLast := rfl
@[simp] theorem spuSet_meshHeld (c p r : Nat) (v : DWord) : (spuSet c p r v s).meshHeld = s.meshHeld := rfl
@[simp] theorem spuSet_now (c p r : Nat) (v : DWord) : (spuSet c p r v s).now = s.now := rfl
@[simp] theorem spuSet_time (c p r : Nat) (v : DWord) : (spuSet c p r v s).time = s.time := rfl
@[simp] theorem spuSet_pend (c p r : Nat) (v : DWord) : (spuSet c p r v s).pend = s.pend := rfl
@[simp] theorem spuSet_recov (c p r : Nat) (v : DWord) : (spuSet c p r v s).recov = s.recov := rfl
@[simp] theorem spuSet_qps (c p r : Nat) (v : DWord) : (spuSet c p r v s).qps = s.qps := rfl
@[simp] theorem spuSet_sessions (c p r : Nat) (v : DWord) : (spuSet c p r v s).sessions = s.sessions := rfl
@[simp] theorem spuSet_requests (c p r : Nat) (v : DWord) : (spuSet c p r v s).requests = s.requests := rfl
@[simp] theorem spuSet_cmodels (c p r : Nat) (v : DWord) : (spuSet c p r v s).cmodels = s.cmodels := rfl
@[simp] theorem spuSet_batch (c p r : Nat) (v : DWord) : (spuSet c p r v s).batch = s.batch := rfl
@[simp] theorem spuSet_stepNo (c p r : Nat) (v : DWord) : (spuSet c p r v s).stepNo = s.stepNo := rfl
@[simp] theorem spuSet_nextReq (c p r : Nat) (v : DWord) : (spuSet c p r v s).nextReq = s.nextReq := rfl
@[simp] theorem spuSet_acctP (c p r : Nat) (v : DWord) : (spuSet c p r v s).acctP = s.acctP := rfl
@[simp] theorem spuSet_acctAt (c p r : Nat) (v : DWord) : (spuSet c p r v s).acctAt = s.acctAt := rfl
@[simp] theorem spuSet_charged (c p r : Nat) (v : DWord) : (spuSet c p r v s).charged = s.charged := rfl
@[simp] theorem spuSet_refill (c p r : Nat) (v : DWord) : (spuSet c p r v s).refill = s.refill := rfl
@[simp] theorem spuSet_fired (c p r : Nat) (v : DWord) : (spuSet c p r v s).fired = s.fired := rfl
@[simp] theorem spuSet_tasks (c p r : Nat) (v : DWord) : (spuSet c p r v s).tasks = s.tasks := rfl
@[simp] theorem spuSet_sec (c p r : Nat) (v : DWord) : (spuSet c p r v s).sec = s.sec := rfl
@[simp] theorem spuSet_flash (c p r : Nat) (v : DWord) : (spuSet c p r v s).flash = s.flash := rfl
@[simp] theorem spuSet_coreRecord (c p r : Nat) (v : DWord) : (spuSet c p r v s).coreRecord = s.coreRecord := rfl
@[simp] theorem spuSet_modul (c p r : Nat) (v : DWord) : (spuSet c p r v s).modul = s.modul := rfl
@[simp] theorem spuSet_pfcPaused (c p r : Nat) (v : DWord) : (spuSet c p r v s).pfcPaused = s.pfcPaused := rfl
@[simp] theorem spuSet_out (c p r : Nat) (v : DWord) : (spuSet c p r v s).out = s.out := rfl
@[simp] theorem spuSet_fresh (c p r : Nat) (v : DWord) : (spuSet c p r v s).fresh = s.fresh := rfl

@[simp] theorem setPipe_pending (c p : Nat) (v : PipeRun) : (setPipe c p v s).pending = s.pending := rfl
@[simp] theorem setPipe_csr (c p : Nat) (v : PipeRun) : (setPipe c p v s).csr = s.csr := rfl
@[simp] theorem setPipe_eff (c p : Nat) (v : PipeRun) : (setPipe c p v s).eff = s.eff := rfl
@[simp] theorem setPipe_latches (c p : Nat) (v : PipeRun) : (setPipe c p v s).latches = s.latches := rfl
@[simp] theorem setPipe_readData (c p : Nat) (v : PipeRun) : (setPipe c p v s).readData = s.readData := rfl
@[simp] theorem setPipe_tarn (c p : Nat) (v : PipeRun) : (setPipe c p v s).tarn = s.tarn := rfl
@[simp] theorem setPipe_mere (c p : Nat) (v : PipeRun) : (setPipe c p v s).mere = s.mere := rfl
@[simp] theorem setPipe_acc (c p : Nat) (v : PipeRun) : (setPipe c p v s).acc = s.acc := rfl
@[simp] theorem setPipe_treg (c p : Nat) (v : PipeRun) : (setPipe c p v s).treg = s.treg := rfl
@[simp] theorem setPipe_mask (c p : Nat) (v : PipeRun) : (setPipe c p v s).mask = s.mask := rfl
@[simp] theorem setPipe_progs (c p : Nat) (v : PipeRun) : (setPipe c p v s).progs = s.progs := rfl
@[simp] theorem setPipe_spu (c p : Nat) (v : PipeRun) : (setPipe c p v s).spu = s.spu := rfl
@[simp] theorem setPipe_arrays (c p : Nat) (v : PipeRun) : (setPipe c p v s).arrays = s.arrays := rfl
@[simp] theorem setPipe_flags (c p : Nat) (v : PipeRun) : (setPipe c p v s).flags = s.flags := rfl
@[simp] theorem setPipe_heldAdds (c p : Nat) (v : PipeRun) : (setPipe c p v s).heldAdds = s.heldAdds := rfl
@[simp] theorem setPipe_units (c p : Nat) (v : PipeRun) : (setPipe c p v s).units = s.units := rfl
@[simp] theorem setPipe_outst (c p : Nat) (v : PipeRun) : (setPipe c p v s).outst = s.outst := rfl
@[simp] theorem setPipe_turns (c p : Nat) (v : PipeRun) : (setPipe c p v s).turns = s.turns := rfl
@[simp] theorem setPipe_segs (c p : Nat) (v : PipeRun) : (setPipe c p v s).segs = s.segs := rfl
@[simp] theorem setPipe_ssq (c p : Nat) (v : PipeRun) : (setPipe c p v s).ssq = s.ssq := rfl
@[simp] theorem setPipe_pgv (c p : Nat) (v : PipeRun) : (setPipe c p v s).pgv = s.pgv := rfl
@[simp] theorem setPipe_stackSt (c p : Nat) (v : PipeRun) : (setPipe c p v s).stackSt = s.stackSt := rfl
@[simp] theorem setPipe_ore (c p : Nat) (v : PipeRun) : (setPipe c p v s).ore = s.ore := rfl
@[simp] theorem setPipe_ports (c p : Nat) (v : PipeRun) : (setPipe c p v s).ports = s.ports := rfl
@[simp] theorem setPipe_transit (c p : Nat) (v : PipeRun) : (setPipe c p v s).transit = s.transit := rfl
@[simp] theorem setPipe_inbox (c p : Nat) (v : PipeRun) : (setPipe c p v s).inbox = s.inbox := rfl
@[simp] theorem setPipe_regions (c p : Nat) (v : PipeRun) : (setPipe c p v s).regions = s.regions := rfl
@[simp] theorem setPipe_remoteBad (c p : Nat) (v : PipeRun) : (setPipe c p v s).remoteBad = s.remoteBad := rfl
@[simp] theorem setPipe_heldAcks (c p : Nat) (v : PipeRun) : (setPipe c p v s).heldAcks = s.heldAcks := rfl
@[simp] theorem setPipe_fabWait (c p : Nat) (v : PipeRun) : (setPipe c p v s).fabWait = s.fabWait := rfl
@[simp] theorem setPipe_mail (c p : Nat) (v : PipeRun) : (setPipe c p v s).mail = s.mail := rfl
@[simp] theorem setPipe_nextTag (c p : Nat) (v : PipeRun) : (setPipe c p v s).nextTag = s.nextTag := rfl
@[simp] theorem setPipe_failedTags (c p : Nat) (v : PipeRun) : (setPipe c p v s).failedTags = s.failedTags := rfl
@[simp] theorem setPipe_meshTbl (c p : Nat) (v : PipeRun) : (setPipe c p v s).meshTbl = s.meshTbl := rfl
@[simp] theorem setPipe_meshEff (c p : Nat) (v : PipeRun) : (setPipe c p v s).meshEff = s.meshEff := rfl
@[simp] theorem setPipe_ingress (c p : Nat) (v : PipeRun) : (setPipe c p v s).ingress = s.ingress := rfl
@[simp] theorem setPipe_tarnWait (c p : Nat) (v : PipeRun) : (setPipe c p v s).tarnWait = s.tarnWait := rfl
@[simp] theorem setPipe_granted (c p : Nat) (v : PipeRun) : (setPipe c p v s).granted = s.granted := rfl
@[simp] theorem setPipe_meshWait (c p : Nat) (v : PipeRun) : (setPipe c p v s).meshWait = s.meshWait := rfl
@[simp] theorem setPipe_meshLast (c p : Nat) (v : PipeRun) : (setPipe c p v s).meshLast = s.meshLast := rfl
@[simp] theorem setPipe_meshHeld (c p : Nat) (v : PipeRun) : (setPipe c p v s).meshHeld = s.meshHeld := rfl
@[simp] theorem setPipe_now (c p : Nat) (v : PipeRun) : (setPipe c p v s).now = s.now := rfl
@[simp] theorem setPipe_time (c p : Nat) (v : PipeRun) : (setPipe c p v s).time = s.time := rfl
@[simp] theorem setPipe_pend (c p : Nat) (v : PipeRun) : (setPipe c p v s).pend = s.pend := rfl
@[simp] theorem setPipe_recov (c p : Nat) (v : PipeRun) : (setPipe c p v s).recov = s.recov := rfl
@[simp] theorem setPipe_qps (c p : Nat) (v : PipeRun) : (setPipe c p v s).qps = s.qps := rfl
@[simp] theorem setPipe_sessions (c p : Nat) (v : PipeRun) : (setPipe c p v s).sessions = s.sessions := rfl
@[simp] theorem setPipe_requests (c p : Nat) (v : PipeRun) : (setPipe c p v s).requests = s.requests := rfl
@[simp] theorem setPipe_cmodels (c p : Nat) (v : PipeRun) : (setPipe c p v s).cmodels = s.cmodels := rfl
@[simp] theorem setPipe_batch (c p : Nat) (v : PipeRun) : (setPipe c p v s).batch = s.batch := rfl
@[simp] theorem setPipe_stepNo (c p : Nat) (v : PipeRun) : (setPipe c p v s).stepNo = s.stepNo := rfl
@[simp] theorem setPipe_nextReq (c p : Nat) (v : PipeRun) : (setPipe c p v s).nextReq = s.nextReq := rfl
@[simp] theorem setPipe_acctP (c p : Nat) (v : PipeRun) : (setPipe c p v s).acctP = s.acctP := rfl
@[simp] theorem setPipe_acctAt (c p : Nat) (v : PipeRun) : (setPipe c p v s).acctAt = s.acctAt := rfl
@[simp] theorem setPipe_charged (c p : Nat) (v : PipeRun) : (setPipe c p v s).charged = s.charged := rfl
@[simp] theorem setPipe_refill (c p : Nat) (v : PipeRun) : (setPipe c p v s).refill = s.refill := rfl
@[simp] theorem setPipe_fired (c p : Nat) (v : PipeRun) : (setPipe c p v s).fired = s.fired := rfl
@[simp] theorem setPipe_tasks (c p : Nat) (v : PipeRun) : (setPipe c p v s).tasks = s.tasks := rfl
@[simp] theorem setPipe_sec (c p : Nat) (v : PipeRun) : (setPipe c p v s).sec = s.sec := rfl
@[simp] theorem setPipe_flash (c p : Nat) (v : PipeRun) : (setPipe c p v s).flash = s.flash := rfl
@[simp] theorem setPipe_coreRecord (c p : Nat) (v : PipeRun) : (setPipe c p v s).coreRecord = s.coreRecord := rfl
@[simp] theorem setPipe_modul (c p : Nat) (v : PipeRun) : (setPipe c p v s).modul = s.modul := rfl
@[simp] theorem setPipe_pfcPaused (c p : Nat) (v : PipeRun) : (setPipe c p v s).pfcPaused = s.pfcPaused := rfl
@[simp] theorem setPipe_out (c p : Nat) (v : PipeRun) : (setPipe c p v s).out = s.out := rfl
@[simp] theorem setPipe_fresh (c p : Nat) (v : PipeRun) : (setPipe c p v s).fresh = s.fresh := rfl

@[simp] theorem setArr_pending (c a : Nat) (v : ArraySt) : (setArr c a v s).pending = s.pending := rfl
@[simp] theorem setArr_csr (c a : Nat) (v : ArraySt) : (setArr c a v s).csr = s.csr := rfl
@[simp] theorem setArr_eff (c a : Nat) (v : ArraySt) : (setArr c a v s).eff = s.eff := rfl
@[simp] theorem setArr_latches (c a : Nat) (v : ArraySt) : (setArr c a v s).latches = s.latches := rfl
@[simp] theorem setArr_readData (c a : Nat) (v : ArraySt) : (setArr c a v s).readData = s.readData := rfl
@[simp] theorem setArr_tarn (c a : Nat) (v : ArraySt) : (setArr c a v s).tarn = s.tarn := rfl
@[simp] theorem setArr_mere (c a : Nat) (v : ArraySt) : (setArr c a v s).mere = s.mere := rfl
@[simp] theorem setArr_acc (c a : Nat) (v : ArraySt) : (setArr c a v s).acc = s.acc := rfl
@[simp] theorem setArr_treg (c a : Nat) (v : ArraySt) : (setArr c a v s).treg = s.treg := rfl
@[simp] theorem setArr_mask (c a : Nat) (v : ArraySt) : (setArr c a v s).mask = s.mask := rfl
@[simp] theorem setArr_progs (c a : Nat) (v : ArraySt) : (setArr c a v s).progs = s.progs := rfl
@[simp] theorem setArr_spu (c a : Nat) (v : ArraySt) : (setArr c a v s).spu = s.spu := rfl
@[simp] theorem setArr_pipes (c a : Nat) (v : ArraySt) : (setArr c a v s).pipes = s.pipes := rfl
@[simp] theorem setArr_flags (c a : Nat) (v : ArraySt) : (setArr c a v s).flags = s.flags := rfl
@[simp] theorem setArr_heldAdds (c a : Nat) (v : ArraySt) : (setArr c a v s).heldAdds = s.heldAdds := rfl
@[simp] theorem setArr_units (c a : Nat) (v : ArraySt) : (setArr c a v s).units = s.units := rfl
@[simp] theorem setArr_outst (c a : Nat) (v : ArraySt) : (setArr c a v s).outst = s.outst := rfl
@[simp] theorem setArr_turns (c a : Nat) (v : ArraySt) : (setArr c a v s).turns = s.turns := rfl
@[simp] theorem setArr_segs (c a : Nat) (v : ArraySt) : (setArr c a v s).segs = s.segs := rfl
@[simp] theorem setArr_ssq (c a : Nat) (v : ArraySt) : (setArr c a v s).ssq = s.ssq := rfl
@[simp] theorem setArr_pgv (c a : Nat) (v : ArraySt) : (setArr c a v s).pgv = s.pgv := rfl
@[simp] theorem setArr_stackSt (c a : Nat) (v : ArraySt) : (setArr c a v s).stackSt = s.stackSt := rfl
@[simp] theorem setArr_ore (c a : Nat) (v : ArraySt) : (setArr c a v s).ore = s.ore := rfl
@[simp] theorem setArr_ports (c a : Nat) (v : ArraySt) : (setArr c a v s).ports = s.ports := rfl
@[simp] theorem setArr_transit (c a : Nat) (v : ArraySt) : (setArr c a v s).transit = s.transit := rfl
@[simp] theorem setArr_inbox (c a : Nat) (v : ArraySt) : (setArr c a v s).inbox = s.inbox := rfl
@[simp] theorem setArr_regions (c a : Nat) (v : ArraySt) : (setArr c a v s).regions = s.regions := rfl
@[simp] theorem setArr_remoteBad (c a : Nat) (v : ArraySt) : (setArr c a v s).remoteBad = s.remoteBad := rfl
@[simp] theorem setArr_heldAcks (c a : Nat) (v : ArraySt) : (setArr c a v s).heldAcks = s.heldAcks := rfl
@[simp] theorem setArr_fabWait (c a : Nat) (v : ArraySt) : (setArr c a v s).fabWait = s.fabWait := rfl
@[simp] theorem setArr_mail (c a : Nat) (v : ArraySt) : (setArr c a v s).mail = s.mail := rfl
@[simp] theorem setArr_nextTag (c a : Nat) (v : ArraySt) : (setArr c a v s).nextTag = s.nextTag := rfl
@[simp] theorem setArr_failedTags (c a : Nat) (v : ArraySt) : (setArr c a v s).failedTags = s.failedTags := rfl
@[simp] theorem setArr_meshTbl (c a : Nat) (v : ArraySt) : (setArr c a v s).meshTbl = s.meshTbl := rfl
@[simp] theorem setArr_meshEff (c a : Nat) (v : ArraySt) : (setArr c a v s).meshEff = s.meshEff := rfl
@[simp] theorem setArr_ingress (c a : Nat) (v : ArraySt) : (setArr c a v s).ingress = s.ingress := rfl
@[simp] theorem setArr_tarnWait (c a : Nat) (v : ArraySt) : (setArr c a v s).tarnWait = s.tarnWait := rfl
@[simp] theorem setArr_granted (c a : Nat) (v : ArraySt) : (setArr c a v s).granted = s.granted := rfl
@[simp] theorem setArr_meshWait (c a : Nat) (v : ArraySt) : (setArr c a v s).meshWait = s.meshWait := rfl
@[simp] theorem setArr_meshLast (c a : Nat) (v : ArraySt) : (setArr c a v s).meshLast = s.meshLast := rfl
@[simp] theorem setArr_meshHeld (c a : Nat) (v : ArraySt) : (setArr c a v s).meshHeld = s.meshHeld := rfl
@[simp] theorem setArr_now (c a : Nat) (v : ArraySt) : (setArr c a v s).now = s.now := rfl
@[simp] theorem setArr_time (c a : Nat) (v : ArraySt) : (setArr c a v s).time = s.time := rfl
@[simp] theorem setArr_pend (c a : Nat) (v : ArraySt) : (setArr c a v s).pend = s.pend := rfl
@[simp] theorem setArr_recov (c a : Nat) (v : ArraySt) : (setArr c a v s).recov = s.recov := rfl
@[simp] theorem setArr_qps (c a : Nat) (v : ArraySt) : (setArr c a v s).qps = s.qps := rfl
@[simp] theorem setArr_sessions (c a : Nat) (v : ArraySt) : (setArr c a v s).sessions = s.sessions := rfl
@[simp] theorem setArr_requests (c a : Nat) (v : ArraySt) : (setArr c a v s).requests = s.requests := rfl
@[simp] theorem setArr_cmodels (c a : Nat) (v : ArraySt) : (setArr c a v s).cmodels = s.cmodels := rfl
@[simp] theorem setArr_batch (c a : Nat) (v : ArraySt) : (setArr c a v s).batch = s.batch := rfl
@[simp] theorem setArr_stepNo (c a : Nat) (v : ArraySt) : (setArr c a v s).stepNo = s.stepNo := rfl
@[simp] theorem setArr_nextReq (c a : Nat) (v : ArraySt) : (setArr c a v s).nextReq = s.nextReq := rfl
@[simp] theorem setArr_acctP (c a : Nat) (v : ArraySt) : (setArr c a v s).acctP = s.acctP := rfl
@[simp] theorem setArr_acctAt (c a : Nat) (v : ArraySt) : (setArr c a v s).acctAt = s.acctAt := rfl
@[simp] theorem setArr_charged (c a : Nat) (v : ArraySt) : (setArr c a v s).charged = s.charged := rfl
@[simp] theorem setArr_refill (c a : Nat) (v : ArraySt) : (setArr c a v s).refill = s.refill := rfl
@[simp] theorem setArr_fired (c a : Nat) (v : ArraySt) : (setArr c a v s).fired = s.fired := rfl
@[simp] theorem setArr_tasks (c a : Nat) (v : ArraySt) : (setArr c a v s).tasks = s.tasks := rfl
@[simp] theorem setArr_sec (c a : Nat) (v : ArraySt) : (setArr c a v s).sec = s.sec := rfl
@[simp] theorem setArr_flash (c a : Nat) (v : ArraySt) : (setArr c a v s).flash = s.flash := rfl
@[simp] theorem setArr_coreRecord (c a : Nat) (v : ArraySt) : (setArr c a v s).coreRecord = s.coreRecord := rfl
@[simp] theorem setArr_modul (c a : Nat) (v : ArraySt) : (setArr c a v s).modul = s.modul := rfl
@[simp] theorem setArr_pfcPaused (c a : Nat) (v : ArraySt) : (setArr c a v s).pfcPaused = s.pfcPaused := rfl
@[simp] theorem setArr_out (c a : Nat) (v : ArraySt) : (setArr c a v s).out = s.out := rfl
@[simp] theorem setArr_fresh (c a : Nat) (v : ArraySt) : (setArr c a v s).fresh = s.fresh := rfl

@[simp] theorem setFlag_pending (c f v : Nat) : (setFlag c f v s).pending = s.pending := rfl
@[simp] theorem setFlag_csr (c f v : Nat) : (setFlag c f v s).csr = s.csr := rfl
@[simp] theorem setFlag_eff (c f v : Nat) : (setFlag c f v s).eff = s.eff := rfl
@[simp] theorem setFlag_latches (c f v : Nat) : (setFlag c f v s).latches = s.latches := rfl
@[simp] theorem setFlag_readData (c f v : Nat) : (setFlag c f v s).readData = s.readData := rfl
@[simp] theorem setFlag_tarn (c f v : Nat) : (setFlag c f v s).tarn = s.tarn := rfl
@[simp] theorem setFlag_mere (c f v : Nat) : (setFlag c f v s).mere = s.mere := rfl
@[simp] theorem setFlag_acc (c f v : Nat) : (setFlag c f v s).acc = s.acc := rfl
@[simp] theorem setFlag_treg (c f v : Nat) : (setFlag c f v s).treg = s.treg := rfl
@[simp] theorem setFlag_mask (c f v : Nat) : (setFlag c f v s).mask = s.mask := rfl
@[simp] theorem setFlag_progs (c f v : Nat) : (setFlag c f v s).progs = s.progs := rfl
@[simp] theorem setFlag_spu (c f v : Nat) : (setFlag c f v s).spu = s.spu := rfl
@[simp] theorem setFlag_pipes (c f v : Nat) : (setFlag c f v s).pipes = s.pipes := rfl
@[simp] theorem setFlag_arrays (c f v : Nat) : (setFlag c f v s).arrays = s.arrays := rfl
@[simp] theorem setFlag_heldAdds (c f v : Nat) : (setFlag c f v s).heldAdds = s.heldAdds := rfl
@[simp] theorem setFlag_units (c f v : Nat) : (setFlag c f v s).units = s.units := rfl
@[simp] theorem setFlag_outst (c f v : Nat) : (setFlag c f v s).outst = s.outst := rfl
@[simp] theorem setFlag_turns (c f v : Nat) : (setFlag c f v s).turns = s.turns := rfl
@[simp] theorem setFlag_segs (c f v : Nat) : (setFlag c f v s).segs = s.segs := rfl
@[simp] theorem setFlag_ssq (c f v : Nat) : (setFlag c f v s).ssq = s.ssq := rfl
@[simp] theorem setFlag_pgv (c f v : Nat) : (setFlag c f v s).pgv = s.pgv := rfl
@[simp] theorem setFlag_stackSt (c f v : Nat) : (setFlag c f v s).stackSt = s.stackSt := rfl
@[simp] theorem setFlag_ore (c f v : Nat) : (setFlag c f v s).ore = s.ore := rfl
@[simp] theorem setFlag_ports (c f v : Nat) : (setFlag c f v s).ports = s.ports := rfl
@[simp] theorem setFlag_transit (c f v : Nat) : (setFlag c f v s).transit = s.transit := rfl
@[simp] theorem setFlag_inbox (c f v : Nat) : (setFlag c f v s).inbox = s.inbox := rfl
@[simp] theorem setFlag_regions (c f v : Nat) : (setFlag c f v s).regions = s.regions := rfl
@[simp] theorem setFlag_remoteBad (c f v : Nat) : (setFlag c f v s).remoteBad = s.remoteBad := rfl
@[simp] theorem setFlag_heldAcks (c f v : Nat) : (setFlag c f v s).heldAcks = s.heldAcks := rfl
@[simp] theorem setFlag_fabWait (c f v : Nat) : (setFlag c f v s).fabWait = s.fabWait := rfl
@[simp] theorem setFlag_mail (c f v : Nat) : (setFlag c f v s).mail = s.mail := rfl
@[simp] theorem setFlag_nextTag (c f v : Nat) : (setFlag c f v s).nextTag = s.nextTag := rfl
@[simp] theorem setFlag_failedTags (c f v : Nat) : (setFlag c f v s).failedTags = s.failedTags := rfl
@[simp] theorem setFlag_meshTbl (c f v : Nat) : (setFlag c f v s).meshTbl = s.meshTbl := rfl
@[simp] theorem setFlag_meshEff (c f v : Nat) : (setFlag c f v s).meshEff = s.meshEff := rfl
@[simp] theorem setFlag_ingress (c f v : Nat) : (setFlag c f v s).ingress = s.ingress := rfl
@[simp] theorem setFlag_tarnWait (c f v : Nat) : (setFlag c f v s).tarnWait = s.tarnWait := rfl
@[simp] theorem setFlag_granted (c f v : Nat) : (setFlag c f v s).granted = s.granted := rfl
@[simp] theorem setFlag_meshWait (c f v : Nat) : (setFlag c f v s).meshWait = s.meshWait := rfl
@[simp] theorem setFlag_meshLast (c f v : Nat) : (setFlag c f v s).meshLast = s.meshLast := rfl
@[simp] theorem setFlag_meshHeld (c f v : Nat) : (setFlag c f v s).meshHeld = s.meshHeld := rfl
@[simp] theorem setFlag_now (c f v : Nat) : (setFlag c f v s).now = s.now := rfl
@[simp] theorem setFlag_time (c f v : Nat) : (setFlag c f v s).time = s.time := rfl
@[simp] theorem setFlag_pend (c f v : Nat) : (setFlag c f v s).pend = s.pend := rfl
@[simp] theorem setFlag_recov (c f v : Nat) : (setFlag c f v s).recov = s.recov := rfl
@[simp] theorem setFlag_qps (c f v : Nat) : (setFlag c f v s).qps = s.qps := rfl
@[simp] theorem setFlag_sessions (c f v : Nat) : (setFlag c f v s).sessions = s.sessions := rfl
@[simp] theorem setFlag_requests (c f v : Nat) : (setFlag c f v s).requests = s.requests := rfl
@[simp] theorem setFlag_cmodels (c f v : Nat) : (setFlag c f v s).cmodels = s.cmodels := rfl
@[simp] theorem setFlag_batch (c f v : Nat) : (setFlag c f v s).batch = s.batch := rfl
@[simp] theorem setFlag_stepNo (c f v : Nat) : (setFlag c f v s).stepNo = s.stepNo := rfl
@[simp] theorem setFlag_nextReq (c f v : Nat) : (setFlag c f v s).nextReq = s.nextReq := rfl
@[simp] theorem setFlag_acctP (c f v : Nat) : (setFlag c f v s).acctP = s.acctP := rfl
@[simp] theorem setFlag_acctAt (c f v : Nat) : (setFlag c f v s).acctAt = s.acctAt := rfl
@[simp] theorem setFlag_charged (c f v : Nat) : (setFlag c f v s).charged = s.charged := rfl
@[simp] theorem setFlag_refill (c f v : Nat) : (setFlag c f v s).refill = s.refill := rfl
@[simp] theorem setFlag_fired (c f v : Nat) : (setFlag c f v s).fired = s.fired := rfl
@[simp] theorem setFlag_tasks (c f v : Nat) : (setFlag c f v s).tasks = s.tasks := rfl
@[simp] theorem setFlag_sec (c f v : Nat) : (setFlag c f v s).sec = s.sec := rfl
@[simp] theorem setFlag_flash (c f v : Nat) : (setFlag c f v s).flash = s.flash := rfl
@[simp] theorem setFlag_coreRecord (c f v : Nat) : (setFlag c f v s).coreRecord = s.coreRecord := rfl
@[simp] theorem setFlag_modul (c f v : Nat) : (setFlag c f v s).modul = s.modul := rfl
@[simp] theorem setFlag_pfcPaused (c f v : Nat) : (setFlag c f v s).pfcPaused = s.pfcPaused := rfl
@[simp] theorem setFlag_out (c f v : Nat) : (setFlag c f v s).out = s.out := rfl
@[simp] theorem setFlag_fresh (c f v : Nat) : (setFlag c f v s).fresh = s.fresh := rfl

@[simp] theorem setUnit_pending (k : Nat) (v : UnitSt) : (setUnit k v s).pending = s.pending := rfl
@[simp] theorem setUnit_csr (k : Nat) (v : UnitSt) : (setUnit k v s).csr = s.csr := rfl
@[simp] theorem setUnit_eff (k : Nat) (v : UnitSt) : (setUnit k v s).eff = s.eff := rfl
@[simp] theorem setUnit_latches (k : Nat) (v : UnitSt) : (setUnit k v s).latches = s.latches := rfl
@[simp] theorem setUnit_readData (k : Nat) (v : UnitSt) : (setUnit k v s).readData = s.readData := rfl
@[simp] theorem setUnit_tarn (k : Nat) (v : UnitSt) : (setUnit k v s).tarn = s.tarn := rfl
@[simp] theorem setUnit_mere (k : Nat) (v : UnitSt) : (setUnit k v s).mere = s.mere := rfl
@[simp] theorem setUnit_acc (k : Nat) (v : UnitSt) : (setUnit k v s).acc = s.acc := rfl
@[simp] theorem setUnit_treg (k : Nat) (v : UnitSt) : (setUnit k v s).treg = s.treg := rfl
@[simp] theorem setUnit_mask (k : Nat) (v : UnitSt) : (setUnit k v s).mask = s.mask := rfl
@[simp] theorem setUnit_progs (k : Nat) (v : UnitSt) : (setUnit k v s).progs = s.progs := rfl
@[simp] theorem setUnit_spu (k : Nat) (v : UnitSt) : (setUnit k v s).spu = s.spu := rfl
@[simp] theorem setUnit_pipes (k : Nat) (v : UnitSt) : (setUnit k v s).pipes = s.pipes := rfl
@[simp] theorem setUnit_arrays (k : Nat) (v : UnitSt) : (setUnit k v s).arrays = s.arrays := rfl
@[simp] theorem setUnit_flags (k : Nat) (v : UnitSt) : (setUnit k v s).flags = s.flags := rfl
@[simp] theorem setUnit_heldAdds (k : Nat) (v : UnitSt) : (setUnit k v s).heldAdds = s.heldAdds := rfl
@[simp] theorem setUnit_outst (k : Nat) (v : UnitSt) : (setUnit k v s).outst = s.outst := rfl
@[simp] theorem setUnit_turns (k : Nat) (v : UnitSt) : (setUnit k v s).turns = s.turns := rfl
@[simp] theorem setUnit_segs (k : Nat) (v : UnitSt) : (setUnit k v s).segs = s.segs := rfl
@[simp] theorem setUnit_ssq (k : Nat) (v : UnitSt) : (setUnit k v s).ssq = s.ssq := rfl
@[simp] theorem setUnit_pgv (k : Nat) (v : UnitSt) : (setUnit k v s).pgv = s.pgv := rfl
@[simp] theorem setUnit_stackSt (k : Nat) (v : UnitSt) : (setUnit k v s).stackSt = s.stackSt := rfl
@[simp] theorem setUnit_ore (k : Nat) (v : UnitSt) : (setUnit k v s).ore = s.ore := rfl
@[simp] theorem setUnit_ports (k : Nat) (v : UnitSt) : (setUnit k v s).ports = s.ports := rfl
@[simp] theorem setUnit_transit (k : Nat) (v : UnitSt) : (setUnit k v s).transit = s.transit := rfl
@[simp] theorem setUnit_inbox (k : Nat) (v : UnitSt) : (setUnit k v s).inbox = s.inbox := rfl
@[simp] theorem setUnit_regions (k : Nat) (v : UnitSt) : (setUnit k v s).regions = s.regions := rfl
@[simp] theorem setUnit_remoteBad (k : Nat) (v : UnitSt) : (setUnit k v s).remoteBad = s.remoteBad := rfl
@[simp] theorem setUnit_heldAcks (k : Nat) (v : UnitSt) : (setUnit k v s).heldAcks = s.heldAcks := rfl
@[simp] theorem setUnit_fabWait (k : Nat) (v : UnitSt) : (setUnit k v s).fabWait = s.fabWait := rfl
@[simp] theorem setUnit_mail (k : Nat) (v : UnitSt) : (setUnit k v s).mail = s.mail := rfl
@[simp] theorem setUnit_nextTag (k : Nat) (v : UnitSt) : (setUnit k v s).nextTag = s.nextTag := rfl
@[simp] theorem setUnit_failedTags (k : Nat) (v : UnitSt) : (setUnit k v s).failedTags = s.failedTags := rfl
@[simp] theorem setUnit_meshTbl (k : Nat) (v : UnitSt) : (setUnit k v s).meshTbl = s.meshTbl := rfl
@[simp] theorem setUnit_meshEff (k : Nat) (v : UnitSt) : (setUnit k v s).meshEff = s.meshEff := rfl
@[simp] theorem setUnit_ingress (k : Nat) (v : UnitSt) : (setUnit k v s).ingress = s.ingress := rfl
@[simp] theorem setUnit_tarnWait (k : Nat) (v : UnitSt) : (setUnit k v s).tarnWait = s.tarnWait := rfl
@[simp] theorem setUnit_granted (k : Nat) (v : UnitSt) : (setUnit k v s).granted = s.granted := rfl
@[simp] theorem setUnit_meshWait (k : Nat) (v : UnitSt) : (setUnit k v s).meshWait = s.meshWait := rfl
@[simp] theorem setUnit_meshLast (k : Nat) (v : UnitSt) : (setUnit k v s).meshLast = s.meshLast := rfl
@[simp] theorem setUnit_meshHeld (k : Nat) (v : UnitSt) : (setUnit k v s).meshHeld = s.meshHeld := rfl
@[simp] theorem setUnit_now (k : Nat) (v : UnitSt) : (setUnit k v s).now = s.now := rfl
@[simp] theorem setUnit_time (k : Nat) (v : UnitSt) : (setUnit k v s).time = s.time := rfl
@[simp] theorem setUnit_pend (k : Nat) (v : UnitSt) : (setUnit k v s).pend = s.pend := rfl
@[simp] theorem setUnit_recov (k : Nat) (v : UnitSt) : (setUnit k v s).recov = s.recov := rfl
@[simp] theorem setUnit_qps (k : Nat) (v : UnitSt) : (setUnit k v s).qps = s.qps := rfl
@[simp] theorem setUnit_sessions (k : Nat) (v : UnitSt) : (setUnit k v s).sessions = s.sessions := rfl
@[simp] theorem setUnit_requests (k : Nat) (v : UnitSt) : (setUnit k v s).requests = s.requests := rfl
@[simp] theorem setUnit_cmodels (k : Nat) (v : UnitSt) : (setUnit k v s).cmodels = s.cmodels := rfl
@[simp] theorem setUnit_batch (k : Nat) (v : UnitSt) : (setUnit k v s).batch = s.batch := rfl
@[simp] theorem setUnit_stepNo (k : Nat) (v : UnitSt) : (setUnit k v s).stepNo = s.stepNo := rfl
@[simp] theorem setUnit_nextReq (k : Nat) (v : UnitSt) : (setUnit k v s).nextReq = s.nextReq := rfl
@[simp] theorem setUnit_acctP (k : Nat) (v : UnitSt) : (setUnit k v s).acctP = s.acctP := rfl
@[simp] theorem setUnit_acctAt (k : Nat) (v : UnitSt) : (setUnit k v s).acctAt = s.acctAt := rfl
@[simp] theorem setUnit_charged (k : Nat) (v : UnitSt) : (setUnit k v s).charged = s.charged := rfl
@[simp] theorem setUnit_refill (k : Nat) (v : UnitSt) : (setUnit k v s).refill = s.refill := rfl
@[simp] theorem setUnit_fired (k : Nat) (v : UnitSt) : (setUnit k v s).fired = s.fired := rfl
@[simp] theorem setUnit_tasks (k : Nat) (v : UnitSt) : (setUnit k v s).tasks = s.tasks := rfl
@[simp] theorem setUnit_sec (k : Nat) (v : UnitSt) : (setUnit k v s).sec = s.sec := rfl
@[simp] theorem setUnit_flash (k : Nat) (v : UnitSt) : (setUnit k v s).flash = s.flash := rfl
@[simp] theorem setUnit_coreRecord (k : Nat) (v : UnitSt) : (setUnit k v s).coreRecord = s.coreRecord := rfl
@[simp] theorem setUnit_modul (k : Nat) (v : UnitSt) : (setUnit k v s).modul = s.modul := rfl
@[simp] theorem setUnit_pfcPaused (k : Nat) (v : UnitSt) : (setUnit k v s).pfcPaused = s.pfcPaused := rfl
@[simp] theorem setUnit_out (k : Nat) (v : UnitSt) : (setUnit k v s).out = s.out := rfl
@[simp] theorem setUnit_fresh (k : Nat) (v : UnitSt) : (setUnit k v s).fresh = s.fresh := rfl

@[simp] theorem setOutst_pending (c e : Nat) (v : List Xfer) : (setOutst c e v s).pending = s.pending := rfl
@[simp] theorem setOutst_csr (c e : Nat) (v : List Xfer) : (setOutst c e v s).csr = s.csr := rfl
@[simp] theorem setOutst_eff (c e : Nat) (v : List Xfer) : (setOutst c e v s).eff = s.eff := rfl
@[simp] theorem setOutst_latches (c e : Nat) (v : List Xfer) : (setOutst c e v s).latches = s.latches := rfl
@[simp] theorem setOutst_readData (c e : Nat) (v : List Xfer) : (setOutst c e v s).readData = s.readData := rfl
@[simp] theorem setOutst_tarn (c e : Nat) (v : List Xfer) : (setOutst c e v s).tarn = s.tarn := rfl
@[simp] theorem setOutst_mere (c e : Nat) (v : List Xfer) : (setOutst c e v s).mere = s.mere := rfl
@[simp] theorem setOutst_acc (c e : Nat) (v : List Xfer) : (setOutst c e v s).acc = s.acc := rfl
@[simp] theorem setOutst_treg (c e : Nat) (v : List Xfer) : (setOutst c e v s).treg = s.treg := rfl
@[simp] theorem setOutst_mask (c e : Nat) (v : List Xfer) : (setOutst c e v s).mask = s.mask := rfl
@[simp] theorem setOutst_progs (c e : Nat) (v : List Xfer) : (setOutst c e v s).progs = s.progs := rfl
@[simp] theorem setOutst_spu (c e : Nat) (v : List Xfer) : (setOutst c e v s).spu = s.spu := rfl
@[simp] theorem setOutst_pipes (c e : Nat) (v : List Xfer) : (setOutst c e v s).pipes = s.pipes := rfl
@[simp] theorem setOutst_arrays (c e : Nat) (v : List Xfer) : (setOutst c e v s).arrays = s.arrays := rfl
@[simp] theorem setOutst_flags (c e : Nat) (v : List Xfer) : (setOutst c e v s).flags = s.flags := rfl
@[simp] theorem setOutst_heldAdds (c e : Nat) (v : List Xfer) : (setOutst c e v s).heldAdds = s.heldAdds := rfl
@[simp] theorem setOutst_units (c e : Nat) (v : List Xfer) : (setOutst c e v s).units = s.units := rfl
@[simp] theorem setOutst_turns (c e : Nat) (v : List Xfer) : (setOutst c e v s).turns = s.turns := rfl
@[simp] theorem setOutst_segs (c e : Nat) (v : List Xfer) : (setOutst c e v s).segs = s.segs := rfl
@[simp] theorem setOutst_ssq (c e : Nat) (v : List Xfer) : (setOutst c e v s).ssq = s.ssq := rfl
@[simp] theorem setOutst_pgv (c e : Nat) (v : List Xfer) : (setOutst c e v s).pgv = s.pgv := rfl
@[simp] theorem setOutst_stackSt (c e : Nat) (v : List Xfer) : (setOutst c e v s).stackSt = s.stackSt := rfl
@[simp] theorem setOutst_ore (c e : Nat) (v : List Xfer) : (setOutst c e v s).ore = s.ore := rfl
@[simp] theorem setOutst_ports (c e : Nat) (v : List Xfer) : (setOutst c e v s).ports = s.ports := rfl
@[simp] theorem setOutst_transit (c e : Nat) (v : List Xfer) : (setOutst c e v s).transit = s.transit := rfl
@[simp] theorem setOutst_inbox (c e : Nat) (v : List Xfer) : (setOutst c e v s).inbox = s.inbox := rfl
@[simp] theorem setOutst_regions (c e : Nat) (v : List Xfer) : (setOutst c e v s).regions = s.regions := rfl
@[simp] theorem setOutst_remoteBad (c e : Nat) (v : List Xfer) : (setOutst c e v s).remoteBad = s.remoteBad := rfl
@[simp] theorem setOutst_heldAcks (c e : Nat) (v : List Xfer) : (setOutst c e v s).heldAcks = s.heldAcks := rfl
@[simp] theorem setOutst_fabWait (c e : Nat) (v : List Xfer) : (setOutst c e v s).fabWait = s.fabWait := rfl
@[simp] theorem setOutst_mail (c e : Nat) (v : List Xfer) : (setOutst c e v s).mail = s.mail := rfl
@[simp] theorem setOutst_nextTag (c e : Nat) (v : List Xfer) : (setOutst c e v s).nextTag = s.nextTag := rfl
@[simp] theorem setOutst_failedTags (c e : Nat) (v : List Xfer) : (setOutst c e v s).failedTags = s.failedTags := rfl
@[simp] theorem setOutst_meshTbl (c e : Nat) (v : List Xfer) : (setOutst c e v s).meshTbl = s.meshTbl := rfl
@[simp] theorem setOutst_meshEff (c e : Nat) (v : List Xfer) : (setOutst c e v s).meshEff = s.meshEff := rfl
@[simp] theorem setOutst_ingress (c e : Nat) (v : List Xfer) : (setOutst c e v s).ingress = s.ingress := rfl
@[simp] theorem setOutst_tarnWait (c e : Nat) (v : List Xfer) : (setOutst c e v s).tarnWait = s.tarnWait := rfl
@[simp] theorem setOutst_granted (c e : Nat) (v : List Xfer) : (setOutst c e v s).granted = s.granted := rfl
@[simp] theorem setOutst_meshWait (c e : Nat) (v : List Xfer) : (setOutst c e v s).meshWait = s.meshWait := rfl
@[simp] theorem setOutst_meshLast (c e : Nat) (v : List Xfer) : (setOutst c e v s).meshLast = s.meshLast := rfl
@[simp] theorem setOutst_meshHeld (c e : Nat) (v : List Xfer) : (setOutst c e v s).meshHeld = s.meshHeld := rfl
@[simp] theorem setOutst_now (c e : Nat) (v : List Xfer) : (setOutst c e v s).now = s.now := rfl
@[simp] theorem setOutst_time (c e : Nat) (v : List Xfer) : (setOutst c e v s).time = s.time := rfl
@[simp] theorem setOutst_pend (c e : Nat) (v : List Xfer) : (setOutst c e v s).pend = s.pend := rfl
@[simp] theorem setOutst_recov (c e : Nat) (v : List Xfer) : (setOutst c e v s).recov = s.recov := rfl
@[simp] theorem setOutst_qps (c e : Nat) (v : List Xfer) : (setOutst c e v s).qps = s.qps := rfl
@[simp] theorem setOutst_sessions (c e : Nat) (v : List Xfer) : (setOutst c e v s).sessions = s.sessions := rfl
@[simp] theorem setOutst_requests (c e : Nat) (v : List Xfer) : (setOutst c e v s).requests = s.requests := rfl
@[simp] theorem setOutst_cmodels (c e : Nat) (v : List Xfer) : (setOutst c e v s).cmodels = s.cmodels := rfl
@[simp] theorem setOutst_batch (c e : Nat) (v : List Xfer) : (setOutst c e v s).batch = s.batch := rfl
@[simp] theorem setOutst_stepNo (c e : Nat) (v : List Xfer) : (setOutst c e v s).stepNo = s.stepNo := rfl
@[simp] theorem setOutst_nextReq (c e : Nat) (v : List Xfer) : (setOutst c e v s).nextReq = s.nextReq := rfl
@[simp] theorem setOutst_acctP (c e : Nat) (v : List Xfer) : (setOutst c e v s).acctP = s.acctP := rfl
@[simp] theorem setOutst_acctAt (c e : Nat) (v : List Xfer) : (setOutst c e v s).acctAt = s.acctAt := rfl
@[simp] theorem setOutst_charged (c e : Nat) (v : List Xfer) : (setOutst c e v s).charged = s.charged := rfl
@[simp] theorem setOutst_refill (c e : Nat) (v : List Xfer) : (setOutst c e v s).refill = s.refill := rfl
@[simp] theorem setOutst_fired (c e : Nat) (v : List Xfer) : (setOutst c e v s).fired = s.fired := rfl
@[simp] theorem setOutst_tasks (c e : Nat) (v : List Xfer) : (setOutst c e v s).tasks = s.tasks := rfl
@[simp] theorem setOutst_sec (c e : Nat) (v : List Xfer) : (setOutst c e v s).sec = s.sec := rfl
@[simp] theorem setOutst_flash (c e : Nat) (v : List Xfer) : (setOutst c e v s).flash = s.flash := rfl
@[simp] theorem setOutst_coreRecord (c e : Nat) (v : List Xfer) : (setOutst c e v s).coreRecord = s.coreRecord := rfl
@[simp] theorem setOutst_modul (c e : Nat) (v : List Xfer) : (setOutst c e v s).modul = s.modul := rfl
@[simp] theorem setOutst_pfcPaused (c e : Nat) (v : List Xfer) : (setOutst c e v s).pfcPaused = s.pfcPaused := rfl
@[simp] theorem setOutst_out (c e : Nat) (v : List Xfer) : (setOutst c e v s).out = s.out := rfl
@[simp] theorem setOutst_fresh (c e : Nat) (v : List Xfer) : (setOutst c e v s).fresh = s.fresh := rfl

@[simp] theorem setSeg_pending (c g : Nat) (v : Seg) : (setSeg c g v s).pending = s.pending := rfl
@[simp] theorem setSeg_csr (c g : Nat) (v : Seg) : (setSeg c g v s).csr = s.csr := rfl
@[simp] theorem setSeg_eff (c g : Nat) (v : Seg) : (setSeg c g v s).eff = s.eff := rfl
@[simp] theorem setSeg_latches (c g : Nat) (v : Seg) : (setSeg c g v s).latches = s.latches := rfl
@[simp] theorem setSeg_readData (c g : Nat) (v : Seg) : (setSeg c g v s).readData = s.readData := rfl
@[simp] theorem setSeg_tarn (c g : Nat) (v : Seg) : (setSeg c g v s).tarn = s.tarn := rfl
@[simp] theorem setSeg_mere (c g : Nat) (v : Seg) : (setSeg c g v s).mere = s.mere := rfl
@[simp] theorem setSeg_acc (c g : Nat) (v : Seg) : (setSeg c g v s).acc = s.acc := rfl
@[simp] theorem setSeg_treg (c g : Nat) (v : Seg) : (setSeg c g v s).treg = s.treg := rfl
@[simp] theorem setSeg_mask (c g : Nat) (v : Seg) : (setSeg c g v s).mask = s.mask := rfl
@[simp] theorem setSeg_progs (c g : Nat) (v : Seg) : (setSeg c g v s).progs = s.progs := rfl
@[simp] theorem setSeg_spu (c g : Nat) (v : Seg) : (setSeg c g v s).spu = s.spu := rfl
@[simp] theorem setSeg_pipes (c g : Nat) (v : Seg) : (setSeg c g v s).pipes = s.pipes := rfl
@[simp] theorem setSeg_arrays (c g : Nat) (v : Seg) : (setSeg c g v s).arrays = s.arrays := rfl
@[simp] theorem setSeg_flags (c g : Nat) (v : Seg) : (setSeg c g v s).flags = s.flags := rfl
@[simp] theorem setSeg_heldAdds (c g : Nat) (v : Seg) : (setSeg c g v s).heldAdds = s.heldAdds := rfl
@[simp] theorem setSeg_units (c g : Nat) (v : Seg) : (setSeg c g v s).units = s.units := rfl
@[simp] theorem setSeg_outst (c g : Nat) (v : Seg) : (setSeg c g v s).outst = s.outst := rfl
@[simp] theorem setSeg_turns (c g : Nat) (v : Seg) : (setSeg c g v s).turns = s.turns := rfl
@[simp] theorem setSeg_ssq (c g : Nat) (v : Seg) : (setSeg c g v s).ssq = s.ssq := rfl
@[simp] theorem setSeg_pgv (c g : Nat) (v : Seg) : (setSeg c g v s).pgv = s.pgv := rfl
@[simp] theorem setSeg_stackSt (c g : Nat) (v : Seg) : (setSeg c g v s).stackSt = s.stackSt := rfl
@[simp] theorem setSeg_ore (c g : Nat) (v : Seg) : (setSeg c g v s).ore = s.ore := rfl
@[simp] theorem setSeg_ports (c g : Nat) (v : Seg) : (setSeg c g v s).ports = s.ports := rfl
@[simp] theorem setSeg_transit (c g : Nat) (v : Seg) : (setSeg c g v s).transit = s.transit := rfl
@[simp] theorem setSeg_inbox (c g : Nat) (v : Seg) : (setSeg c g v s).inbox = s.inbox := rfl
@[simp] theorem setSeg_regions (c g : Nat) (v : Seg) : (setSeg c g v s).regions = s.regions := rfl
@[simp] theorem setSeg_remoteBad (c g : Nat) (v : Seg) : (setSeg c g v s).remoteBad = s.remoteBad := rfl
@[simp] theorem setSeg_heldAcks (c g : Nat) (v : Seg) : (setSeg c g v s).heldAcks = s.heldAcks := rfl
@[simp] theorem setSeg_fabWait (c g : Nat) (v : Seg) : (setSeg c g v s).fabWait = s.fabWait := rfl
@[simp] theorem setSeg_mail (c g : Nat) (v : Seg) : (setSeg c g v s).mail = s.mail := rfl
@[simp] theorem setSeg_nextTag (c g : Nat) (v : Seg) : (setSeg c g v s).nextTag = s.nextTag := rfl
@[simp] theorem setSeg_failedTags (c g : Nat) (v : Seg) : (setSeg c g v s).failedTags = s.failedTags := rfl
@[simp] theorem setSeg_meshTbl (c g : Nat) (v : Seg) : (setSeg c g v s).meshTbl = s.meshTbl := rfl
@[simp] theorem setSeg_meshEff (c g : Nat) (v : Seg) : (setSeg c g v s).meshEff = s.meshEff := rfl
@[simp] theorem setSeg_ingress (c g : Nat) (v : Seg) : (setSeg c g v s).ingress = s.ingress := rfl
@[simp] theorem setSeg_tarnWait (c g : Nat) (v : Seg) : (setSeg c g v s).tarnWait = s.tarnWait := rfl
@[simp] theorem setSeg_granted (c g : Nat) (v : Seg) : (setSeg c g v s).granted = s.granted := rfl
@[simp] theorem setSeg_meshWait (c g : Nat) (v : Seg) : (setSeg c g v s).meshWait = s.meshWait := rfl
@[simp] theorem setSeg_meshLast (c g : Nat) (v : Seg) : (setSeg c g v s).meshLast = s.meshLast := rfl
@[simp] theorem setSeg_meshHeld (c g : Nat) (v : Seg) : (setSeg c g v s).meshHeld = s.meshHeld := rfl
@[simp] theorem setSeg_now (c g : Nat) (v : Seg) : (setSeg c g v s).now = s.now := rfl
@[simp] theorem setSeg_time (c g : Nat) (v : Seg) : (setSeg c g v s).time = s.time := rfl
@[simp] theorem setSeg_pend (c g : Nat) (v : Seg) : (setSeg c g v s).pend = s.pend := rfl
@[simp] theorem setSeg_recov (c g : Nat) (v : Seg) : (setSeg c g v s).recov = s.recov := rfl
@[simp] theorem setSeg_qps (c g : Nat) (v : Seg) : (setSeg c g v s).qps = s.qps := rfl
@[simp] theorem setSeg_sessions (c g : Nat) (v : Seg) : (setSeg c g v s).sessions = s.sessions := rfl
@[simp] theorem setSeg_requests (c g : Nat) (v : Seg) : (setSeg c g v s).requests = s.requests := rfl
@[simp] theorem setSeg_cmodels (c g : Nat) (v : Seg) : (setSeg c g v s).cmodels = s.cmodels := rfl
@[simp] theorem setSeg_batch (c g : Nat) (v : Seg) : (setSeg c g v s).batch = s.batch := rfl
@[simp] theorem setSeg_stepNo (c g : Nat) (v : Seg) : (setSeg c g v s).stepNo = s.stepNo := rfl
@[simp] theorem setSeg_nextReq (c g : Nat) (v : Seg) : (setSeg c g v s).nextReq = s.nextReq := rfl
@[simp] theorem setSeg_acctP (c g : Nat) (v : Seg) : (setSeg c g v s).acctP = s.acctP := rfl
@[simp] theorem setSeg_acctAt (c g : Nat) (v : Seg) : (setSeg c g v s).acctAt = s.acctAt := rfl
@[simp] theorem setSeg_charged (c g : Nat) (v : Seg) : (setSeg c g v s).charged = s.charged := rfl
@[simp] theorem setSeg_refill (c g : Nat) (v : Seg) : (setSeg c g v s).refill = s.refill := rfl
@[simp] theorem setSeg_fired (c g : Nat) (v : Seg) : (setSeg c g v s).fired = s.fired := rfl
@[simp] theorem setSeg_tasks (c g : Nat) (v : Seg) : (setSeg c g v s).tasks = s.tasks := rfl
@[simp] theorem setSeg_sec (c g : Nat) (v : Seg) : (setSeg c g v s).sec = s.sec := rfl
@[simp] theorem setSeg_flash (c g : Nat) (v : Seg) : (setSeg c g v s).flash = s.flash := rfl
@[simp] theorem setSeg_coreRecord (c g : Nat) (v : Seg) : (setSeg c g v s).coreRecord = s.coreRecord := rfl
@[simp] theorem setSeg_modul (c g : Nat) (v : Seg) : (setSeg c g v s).modul = s.modul := rfl
@[simp] theorem setSeg_pfcPaused (c g : Nat) (v : Seg) : (setSeg c g v s).pfcPaused = s.pfcPaused := rfl
@[simp] theorem setSeg_out (c g : Nat) (v : Seg) : (setSeg c g v s).out = s.out := rfl
@[simp] theorem setSeg_fresh (c g : Nat) (v : Seg) : (setSeg c g v s).fresh = s.fresh := rfl

@[simp] theorem setStk_pending (n : Nat) (v : StackSt) : (setStk n v s).pending = s.pending := rfl
@[simp] theorem setStk_csr (n : Nat) (v : StackSt) : (setStk n v s).csr = s.csr := rfl
@[simp] theorem setStk_eff (n : Nat) (v : StackSt) : (setStk n v s).eff = s.eff := rfl
@[simp] theorem setStk_latches (n : Nat) (v : StackSt) : (setStk n v s).latches = s.latches := rfl
@[simp] theorem setStk_readData (n : Nat) (v : StackSt) : (setStk n v s).readData = s.readData := rfl
@[simp] theorem setStk_tarn (n : Nat) (v : StackSt) : (setStk n v s).tarn = s.tarn := rfl
@[simp] theorem setStk_mere (n : Nat) (v : StackSt) : (setStk n v s).mere = s.mere := rfl
@[simp] theorem setStk_acc (n : Nat) (v : StackSt) : (setStk n v s).acc = s.acc := rfl
@[simp] theorem setStk_treg (n : Nat) (v : StackSt) : (setStk n v s).treg = s.treg := rfl
@[simp] theorem setStk_mask (n : Nat) (v : StackSt) : (setStk n v s).mask = s.mask := rfl
@[simp] theorem setStk_progs (n : Nat) (v : StackSt) : (setStk n v s).progs = s.progs := rfl
@[simp] theorem setStk_spu (n : Nat) (v : StackSt) : (setStk n v s).spu = s.spu := rfl
@[simp] theorem setStk_pipes (n : Nat) (v : StackSt) : (setStk n v s).pipes = s.pipes := rfl
@[simp] theorem setStk_arrays (n : Nat) (v : StackSt) : (setStk n v s).arrays = s.arrays := rfl
@[simp] theorem setStk_flags (n : Nat) (v : StackSt) : (setStk n v s).flags = s.flags := rfl
@[simp] theorem setStk_heldAdds (n : Nat) (v : StackSt) : (setStk n v s).heldAdds = s.heldAdds := rfl
@[simp] theorem setStk_units (n : Nat) (v : StackSt) : (setStk n v s).units = s.units := rfl
@[simp] theorem setStk_outst (n : Nat) (v : StackSt) : (setStk n v s).outst = s.outst := rfl
@[simp] theorem setStk_turns (n : Nat) (v : StackSt) : (setStk n v s).turns = s.turns := rfl
@[simp] theorem setStk_segs (n : Nat) (v : StackSt) : (setStk n v s).segs = s.segs := rfl
@[simp] theorem setStk_ssq (n : Nat) (v : StackSt) : (setStk n v s).ssq = s.ssq := rfl
@[simp] theorem setStk_pgv (n : Nat) (v : StackSt) : (setStk n v s).pgv = s.pgv := rfl
@[simp] theorem setStk_ore (n : Nat) (v : StackSt) : (setStk n v s).ore = s.ore := rfl
@[simp] theorem setStk_ports (n : Nat) (v : StackSt) : (setStk n v s).ports = s.ports := rfl
@[simp] theorem setStk_transit (n : Nat) (v : StackSt) : (setStk n v s).transit = s.transit := rfl
@[simp] theorem setStk_inbox (n : Nat) (v : StackSt) : (setStk n v s).inbox = s.inbox := rfl
@[simp] theorem setStk_regions (n : Nat) (v : StackSt) : (setStk n v s).regions = s.regions := rfl
@[simp] theorem setStk_remoteBad (n : Nat) (v : StackSt) : (setStk n v s).remoteBad = s.remoteBad := rfl
@[simp] theorem setStk_heldAcks (n : Nat) (v : StackSt) : (setStk n v s).heldAcks = s.heldAcks := rfl
@[simp] theorem setStk_fabWait (n : Nat) (v : StackSt) : (setStk n v s).fabWait = s.fabWait := rfl
@[simp] theorem setStk_mail (n : Nat) (v : StackSt) : (setStk n v s).mail = s.mail := rfl
@[simp] theorem setStk_nextTag (n : Nat) (v : StackSt) : (setStk n v s).nextTag = s.nextTag := rfl
@[simp] theorem setStk_failedTags (n : Nat) (v : StackSt) : (setStk n v s).failedTags = s.failedTags := rfl
@[simp] theorem setStk_meshTbl (n : Nat) (v : StackSt) : (setStk n v s).meshTbl = s.meshTbl := rfl
@[simp] theorem setStk_meshEff (n : Nat) (v : StackSt) : (setStk n v s).meshEff = s.meshEff := rfl
@[simp] theorem setStk_ingress (n : Nat) (v : StackSt) : (setStk n v s).ingress = s.ingress := rfl
@[simp] theorem setStk_tarnWait (n : Nat) (v : StackSt) : (setStk n v s).tarnWait = s.tarnWait := rfl
@[simp] theorem setStk_granted (n : Nat) (v : StackSt) : (setStk n v s).granted = s.granted := rfl
@[simp] theorem setStk_meshWait (n : Nat) (v : StackSt) : (setStk n v s).meshWait = s.meshWait := rfl
@[simp] theorem setStk_meshLast (n : Nat) (v : StackSt) : (setStk n v s).meshLast = s.meshLast := rfl
@[simp] theorem setStk_meshHeld (n : Nat) (v : StackSt) : (setStk n v s).meshHeld = s.meshHeld := rfl
@[simp] theorem setStk_now (n : Nat) (v : StackSt) : (setStk n v s).now = s.now := rfl
@[simp] theorem setStk_time (n : Nat) (v : StackSt) : (setStk n v s).time = s.time := rfl
@[simp] theorem setStk_pend (n : Nat) (v : StackSt) : (setStk n v s).pend = s.pend := rfl
@[simp] theorem setStk_recov (n : Nat) (v : StackSt) : (setStk n v s).recov = s.recov := rfl
@[simp] theorem setStk_qps (n : Nat) (v : StackSt) : (setStk n v s).qps = s.qps := rfl
@[simp] theorem setStk_sessions (n : Nat) (v : StackSt) : (setStk n v s).sessions = s.sessions := rfl
@[simp] theorem setStk_requests (n : Nat) (v : StackSt) : (setStk n v s).requests = s.requests := rfl
@[simp] theorem setStk_cmodels (n : Nat) (v : StackSt) : (setStk n v s).cmodels = s.cmodels := rfl
@[simp] theorem setStk_batch (n : Nat) (v : StackSt) : (setStk n v s).batch = s.batch := rfl
@[simp] theorem setStk_stepNo (n : Nat) (v : StackSt) : (setStk n v s).stepNo = s.stepNo := rfl
@[simp] theorem setStk_nextReq (n : Nat) (v : StackSt) : (setStk n v s).nextReq = s.nextReq := rfl
@[simp] theorem setStk_acctP (n : Nat) (v : StackSt) : (setStk n v s).acctP = s.acctP := rfl
@[simp] theorem setStk_acctAt (n : Nat) (v : StackSt) : (setStk n v s).acctAt = s.acctAt := rfl
@[simp] theorem setStk_charged (n : Nat) (v : StackSt) : (setStk n v s).charged = s.charged := rfl
@[simp] theorem setStk_refill (n : Nat) (v : StackSt) : (setStk n v s).refill = s.refill := rfl
@[simp] theorem setStk_fired (n : Nat) (v : StackSt) : (setStk n v s).fired = s.fired := rfl
@[simp] theorem setStk_tasks (n : Nat) (v : StackSt) : (setStk n v s).tasks = s.tasks := rfl
@[simp] theorem setStk_sec (n : Nat) (v : StackSt) : (setStk n v s).sec = s.sec := rfl
@[simp] theorem setStk_flash (n : Nat) (v : StackSt) : (setStk n v s).flash = s.flash := rfl
@[simp] theorem setStk_coreRecord (n : Nat) (v : StackSt) : (setStk n v s).coreRecord = s.coreRecord := rfl
@[simp] theorem setStk_modul (n : Nat) (v : StackSt) : (setStk n v s).modul = s.modul := rfl
@[simp] theorem setStk_pfcPaused (n : Nat) (v : StackSt) : (setStk n v s).pfcPaused = s.pfcPaused := rfl
@[simp] theorem setStk_out (n : Nat) (v : StackSt) : (setStk n v s).out = s.out := rfl
@[simp] theorem setStk_fresh (n : Nat) (v : StackSt) : (setStk n v s).fresh = s.fresh := rfl

@[simp] theorem setPort_pending (p : Nat) (v : PortSt) : (setPort p v s).pending = s.pending := rfl
@[simp] theorem setPort_csr (p : Nat) (v : PortSt) : (setPort p v s).csr = s.csr := rfl
@[simp] theorem setPort_eff (p : Nat) (v : PortSt) : (setPort p v s).eff = s.eff := rfl
@[simp] theorem setPort_latches (p : Nat) (v : PortSt) : (setPort p v s).latches = s.latches := rfl
@[simp] theorem setPort_readData (p : Nat) (v : PortSt) : (setPort p v s).readData = s.readData := rfl
@[simp] theorem setPort_tarn (p : Nat) (v : PortSt) : (setPort p v s).tarn = s.tarn := rfl
@[simp] theorem setPort_mere (p : Nat) (v : PortSt) : (setPort p v s).mere = s.mere := rfl
@[simp] theorem setPort_acc (p : Nat) (v : PortSt) : (setPort p v s).acc = s.acc := rfl
@[simp] theorem setPort_treg (p : Nat) (v : PortSt) : (setPort p v s).treg = s.treg := rfl
@[simp] theorem setPort_mask (p : Nat) (v : PortSt) : (setPort p v s).mask = s.mask := rfl
@[simp] theorem setPort_progs (p : Nat) (v : PortSt) : (setPort p v s).progs = s.progs := rfl
@[simp] theorem setPort_spu (p : Nat) (v : PortSt) : (setPort p v s).spu = s.spu := rfl
@[simp] theorem setPort_pipes (p : Nat) (v : PortSt) : (setPort p v s).pipes = s.pipes := rfl
@[simp] theorem setPort_arrays (p : Nat) (v : PortSt) : (setPort p v s).arrays = s.arrays := rfl
@[simp] theorem setPort_flags (p : Nat) (v : PortSt) : (setPort p v s).flags = s.flags := rfl
@[simp] theorem setPort_heldAdds (p : Nat) (v : PortSt) : (setPort p v s).heldAdds = s.heldAdds := rfl
@[simp] theorem setPort_units (p : Nat) (v : PortSt) : (setPort p v s).units = s.units := rfl
@[simp] theorem setPort_outst (p : Nat) (v : PortSt) : (setPort p v s).outst = s.outst := rfl
@[simp] theorem setPort_turns (p : Nat) (v : PortSt) : (setPort p v s).turns = s.turns := rfl
@[simp] theorem setPort_segs (p : Nat) (v : PortSt) : (setPort p v s).segs = s.segs := rfl
@[simp] theorem setPort_ssq (p : Nat) (v : PortSt) : (setPort p v s).ssq = s.ssq := rfl
@[simp] theorem setPort_pgv (p : Nat) (v : PortSt) : (setPort p v s).pgv = s.pgv := rfl
@[simp] theorem setPort_stackSt (p : Nat) (v : PortSt) : (setPort p v s).stackSt = s.stackSt := rfl
@[simp] theorem setPort_ore (p : Nat) (v : PortSt) : (setPort p v s).ore = s.ore := rfl
@[simp] theorem setPort_transit (p : Nat) (v : PortSt) : (setPort p v s).transit = s.transit := rfl
@[simp] theorem setPort_inbox (p : Nat) (v : PortSt) : (setPort p v s).inbox = s.inbox := rfl
@[simp] theorem setPort_regions (p : Nat) (v : PortSt) : (setPort p v s).regions = s.regions := rfl
@[simp] theorem setPort_remoteBad (p : Nat) (v : PortSt) : (setPort p v s).remoteBad = s.remoteBad := rfl
@[simp] theorem setPort_heldAcks (p : Nat) (v : PortSt) : (setPort p v s).heldAcks = s.heldAcks := rfl
@[simp] theorem setPort_fabWait (p : Nat) (v : PortSt) : (setPort p v s).fabWait = s.fabWait := rfl
@[simp] theorem setPort_mail (p : Nat) (v : PortSt) : (setPort p v s).mail = s.mail := rfl
@[simp] theorem setPort_nextTag (p : Nat) (v : PortSt) : (setPort p v s).nextTag = s.nextTag := rfl
@[simp] theorem setPort_failedTags (p : Nat) (v : PortSt) : (setPort p v s).failedTags = s.failedTags := rfl
@[simp] theorem setPort_meshTbl (p : Nat) (v : PortSt) : (setPort p v s).meshTbl = s.meshTbl := rfl
@[simp] theorem setPort_meshEff (p : Nat) (v : PortSt) : (setPort p v s).meshEff = s.meshEff := rfl
@[simp] theorem setPort_ingress (p : Nat) (v : PortSt) : (setPort p v s).ingress = s.ingress := rfl
@[simp] theorem setPort_tarnWait (p : Nat) (v : PortSt) : (setPort p v s).tarnWait = s.tarnWait := rfl
@[simp] theorem setPort_granted (p : Nat) (v : PortSt) : (setPort p v s).granted = s.granted := rfl
@[simp] theorem setPort_meshWait (p : Nat) (v : PortSt) : (setPort p v s).meshWait = s.meshWait := rfl
@[simp] theorem setPort_meshLast (p : Nat) (v : PortSt) : (setPort p v s).meshLast = s.meshLast := rfl
@[simp] theorem setPort_meshHeld (p : Nat) (v : PortSt) : (setPort p v s).meshHeld = s.meshHeld := rfl
@[simp] theorem setPort_now (p : Nat) (v : PortSt) : (setPort p v s).now = s.now := rfl
@[simp] theorem setPort_time (p : Nat) (v : PortSt) : (setPort p v s).time = s.time := rfl
@[simp] theorem setPort_pend (p : Nat) (v : PortSt) : (setPort p v s).pend = s.pend := rfl
@[simp] theorem setPort_recov (p : Nat) (v : PortSt) : (setPort p v s).recov = s.recov := rfl
@[simp] theorem setPort_qps (p : Nat) (v : PortSt) : (setPort p v s).qps = s.qps := rfl
@[simp] theorem setPort_sessions (p : Nat) (v : PortSt) : (setPort p v s).sessions = s.sessions := rfl
@[simp] theorem setPort_requests (p : Nat) (v : PortSt) : (setPort p v s).requests = s.requests := rfl
@[simp] theorem setPort_cmodels (p : Nat) (v : PortSt) : (setPort p v s).cmodels = s.cmodels := rfl
@[simp] theorem setPort_batch (p : Nat) (v : PortSt) : (setPort p v s).batch = s.batch := rfl
@[simp] theorem setPort_stepNo (p : Nat) (v : PortSt) : (setPort p v s).stepNo = s.stepNo := rfl
@[simp] theorem setPort_nextReq (p : Nat) (v : PortSt) : (setPort p v s).nextReq = s.nextReq := rfl
@[simp] theorem setPort_acctP (p : Nat) (v : PortSt) : (setPort p v s).acctP = s.acctP := rfl
@[simp] theorem setPort_acctAt (p : Nat) (v : PortSt) : (setPort p v s).acctAt = s.acctAt := rfl
@[simp] theorem setPort_charged (p : Nat) (v : PortSt) : (setPort p v s).charged = s.charged := rfl
@[simp] theorem setPort_refill (p : Nat) (v : PortSt) : (setPort p v s).refill = s.refill := rfl
@[simp] theorem setPort_fired (p : Nat) (v : PortSt) : (setPort p v s).fired = s.fired := rfl
@[simp] theorem setPort_tasks (p : Nat) (v : PortSt) : (setPort p v s).tasks = s.tasks := rfl
@[simp] theorem setPort_sec (p : Nat) (v : PortSt) : (setPort p v s).sec = s.sec := rfl
@[simp] theorem setPort_flash (p : Nat) (v : PortSt) : (setPort p v s).flash = s.flash := rfl
@[simp] theorem setPort_coreRecord (p : Nat) (v : PortSt) : (setPort p v s).coreRecord = s.coreRecord := rfl
@[simp] theorem setPort_modul (p : Nat) (v : PortSt) : (setPort p v s).modul = s.modul := rfl
@[simp] theorem setPort_pfcPaused (p : Nat) (v : PortSt) : (setPort p v s).pfcPaused = s.pfcPaused := rfl
@[simp] theorem setPort_out (p : Nat) (v : PortSt) : (setPort p v s).out = s.out := rfl
@[simp] theorem setPort_fresh (p : Nat) (v : PortSt) : (setPort p v s).fresh = s.fresh := rfl

@[simp] theorem setQp_pending (q : Nat) (v : QpSt) : (setQp q v s).pending = s.pending := rfl
@[simp] theorem setQp_csr (q : Nat) (v : QpSt) : (setQp q v s).csr = s.csr := rfl
@[simp] theorem setQp_eff (q : Nat) (v : QpSt) : (setQp q v s).eff = s.eff := rfl
@[simp] theorem setQp_latches (q : Nat) (v : QpSt) : (setQp q v s).latches = s.latches := rfl
@[simp] theorem setQp_readData (q : Nat) (v : QpSt) : (setQp q v s).readData = s.readData := rfl
@[simp] theorem setQp_tarn (q : Nat) (v : QpSt) : (setQp q v s).tarn = s.tarn := rfl
@[simp] theorem setQp_mere (q : Nat) (v : QpSt) : (setQp q v s).mere = s.mere := rfl
@[simp] theorem setQp_acc (q : Nat) (v : QpSt) : (setQp q v s).acc = s.acc := rfl
@[simp] theorem setQp_treg (q : Nat) (v : QpSt) : (setQp q v s).treg = s.treg := rfl
@[simp] theorem setQp_mask (q : Nat) (v : QpSt) : (setQp q v s).mask = s.mask := rfl
@[simp] theorem setQp_progs (q : Nat) (v : QpSt) : (setQp q v s).progs = s.progs := rfl
@[simp] theorem setQp_spu (q : Nat) (v : QpSt) : (setQp q v s).spu = s.spu := rfl
@[simp] theorem setQp_pipes (q : Nat) (v : QpSt) : (setQp q v s).pipes = s.pipes := rfl
@[simp] theorem setQp_arrays (q : Nat) (v : QpSt) : (setQp q v s).arrays = s.arrays := rfl
@[simp] theorem setQp_flags (q : Nat) (v : QpSt) : (setQp q v s).flags = s.flags := rfl
@[simp] theorem setQp_heldAdds (q : Nat) (v : QpSt) : (setQp q v s).heldAdds = s.heldAdds := rfl
@[simp] theorem setQp_units (q : Nat) (v : QpSt) : (setQp q v s).units = s.units := rfl
@[simp] theorem setQp_outst (q : Nat) (v : QpSt) : (setQp q v s).outst = s.outst := rfl
@[simp] theorem setQp_turns (q : Nat) (v : QpSt) : (setQp q v s).turns = s.turns := rfl
@[simp] theorem setQp_segs (q : Nat) (v : QpSt) : (setQp q v s).segs = s.segs := rfl
@[simp] theorem setQp_ssq (q : Nat) (v : QpSt) : (setQp q v s).ssq = s.ssq := rfl
@[simp] theorem setQp_pgv (q : Nat) (v : QpSt) : (setQp q v s).pgv = s.pgv := rfl
@[simp] theorem setQp_stackSt (q : Nat) (v : QpSt) : (setQp q v s).stackSt = s.stackSt := rfl
@[simp] theorem setQp_ore (q : Nat) (v : QpSt) : (setQp q v s).ore = s.ore := rfl
@[simp] theorem setQp_ports (q : Nat) (v : QpSt) : (setQp q v s).ports = s.ports := rfl
@[simp] theorem setQp_transit (q : Nat) (v : QpSt) : (setQp q v s).transit = s.transit := rfl
@[simp] theorem setQp_inbox (q : Nat) (v : QpSt) : (setQp q v s).inbox = s.inbox := rfl
@[simp] theorem setQp_regions (q : Nat) (v : QpSt) : (setQp q v s).regions = s.regions := rfl
@[simp] theorem setQp_remoteBad (q : Nat) (v : QpSt) : (setQp q v s).remoteBad = s.remoteBad := rfl
@[simp] theorem setQp_heldAcks (q : Nat) (v : QpSt) : (setQp q v s).heldAcks = s.heldAcks := rfl
@[simp] theorem setQp_fabWait (q : Nat) (v : QpSt) : (setQp q v s).fabWait = s.fabWait := rfl
@[simp] theorem setQp_mail (q : Nat) (v : QpSt) : (setQp q v s).mail = s.mail := rfl
@[simp] theorem setQp_nextTag (q : Nat) (v : QpSt) : (setQp q v s).nextTag = s.nextTag := rfl
@[simp] theorem setQp_failedTags (q : Nat) (v : QpSt) : (setQp q v s).failedTags = s.failedTags := rfl
@[simp] theorem setQp_meshTbl (q : Nat) (v : QpSt) : (setQp q v s).meshTbl = s.meshTbl := rfl
@[simp] theorem setQp_meshEff (q : Nat) (v : QpSt) : (setQp q v s).meshEff = s.meshEff := rfl
@[simp] theorem setQp_ingress (q : Nat) (v : QpSt) : (setQp q v s).ingress = s.ingress := rfl
@[simp] theorem setQp_tarnWait (q : Nat) (v : QpSt) : (setQp q v s).tarnWait = s.tarnWait := rfl
@[simp] theorem setQp_granted (q : Nat) (v : QpSt) : (setQp q v s).granted = s.granted := rfl
@[simp] theorem setQp_meshWait (q : Nat) (v : QpSt) : (setQp q v s).meshWait = s.meshWait := rfl
@[simp] theorem setQp_meshLast (q : Nat) (v : QpSt) : (setQp q v s).meshLast = s.meshLast := rfl
@[simp] theorem setQp_meshHeld (q : Nat) (v : QpSt) : (setQp q v s).meshHeld = s.meshHeld := rfl
@[simp] theorem setQp_now (q : Nat) (v : QpSt) : (setQp q v s).now = s.now := rfl
@[simp] theorem setQp_time (q : Nat) (v : QpSt) : (setQp q v s).time = s.time := rfl
@[simp] theorem setQp_pend (q : Nat) (v : QpSt) : (setQp q v s).pend = s.pend := rfl
@[simp] theorem setQp_recov (q : Nat) (v : QpSt) : (setQp q v s).recov = s.recov := rfl
@[simp] theorem setQp_sessions (q : Nat) (v : QpSt) : (setQp q v s).sessions = s.sessions := rfl
@[simp] theorem setQp_requests (q : Nat) (v : QpSt) : (setQp q v s).requests = s.requests := rfl
@[simp] theorem setQp_cmodels (q : Nat) (v : QpSt) : (setQp q v s).cmodels = s.cmodels := rfl
@[simp] theorem setQp_batch (q : Nat) (v : QpSt) : (setQp q v s).batch = s.batch := rfl
@[simp] theorem setQp_stepNo (q : Nat) (v : QpSt) : (setQp q v s).stepNo = s.stepNo := rfl
@[simp] theorem setQp_nextReq (q : Nat) (v : QpSt) : (setQp q v s).nextReq = s.nextReq := rfl
@[simp] theorem setQp_acctP (q : Nat) (v : QpSt) : (setQp q v s).acctP = s.acctP := rfl
@[simp] theorem setQp_acctAt (q : Nat) (v : QpSt) : (setQp q v s).acctAt = s.acctAt := rfl
@[simp] theorem setQp_charged (q : Nat) (v : QpSt) : (setQp q v s).charged = s.charged := rfl
@[simp] theorem setQp_refill (q : Nat) (v : QpSt) : (setQp q v s).refill = s.refill := rfl
@[simp] theorem setQp_fired (q : Nat) (v : QpSt) : (setQp q v s).fired = s.fired := rfl
@[simp] theorem setQp_tasks (q : Nat) (v : QpSt) : (setQp q v s).tasks = s.tasks := rfl
@[simp] theorem setQp_sec (q : Nat) (v : QpSt) : (setQp q v s).sec = s.sec := rfl
@[simp] theorem setQp_flash (q : Nat) (v : QpSt) : (setQp q v s).flash = s.flash := rfl
@[simp] theorem setQp_coreRecord (q : Nat) (v : QpSt) : (setQp q v s).coreRecord = s.coreRecord := rfl
@[simp] theorem setQp_modul (q : Nat) (v : QpSt) : (setQp q v s).modul = s.modul := rfl
@[simp] theorem setQp_pfcPaused (q : Nat) (v : QpSt) : (setQp q v s).pfcPaused = s.pfcPaused := rfl
@[simp] theorem setQp_out (q : Nat) (v : QpSt) : (setQp q v s).out = s.out := rfl
@[simp] theorem setQp_fresh (q : Nat) (v : QpSt) : (setQp q v s).fresh = s.fresh := rfl

@[simp] theorem setSess_pending (k : Nat) (v : Session) : (setSess k v s).pending = s.pending := rfl
@[simp] theorem setSess_csr (k : Nat) (v : Session) : (setSess k v s).csr = s.csr := rfl
@[simp] theorem setSess_eff (k : Nat) (v : Session) : (setSess k v s).eff = s.eff := rfl
@[simp] theorem setSess_latches (k : Nat) (v : Session) : (setSess k v s).latches = s.latches := rfl
@[simp] theorem setSess_readData (k : Nat) (v : Session) : (setSess k v s).readData = s.readData := rfl
@[simp] theorem setSess_tarn (k : Nat) (v : Session) : (setSess k v s).tarn = s.tarn := rfl
@[simp] theorem setSess_mere (k : Nat) (v : Session) : (setSess k v s).mere = s.mere := rfl
@[simp] theorem setSess_acc (k : Nat) (v : Session) : (setSess k v s).acc = s.acc := rfl
@[simp] theorem setSess_treg (k : Nat) (v : Session) : (setSess k v s).treg = s.treg := rfl
@[simp] theorem setSess_mask (k : Nat) (v : Session) : (setSess k v s).mask = s.mask := rfl
@[simp] theorem setSess_progs (k : Nat) (v : Session) : (setSess k v s).progs = s.progs := rfl
@[simp] theorem setSess_spu (k : Nat) (v : Session) : (setSess k v s).spu = s.spu := rfl
@[simp] theorem setSess_pipes (k : Nat) (v : Session) : (setSess k v s).pipes = s.pipes := rfl
@[simp] theorem setSess_arrays (k : Nat) (v : Session) : (setSess k v s).arrays = s.arrays := rfl
@[simp] theorem setSess_flags (k : Nat) (v : Session) : (setSess k v s).flags = s.flags := rfl
@[simp] theorem setSess_heldAdds (k : Nat) (v : Session) : (setSess k v s).heldAdds = s.heldAdds := rfl
@[simp] theorem setSess_units (k : Nat) (v : Session) : (setSess k v s).units = s.units := rfl
@[simp] theorem setSess_outst (k : Nat) (v : Session) : (setSess k v s).outst = s.outst := rfl
@[simp] theorem setSess_turns (k : Nat) (v : Session) : (setSess k v s).turns = s.turns := rfl
@[simp] theorem setSess_segs (k : Nat) (v : Session) : (setSess k v s).segs = s.segs := rfl
@[simp] theorem setSess_ssq (k : Nat) (v : Session) : (setSess k v s).ssq = s.ssq := rfl
@[simp] theorem setSess_pgv (k : Nat) (v : Session) : (setSess k v s).pgv = s.pgv := rfl
@[simp] theorem setSess_stackSt (k : Nat) (v : Session) : (setSess k v s).stackSt = s.stackSt := rfl
@[simp] theorem setSess_ore (k : Nat) (v : Session) : (setSess k v s).ore = s.ore := rfl
@[simp] theorem setSess_ports (k : Nat) (v : Session) : (setSess k v s).ports = s.ports := rfl
@[simp] theorem setSess_transit (k : Nat) (v : Session) : (setSess k v s).transit = s.transit := rfl
@[simp] theorem setSess_inbox (k : Nat) (v : Session) : (setSess k v s).inbox = s.inbox := rfl
@[simp] theorem setSess_regions (k : Nat) (v : Session) : (setSess k v s).regions = s.regions := rfl
@[simp] theorem setSess_remoteBad (k : Nat) (v : Session) : (setSess k v s).remoteBad = s.remoteBad := rfl
@[simp] theorem setSess_heldAcks (k : Nat) (v : Session) : (setSess k v s).heldAcks = s.heldAcks := rfl
@[simp] theorem setSess_fabWait (k : Nat) (v : Session) : (setSess k v s).fabWait = s.fabWait := rfl
@[simp] theorem setSess_mail (k : Nat) (v : Session) : (setSess k v s).mail = s.mail := rfl
@[simp] theorem setSess_nextTag (k : Nat) (v : Session) : (setSess k v s).nextTag = s.nextTag := rfl
@[simp] theorem setSess_failedTags (k : Nat) (v : Session) : (setSess k v s).failedTags = s.failedTags := rfl
@[simp] theorem setSess_meshTbl (k : Nat) (v : Session) : (setSess k v s).meshTbl = s.meshTbl := rfl
@[simp] theorem setSess_meshEff (k : Nat) (v : Session) : (setSess k v s).meshEff = s.meshEff := rfl
@[simp] theorem setSess_ingress (k : Nat) (v : Session) : (setSess k v s).ingress = s.ingress := rfl
@[simp] theorem setSess_tarnWait (k : Nat) (v : Session) : (setSess k v s).tarnWait = s.tarnWait := rfl
@[simp] theorem setSess_granted (k : Nat) (v : Session) : (setSess k v s).granted = s.granted := rfl
@[simp] theorem setSess_meshWait (k : Nat) (v : Session) : (setSess k v s).meshWait = s.meshWait := rfl
@[simp] theorem setSess_meshLast (k : Nat) (v : Session) : (setSess k v s).meshLast = s.meshLast := rfl
@[simp] theorem setSess_meshHeld (k : Nat) (v : Session) : (setSess k v s).meshHeld = s.meshHeld := rfl
@[simp] theorem setSess_now (k : Nat) (v : Session) : (setSess k v s).now = s.now := rfl
@[simp] theorem setSess_time (k : Nat) (v : Session) : (setSess k v s).time = s.time := rfl
@[simp] theorem setSess_pend (k : Nat) (v : Session) : (setSess k v s).pend = s.pend := rfl
@[simp] theorem setSess_recov (k : Nat) (v : Session) : (setSess k v s).recov = s.recov := rfl
@[simp] theorem setSess_qps (k : Nat) (v : Session) : (setSess k v s).qps = s.qps := rfl
@[simp] theorem setSess_requests (k : Nat) (v : Session) : (setSess k v s).requests = s.requests := rfl
@[simp] theorem setSess_cmodels (k : Nat) (v : Session) : (setSess k v s).cmodels = s.cmodels := rfl
@[simp] theorem setSess_batch (k : Nat) (v : Session) : (setSess k v s).batch = s.batch := rfl
@[simp] theorem setSess_stepNo (k : Nat) (v : Session) : (setSess k v s).stepNo = s.stepNo := rfl
@[simp] theorem setSess_nextReq (k : Nat) (v : Session) : (setSess k v s).nextReq = s.nextReq := rfl
@[simp] theorem setSess_acctP (k : Nat) (v : Session) : (setSess k v s).acctP = s.acctP := rfl
@[simp] theorem setSess_acctAt (k : Nat) (v : Session) : (setSess k v s).acctAt = s.acctAt := rfl
@[simp] theorem setSess_charged (k : Nat) (v : Session) : (setSess k v s).charged = s.charged := rfl
@[simp] theorem setSess_refill (k : Nat) (v : Session) : (setSess k v s).refill = s.refill := rfl
@[simp] theorem setSess_fired (k : Nat) (v : Session) : (setSess k v s).fired = s.fired := rfl
@[simp] theorem setSess_tasks (k : Nat) (v : Session) : (setSess k v s).tasks = s.tasks := rfl
@[simp] theorem setSess_sec (k : Nat) (v : Session) : (setSess k v s).sec = s.sec := rfl
@[simp] theorem setSess_flash (k : Nat) (v : Session) : (setSess k v s).flash = s.flash := rfl
@[simp] theorem setSess_coreRecord (k : Nat) (v : Session) : (setSess k v s).coreRecord = s.coreRecord := rfl
@[simp] theorem setSess_modul (k : Nat) (v : Session) : (setSess k v s).modul = s.modul := rfl
@[simp] theorem setSess_pfcPaused (k : Nat) (v : Session) : (setSess k v s).pfcPaused = s.pfcPaused := rfl
@[simp] theorem setSess_out (k : Nat) (v : Session) : (setSess k v s).out = s.out := rfl
@[simp] theorem setSess_fresh (k : Nat) (v : Session) : (setSess k v s).fresh = s.fresh := rfl

@[simp] theorem send_pending (m : OutMsg) : (send m s).pending = s.pending := rfl
@[simp] theorem send_csr (m : OutMsg) : (send m s).csr = s.csr := rfl
@[simp] theorem send_eff (m : OutMsg) : (send m s).eff = s.eff := rfl
@[simp] theorem send_latches (m : OutMsg) : (send m s).latches = s.latches := rfl
@[simp] theorem send_readData (m : OutMsg) : (send m s).readData = s.readData := rfl
@[simp] theorem send_tarn (m : OutMsg) : (send m s).tarn = s.tarn := rfl
@[simp] theorem send_mere (m : OutMsg) : (send m s).mere = s.mere := rfl
@[simp] theorem send_acc (m : OutMsg) : (send m s).acc = s.acc := rfl
@[simp] theorem send_treg (m : OutMsg) : (send m s).treg = s.treg := rfl
@[simp] theorem send_mask (m : OutMsg) : (send m s).mask = s.mask := rfl
@[simp] theorem send_progs (m : OutMsg) : (send m s).progs = s.progs := rfl
@[simp] theorem send_spu (m : OutMsg) : (send m s).spu = s.spu := rfl
@[simp] theorem send_pipes (m : OutMsg) : (send m s).pipes = s.pipes := rfl
@[simp] theorem send_arrays (m : OutMsg) : (send m s).arrays = s.arrays := rfl
@[simp] theorem send_flags (m : OutMsg) : (send m s).flags = s.flags := rfl
@[simp] theorem send_heldAdds (m : OutMsg) : (send m s).heldAdds = s.heldAdds := rfl
@[simp] theorem send_units (m : OutMsg) : (send m s).units = s.units := rfl
@[simp] theorem send_outst (m : OutMsg) : (send m s).outst = s.outst := rfl
@[simp] theorem send_turns (m : OutMsg) : (send m s).turns = s.turns := rfl
@[simp] theorem send_segs (m : OutMsg) : (send m s).segs = s.segs := rfl
@[simp] theorem send_ssq (m : OutMsg) : (send m s).ssq = s.ssq := rfl
@[simp] theorem send_pgv (m : OutMsg) : (send m s).pgv = s.pgv := rfl
@[simp] theorem send_stackSt (m : OutMsg) : (send m s).stackSt = s.stackSt := rfl
@[simp] theorem send_ore (m : OutMsg) : (send m s).ore = s.ore := rfl
@[simp] theorem send_ports (m : OutMsg) : (send m s).ports = s.ports := rfl
@[simp] theorem send_transit (m : OutMsg) : (send m s).transit = s.transit := rfl
@[simp] theorem send_inbox (m : OutMsg) : (send m s).inbox = s.inbox := rfl
@[simp] theorem send_regions (m : OutMsg) : (send m s).regions = s.regions := rfl
@[simp] theorem send_remoteBad (m : OutMsg) : (send m s).remoteBad = s.remoteBad := rfl
@[simp] theorem send_heldAcks (m : OutMsg) : (send m s).heldAcks = s.heldAcks := rfl
@[simp] theorem send_fabWait (m : OutMsg) : (send m s).fabWait = s.fabWait := rfl
@[simp] theorem send_mail (m : OutMsg) : (send m s).mail = s.mail := rfl
@[simp] theorem send_nextTag (m : OutMsg) : (send m s).nextTag = s.nextTag := rfl
@[simp] theorem send_failedTags (m : OutMsg) : (send m s).failedTags = s.failedTags := rfl
@[simp] theorem send_meshTbl (m : OutMsg) : (send m s).meshTbl = s.meshTbl := rfl
@[simp] theorem send_meshEff (m : OutMsg) : (send m s).meshEff = s.meshEff := rfl
@[simp] theorem send_ingress (m : OutMsg) : (send m s).ingress = s.ingress := rfl
@[simp] theorem send_tarnWait (m : OutMsg) : (send m s).tarnWait = s.tarnWait := rfl
@[simp] theorem send_granted (m : OutMsg) : (send m s).granted = s.granted := rfl
@[simp] theorem send_meshWait (m : OutMsg) : (send m s).meshWait = s.meshWait := rfl
@[simp] theorem send_meshLast (m : OutMsg) : (send m s).meshLast = s.meshLast := rfl
@[simp] theorem send_meshHeld (m : OutMsg) : (send m s).meshHeld = s.meshHeld := rfl
@[simp] theorem send_now (m : OutMsg) : (send m s).now = s.now := rfl
@[simp] theorem send_time (m : OutMsg) : (send m s).time = s.time := rfl
@[simp] theorem send_pend (m : OutMsg) : (send m s).pend = s.pend := rfl
@[simp] theorem send_recov (m : OutMsg) : (send m s).recov = s.recov := rfl
@[simp] theorem send_qps (m : OutMsg) : (send m s).qps = s.qps := rfl
@[simp] theorem send_sessions (m : OutMsg) : (send m s).sessions = s.sessions := rfl
@[simp] theorem send_requests (m : OutMsg) : (send m s).requests = s.requests := rfl
@[simp] theorem send_cmodels (m : OutMsg) : (send m s).cmodels = s.cmodels := rfl
@[simp] theorem send_batch (m : OutMsg) : (send m s).batch = s.batch := rfl
@[simp] theorem send_stepNo (m : OutMsg) : (send m s).stepNo = s.stepNo := rfl
@[simp] theorem send_nextReq (m : OutMsg) : (send m s).nextReq = s.nextReq := rfl
@[simp] theorem send_acctP (m : OutMsg) : (send m s).acctP = s.acctP := rfl
@[simp] theorem send_acctAt (m : OutMsg) : (send m s).acctAt = s.acctAt := rfl
@[simp] theorem send_charged (m : OutMsg) : (send m s).charged = s.charged := rfl
@[simp] theorem send_refill (m : OutMsg) : (send m s).refill = s.refill := rfl
@[simp] theorem send_fired (m : OutMsg) : (send m s).fired = s.fired := rfl
@[simp] theorem send_tasks (m : OutMsg) : (send m s).tasks = s.tasks := rfl
@[simp] theorem send_sec (m : OutMsg) : (send m s).sec = s.sec := rfl
@[simp] theorem send_flash (m : OutMsg) : (send m s).flash = s.flash := rfl
@[simp] theorem send_coreRecord (m : OutMsg) : (send m s).coreRecord = s.coreRecord := rfl
@[simp] theorem send_modul (m : OutMsg) : (send m s).modul = s.modul := rfl
@[simp] theorem send_pfcPaused (m : OutMsg) : (send m s).pfcPaused = s.pfcPaused := rfl
@[simp] theorem send_fresh (m : OutMsg) : (send m s).fresh = s.fresh := rfl

end Sys2Proof.Machine
end

