-- ==== Sys2Proof/Laws/Ops.lean ====
section
/-! SUPPORT. What each shared operation of Ops.lean does: a read after a write, other places left alone, and the canonical form
of every store kept. -/

namespace Sys2Proof.Machine

variable {s : State}

/-! ## Reads after writes -/

theorem rd_wr_same {a : Nat} {v : Word} (h : swf resetWord s.csr = true) : rd (wr a v s) a = v := sget_sset_same h

theorem rd_wr_other {a b : Nat} {v : Word} (h : swf resetWord s.csr = true) (hb : b ≠ a) : rd (wr a v s) b = rd s b :=
  sget_sset_other h hb

theorem mereWrite_outside {a b : Nat} {l : List Byte} (h : swf zero8 s.mere = true) (hb : b < a ∨ a + l.length ≤ b) :
    sget zero8 b (mereWrite a l s).mere = sget zero8 b s.mere := sget_ssetMany_outside h (Nat.zero_le _) hb

theorem mereWrite_inside {a i : Nat} {l : List Byte} (h : swf zero8 s.mere = true) (hi : i < l.length) :
    sget zero8 (a + i) (mereWrite a l s).mere = l[i] := sget_ssetMany_inside h (Nat.zero_le _) hi

theorem tarnWrite_outside {c a b : Nat} {l : List Byte} (h : swf zero8 s.tarn = true)
    (hb : b < tarnKey c a ∨ tarnKey c a + l.length ≤ b) :
    sget zero8 b (tarnWrite c a l s).tarn = sget zero8 b s.tarn := sget_ssetMany_outside h (Nat.zero_le _) hb

theorem tarnWrite_inside {c a i : Nat} {l : List Byte} (h : swf zero8 s.tarn = true) (hi : i < l.length) :
    sget zero8 (tarnKey c a + i) (tarnWrite c a l s).tarn = l[i] := sget_ssetMany_inside h (Nat.zero_le _) hi

theorem flashWrite_outside {a b : Nat} {l : List Byte} (h : swf erased s.flash = true) (hb : b < a ∨ a + l.length ≤ b) :
    sget erased b (flashWrite a l s).flash = sget erased b s.flash := sget_ssetMany_outside h (Nat.zero_le _) hb

theorem flashWrite_inside {a i : Nat} {l : List Byte} (h : swf erased s.flash = true) (hi : i < l.length) :
    sget erased (a + i) (flashWrite a l s).flash = l[i] := sget_ssetMany_inside h (Nat.zero_le _) hi

/-- A read of several bytes gives those written there. -/
theorem mereRead_mereWrite {a : Nat} {l : List Byte} (h : swf zero8 s.mere = true) :
    mereRead (mereWrite a l s) a l.length = l := by
  apply List.ext_getElem
  · simp [mereRead, sgetMany]
  · intro i _ hi
    simpa [mereRead, sgetMany] using mereWrite_inside h hi

/-! ## The canonical form is kept -/

theorem canonical_wr {a : Nat} {v : Word} (h : canonical s = true) : canonical (wr a v s) = true := by
  simp only [canonical, memoriesCanonical, storesCanonical, Bool.and_eq_true] at h ⊢
  simp_all [wr, swf_sset]

theorem canonical_tarnWrite {c a : Nat} {l : List Byte} (h : canonical s = true) : canonical (tarnWrite c a l s) = true := by
  simp only [canonical, memoriesCanonical, storesCanonical, Bool.and_eq_true] at h ⊢
  simp_all [tarnWrite, swf_ssetMany]

theorem canonical_mereWrite {a : Nat} {l : List Byte} (h : canonical s = true) : canonical (mereWrite a l s) = true := by
  simp only [canonical, memoriesCanonical, storesCanonical, Bool.and_eq_true] at h ⊢
  simp_all [mereWrite, swf_ssetMany]

theorem canonical_flashWrite {a : Nat} {l : List Byte} (h : canonical s = true) : canonical (flashWrite a l s) = true := by
  simp only [canonical, memoriesCanonical, storesCanonical, Bool.and_eq_true] at h ⊢
  simp_all [flashWrite, swf_ssetMany]

theorem canonical_accSet {c a row col : Nat} {v : Word} (h : canonical s = true) : canonical (accSet c a row col v s) = true := by
  simp only [canonical, memoriesCanonical, storesCanonical, Bool.and_eq_true] at h ⊢
  simp_all [accSet, swf_sset]

theorem canonical_tregSet {c r e : Nat} {v : Word} (h : canonical s = true) : canonical (tregSet c r e v s) = true := by
  simp only [canonical, memoriesCanonical, storesCanonical, Bool.and_eq_true] at h ⊢
  simp_all [tregSet, swf_sset]

theorem canonical_maskSet {c m i : Nat} {v : Word} (h : canonical s = true) : canonical (maskSet c m i v s) = true := by
  simp only [canonical, memoriesCanonical, storesCanonical, Bool.and_eq_true] at h ⊢
  simp_all [maskSet, swf_sset]

theorem canonical_spuSet {c p r : Nat} {v : DWord} (h : canonical s = true) : canonical (spuSet c p r v s) = true := by
  simp only [canonical, memoriesCanonical, storesCanonical, Bool.and_eq_true] at h ⊢
  simp_all [spuSet, swf_sset]

theorem canonical_setPipe {c p : Nat} {v : PipeRun} (h : canonical s = true) : canonical (setPipe c p v s) = true := by
  simp only [canonical, memoriesCanonical, storesCanonical, Bool.and_eq_true] at h ⊢
  simp_all [setPipe, swf_sset]

theorem canonical_setArr {c a : Nat} {v : ArraySt} (h : canonical s = true) : canonical (setArr c a v s) = true := by
  simp only [canonical, memoriesCanonical, storesCanonical, Bool.and_eq_true] at h ⊢
  simp_all [setArr, swf_sset]

theorem canonical_setFlag {c f v : Nat} (h : canonical s = true) : canonical (setFlag c f v s) = true := by
  simp only [canonical, memoriesCanonical, storesCanonical, Bool.and_eq_true] at h ⊢
  simp_all [setFlag, swf_sset]

theorem canonical_setUnit {k : Nat} {v : UnitSt} (h : canonical s = true) : canonical (setUnit k v s) = true := by
  simp only [canonical, memoriesCanonical, storesCanonical, Bool.and_eq_true] at h ⊢
  simp_all [setUnit, swf_sset]

theorem canonical_setOutst {c e : Nat} {v : List Xfer} (h : canonical s = true) : canonical (setOutst c e v s) = true := by
  simp only [canonical, memoriesCanonical, storesCanonical, Bool.and_eq_true] at h ⊢
  simp_all [setOutst, swf_sset]

theorem canonical_setSeg {c g : Nat} {v : Seg} (h : canonical s = true) : canonical (setSeg c g v s) = true := by
  simp only [canonical, memoriesCanonical, storesCanonical, Bool.and_eq_true] at h ⊢
  simp_all [setSeg, swf_sset]

theorem canonical_setStk {n : Nat} {v : StackSt} (h : canonical s = true) : canonical (setStk n v s) = true := by
  simp only [canonical, memoriesCanonical, storesCanonical, Bool.and_eq_true] at h ⊢
  simp_all [setStk, swf_sset]

theorem canonical_setPort {p : Nat} {v : PortSt} (h : canonical s = true) : canonical (setPort p v s) = true := by
  simp only [canonical, memoriesCanonical, storesCanonical, Bool.and_eq_true] at h ⊢
  simp_all [setPort, swf_sset]

theorem canonical_setQp {q : Nat} {v : QpSt} (h : canonical s = true) : canonical (setQp q v s) = true := by
  simp only [canonical, memoriesCanonical, storesCanonical, Bool.and_eq_true] at h ⊢
  simp_all [setQp, swf_sset]

theorem canonical_setSess {k : Nat} {v : Session} (h : canonical s = true) : canonical (setSess k v s) = true := by
  simp only [canonical, memoriesCanonical, storesCanonical, Bool.and_eq_true] at h ⊢
  simp_all [setSess, swf_sset]

theorem canonical_send {m : OutMsg} (h : canonical s = true) : canonical (send m s) = true := by
  simp only [canonical, memoriesCanonical, storesCanonical, Bool.and_eq_true] at h ⊢
  simp_all [send]

end Sys2Proof.Machine
end

