-- ==== Sys2Proof/Laws/Turn.lean ====
section
/-! SUPPORT. Waiters on one flag (R58): when an event of a unit goes on as if no other unit waited. -/

namespace Sys2Proof.Machine

variable {s : State} {k : Nat}

/-- Before an event that is first in line nothing is judged. -/
theorem inTurn_eq_of_firstInLine (h : firstInLine s k) (ev : State → State) : inTurn k ev s = ev s := by
  have : inLine k s (ev s) = true := by
    rw [inLine, List.all_eq_true]
    intro f _
    split
    · next q _ => simp [h f q]
    · rfl
  simp [inTurn, this]

/-- An event happens, or leaves the state as it is. -/
theorem inTurn_cases (k : Nat) (ev : State → State) (s : State) : inTurn k ev s = ev s ∨ inTurn k ev s = s := by
  simp only [inTurn]
  split <;> simp

/-- Where no flag holds a count nothing can be taken. -/
theorem firstInLine_of_flags_nil (h : s.flags = []) : firstInLine s k := by
  intro f q
  simp [preceded, flagDrops, h]

/-- A unit that alone holds commands is first in line. -/
theorem firstInLine_of_alone (hu : ∀ x ∈ s.units, x.1 = k) (hh : s.ssq.holds = []) : firstInLine s k := by
  intro f q
  simp only [preceded, List.any_eq_false, holders, List.mem_append, List.mem_map, List.mem_singleton]
  rintro k' (⟨x, hx, rfl⟩ | rfl)
  · simp [hu x hx]
  · simp [unitEvents, hh]

/-- What no flag's count falls in is in line. -/
theorem inLine_of_flags_nil (h : s.flags = []) (t : State) : inLine k s t = true := by simp [inLine, flagDrops, h]

end Sys2Proof.Machine
end

