-- ==== Sys2Proof/Tests/Slice0.lean ====
section
/-! SUPPORT. Tests of the model. The first part shows that each check of WellFormed refuses an ill-formed command. The second
shows, for every statement with hypotheses, a state and operands that meet them together, at the bounds of their ranges
where they have any. The third holds values worked out by hand from the manual. -/

namespace Sys2Proof.Machine

set_option Elab.async false

/-! ## Well-formedness -/

theorem test_wf_packet : (Instr.packetRoute { dest := 2 ^ 24 }).wf = false := by decide
theorem test_wf_packet_data : (Instr.remoteWrite { op := 1, len := 4 } []).wf = false := by decide
theorem test_wf_packet_read : (Instr.remoteRead { op := 2, data := [0] } []).wf = false := by decide
theorem test_wf_packet_len : (Packet.wf { op := 4, len := 4097, data := List.replicate 4097 0 }) = false := by decide +kernel
theorem test_wf_remote_add : (Instr.remoteAdd { atype := 16 } []).wf = false := by decide
theorem test_wf_transfer_data : (Instr.transferData { op := 32 }).wf = false := by decide
theorem test_wf_transfer_ack : (Instr.transferAck { status := 256 }).wf = false := by decide
theorem test_wf_tarn_address : (Instr.tarnArrival 0 0 (2 ^ 27) (.rd 1)).wf = false := by decide
theorem test_wf_tarn_read : (Instr.tarnArrival 0 0 0 (.rd (2 ^ 16 + 1))).wf = false := by decide
theorem test_wf_tarn_request : (Instr.tarnStarve 0 ⟨17, 0, 0, false⟩ []).wf = false := by decide
theorem test_wf_tarn_ports : ([⟨0, 64, 0, false⟩, ⟨0, 0, 2 ^ 15, false⟩, ⟨0, 0, 0, true⟩, ⟨10, 0, 0, false⟩].any TarnReq.wf) = false := by decide
theorem test_wf_ecc_unit : (Instr.stagedRead 0 0 [(24 * 2 ^ 29, ⟨0, 0⟩)]).wf = false := by decide
theorem test_wf_ecc_twice : ([Instr.transferLand 0 .fxe 0 [(0, ⟨0, 0⟩), (0, ⟨0, 0⟩)], .bundleFetch [(0, ⟨0, 0⟩), (0, ⟨0, 0⟩)], .ldrLoad 0 [(0, ⟨0, 0⟩), (0, ⟨0, 0⟩)],
    .shardInject 0 [(0, ⟨0, 0⟩), (0, ⟨0, 0⟩)], .report .weast 0 [(0, ⟨0, 0⟩), (0, ⟨0, 0⟩)], .cert .weast 0 [(0, ⟨0, 0⟩), (0, ⟨0, 0⟩)],
    .keyInstall .weast 0 [(0, ⟨0, 0⟩), (0, ⟨0, 0⟩)], .trustWrite .weast 0 [(0, ⟨0, 0⟩), (0, ⟨0, 0⟩)], .ownerSet .weast 0 [(0, ⟨0, 0⟩), (0, ⟨0, 0⟩)],
    .fwUpdate .weast 0 [(0, ⟨0, 0⟩), (0, ⟨0, 0⟩)]].any Instr.wf) = false := by decide
theorem test_wf_sub_command : (Instr.subCommand 0 [(0, ⟨0, 0⟩), (0, ⟨0, 0⟩)]).wf = false := by decide
theorem test_wf_remap : (Instr.remapRow 0 0 (2 ^ 17) []).wf = false := by decide
theorem test_wf_grant : (Instr.grant 0 0 9).wf = false := by decide
theorem test_wf_shard : (Instr.shardArrival 0 0 (2 ^ 32) []).wf = false := by decide
theorem test_wf_ring_ack : (Instr.ringAck 0 0 (2 ^ 32)).wf = false := by decide
theorem test_wf_resend : (Instr.resend 0 0 (2 ^ 32)).wf = false := by decide
theorem test_wf_spring (n : Nat) (h : 131152 < n) : (Instr.springFetch 0 (List.replicate n 0)).wf = false := by
  simp [Instr.wf]; omega
theorem test_wf_mesh_head : (Instr.meshStarve 0 0 0 [{ input := 9, vc := 0, sender := .core }]).wf = false := by decide
theorem test_wf_hello_port : (Instr.authHandshake 0 ⟨0, 12, List.replicate 32 0, 0, 0, 0, 0, 0, 0⟩).wf = false := by decide
theorem test_wf_hello_nonce : (Instr.rekey 0 ⟨0, 0, [], 0, 0, 0, 0, 0, 0⟩).wf = false := by decide
theorem test_wf_block : (Instr.linkBlock 0 ⟨0, 0⟩ []).wf = false := by decide
theorem test_wf_datagram : (Instr.submit ⟨0, 2 ^ 16, []⟩).wf = false := by decide
theorem test_wf_datagram_length (n : Nat) (h : 9136 < n) : (Instr.load ⟨0, 0, List.replicate n 0⟩).wf = false := by
  simp [Instr.wf, Datagram.wf]; omega
theorem test_wf_datagrams : ([Instr.ack ⟨0, 2 ^ 16, []⟩, .credit ⟨0, 2 ^ 16, []⟩, .config ⟨0, 2 ^ 16, []⟩,
    .spillin ⟨0, 2 ^ 16, []⟩].any Instr.wf) = false := by decide
theorem test_wf_queue_pair : ([Instr.ohtResend 16384, .ohtDead 16384, .generate 16384, .cancel 16384, .park 16384, .close 16384,
    .spillinRequest 16384, .qpStateWrite 16384 0, .qpOff 16384].any Instr.wf) = false := by decide
theorem test_wf_pfc : ([Instr.pfcFrame 8 0, .pfcFrame 0 (2 ^ 16)].any Instr.wf) = false := by decide
theorem test_wf_session : ([Instr.hotIdlePark 131072, .sessionExpiry 131072, .sessionMoveDone 131072 true].any Instr.wf) = false := by
  decide
theorem test_wf_source : ([Instr.brokenWire 65536, .injectRaise 65536 0, .injectRaise 0 256, .injectRailsHigh 65536,
    .injectRailsLow 65536, .injectBitFlip 65536].any Instr.wf) = false := by decide
theorem test_wf_flash : ([Instr.read (2 ^ 32) 1, .pageProgram (2 ^ 32) [], .sectorErase (2 ^ 32)].any Instr.wf) = false := by decide
theorem test_wf_page : (Instr.pageProgram 0 (List.replicate 257 0)).wf = false := by decide +kernel
theorem test_wf_register : ([Instr.registerWrite .weast (2 ^ 26) 0 0, .readClear .weast (2 ^ 26), .latchedRead .weast (2 ^ 26),
    .unassignedAccess .weast (2 ^ 32) none, .securityReadDenied .weast (2 ^ 26)].any Instr.wf) = false := by decide
theorem test_wf_accepts : (Instr.remoteWrite { op := 1, len := 4, data := [1, 2, 3, 4] } []).wf = true := by decide

/-! ## Witnesses: the stream -/

/-- A part in service. -/
def testOn : State := { State.reset with modul := { life := .ready } }

/-- Words of the control space. -/
def testRegs (l : List (Nat × Word)) (s : State) : State := l.foldl (fun s p => wr p.1 p.2 s) s

/-- A pool format of one layer and one query head, of task 0 on every stack. -/
def testPool : List (Nat × Word) := [(0x260000, 0x80020081), (0x260004, 1), (0x26000C, 16), (0x260010, 64), (0x260014, 0x40), (0x260018, 0x80)]

/-- Task 0 is loaded with a section of 32 bytes, and SSQ_ENTRY names its last bundle. -/
def testGo : State := testRegs [(0x18010, 1), (0x18400, 2), (0x500600, 32)] testOn

/-- A step runs. -/
def testStep : State := { testOn with ssq := { run := true } }

/-- A command: unit, opcode, its wait flag and its set flag. -/
def testCmd (unit op : Nat) (w : Option Nat := none) (f : Option Nat := none) : Cmd :=
  { w0 := Word.ofNat (op + unit * 2 ^ 16 + (w.getD 0) * 2 ^ 20)
    w1 := Word.ofNat ((f.getD 0) + (if w.isSome then 2 ^ 28 else 0) + if f.isSome then 2 ^ 29 else 0)
    w2 := if w.isSome then 0x10000 else 0
    w3 := 0xF0001 }

/-- What judging makes of a command. -/
def testPrep (s : State) (q : QCmd) : Prep := match judge s q with
  | .ok p => p
  | .error _ => {}

theorem test_witness_StepRunsFront : State.reset.pending = [] := rfl

theorem test_witness_StepKeepsCanonical : canonical { testGo with pending := [.abort] } = true ∧
    step { testGo with pending := [.abort] } = .next (abort testGo) := ⟨by decide +kernel, rfl⟩

theorem test_witness_StepBegins : canonical testGo = true ∧ powered testGo = true ∧ fclState testGo = 0 ∧ mayWrite testGo .weast = true ∧
    testGo.ssq.run = false ∧ bitOf (rd testGo (rCompat + 4 * rdF testGo rSsqTask 0 6)) 1 = true ∧
    (rd testGo rSsqEntry).toNat * 16 < streamLen testGo (rdF testGo rSsqTask 0 6) ∧
    bitOf (rd testGo rDetCtl) 0 = testGo.time.osc := by decide +kernel

theorem test_witness_StepBegins_settled : let s := { testGo with ssq := { run := true, held := true } }
    canonical s = true ∧ engines s = true ∧ s.ssq.run = true ∧ s.ssq.held = true ∧ s.ssq.aborting = false := by decide +kernel

theorem test_witness_GoEndsOutsideStream : let s := testRegs [(0x18010, 2)] testGo
    canonical s = true ∧ powered s = true ∧ fclState s = 0 ∧ mayWrite s .weast = true ∧ s.ssq.run = false ∧
    streamLen s (rdF s rSsqTask 0 6) ≤ (rd s rSsqEntry).toNat * 16 ∧
    bitOf (rd testOn (rCompat + 4 * rdF testOn rSsqTask 0 6)) 1 = false := by decide +kernel

theorem test_witness_GoWhileRunning : powered testStep = true ∧ mayWrite testStep .weast = true ∧ testStep.ssq.run = true := by
  decide +kernel

/-- Two units each wait for what the other sets, 2^20 ticks after the last retirement. -/
def testDeadlock : State := { testStep with
  now := 2 ^ 20, ssq := { run := true, nextBundle := 1 }
  units := [(4, { queue := [{ cmd := testCmd 4 0 (some 1) (some 2) }] }), (5, { queue := [{ cmd := testCmd 5 0 (some 2) (some 1) }] })] }

theorem test_witness_StepAborts : let s := { testStep with now := 0x4000 * 1024 }
    canonical s = true ∧ engines s = true ∧ s.ssq.run = true ∧ s.ssq.held = false ∧ s.ssq.aborting = false ∧ s.ssq.halt = false ∧
    bitOf (rd s rStepLimit) 31 = true ∧ s.ssq.began + fld (rd s rStepLimit) 0 24 * 1024 ≤ s.now := by decide +kernel

theorem test_witness_StepAborts_deadlock : canonical testDeadlock = true ∧ engines testDeadlock = true ∧
    testDeadlock.ssq.lastRetire + 2 ^ 20 ≤ testDeadlock.now ∧ workLeft testDeadlock = true ∧
    hasCycle (waitTable testDeadlock) = true := by decide +kernel

/-- A step whose section is one END bundle of no command, its CHECK right or wrong. -/
def testBundle (ok : Bool) : State := testRegs [(0x500600, 16)]
  { testStep with mere := [(3, 8), (6, 7)] ++ if ok then [(8, 0xAA), (9, 0xA0), (10, 0x76), (11, 0xBA)] else [] }

theorem test_witness_BundleFetched : let s := testBundle true
    stepOpen s = true ∧ s.ssq.endSeen = false ∧ buffered s ≤ 8192 ∧ leAt (streamBytes s 0 16) 0 4 / 2 ^ 16 % 32 = 0 ∧
    s.ssq.fetchOff + 16 = streamLen s s.ssq.task ∧ bundleOk (streamBytes s 0 16) 0 = true := by decide +kernel

theorem test_witness_BundleFetched_bad : let s := testBundle false
    stepOpen s = true ∧ leAt (streamBytes s 0 16) 0 4 / 2 ^ 16 % 32 = 0 ∧ canonical s = true ∧
    bundleOk (streamBytes s 0 16) 0 = false := by decide +kernel

theorem test_witness_BundleFetched_full : let s := { testBundle true with ssq := { run := true, bundles := [{ cmds := List.replicate 8193 (0, {}) }] } }
    stepOpen s = true ∧ leAt (streamBytes s 0 16) 0 4 / 2 ^ 16 % 32 = 0 ∧ 8192 < buffered s := by decide +kernel

/-- A step with one bundle of one command still to dispatch, at the end of the run-ahead limit. -/
def testDispatch (c : Cmd) : State :=
  { testStep with ssq := { run := true, bundles := [{ issue := 0x10000, tag := 7, cmds := [(3, c)] }] } }

theorem test_witness_Dispatched : ∀ c ∈ [testCmd 4 0, testCmd 10 2], let s := testDispatch c
    canonical s = true ∧ stepOpen s = true ∧ nextCmd s = some ({ issue := 0x10000, tag := 7, cmds := [(3, c)] }, 3, c) ∧
    0x10000 ≤ s.ssq.issue + fld (rd s rRunahead) 0 24 ∧ fullQueue s c = none := by decide +kernel

theorem test_witness_BundleIssued : let b : Bundle := { tokens := 5, fence := 1 }
    let s : State := { testStep with ssq := { run := true, bundles := [b] } }
    stepOpen s = true ∧ nextIssue s = some b ∧ b.issue ≤ s.ssq.issue ∧ fencesMet s b = true := by decide +kernel

/-- A step with one request at the PGV. -/
def testRequest (held amount : Nat) (draw : Bool) : State := { testStep with
  ssq := { run := true, bundles := [{ cmds := [(0, {})] }] }, units := [(4, { queue := [{ cmd := testCmd 4 0 }] })]
  pgv := { held := held, reqs := [⟨0, draw, 4, 0, amount⟩] } }

theorem test_witness_TokensGranted : let s := testRequest 0 890 false
    canonical s = true ∧ engines s = true ∧ s.ssq.run = true ∧ s.ssq.aborting = false ∧
    s.pgv.held + min 890 (poolSize s) ≤ poolSize s ∧ unstarted s 0 = true ∧
    poolSize s < (testRequest 1 890 false).pgv.held + min 890 (poolSize s) := by decide +kernel

theorem test_witness_TokensGranted_draw : let s := testRequest 880 10 true
    canonical s = true ∧ s.pgv.held + min 10 (poolSize s) ≤ poolSize s ∧ headOf s 4 = some { cmd := testCmd 4 0 } := by decide +kernel

theorem test_witness_IssueTimeTick : canonical testStep = true ∧ engines testStep = true ∧ testStep.ssq.run = true ∧
    testStep.ssq.held = false ∧ testStep.ssq.aborting = false ∧ testStep.ssq.halt = false ∧
    lateItems (countTicks { testStep with now := 1 }) = [] ∧ lateItems (countTicks { testDeadlock with now := 1 }) ≠ [] := by
  decide +kernel

/-- A command refused at dispatch heads a unit's queue, with 15 skips logged. -/
def testSkip (strict : Bool) : State := { testStep with
  ssq := { run := true, strict := strict, skips := List.replicate 15 (0, 0) }
  units := [(4, { queue := [{ cmd := testCmd 4 0, refused := 1 }] })] }

theorem test_witness_CommandSkipped : ∀ b : Bool, let s := testSkip b
    let q : QCmd := { cmd := testCmd 4 0, refused := 1 }
    canonical s = true ∧ stepOpen s = true ∧ firstRun s 4 (fun r => r.skipped != 0) = none ∧ headOf s 4 = some q ∧
    headFree s 4 q = true ∧ judge s q = .error 1 ∧ reached s q = true ∧ taps q.cmd = false ∧ q.core = 0 ∧ q.cmd.unit = 4 ∧
    waitOk s 0 q = true ∧ readsHeld s q 1 = false ∧ s.ssq.skips.length < 16 ∧ inLine (unitKey 0 4) s (skippedCommand 0 4 s) = true :=
  fun b => ⟨by cases b <;> decide +kernel, by cases b <;> decide +kernel, by cases b <;> decide +kernel, by cases b <;> decide +kernel,
    by cases b <;> decide +kernel, by cases b <;> decide +kernel, by cases b <;> decide +kernel, by cases b <;> decide +kernel, rfl, rfl,
    by cases b <;> decide +kernel, by cases b <;> decide +kernel, by cases b <;> decide +kernel,
    inLine_of_flags_nil rfl _⟩

/-- Core 0 holds an add of 3 to its flag 5. -/
def testHeldAdd (v : BitVec 16) : State := { testOn with heldAdds := [⟨0, 5, 3, 4, 0⟩], flags := [(5, v)] }

theorem test_witness_HeldAddApplied : canonical (testHeldAdd 65532) = true ∧ engines (testHeldAdd 65532) = true ∧
    ((testHeldAdd 65532).heldAdds.find? fun h => h.core == 0 && h.flag == 5 && decide (flag (testHeldAdd 65532) 0 5 + h.n ≤ 65535)) =
      some ⟨0, 5, 3, 4, 0⟩ ∧
    canonical (testHeldAdd 65533) = true ∧
    ((testHeldAdd 65533).heldAdds.find? fun h => h.core == 0 && h.flag == 5 && decide (flag (testHeldAdd 65533) 0 5 + h.n ≤ 65535)) = none := by
  decide +kernel

/-- The SSQ holds one SYNC command that waits for flag 1 and sets flag 2 of core 0. -/
def testSync (op : Nat) : State :=
  { testStep with flags := [(1, 1), (2, 65534)], ssq := { run := true, holds := [{ cmd := testCmd 10 op (some 1) (some 2) }] } }

theorem test_witness_SyncActs : ∀ op ∈ [1, 2], let s := testSync op
    let q : QCmd := { cmd := testCmd 10 op (some 1) (some 2) }
    canonical s = true ∧ q.cmd.wflag ≠ q.cmd.sflag ∧ holdAt s (op == 1) 0 = some q ∧
    inLine ssqKey s (if op == 1 then syncSet 0 s else syncWait 0 s) = true ∧
    ∀ c ∈ holdSets s q, flag s c q.cmd.sflag + (fld q.cmd.w4 0 16 + q.cmd.scnt) ≤ 65535 := by decide +kernel

theorem test_witness_StepEnds : let s : State := { testOn with ssq := { run := true, endSeen := true }, flags := [(0, 1)], batch := some {} }
    canonical s = true ∧ engines s = true ∧ s.ssq.run = true ∧ s.ssq.held = false ∧ s.ssq.aborting = false ∧ s.ssq.halt = false ∧
    allDone s = true ∧ residue s ≠ 0 ∧ allDone testStep = false := by decide +kernel

/-! ## Witnesses: scalar pipes and units -/

/-- Pipe 0 of core 0 runs a program of one instruction word, at the last instruction that its budget allows. -/
def testPipe (w lo hi : Nat) : State := { testOn with
  pipes := [(0, { nins := 1, winLo := lo, winHi := hi, count := 0xFFFF })], tarn := ssetMany zero8 0 (leBytes 8 w) [] }

theorem test_witness_PipeArithmetic : (pipeResult (.rand 0 0)).map (fun x => (x.1, x.2.1, x.2.2.1)) = some (0, 0, 0x38) ∧
    ∀ o ∈ [0x01, 0x02, 0x08, 0x09, 0x0A, 0x0B, 0x0C, 0x0D, 0x0E, 0x0F, 0x10, 0x11, 0x12, 0x13, 0x14, 0x15, 0x16, 0x30, 0x31, 0x32,
      0x33, 0x34, 0x35, 0x36, 0x38], canonical (testPipe o 0 0) = true ∧ pipeAt (testPipe o 0 0) 0 0 o := by
  simp only [pipeAt, segsReady]; decide +kernel

theorem test_witness_PipeAccesses : ∀ x ∈ [(Instr.ld1 0 0, 0x20, 1, false), (.ld2 0 0, 0x21, 2, false), (.ld4 0 0, 0x22, 4, false),
      (.ld8 0 0, 0x23, 8, false), (.st1 0 0, 0x24, 1, true), (.st2 0 0, 0x25, 2, true), (.st4 0 0, 0x26, 4, true),
      (.st8 0 0, 0x27, 8, true)], let s := testPipe (x.2.1 + 5 * 2 ^ 32) 5 (5 + x.2.2.1 - 1)
    pipeAccess x.1 = some (0, 0, x.2.1, x.2.2.1, x.2.2.2) ∧ canonical s = true ∧ pipeAt s 0 0 x.2.1 ∧
    (xReg s 0 0 (insAt s 0 0).ra + (insAt s 0 0).imm).toNat = (pipeOf s 0 0).winLo ∧
    (pipeOf s 0 0).winLo + x.2.2.1 - 1 = (pipeOf s 0 0).winHi := by
  simp only [pipeAt, segsReady]; decide +kernel

theorem test_witness_PipeBranches : (pipeBranch (.j 0 0)).map (fun x => (x.1, x.2.1, x.2.2.1)) = some (0, 0, 0x3F) ∧
    ∀ o ∈ [0x3C, 0x3D, 0x3E, 0x3F], canonical (testPipe o 0 0) = true ∧ pipeAt (testPipe o 0 0) 0 0 o ∧
      (insAt (testPipe o 0 0) 0 0).imm.toInt = 0 ∧ (pipeOf (testPipe o 0 0) 0 0).pc < (pipeOf (testPipe o 0 0) 0 0).nins := by
  simp only [pipeAt, segsReady]; decide +kernel

theorem test_witness_PipeStops : canonical (testPipe 0 0 0) = true ∧ pipeAt (testPipe 0 0 0) 0 0 0 ∧
    segsReady (testPipe 3 0 0) 0 (fetchSegs (testPipe 3 0 0) 0 0) ∧
    insBad (testPipe 3 0 0) 0 0 (insAt (testPipe 3 0 0) 0 0) = true ∧
    insOut (testPipe 0x21 0 0) 0 0 (insAt (testPipe 0x21 0 0) 0 0) = true := by
  simp only [pipeAt, segsReady]; decide +kernel

/-- A step of task 0, whose tenant owns a Tarn window and a Mere window; descriptors as listed stand in core 0's table. -/
def testTask (ds : List (List Nat)) : State :=
  let l : List (Nat × Word) := [(0x10A08C, 64), (0x10C404, 0x6000000), (0x800008, 1), (0x800048, 0xFFFFFF00), (0x80004C, 0x80000000)]
  let csr := l.foldl (fun a p => sset resetWord p.1 p.2 a) []
  { testStep with csr := csr, eff := csr
                  tarn := ds.zipIdx.foldl (fun t d => ssetMany zero8 (128 * d.2) (d.1.flatMap (leBytes 4)) t) [] }

/-- A command heads the queue of a unit of core 0. -/
def testHead (c : Cmd) (s : State) : State := { s with units := [(unitKey 0 c.unit, { queue := [{ cmd := c }] })] }

theorem test_alone {s : State} {k : Nat} (hu : (s.units.all fun x => x.1 == k) = true) (hh : s.ssq.holds = []) : firstInLine s k :=
  firstInLine_of_alone (by simpa using hu) hh

theorem test_witness_UnitsStart : ∀ x ∈ [(Instr.mxaNop 0 0, 0), (.vxeNop 0, 4), (.rduNop 0, 5), (.spuNop 0, 6), (.fxeNop 0, 7),
      (.sxeNop 0, 8), (.lseNop 0, 9)], let q : QCmd := { cmd := testCmd x.2 0 (some 1) }
    let s := testHead q.cmd { testStep with flags := [(1, 1)] }
    canonical s = true ∧ unitCommand x.1 = some (0, x.2, 0) ∧ q.core = 0 ∧ q.cmd.unit = x.2 ∧ q.cmd.opcode = 0 ∧
      mayStartAs s (unitKey 0 x.2) q (testPrep s q) ∧ firstInLine s (unitKey 0 x.2) := by
  intro x hx
  have h : ∀ x ∈ [(Instr.mxaNop 0 0, 0), (.vxeNop 0, 4), (.rduNop 0, 5), (.spuNop 0, 6), (.fxeNop 0, 7), (.sxeNop 0, 8), (.lseNop 0, 9)],
      let q : QCmd := { cmd := testCmd x.2 0 (some 1) }
      let s := testHead q.cmd { testStep with flags := [(1, 1)] }
      canonical s = true ∧ unitCommand x.1 = some (0, x.2, 0) ∧ q.core = 0 ∧ q.cmd.unit = x.2 ∧ q.cmd.opcode = 0 ∧
        mayStartAs s (unitKey 0 x.2) q (testPrep s q) ∧ (s.units.all fun y => y.1 == unitKey 0 x.2) = true := by
    simp only [mayStartAs]; decide +kernel
  obtain ⟨h1, h2, h3, h4, h5, h6, h7⟩ := h x hx
  exact ⟨h1, h2, h3, h4, h5, h6, test_alone h7 rfl⟩

/-- An MXA.ZACC of one row of 32 accumulators, and an FXE.FETCH of 64 bytes of Mere to Tarn. -/
def testWork (op : Nat) : State :=
  if op = 0x30 then testHead (testCmd 0 0x30) (testTask [[0x183, 0, 0, 0, 32, 1]])
  else testHead (testCmd 7 0x10) (testTask [[0x12, 0, 0, 0, 256, 0, 0, 0], [0x11, 0x1000, 0, 0, 256]])

theorem test_witness_UnitsStart_zacc : let s := testWork 0x30
    let q : QCmd := { cmd := testCmd 0 0x30 }
    canonical s = true ∧ unitCommand (.mxaZacc 0 0) = some (0, 0, 0x30) ∧ mayStartAs s 0 q (testPrep s q) ∧ firstInLine s 0 := by
  refine ⟨by decide +kernel, rfl, ?_, test_alone rfl rfl⟩
  simp only [mayStartAs]; decide +kernel

theorem test_witness_UnitsStart_fetch : let s := testWork 0x10
    let q : QCmd := { cmd := testCmd 7 0x10 }
    canonical s = true ∧ unitCommand (.fxeFetch 0) = some (0, 7, 0x10) ∧ mayStartAs s 7 q (testPrep s q) ∧ firstInLine s 7 := by
  refine ⟨by decide +kernel, rfl, ?_, test_alone rfl rfl⟩
  simp only [mayStartAs]; decide +kernel

/-! ## Witnesses: units at work -/

/-- A command runs on a unit of core 0 with operands. -/
def testRun (c : Cmd) (ds : List Desc) : Run := { q := { cmd := c }, desc := ds }
def testRuns (u : Nat) (r : Run) (s : State) : State := { s with units := [(u, { running := [r] })] }

/-- What goesOn asks, where no other unit holds a command. -/
def testGoes (s : State) (k op : Nat) (r : Run) : Bool :=
  (s.units.all fun x => x.1 == k) && s.ssq.holds.isEmpty && engines s && !s.ssq.aborting && iterReady s r
    && ((runSegs r r.it fun _ => true).all fun g => segOn s r.q.core g) && r.q.cmd.opcode == op
    && decide (firstRun s k (fun r => r.q.cmd.opcode == op && r.skipped == 0 && iterReady s r) = some r)

theorem test_goesOn {s : State} {k op : Nat} {r : Run} (h : testGoes s k op r = true) : goesOn s k op r := by
  simp only [testGoes, Bool.and_eq_true, decide_eq_true_eq, beq_iff_eq, List.isEmpty_iff, Bool.not_eq_true'] at h
  obtain ⟨⟨⟨⟨⟨⟨⟨hu, hh⟩, he⟩, ha⟩, hi⟩, hs⟩, ho⟩, hf⟩ := h
  exact ⟨test_alone hu hh, ⟨he, ha, hi, hs⟩, ho, hf⟩

/-- Registers of a ring of two members with one lane, of one model of one shard a spring, active; the lane's ports are up. -/
def testRing : State :=
  let l : List (Nat × Word) := [(0x10A08C, 64), (0x402004, 0x100001), (0x402080, 0x80000010), (0x402108, 1), (0x40210C, 0xC0000021),
    (0x800008, 1), (0x800048, 0xFFFFFF00), (0x80004C, 0x80000000)] ++ (List.range 12).map fun c => (0x10C404 + 0x10000 * c, 0x6000000)
  let csr := l.foldl (fun a p => sset resetWord p.1 p.2 a) []
  { testStep with csr := csr, eff := csr, ports := [(0, { state := 3 }), (1, { state := 3 })]
                  tarn := [[0x101, 0x1000, 0, 0, 64, 8, 0, 0, 64], [0x101, 0x2000, 0, 0, 64, 8, 0, 0, 64]].zipIdx.foldl
                    (fun t d => ssetMany zero8 (128 * d.2) (d.1.flatMap (leBytes 4)) t) [] }

/-- An ORE command at the head of its queue. -/
def testOre (op : Nat) : QCmd := { cmd := testCmd 11 op, drawn := 1 }
def testOreState (op : Nat) : State := { testRing with units := [(203, { queue := [testOre op] })] }

theorem test_witness_RingCommandsStart : ∀ op ∈ [0, 0x10], let s := testOreState op
    canonical s = true ∧ (testOre op).cmd.unit = 11 ∧ (testOre op).core < 12 ∧ s.ore.rev = false ∧ s.ore.filling = false ∧
    mayStartAs s oreKey (testOre op) (testPrep s (testOre op)) ∧ (testOre op).cmd.opcode = op ∧
    0 < (testPrep s (testOre op)).run.total := by
  simp only [mayStartAs]; decide +kernel

theorem test_witness_RingCommandsStart_line (op : Nat) : firstInLine (testOreState op) oreKey := firstInLine_of_flags_nil rfl

theorem test_witness_MxaZeros : let r := testRun (testCmd 0 0x30) [{ kind := 3, dtype := 8, rank := 2, ext := [256, 1024, 0, 0] }]
    let s := testRuns 0 r testOn
    canonical s = true ∧ mayIterate s r ∧ firstInLine s 0 ∧ headIs s 0 0x30 = none ∧ rowRun s 0 = some r ∧
    r.empty = false ∧ (r.desc.getD 0 {}).e 0 ≤ 256 ∧ (r.desc.getD 0 {}).e 1 ≤ 1024 := by
  refine ⟨?_, ⟨?_, ?_, ?_, ?_⟩, test_alone ?_ rfl, ?_⟩ <;> (try simp only [segsReady]) <;> decide +kernel

/-- An MXA.STREAM of 1,024 rows whose load is done, and one that still has its load to make. -/
def testStream (aux : Nat) : Run := { testRun (testCmd 0 0x20) [{ kind := 1, dtype := 0, rank := 2, ext := [1, 1024, 0, 0] },
  { kind := if aux = 0 then 2 else 1, dtype := 0, rank := 2, ext := [1, 1, 0, 0] },
  { kind := 3, dtype := 8, rank := 2, ext := [256, 1024, 0, 0] }] with aux := aux }

theorem test_witness_MxaPassSums : let r := testStream 1
    let s := testRuns 0 r testOn
    canonical s = true ∧ engines s = true ∧ s.ssq.aborting = false ∧ firstInLine s 0 ∧ headIs s 0 0x20 = none ∧ headOf s 0 = none ∧
    rowRun s 0 = some r ∧ passReady s r = true ∧ segsReady s 0 (runSegs r r.it fun j => j == 0) ∧ (r.desc.getD 2 {}).e 0 ≤ 256 ∧ (r.desc.getD 0 {}).e 1 ≤ 1024 := by
  refine ⟨?_, ?_, ?_, test_alone ?_ rfl, ?_⟩ <;> (try simp only [segsReady]) <;> decide +kernel

theorem test_witness_IntegerSums : let exact : Int := (([127].zip [127]).map fun p => intOf 0 p.1 * intOf 0 p.2).sum;
    -2 ^ 31 ≤ exact ∧ exact < 2 ^ 31 := by decide +kernel

theorem test_witness_MxaLoads : let r := testStream 0
    let s := { testRuns 0 r testOn with arrays := [(0, { staged := [(0, 0, {})] })] }
    canonical s = true ∧ engines s = true ∧ s.ssq.aborting = false ∧ metThrough s r 0 = true ∧
    ((unitOf s 0).running.find? fun r => !(loadDone r)) = some r ∧ nextLoad r = some 0 ∧ shadowBusy s 0 = false ∧
    ((arr s 0 0).staged.find? fun t => t.1 == r.q.seq && t.2.1 == 0).isSome = true ∧
    segsReady s 0 (rowSegs (r.desc.getD (wOp r) {}) r.nest 0 (wOp r)) ∧ firstInLine s 0 := by
  refine ⟨?_, ?_, ?_, ?_, ?_, ?_, ?_, ?_, by simp only [segsReady]; decide +kernel, test_alone ?_ rfl⟩ <;> decide +kernel

theorem test_witness_MxaLoads_staged : let r := testStream 0
    let s := testRuns 0 r testOn
    canonical s = true ∧ stagingFits (arr s 0 0) (128 * 1024) = true ∧ metThrough s r 0 = true ∧ firstInLine s 0 ∧
    ((unitOf s 0).running.find? fun r => (r.desc.getD (wOp r) {}).kind == 2 && (nextStage (arr s 0 0) r).isSome) = some r ∧
    nextStage (arr s 0 0) r = some 0 := by
  refine ⟨?_, ?_, ?_, test_alone ?_ rfl, ?_⟩ <;> decide +kernel

theorem test_witness_LanePrograms : let r := testRun (testCmd 4 0x10) [{ kind := 1 }]
    canonical (testRuns 4 r testOn) = true ∧ goesOn (testRuns 4 r testOn) 4 0x10 r := by
  refine ⟨?_, test_goesOn ?_⟩ <;> decide +kernel

/-- A VXE.MMOV that stores or not. -/
def testMmov (st : Bool) : Run := testRun { testCmd 4 0x60 with w4 := if st then 0x10 else 0 } [{ kind := 1 }]

theorem test_witness_LanePrograms_mask : canonical (testRuns 4 (testMmov false) testOn) = true ∧
    goesOn (testRuns 4 (testMmov false) testOn) 4 0x60 (testMmov false) ∧ bitOf (testMmov false).q.cmd.w4 4 = false ∧
    canonical (testRuns 4 (testMmov true) testOn) = true ∧ goesOn (testRuns 4 (testMmov true) testOn) 4 0x60 (testMmov true) ∧
    bitOf (testMmov true).q.cmd.w4 4 = true := by
  refine ⟨?_, test_goesOn ?_, ?_, ?_, test_goesOn ?_, ?_⟩ <;> decide +kernel

theorem test_witness_LaneResults :
    let r := testRun { testCmd 4 0x20 with w4 := 0x8000 }
      [{ kind := 1, dtype := 9, rank := 3, ext := [32, 32, 64, 0], stride := [128, 4096, 0] }, { kind := 4, dtype := 9, ext := [64, 0, 0, 0] }]
    let s := testRuns 4 r testOn
    canonical s = true ∧ goesOn s 4 0x20 r ∧
    firstRun s 4 (fun r => r.q.cmd.opcode == 0x20 && r.skipped == 0) = some r ∧ laneTap r.q = false ∧ laneDst r.q = true ∧ r.empty = false ∧
    (∀ d ∈ r.desc.dropLast, d.kind ≠ 4) ∧ r.desc ≠ [] ∧ (r.desc.getD 1 {}).kind = 4 ∧
    (r.desc.getD 1 {}).base + r.nest.offset r.it 1 = 0 ∧ (walkOf r.desc).blocks ≤ 64 := by
  refine ⟨?_, test_goesOn ?_, ?_⟩ <;> decide +kernel

theorem test_witness_VectorIterations : ∀ op ∈ [0x30, 0x40, 0x50], let r := testRun (testCmd 4 op) []
    canonical (testRuns 4 r testOn) = true ∧ r.ended = false ∧ goesOn (testRuns 4 r testOn) 4 op r := by
  intro op hop
  have h : ∀ op ∈ [0x30, 0x40, 0x50], let r := testRun (testCmd 4 op) []
      canonical (testRuns 4 r testOn) = true ∧ testGoes (testRuns 4 r testOn) 4 op r = true := by decide +kernel
  exact ⟨(h op hop).1, rfl, test_goesOn (h op hop).2⟩

theorem test_witness_VectorIterations_reduction : let r := testRun (testCmd 5 0x10) []
    canonical (testRuns 5 r testOn) = true ∧ goesOn (testRuns 5 r testOn) 5 0x10 r ∧
    firstRun (testRuns 5 r testOn) 5 (fun r => r.q.cmd.opcode == 0x10 && r.skipped == 0) = some r ∧ redTap r.q = false := by
  refine ⟨?_, test_goesOn ?_, ?_⟩ <;> decide +kernel

theorem test_witness_ReductionOfOne : let d : Desc := { kind := 1, dtype := 9, rank := 1, ext := [32, 0, 0, 0] }
    let r := testRun { testCmd 5 0x10 with w4 := 4 } [d, { kind := 4, dtype := 9 }]
    let s := testRuns 5 r testOn
    canonical s = true ∧ goesOn s 5 0x10 r ∧
    firstRun s 5 (fun r => r.q.cmd.opcode == 0x10 && r.skipped == 0) = some r ∧ redTap r.q = false ∧ redDir r.q = false ∧ redAcc r.q = false ∧ redOp r.q ≠ 3 ∧
    redOp r.q < 5 ∧ r.empty = false ∧ 0 < d.e 0 ∧ d.e 0 ≤ 32 ∧ redExt d = (d.e 0, 1, 1, 1) := by
  refine ⟨?_, test_goesOn ?_, ?_⟩ <;> decide +kernel

theorem test_witness_PipeRunsBegin : let r := testRun (testCmd 6 0x10) [{ kind := 1, dtype := 1, ext := [8, 0, 0, 0] }, { kind := 1, dtype := 1 }]
    let s := testRuns 6 r testOn
    canonical s = true ∧ engines s = true ∧ s.ssq.aborting = false ∧
    firstRun s 6 (fun r => r.q.cmd.opcode == 0x10 && r.skipped == 0 && !r.open_ && iterReady s r) = some r ∧ r.empty = false ∧
    r.err = false ∧ firstInLine s 6 := by
  refine ⟨?_, ?_, ?_, ?_, rfl, rfl, test_alone ?_ rfl⟩ <;> decide +kernel

theorem test_witness_PipeRunsBegin_rdreg : let r := testRun { testCmd 6 0x20 with w4 := 0x1FE9 } []
    canonical (testRuns 6 r testOn) = true ∧ goesOn (testRuns 6 r testOn) 6 0x20 r ∧ fld r.q.cmd.w4 5 5 ≠ 0 := by
  refine ⟨?_, test_goesOn ?_, ?_⟩ <;> decide +kernel

/-- A transfer of 256 bytes between Mere and core 0's Tarn. -/
def testXfer (store : Bool) : Xfer :=
  if store then { src := .tarn 0 0, dst := .mere 256, len := 256 } else { src := .mere 0, dst := .tarn 0 256, len := 256 }

theorem test_witness_TransfersIssue : let r := { testRun (testCmd 7 0x10) [] with todo := [testXfer false] }
    let s := { testRuns 7 r testOn with outst := [(0, [testXfer true])] }
    canonical s = true ∧ engines s = true ∧ s.ssq.aborting = false ∧ (outstOf s 0 0).length < 512 ∧ turnRun s 0 0 = some r ∧
    r.todo = [testXfer false] ∧ r.chan = 0 ∧ (testXfer false).remote = false ∧
    ∃ y ∈ (unitOf s 7).running, mayIssue s 0 0 y = true ∧ sget (fun _ => 0) 0 s.turns ≤ y.q.seq := by decide +kernel

theorem test_witness_TransfersLand : ∀ b : Bool, let x := testXfer b
    let s := { testOn with outst := [(0, [x])] }
    canonical s = true ∧ engines s = true ∧ (outstOf s 0 (engNo .fxe))[0]? = some x ∧ endsOn s x = true ∧
    pathHolds s 0 (engNo .fxe) 0 x = false ∧ x.addDst = 0 ∧ x.addSrc = 0 ∧
    (if b then x.src = .tarn 0 0 ∧ x.dst = .mere 256 else x.src = .mere 0 ∧ x.dst = .tarn 0 256) ∧
    ∀ u ∈ unitsOf 0 x.len ++ unitsOf 256 x.len, unitEcc [(5, ⟨16, 16⟩)] u = .clean := by decide +kernel

theorem test_witness_IterationsCut : ∀ x ∈ [(Instr.fxeFetch 0, 7, 0x10), (.fxeStream 0, 7, 0x20), (.fxeGather 0, 7, 0x30),
      (.sxeStore 0, 8, 0x10), (.sxeScatter 0, 8, 0x20), (.sxeScadd 0, 8, 0x30)],
    let r := testRun (testCmd x.2.1 x.2.2) []
    let s := testRuns x.2.1 r testOn
    canonical s = true ∧ engines s = true ∧ s.ssq.aborting = false ∧ unitCommand x.1 = some (0, x.2.1, x.2.2) ∧
    headIs s x.2.1 x.2.2 = none ∧ (firstRun s x.2.1 fun r => r.q.cmd.opcode == x.2.2 && mayOpen s r) = some r := by decide +kernel

theorem test_witness_IterationsCut_line (u op : Nat) : firstInLine (testRuns u (testRun (testCmd u op) []) testOn) u :=
  firstInLine_of_flags_nil rfl

theorem test_witness_TarnArrives : let s := testTask []
    canonical s = true ∧ engines s = true ∧ live s 0 = true ∧ s.ingress = [] ∧ segsOn s 0 0x5FFFFFC 4 = true ∧
    inTarn s 0 0 (0x5FFFFFC : Nat) ((0x5FFFFFC + 4 : Nat) - 1) = true ∧
    inTarn s 0 0 (0x5FFFFFC : Nat) ((0x5FFFFFC + 5 : Nat) - 1) = false ∧
    segsOn { s with segs := [(23, { st := 1 })] } 0 0x5FFFFFC 4 = false := by decide +kernel

theorem test_witness_SegmentsChange : let g : Seg := { st := 1, target := some 2 }
    let s := { testOn with segs := [(0, g), (1, { g with changing := true }), (2, { waking := true })] }
    canonical s = true ∧ engines s = true ∧ live s 0 = true ∧ s.ingress = [] ∧ s.tarnWait = [] ∧ segOf s 0 0 = g ∧
    segOf s 0 1 = { g with changing := true } ∧ segOf s 0 2 = { waking := true } := by decide +kernel

theorem test_witness_SegmentsChange_tpwr : let c := { testCmd 7 0x40 with w4 := 0x817 }
    let q : QCmd := { cmd := c }
    let s := { testHead c (testTask []) with segs := [(23, { st := 1 })] }
    canonical s = true ∧ q.core = 0 ∧ q.cmd.unit = 7 ∧ q.cmd.opcode = 0x40 ∧ mayStartAs s (unitKey 0 7) q (testPrep s q) ∧
    firstInLine s (unitKey 0 7) := by
  refine ⟨?_, ?_, ?_, ?_, ?_, firstInLine_of_flags_nil rfl⟩ <;> (try simp only [mayStartAs]) <;> decide +kernel

/-! ## Witnesses: memory, mesh and ring -/

/-- Stack 0 in a given state of its repairs, with a register of its own written. -/
def testStack (st : StackSt) (l : List (Nat × Word)) : State := { testRegs l testOn with stackSt := sset (fun _ => {}) 0 st [] }

theorem test_witness_StacksServe : let st : StackSt := { carryV := 100, carryL := 200, copying := some 511, copyLeft := 8 };
    let s := testStack st [(stkReg 0 4, 3), (stkReg 0 8, 125)];
    canonical s = true ∧ powered s = true ∧ copyRuns (stk s 0) = true ∧ fld (cfg s (stkReg 0 8)) 0 7 = 125 ∧
    bitOf (cfg s (stkReg 0 4)) 1 = true ∧ bitOf (rd s (stkReg 0 4)) 0 = true ∧ s.ssq.run = false ∧
    eccOf ⟨4, 4⟩ = .corrected ∧ eccOf ⟨5, 0⟩ = .uncorrectable := by decide +kernel

theorem test_witness_StacksServe_rows : let full : StackSt := { remaps := List.replicate 64 (3, 7), spared := some 1 }
    let s := testStack { remaps := List.replicate 63 (3, 7) } []
    canonical s = true ∧ sparesUsed (stk s 0) 3 = 63 ∧ 4 * remapEntries s < 2 ^ 20 ∧ sparesUsed full 3 = 64 ∧ full.spared ≠ none ∧
    (∀ u ∈ rowUnits 0 3 7, unitEcc [] u ≠ .uncorrectable) := by decide +kernel

theorem test_witness_StacksServe_spare : let s := testStack { ueRows := [(0, 1), (0, 2), (0, 3), (0, 4)] } []
    let t := testStack { copying := some 511 } []
    canonical s = true ∧ (stk s 0).spared = none ∧ (stk s 0).copying = none ∧
    (∃ x ∈ namedBanks (stk s 0), x ≠ 511 ∧ qualifies (stk s 0) x = true) ∧
    canonical t = true ∧ (stk t 0).copying = some 511 ∧ (stk t 0).copyLeft = 0 ∧ t.ssq.run = false ∧ testStep.ssq.run = true := by
  decide +kernel

/-- An LSE command that runs on core 0. -/
def testLse (op : Nat) : State := testRuns 9 (testRun (testCmd 9 op) []) testOn

theorem test_witness_LoessServes : ∀ op ∈ [0x10, 0x20], let r := testRun (testCmd 9 op) []
    let s := testLse op
    canonical s = true ∧ engines s = true ∧ s.ssq.aborting = false ∧ headIs s (lseKey 0) op = none ∧
    (firstRun s (lseKey 0) fun r => r.q.cmd.opcode == op && r.skipped == 0 && !r.unsent.isEmpty) = none ∧
    (firstRun s (lseKey 0) fun r => r.q.cmd.opcode == op && r.skipped == 0 && !r.open_ && iterReady s r) = some r ∧
    ((runSegs r r.it fun _ => true).all fun g => segOn s 0 g) = true ∧ r.empty = false ∧ r.q.core = 0 ∧
    (∀ n : StackId, (stk s n.val).subs.length < 64) ∧ lseNamed r.q ≠ [] := by decide +kernel

theorem test_witness_LoessServes_line (op : Nat) : firstInLine (testLse op) (lseKey 0) := firstInLine_of_flags_nil rfl

theorem test_witness_LoessServes_sub : let ds : List Desc := [{ kind := 1 }, { kind := 1, ext := [16, 1, 1, 1] }, { kind := 1, base := 4096 }]
    ∀ b : Bool, let x : Sub := { core := 0, seq := 0, attn := b, fmt := 0, ops := ds }
    let s := { testRegs testPool testOn with stackSt := [(0, { subs := [x] })] }
    canonical s = true ∧ engines s = true ∧ (stk s 0).subs = [x] ∧ subReaches s 0 x = true ∧
    ((subSegs x).all fun g => segOn s 0 g) = true ∧ (poolOf s 0).map (fun p => (p.hq, p.nl)) = some (1, 1) ∧
    entryBad (tableEntry s 0 (ds.getD 1 {}) 0) 3 = false ∧ leAt (tableEntry s 0 (ds.getD 1 {}) 0) 4 4 = 0 := by decide +kernel

/-- The header of a shard of length 0 of a spring, and the shard that it makes under the key in use. -/
def testHeader (spring : Nat) : List Byte := List.replicate 8 0 ++ leBytes 2 spring ++ List.replicate 54 0
def testShard (key spring : Nat) : List Byte :=
  testHeader spring ++ gcmSeal key (beNat (slice 20 12 (testHeader spring))) (testHeader spring) []

theorem test_shard {s : State} {spring : Nat} {d : Due} (hk : s.ore.keyOk = true) (hs : spring < 2)
    (h : (modelWord s s.ore.model 0).toNat == 0 && (modelWord s s.ore.model 1).toNat == 0 && decide (d = ⟨spring, 0, 0⟩) = true) :
    shDue s (testShard s.ore.key spring) d = true := by
  simp only [Bool.and_eq_true, beq_iff_eq, decide_eq_true_eq] at h
  obtain ⟨⟨h0, h1⟩, rfl⟩ := h
  have hl : (testHeader spring).length = 64 := by simp [testHeader, length_leBytes]
  have e : ∀ o n, o + n ≤ 64 → leAt (testShard s.ore.key spring) o n = leAt (testHeader spring) o n :=
    fun o n h => leAt_append (by omega)
  have es : slice 20 12 (testShard s.ore.key spring) = slice 20 12 (testHeader spring) := slice_append (by omega)
  have hc : leAt (testHeader spring) 0 4 = 0 ∧ leAt (testHeader spring) 4 4 = 0 ∧ leAt (testHeader spring) 8 2 = spring ∧
      leAt (testHeader spring) 10 2 = 0 ∧ leAt (testHeader spring) 12 3 = 0 ∧ leAt (testHeader spring) 15 1 = 0 ∧
      leAt (testHeader spring) 16 4 = 0 ∧ leAt (testHeader spring) 48 8 = 0 ∧ leAt (testHeader spring) 56 8 = 0 := by
    interval_cases spring <;> decide
  obtain ⟨c0, c4, c8, c10, c12, c15, c16, c48, c56⟩ := hc
  have hn : (testShard s.ore.key spring).length = 80 := by simp [testShard, hl, length_gcmSeal]
  have ho : shOpen s (testShard s.ore.key spring) = some [] := by
    rw [shOpen, if_pos ⟨by rw [hn, shLen, e _ _ (by omega), c16], hk⟩, es, testShard, List.take_left' hl, List.drop_left' hl,
      gcmOpen_gcmSeal]
  simp [shDue, shGood, ho, shModel, shKey, shLen, shReserved, shKeep, shSpring, shRound, shIndex, e, c0, c4, c8, c10, c12, c15, c16,
    c56, h0, h1]

/-- A revolution runs on a ring of two members. -/
def testRev (o : Ore) : State := { testRing with ore := { o with rev := true, keyOk := true } }

/-- A shard that the lane holds. -/
def testSlot (j : Nat) (sent : Bool) : Slot := { seq := j, js := j, bytes := [1], verified := true, sent := sent }

theorem test_witness_RingReceives : let s := testRev { lanes := [{ granted := true, credits := 1, slots := [testSlot 0 true] }] }
    canonical s = true ∧ engines s = true ∧ s.ssq.aborting = false ∧ s.ore.rev = true ∧ s.ore.ended = false ∧ s.ore.filling = false ∧
    s.ore.lanes.length = 1 ∧ portUp s 1 = true ∧ laneOfOut s 1 = some 0 ∧ portUp s 0 = true ∧ laneOfOut s 0 = none ∧
    slotOf s 0 = some (testSlot 0 true) ∧ (lane s 0).granted = true ∧ (lane (testRev { lanes := [{}] }) 0).granted = false := by
  decide +kernel

theorem test_witness_RingReceives_shard : let s := testRev { lanes := [{ asking := [0] }] }
    canonical s = true ∧ (dueRecv s 0).2 = false ∧ portUp s 0 = true ∧ laneOfIn s 0 = some 0 ∧ (lane s 0).has 0 = false ∧
    (lane s 0).slots.length < 8 ∧ 0 < tilesT s ∧ (lane s 0).asking = [0] ∧ shDue s (testShard s.ore.key 1) (dueRecv s 0).1 = true := by
  refine ⟨by decide +kernel, by decide +kernel, by decide +kernel, by decide +kernel, by decide +kernel, by decide +kernel,
    by decide +kernel, rfl, test_shard rfl (by omega) (by decide +kernel)⟩

/-- The member's own shard stands first in its slice image. -/
def testInject : State := mereWrite 0 (testShard 0 0) (testRev { lanes := [{ granted := true, credits := 2 }] })

theorem test_witness_RingSends : canonical testInject = true ∧ maySend testInject 0 true = true ∧ 0 < tilesT testInject ∧
    0 % (ringN testInject * mWave testInject 0) < mWave testInject 0 ∧ tenantOfTask testInject (mOwner testInject 0) = some 0 ∧
    mereRead testInject (sliceAt testInject 0 0) 80 = testShard 0 0 ∧ inMereOf testInject 0 (sliceAt testInject 0 0) 79 = true ∧
    shDue testInject (testShard 0 0) (dueTile testInject 0) = true ∧ (∀ u ∈ unitsOf 0 80, unitEcc [] u = .clean) := by
  have hm : swf zero8 (testRev { lanes := [{ granted := true, credits := 2 }] }).mere = true := rfl
  have hn : (testShard 0 0).length = 80 := by simp [testShard, testHeader, length_leBytes, length_gcmSeal]
  refine ⟨canonical_mereWrite (by decide +kernel), by decide +kernel, by decide +kernel, by decide +kernel, by decide +kernel, ?_,
    by decide +kernel, test_shard (s := testInject) rfl (by omega) (by decide +kernel), by decide +kernel⟩
  have ha : sliceAt testInject 0 0 = 0 := by decide +kernel
  rw [ha, ← hn]; exact mereRead_mereWrite hm

theorem test_witness_RingSends_others : let s := testRev { sends := 1, lanes := [{ granted := true, credits := 1, slots := [testSlot 1 false] }] }
    let t := testRev { lanes := [{ slots := [testSlot 0 true] }] }
    canonical s = true ∧ maySend s 0 false = true ∧ 1 < tilesT s ∧ mWave s 0 ≤ 1 % (ringN s * mWave s 0) ∧
    slotOf s 1 = some (testSlot 1 false) ∧
    canonical t = true ∧ t.ore.snake = none ∧ slotOf t 0 = some (testSlot 0 true) ∧ live t 0 = true ∧ acceptedOf t 0 < tilesT t := by
  decide +kernel

theorem test_witness_RingSends_tile : let r : Run := testRun { testCmd 11 0x10 with w4 := 0x50040 } [{ kind := 1 }, { kind := 1 }]
    let s := { testRuns 203 r (testRev { tiles := 1, snake := some ([], List.replicate 8 0), lanes := [{}] }) with now := 2 * 10 ^ 9 }
    canonical s = true ∧ live s 0 = true ∧ revRun s = some r ∧ s.ore.snake = some ([], List.replicate 8 0) ∧
    acceptedOf s 0 + 1 = s.ore.tiles ∧ acceptedOf s 0 + 1 < tilesT s ∧ revT r.q ≠ revR r.q ∧ flag s 0 (revT r.q) < 65535 ∧
    ((snakeOrder.takeWhile fun x => x != 0).filter (live s)) = [] ∧ (lane s 0).recvSeq * s.ore.lanes.length + 0 < tilesT s ∧
    (lane s 0).slots.length < 8 ∧ (lane s 0).since + (1000 * max 1 (fld (cfg s 0x40200C) 0 20) - (lane s 0).waited) ≤ s.now := by
  decide +kernel

theorem test_witness_RingTables : let s := testRegs [(modelReg 0 6, 5), (modelReg 0 7, 5), (modelReg 1 6, 5)] testOn
    canonical s = true ∧ powered s = true ∧ engines s = true ∧ s.ore.filling = false ∧ s.ore.rev = false ∧
    (unitOf s oreKey).running = [] ∧ bitOf 1 0 = true ∧ bitOf 0x40000000 30 = true ∧
    rdF s (modelReg 0 7) 0 24 = rdF s (modelReg 0 6) 0 24 ∧ rdF s (modelReg 1 7) 0 24 ≠ rdF s (modelReg 1 6) 0 24 ∧
    (unitOf (testRuns 203 (testRun (testCmd 11 0x10) []) testOn) oreKey).running ≠ [] := by decide +kernel

/-! ## Witnesses: mesh, time and fabric -/

/-- A head of input 4 in a virtual channel. -/
def testFlit (v : Nat) : MeshHead := { input := 4, vc := v, sender := .core }

theorem test_witness_MeshAndTime : let s : State := { testOn with meshHeld := [(bufKey 1 0 1, 16)], meshWait := [(1, [{ head := testFlit 0, refused := 64 }])] }
    canonical s = true ∧ engines s = true ∧ hasMeshPort 0 1 = true ∧ newHead s 0 [] (testFlit 0) = true ∧ hasCredit s 0 1 0 = true ∧
    newHead s 0 [] (testFlit 1) = true ∧ hasCredit s 0 1 1 = false ∧ meshScheduled s = false ∧
    meshStarved { head := testFlit 0, refused := 64 } = true := by decide +kernel

theorem test_witness_MeshAndTime_scheduled : let s : State := { testRegs [(0x12000, 1)] testOn with meshEff := [(8192, 0x44)] }
    canonical s = true ∧ meshScheduled s = true ∧ hasCredit s 0 1 0 = true ∧ slotOwner s 0 1 0 = some (4, 0) ∧ slotOwner s 0 1 1 = none ∧
    takesLeftover { head := testFlit 2 } = true ∧ takesLeftover { head := testFlit 3, refused := 63 } = false := by decide +kernel

theorem test_witness_MeshAndTime_registers : let s := testRegs [(0x12004, 1024), (0x12010, 8191 + 2 ^ 13), (0x1200C, 0xFFFF)] testOn
    canonical s = true ∧ tblPlace s = some 16383 ∧ bitOf (rd s 0x1200C) 15 = true ∧ live s 0 = true ∧
    repro (testRegs [(rDetStatus, 1)] testOn) = true := by decide +kernel

theorem test_witness_MeshAndTime_time : let s := testRegs [(rTimeCtl, 1)] { testOn with now := 10 ^ 9, time := { goodSince := some 0 } }
    let t := testRegs [(rTimeCtl, 2), (rTimeStatus, 1), (rTimeOffset, 10000001)]
      { testOn with now := 3 * 10 ^ 9, time := { setDone := true, lost := true }, ports := [(0, { state := 3 })] }
    canonical s = true ∧ timeIsSet s = false ∧ timeSrc s = 1 ∧ s.time.lost = false ∧ sourceLost s = false ∧ s.time.goodSince = some 0 ∧
    canonical t = true ∧ timeIsSet t = true ∧ timeSrc t = 2 ∧ (port t (rdF t rTimeCtl 2 4)).state = 3 ∧ t.time.lost = true ∧
    bitOf (rd t rTimeStatus) 0 = true ∧ sourceLost t = true ∧ 10000000 < (rd t rTimeOffset).toInt.natAbs := by decide +kernel

/-- A part that is part of a fabric, its port 0 enabled, in a state of its own. -/
def testPort (o : PortSt) : State := { testRegs [(rSelf, 0x80000000), (portReg 0 4, 1)] testOn with ports := sset (fun _ => {}) 0 o [] }

theorem test_witness_LinkStates : ∀ n ∈ [0, 1, 2, 3], let s := testPort { state := n, retrainReq := true }
    canonical s = true ∧ powered s = true ∧ portsMayTrain s = true ∧ portEn s 0 = true ∧ (port s 0).broken = false ∧
    (port s 0).state = n ∧ bitOf (rd s rSelf) 31 = true ∧ retrainDue (port (testPort { state := 3, retrainReq := true }) 0) .request = true ∧
    retrainDue { state := 4, retrainFails := 2 } .request = true := by decide +kernel

/-- A block that asks for a resend at most, sealed under a key and a nonce. -/
def testBlock (key iv : Nat) : List Byte := leBytes 5 0 ++ gcmSeal key iv (leBytes 5 0) []

theorem test_witness_LinkBlocks : let o : PortSt := { state := 3 }
    let s := testPort o
    canonical s = true ∧ (port s 0).state = 3 ∧ codeFails 16 = true ∧ codeFails 15 = false ∧
    (leAt (testBlock o.rxKey 0) 0 5).testBit 37 = o.rkp ∧ (leAt (testBlock o.rxKey 0) 0 5).testBit 36 = false ∧
    leAt (testBlock o.rxKey 0) 0 5 % 4096 = o.expect ∧
    gcmOpen o.rxKey (o.rxSalt * 2 ^ 64 + o.rxCount) ((testBlock o.rxKey 0).take 5) ((testBlock o.rxKey 0).drop 5) = some [] ∧
    gcmOpen o.rxKey (o.rxSalt * 2 ^ 64 + o.rxCount) ((List.replicate 20 0).take 5) ((List.replicate 20 0).drop 5) = none ∧
    (([0, 0, 0] : List Nat).filter fun x => decide (s.now < x + 1000000)).length = 3 := by
  have e : ∀ key, leAt (testBlock key 0) 0 5 = 0 := fun key => by
    rw [testBlock, leAt_append (by simp [length_leBytes])]; decide
  refine ⟨by decide +kernel, by decide +kernel, by decide, by decide, ?_, ?_, ?_, ?_, rfl, by decide +kernel⟩
  · rw [e]; decide
  · rw [e]; decide
  · rw [e]
  · have h5 : (leBytes 5 0).length = 5 := rfl
    simp only [testBlock, List.take_left' h5, List.drop_left' h5]
    exact gcmOpen_gcmSeal _ _ _ _

/-- A one-word write to a unit of a part. -/
def testPacket (dest : Nat) : Packet := { dest := dest, op := 1, lastx := true, len := 4, data := [1, 2, 3, 4] }

theorem test_witness_LinkBlocks_send : let o : PortSt := { state := 3, waiting := true, resendDue := true, nakAt := 0 }
    let p : PortSt := { state := 3, txq := [(0, testPacket 0)] }
    let s := { testPort o with now := 1000 }
    canonical s = true ∧ (port s 0).waiting = true ∧ (port s 0).nak = false ∧ (port s 0).nakAt + 1000 ≤ s.now ∧ (port s 0).resendDue = true ∧
    canonical (testPort p) = true ∧ nextTx p = some (0, testPacket 0) ∧ p.txRest = [] ∧ p.resendDue = false ∧
    (pktBytes (testPacket 0)).length ≤ 1264 ∧ nextTx { state := 3 } = none ∧
    (([{ state := 3, txRest := [(true, [1])] }] : List PortSt).all fun q => q.txRest != [] && q.replayBuf.length < 2048) = true := by
  decide +kernel

/-- A packet waits at the part, which lies at the origin; entry 1 of dimension 0 of its routing table leads to port 0. -/
def testTransit (p : Nat) (k : Packet) (e : Word) (hop : Word) : State :=
  { testRegs [(rSelf, 0x80000000), (0x401004, e), (0x400014, hop)] testOn with
    ports := [(0, { state := 3 })], transit := [(p, k)] }

theorem test_witness_PacketsRouted : ∀ u ∈ [0, 11, 16, 33], let k := testPacket (u * 2 ^ 18)
    let s := testTransit 12 k 0 255
    canonical s = true ∧ powered s = true ∧ (s.transit.any fun x => x.2 == k) = true ∧ orderHolds s k = false ∧ isHere s k.dest = true ∧
    mayCross s k (entryEnd 12 k) (destEnd 12 k) = true ∧ unitOk s k = decide (u ≠ 33) ∧ epUnit k.dest ≠ 32 := by decide +kernel

theorem test_witness_PacketsRouted_away : let k := testPacket 1
    let s := testTransit 12 k 0x2001 0
    let t := testTransit 0 k 0 0
    canonical s = true ∧ orderHolds s k = false ∧ isHere s k.dest = false ∧ epUnit k.dest ≠ 34 ∧
    k.hops ≤ fld (cfg s 0x400014) 0 8 ∧ bitOf (rtEntry s 0 1) 13 = true ∧
    ((List.range 12).filter fun i => bitOf (rtEntry s 0 1) i && (port s i).state == 3) = [0] ∧
    mayCross s k (entryEnd 12 k) (portEnd 0) = true ∧ pktSize k ≤ 16384 ∧
    canonical t = true ∧ bitOf (rtEntry t 0 1) 13 = false ∧ fld (cfg t 0x400014) 0 8 < k.hops + 1 ∧ answered k = true ∧
    isHere t k.src = true := by
  decide +kernel

theorem test_witness_PacketsRouted_bytes (v : Nat) : txBytes (port (testTransit 12 (testPacket 1) 0x2001 0) 0) v = 0 := rfl

theorem test_witness_PacketsRouted_switch : let s := testRegs [(0x400008, 1)] testOn
    canonical s = true ∧ fabHeld s = true ∧ fabEmpty s = true ∧ fabHeld testOn = false := by decide +kernel

/-- An access from another part, in the inbox, to core 0's Tarn or to Mere. -/
def testAccess (op u len : Nat) : Packet :=
  { dest := u * 2 ^ 18, src := 1, op := op, lastx := true, tag := 7, len := len, addr := 256, rsen := true, rfcore := 0, rflag := 4
    rcnt := 2, atype := 9, data := if op = 2 then [] else List.replicate len 1 }

theorem test_witness_RemoteAccesses : ∀ op ∈ [1, 2, 3], ∀ u ∈ [0, 16], let k := testAccess op u 4
    let s := { testTask [] with inbox := [k], flags := [(4, 65533)] }
    canonical s = true ∧ engines s = true ∧ earlierLeft s k = false ∧ ((remoteSegs k 4).all fun g => segOn s u g) = true ∧
    live s 0 = true ∧ unitOk s k = true ∧ remoteOk s k k.len = true ∧ addSpan k = 4 ∧ repro s = false ∧ badOf s k = 0 ∧
    flag s k.rfcore k.rflag + k.rcnt ≤ 65535 := by decide +kernel

theorem test_witness_RemoteAccesses_refused : let k := { testAccess 1 0 4 with addr := 0x5FFFFFD }
    let s := { testTask [] with inbox := [k] }
    let a := testAccess 3 0 4
    let t := { testRegs [(rDetStatus, 1)] (testTask []) with inbox := [a], regions := [⟨0, 0, 5, 5, 5⟩, ⟨0, 1, 5, 5, 5⟩] }
    canonical s = true ∧ unitOk s k = true ∧ k.len ≠ 0 ∧ remoteOk s k k.len = false ∧ unitOk s (testAccess 1 33 4) = false ∧
    canonical t = true ∧ unitOk t a = true ∧ remoteOk t a 4 = true ∧ repro t = true ∧ regionsFree t a 4 = false := by decide +kernel

/-- A transfer of core 0 to another part, outstanding under tag 7. -/
def testAway (op : Nat) (now : Nat) : State := { testTask [] with
  now := now
  outst := [(0, [{ src := if op = 4 then .part 1 0 else .tarn 0 0, dst := if op = 4 then .tarn 0 0 else .part 1 0, len := 4, tag := 7 }])] }

theorem test_witness_RemoteAccesses_replies : ∀ op ∈ [4, 5], let k := testAccess op 0 4
    let s := testAway op 0
    canonical s = true ∧ engines s = true ∧ (replyFor s k).map (fun x => (x.1, replyLate s x.2, x.2.got, x.2.failed)) = some (0, false, 0, false) ∧
    k.status = 0 ∧ k.lastx = true ∧ k.data.length = k.len ∧
    (replyFor (testAway op (2 * 10 ^ 9)) k).all (fun x => replyLate (testAway op (2 * 10 ^ 9)) x.2) = true := by decide +kernel

/-! ## Witnesses: the host port and serving -/

/-- A header of a message on queue pair q, under epoch 0. -/
def testHdr (q ty psn len : Nat) : List Byte :=
  leBytes 4 (1 + ty * 16 + q * 65536) ++ leBytes 4 psn ++ leBytes 4 0 ++ leBytes 4 len ++ List.replicate 16 0

theorem test_readHdr {h x : List Byte} (hl : h.length = 32) : readHdr (h ++ x) = readHdr (h ++ List.replicate x.length 0) := by
  have e : ∀ y : List Byte, ∀ i, i < 8 → leAt (h ++ y) (4 * i) 4 = leAt h (4 * i) 4 := fun y i hi => leAt_append (by omega)
  simp only [readHdr, e _ 0 (by omega), e _ 1 (by omega), e _ 2 (by omega), e _ 3 (by omega), e _ 4 (by omega), e _ 5 (by omega),
    e _ 6 (by omega), e _ 7 (by omega), List.length_append, List.length_replicate]

/-- A sealed message on queue pair q, under the number psn. -/
def testMsg (s : State) (q ty psn : Nat) (d : List Byte) : Datagram :=
  ⟨0, 0, testHdr q ty psn d.length ++ gcmSeal (ohtKey s q).key (ohtIv s q false (rxWraps s q psn) psn) (testHdr q ty psn d.length) d⟩

theorem test_good {s : State} {q ty : Nat} {d : List Byte}
    (hr : (readHdr (testHdr q ty 0 d.length ++ List.replicate (d.length + 16) 0)).map
      (fun h => (h.ty, h.q, h.psn, h.epoch, h.cont)) = some (ty, q, 0, 0, false))
    (hs : qpState s q ≠ 0) (hk : (ohtKey s q).valid = true) (he : (ohtKey s q).id.toNat = 0) :
    ∃ h, judgeMsg (testMsg s q ty 0 d) s = .good h d ∧ h.ty = ty ∧ h.q = q ∧ h.psn = 0 ∧ h.cont = false := by
  obtain ⟨h, hr, e⟩ := Option.map_eq_some_iff.mp hr
  simp only [Prod.mk.injEq] at e
  obtain ⟨ht, hq, hp, hE, hc⟩ := e
  have hl : (testHdr q ty 0 d.length).length = 32 := by simp [testHdr, length_leBytes]
  have hx : readHdr (testMsg s q ty 0 d).bytes = some h := by
    rw [testMsg, test_readHdr hl, length_gcmSeal]; exact hr
  refine ⟨h, ?_, ht, hq, hp, hc⟩
  simp only [judgeMsg, hx, hq, hp, if_neg hs, hk, he, hE]
  simp [testMsg, List.take_left' hl, List.drop_left' hl, gcmOpen_gcmSeal]

/-- Queue pair q of an owned part is READY, of tenant n, with 16 entries in its ring, and its key is valid. -/
def testHost (q n : Nat) : State := { testRegs [(rOhtCtl, 1), (qctx q 0, Word.ofNat (1 + 256 * n)), (qctx q 1, 0x100000)] testOn with
  sec := { owned := true, okeys := [(0, { valid := true })] } }

theorem test_witness_HostMessages : ∀ ty ∈ [0x01, 0x04, 0x05, 0x09, 0x0B],
    ∃ h, judgeMsg (testMsg (testHost 0 0) 0 ty 0 []) (testHost 0 0) = .good h [] ∧ h.ty = ty ∧ h.q = 0 ∧ h.psn = 0 ∧ h.cont = false := by
  intro ty hty
  refine test_good ?_ (by decide +kernel) (by decide +kernel) (by decide +kernel)
  revert ty; decide +kernel

theorem test_witness_HostMessages_state : let s := testHost 0 0
    canonical s = true ∧ ohtOn s = true ∧ qpState s 0 = 1 ∧ rxPsn s 0 = 0 ∧ fclState s = 0 ∧ (qpOf s 0).offPend = false ∧
    sqUsed s 0 + nEnt [] ≤ sqSize s 0 := by decide +kernel

theorem test_witness_HostMessages_dropped : judgeMsg ⟨0, 0, []⟩ (testHost 0 0) = .form ∧
    judgeMsg ⟨0, 0, testHdr 1 1 0 0 ++ List.replicate 16 0⟩ testOn = .off := ⟨rfl, rfl⟩

theorem test_witness_HostMessages_tag : ∃ m : Datagram, judgeMsg m (testHost 0 0) = .tag := by
  obtain ⟨b, hb⟩ : ∃ b : Byte, ∀ h : Hdr, h.q = 0 → h.psn = 0 →
      gcmTag (aesKeys (ohtKey (testHost 0 0) 0).key) (ohtIv (testHost 0 0) h.q false (rxWraps (testHost 0 0) h.q h.psn) h.psn)
        (testHdr 0 1 0 0) [] ≠ List.replicate 16 b := by
    by_cases h0 : gcmTag (aesKeys (ohtKey (testHost 0 0) 0).key) (ohtIv (testHost 0 0) 0 false (rxWraps (testHost 0 0) 0 0) 0)
        (testHdr 0 1 0 0) [] = List.replicate 16 0
    · refine ⟨1, fun h hq hp => ?_⟩
      rw [hq, hp, h0]; decide
    · exact ⟨0, fun h hq hp => by rw [hq, hp]; exact h0⟩
  refine ⟨⟨0, 0, testHdr 0 1 0 0 ++ List.replicate 16 b⟩, ?_⟩
  have hl : (testHdr 0 1 0 0).length = 32 := by decide
  have hr : (readHdr (testHdr 0 1 0 0 ++ List.replicate 16 0)).map (fun h => (h.q, h.psn, h.epoch)) = some (0, 0, 0) := by decide +kernel
  obtain ⟨h, hr, e⟩ := Option.map_eq_some_iff.mp hr
  simp only [Prod.mk.injEq] at e
  have hs : qpState (testHost 0 0) 0 ≠ 0 := by decide +kernel
  have hk : (ohtKey (testHost 0 0) 0).valid = true := by decide +kernel
  have he : (ohtKey (testHost 0 0) 0).id.toNat = 0 := by decide +kernel
  have hg := gcmOpen_bad (key := (ohtKey (testHost 0 0) 0).key) (by simp) (hb h e.1 e.2.1)
  have hx : readHdr (testHdr 0 1 0 0 ++ List.replicate 16 b) = some h := by rw [test_readHdr hl, List.length_replicate]; exact hr
  simp only [judgeMsg, hx]
  rw [e.1, if_neg hs, hk, he, e.2.2, List.take_left' hl, List.drop_left' hl]
  rw [e.1, List.nil_append] at hg
  refine (if_neg (by decide)).trans ?_
  generalize gcmOpen _ _ _ _ = x at hg ⊢
  cases hg
  rfl

/-- The data of a SUBMIT of n entries, and of a CONFIG that writes SSQ_ENTRY. -/
def testSubmit (n : Nat) : List Byte := leBytes 4 n ++ List.replicate (4 + 64 * n) 0
def testConfig : List Byte := leBytes 4 0x18010 ++ leBytes 4 7 ++ leBytes 4 1

theorem test_witness_HostEffects : ∀ x ∈ [(0, 0x01, testSubmit 16), (0, 0x01, testSubmit 17), (0, 0x05, leBytes 4 65535), (0, 0x07, testConfig),
      (1, 0x07, testConfig)],
    ∃ h, judgeMsg (testMsg (testHost x.1 x.1) x.1 x.2.1 0 x.2.2) (testHost x.1 x.1) = .good h x.2.2 ∧ h.ty = x.2.1 ∧ h.q = x.1 ∧
      h.psn = 0 ∧ h.cont = false := by
  intro x hx
  have h : ∀ x ∈ [(0, 0x01, testSubmit 16), (0, 0x01, testSubmit 17), (0, 0x05, leBytes 4 65535), (0, 0x07, testConfig), (1, 0x07, testConfig)],
      (readHdr (testHdr x.1 x.2.1 0 x.2.2.length ++ List.replicate (x.2.2.length + 16) 0)).map
        (fun h => (h.ty, h.q, h.psn, h.epoch, h.cont)) = some (x.2.1, x.1, 0, 0, false) ∧
      qpState (testHost x.1 x.1) x.1 ≠ 0 ∧ (ohtKey (testHost x.1 x.1) x.1).valid = true ∧ (ohtKey (testHost x.1 x.1) x.1).id.toNat = 0 := by
    decide +kernel
  obtain ⟨h1, h2, h3, h4⟩ := h x hx
  exact test_good h1 h2 h3 h4

theorem test_witness_HostEffects_state : let s := testHost 0 0
    let f : Ore := { filling := true, seed := true, fillPart := List.replicate 40 0 }
    canonical s = true ∧ (qpOf s 0).sent = [] ∧ (qpOf s 0).outq = [] ∧ (qpOf s 0).queued = [] ∧ (qpOf s 0).asm = none ∧
    nEnt (testSubmit 16) = 16 ∧ sqUsed s 0 + 16 ≤ sqSize s 0 ∧ sqSize s 0 < sqUsed s 0 + 17 ∧ qpTenant s 0 = 0 ∧ s.sec.owned = true ∧
    qpTenant (testHost 1 1) 1 ≠ 0 ∧ ohtOn { s with ore := f } = true ∧ (f.fillPart ++ List.replicate 39 1).length < 80 := by decide +kernel

theorem test_witness_HostPort : let m : SentMsg := { psn := 0, item := { ty := 4 }, bytes := [1] }
    let q : QpSt := { sent := [m] }
    let s := { testHost 0 0 with qps := [(0, q)], now := 2 * 10 ^ 12 }
    canonical s = true ∧ powered s = true ∧ ohtOn s = true ∧ qpState s 0 = 1 ∧ (qpOf s 0).sent ≠ [] ∧
    q.lastSend + 1000 * max 1 (rdF s rOhtRto 0 16) ≤ s.now ∧ pfcHeld s = false ∧ q.outq = [] ∧ q.queued = [] ∧
    q.lastAdvance + 1000000 * max 1 (rdF s rOhtDead 0 16) ≤ s.now ∧ isV6 s = false ∧ isV6 (testRegs [(rOhtCtl, 3)] testOn) = true ∧
    pfcOn (testRegs [(rOhtCtl, 5)] testOn) 0 = true := by decide +kernel

theorem test_witness_HostPort_state : let s := testRegs [(qctx 0 0, 0), (qctx 0 1, 0x100000), (qctx 0 9, 1)] testOn
    let t := testRegs [(qctx 0 0, 2), (qctx 0 9, 0)] (setQp 0 { offPend := true } (testHost 0 0))
    canonical s = true ∧ qpState s 0 = 0 ∧ fld 1 0 2 = 1 ∧ mayLeaveOff s 0 1 = true ∧ mayLeaveOff testOn 1 1 = false ∧
    inflight s 0 ≠ 0 ∧ canonical t = true ∧ qpState t 0 = 2 ∧ inflight t 0 = 0 ∧ (qpOf t 0).offPend = true := by decide +kernel

/-! ## Witnesses: serving -/

/-- An entry of 64 bytes. -/
def testEntry (opc flags nin maxnew topp : Nat) : Entry :=
  ⟨0, 0, leBytes 1 opc ++ leBytes 1 flags ++ leBytes 2 9 ++ leBytes 8 0 ++ leBytes 4 nin ++ leBytes 4 maxnew ++ leBytes 4 0
    ++ leBytes 4 topp ++ List.replicate 36 0, [1]⟩

/-- The entry heads the ring of queue pair 0; customer model 0 of tenant 0 and task 0 is active; session 0 is as given. -/
def testServe (e : Entry) (x : Session) : State := { testRegs ([(rCompat, 2), (tenReg 0 4, 1)] ++ testPool) testOn with
  qps := [(0, { ring := [e] })], cmodels := [(0, { valid := true, active := true })], sessions := sset (fun _ => {}) 0 x [] }

theorem test_witness_EntriesRead : let g := testEntry 1 1 1 383 0x3F800000
    let h := testEntry 1 0 1 1 0x3F800000
    let s := testServe g {}
    let t := testServe h { st := 2, pos := 382 }
    canonical s = true ∧ entryRead s 0 1 g ∧ fclState s < 2 ∧ cmActive s g.cmod = true ∧ (cmodel s g.cmod).tenant = qpTenant s 0 ∧
    g.f 30 1 ≤ (cmodel s g.cmod).stops.length ∧ g.news = true ∧ openSlot s 0 = some 0 ∧ g.nin + g.maxnew = longestOf s g.cmod ∧
    canonical t = true ∧ entryRead t 0 1 h ∧ h.news = false ∧ (sess t 0).st = 2 ∧ noSession t 0 0 0 = false ∧ boundBy t 0 = none ∧
    (sess t 0).pos + (h.nin + h.maxnew) = longestOf t h.cmod ∧ cmActive { s with cmodels := [] } g.cmod = false ∧
    entryRead (testRegs [(rFclStatus, 2)] s) 0 1 g ∧ 2 ≤ fclState (testRegs [(rFclStatus, 2)] s) := by
  simp only [entryRead]; decide +kernel

theorem test_witness_EntriesRead_cancel : ∀ b : Bool, let e := testEntry 2 0 4 0 0
    let r : Request := { q := 0, cid := 4, st := 4, inStep := b }
    let s := { testServe e {} with requests := [r] }
    canonical s = true ∧ entryRead s 0 2 e ∧ (s.requests.find? fun r => r.q == 0 && r.cid == e.nin) = some r ∧ r.st ≠ 5 ∧
    (s.requests.find? fun y => y.acc == r.acc) = some r ∧
    ((testServe e {}).requests.find? fun r => r.q == 0 && r.cid == e.nin) = none := by
  simp only [entryRead]; decide +kernel

theorem test_witness_EntriesRead_sessions : ∀ opc ∈ [3, 4], ∀ st ∈ [2, 3, 4], let e := testEntry opc 0 0 0 0
    let s := testServe e { st := st, pos := 1 }
    canonical s = true ∧ entryRead s 0 opc e ∧ noSession s 0 0 0 = false ∧ boundBy s 0 = none ∧ (sess s 0).st = st ∧
    ((poolOf s 0).bind fun p => coldPlace s 0 p (imageSize p 1)).isSome = true := by
  simp only [entryRead]; decide +kernel

/-- A spilled image of one position, as it comes back. -/
def testImage : List Byte := List.replicate 8 0 ++ leBytes 4 1 ++ List.replicate (20 + 256) 0

theorem test_witness_EntriesRead_spillin : let e := testEntry 5 0 0 0 0
    let s := setQp 0 { ring := [e], inImage := testImage } (testServe e {})
    canonical s = true ∧ entryRead s 0 5 e ∧ weastFree s = true ∧ fclState s < 2 ∧ cmActive s e.cmod = true ∧ openSlot s 0 = some 0 ∧
    leAt testImage 8 4 = 1 ∧ leAt testImage 12 4 = 0 ∧ 32 ≤ testImage.length ∧
    ((poolOf s 0).map fun p => (decide (1 ≤ p.longest), (coldPlace s 0 p (stripRuns (testImage.length + 1) testImage).length).isSome,
      decide ((stripRuns (testImage.length + 1) testImage).length = imageSize p 1))) = some (true, true, true) := by
  simp only [entryRead]; decide +kernel

theorem test_witness_EntriesRead_bad : ∀ opc ∈ [0, 1, 2, 3, 4, 5], let e := testEntry opc 0xFF 0 0 0
    let s := testServe e {}
    canonical s = true ∧ powered s = true ∧ s.recov.silent = false ∧ reqInuse s < 65536 ∧ headEntry s 0 = some e ∧ entryOk e = false ∧
    weastFree s = true := by decide +kernel

/-- A serving section of a period, with room for one decode and a batch area of 96 bytes; its entries are bundle 0. -/
def testServing (period : Nat) : List Byte := leBytes 4 period ++ leBytes 4 (1 + 2 ^ 16) ++ List.replicate 12 0 ++ leBytes 4 96 ++ List.replicate 40 0

/-- Task 0 is loaded, with a serving section or without; tenant 0 has 5 units left and a decode costs 5. -/
def testBuild (serve : List Byte) (l : List Request) : State := { testRegs ([(tenReg 0 7, 5), (tenReg 0 9, 5)] ++ testPool) testGo with
  tasks := [(0, { serve := serve, digest := [1] })], requests := l, sessions := [(0, { st := 1, alloc := 1 })], stepNo := 6 }

/-- A request in DECODE. -/
def testDecode (b : Bool) : Request := { st := 4, toks := [1], fed := 1, inStep := b, keep := true, maxnew := 9 }

theorem test_witness_StepsServed : let s := testBuild [] []
    let t := testBuild (testServing 0) [testDecode false]
    canonical s = true ∧ (taskImg s 0).serve = [] ∧ stepMayBegin s 0 0 ∧ ordered s 0 = [] ∧ (testBuild (testServing 0) []).requests = [] ∧
    canonical t = true ∧ (taskImg t 0).serve ≠ [] ∧ (taskImg t 0).period = 0 ∧ (sess t 0).st = 1 ∧
    ceilDiv ((sess t 0).pos + 1) 16 ≤ (sess t 0).alloc ∧ (taskImg t 0).decLimit = 1 ∧ (taskImg t 0).f 20 4 = 96 ∧
    rdF t (tenReg 0 9) 0 8 ≤ unitsLeft t 0 ∧ stepMayBegin t 0 ((taskImg t 0).entryOf 0) := by
  simp only [stepMayBegin]; decide +kernel

theorem test_witness_StepsServed_ring : let s := { testBuild (testServing 1000) [] with now := 3000 }
    canonical s = true ∧ (taskImg s 0).period = 1000 ∧ timeCounter s % (taskImg s 0).period = 0 ∧ ordered s 0 = [] ∧
    (unitOf s oreKey).running = [] ∧ 64 ≤ (taskImg s 0).f 20 4 ∧ stepMayBegin s 0 ((taskImg s 0).entryOf 2) ∧
    timeCounter { s with now := 3001 } % 1000 ≠ 0 := by
  simp only [stepMayBegin]; decide +kernel

theorem test_witness_StepsServed_commit : let b : Batch := { decode := [0], nseg := 2, segs := [(0, true)], ended := some 0 }
    let s := { testBuild (testServing 0) [testDecode true] with batch := some b, now := 2 * 10 ^ 9 }
    let c : Batch := { b with segs := [(0, true), (1, true)] }
    canonical s = true ∧ powered s = true ∧ s.recov.silent = false ∧ (b.segs.any fun x => x.1 == 1) = false ∧
    (b.segs.any fun x => x.1 == 0) = true ∧ someFail b = false ∧ allOk b = false ∧ 0 + 1000 * rdF s 0x500038 0 20 ≤ s.now ∧
    b.prefill = [] ∧ b.named.contains 0 = false ∧ b.conseq = false ∧ (testDecode true).retries < rdF s 0x500034 0 2 ∧
    someFail c = false ∧ allOk c = true ∧ (poolOf s 0).isSome = true := by decide +kernel

theorem test_witness_SessionsMove : let x : Session := { st := 2, pos := 16, alloc := 1 }
    let s := { testBuild [] [] with now := 10 ^ 12, sessions := [(0, x), (1, { x with st := 4 }), (2, { x with st := 3 }), (3, { x with st := 5 })] }
    canonical s = true ∧ powered s = true ∧ s.recov.silent = false ∧ x.idle + 1000000 * rdF s (tenReg 0 12) 0 16 ≤ s.now ∧
    ((poolOf s 0).bind fun p => coldPlace s 0 p (imageSize p 16)).isSome = true ∧ (sess s 1).deadline ≤ timeCounter s ∧
    boundBy s 1 = none ∧ mayLeave s 0 = true ∧ rowsReach false x s = true ∧ rowsReach true x s = true ∧
    (poolOf s 0).map (fun p => decide (p.nl = 1)) = some true ∧ bitOf (tenCfg s 0 0) 1 = false := by decide +kernel

theorem test_witness_SessionsMove_restore : let r : Request := { st := 2, slot := 3, toks := [1, 2], fed := 1 }
    let s := { testBuild [] [r] with acctP := 1, now := 10 ^ 6, sessions := [(3, { st := 5, pos := 16 })] }
    canonical s = true ∧ (sess s 3).st = 5 ∧ s.requests = [r] ∧ r.slot = 3 ∧ r.st = 2 ∧ r.fed < r.toks.length ∧
    timeCounter s % (s.acctP * 10 ^ 6) = 0 ∧ timeCounter s ≠ s.acctAt ∧ timeCounter { s with now := 1 } % (s.acctP * 10 ^ 6) ≠ 0 := by
  decide +kernel

theorem test_witness_Loads : let s := testRegs [(0x80004C, 0x80000000)] testOn
    let t := { testStep with ssq := { run := true, task := 0 } }
    canonical s = true ∧ engines s = true ∧ bitOf (rd s rLdrCtl) 0 = false ∧ fld 1 0 2 = 1 ∧ fld 3 0 2 = 3 ∧ fld 1 2 6 = 0 ∧
    s.ssq.run = false ∧ weastFree s = true ∧ canonical t = true ∧ t.ssq.run = true ∧ t.ssq.task = fld 1 2 6 ∧
    (tenantsOf testOn 0).length ≠ 1 := by decide +kernel

theorem test_witness_Loads_tenant : tenantsOf (testRegs [(0x800008, 1)] testOn) 0 = [0] ∧
    weastFree { testRegs [(0x12000, 1)] testStep with eff := [(0x12000, 1)] } = false := by decide +kernel

/-! ## Witnesses: faults, security and the module -/

/-- An error is asserted, with FCL_STATUS and the log's head as given. -/
def testFault (cause : Nat) (fcl head : Word) : State :=
  { testRegs [(rFclStatus, fcl), (rLogHead, head)] testOn with pend := [{ source := srcOf 0 3 4, cause := cause }], batch := some {} }

theorem test_witness_FaultsRecorded : ∀ cause ∈ [0x00, 0x17, 0x28, 0x30], ∀ head ∈ [0, 256], let s := testFault cause 0 (Word.ofNat head)
    canonical s = true ∧ fclOn s = true ∧ nextPend s = some { source := srcOf 0 3 4, cause := cause } ∧
    (logUsed (rdF s rLogHead 0 9) (rdF s rLogTail 0 9) == 256) = (head == 256) ∧ fclState s = 0 ∧ limited s = false ∧
    (∀ u ∈ [3, 4, 7], srcOf 0 3 4 ≠ srcOf 4 u 0) := by decide +kernel

theorem test_witness_FaultsRecorded_again : let s := testFault 0x28 5 0
    let t := { testFault 0x28 0 0 with recov := { history := List.replicate 300 0 } }
    canonical s = true ∧ fclState s = 1 ∧ rdF s rFclStatus 2 2 ≠ 0 ∧ limited s = false ∧
    canonical t = true ∧ fclState t = 0 ∧ limited t = true := by decide +kernel

theorem test_witness_FaultsRecorded_inject : let s := { testRegs [(rLogHead, 511)] testOn with modul := { life := .ready, testMode := true } }
    let n := srcOf 4 3 0
    canonical s = true ∧ powered s = true ∧ fclOn s = true ∧ sourceOk n = true ∧ n ∉ s.recov.broken ∧ testMode s = true ∧ hasSramCode n = true ∧
    testMode testOn = false ∧ logUsed (rdF s rLogHead 0 9) (fld 511 0 9) ≤ logUsed (rdF s rLogHead 0 9) (rdF s rLogTail 0 9) ∧
    logUsed (rdF s rLogHead 0 9) (rdF s rLogTail 0 9) < logUsed (rdF s rLogHead 0 9) (fld 512 0 9) + 1 := by decide +kernel

theorem test_witness_Recoveries : let s := { testRegs [(rFclStatus, 1)] testOn with now := 10 ^ 12 }
    let t := { s with recov := { resetDone := true }, tasks := [(63, { digest := [1] })] }
    let u := { s with recov := { resetDone := true, restoreDone := true } }
    canonical s = true ∧ powered s = true ∧ fclState s = 1 ∧ s.recov.resetDone = false ∧ s.ssq.run = false ∧ s.outst = [] ∧
    canonical t = true ∧ t.recov.restoreDone = false ∧ (∀ x ∈ t.tasks, x.1 < 64) ∧
    canonical u = true ∧ u.recov.lastAt + quietTicks u ≤ u.now ∧ rdF u rFclStatus 2 2 ≠ 3 ∧ (ledgers u).all (fun l => l.2) = true := by
  decide +kernel

theorem test_witness_Recoveries_run : let s := { testOn with now := 14400 * 10 ^ 9 }
    canonical s = true ∧ powered s = true ∧ fclState s = 0 ∧ engines s = true ∧ live s 0 = true ∧
    s.recov.ageAt + 14400 * 10 ^ 9 ≤ timeCounter s ∧ timeCounter testOn < testOn.recov.ageAt + 14400 * 10 ^ 9 ∧
    fclState (testRegs [(rFclStatus, 2)] testOn) = 2 := by decide +kernel

/-- The part's tenant 0 has a Mere window; the mailbox names a buffer of n bytes in it, or in its own SRAM. -/
def testMailbox (n : Word) : State := { testRegs [(rMboxLen, n), (0x800048, 0xFFFFFF00), (0x80004C, 0x80000000)] testOn with sec := { owned := true } }

/-- A write of SEC_MBOX_CTL that starts operation op. -/
def testMbox (op : Nat) (sram : Bool) : Word := Word.ofNat (1 + 2 * op + if sram then 2 ^ 20 else 0)

theorem test_witness_MailboxOperations : ∀ op ∈ [1, 2, 3, 4, 5, 6, 7, 8, 9], let v := testMbox op false
    let s := testMailbox 4304
    canonical s = true ∧ mailboxRuns s (.config 0) v op ∧
    (match mboxBuf (mailboxState s v) with
      | .ok b => b.len == 4304 && b.mere == some 0 && leNat (bufRead (mailboxState s v) b 4) == 0
      | .error _ => false) = true ∧
    (match mboxBuf (mailboxState (testMailbox 16385) (testMbox op true)) with
      | .ok _ => false
      | .error e => e == rFormat) = true ∧ mailboxAllowed s (.config 1) op = false := by
  simp only [mailboxRuns]; decide +kernel

theorem test_witness_MailboxOperations_keys : let s := { testMailbox 0 with sec := { svnMin := 3, svnRaises := 63 } }
    canonical s = true ∧ bitOf (testMbox 4 false ||| 32) 5 = true ∧ bitOf (testMbox 4 false) 5 = false ∧
    s.sec.svnMin < rdF (testRegs [(rSecSvn, 4)] s) rSecSvn 0 16 ∧ s.sec.svnRaises < 64 ∧ s.modul.testMode = false ∧
    wrappedOk (fun u => u == 0 || u == 1) (leBytes 8 (2 ^ 40 + 2 ^ 48) ++ List.replicate 164 0) = true ∧
    wrappedOk (fun u => u == 2) (leBytes 8 (2 * 2 ^ 40) ++ List.replicate 164 0) = true ∧
    unwrap s (List.replicate 172 0) = none := by decide +kernel

theorem test_witness_ModuleSupply : let off := { State.reset with modul := { life := .off } }
    canonical off = true ∧ off.modul.protOff = false ∧ vinGood off.modul.vinMv = true ∧ lowLongEnough off = true ∧
    off.modul.needRise = false ∧ State.reset.modul.life = .starting ∧ vinGood 68399 = false ∧ vinRide 68399 = true ∧
    vinGood 75600 = true ∧ vinGood 75601 = false ∧ fclOn State.reset = true ∧ State.reset.modul.vinBadAt = none ∧
    (List.all [State.reset, { State.reset with modul := { life := .booted } }] fun s => fclState s != 3) = true := by decide +kernel

theorem test_witness_ModuleSupply_off : let s := { testOn with now := 10 ^ 10, modul := { life := .ready, vinBadAt := some 0, coolAt := some 0 } }
    let t := { testOn with modul := { life := .off, pwrEn := true, protOff := true } }
    canonical s = true ∧ s.modul.life ≠ .off ∧ vinGood 60000 = false ∧ 0 + 100000000 ≤ s.now ∧ 0 + 10000000000 ≤ s.now ∧
    canonical t = true ∧ vinGood 68400 = true ∧ t.modul.needRise = false ∧ t.modul.fpSel = false ∧
    ({ life := .inReset, resetN := false } : Module).jtag ≠ 3 ∧ testOn.modul.jtag ≠ 3 := by decide +kernel

theorem test_witness_ModuleSupply_samples : let v : Sample := ⟨72000, 0, 0, 70000, 2000, 6501, 5000, false, 0, [], []⟩
    shutdown v = true ∧ shutdown { v with coolOut := 6500 } = false ∧ testOn.modul.coolAt = none := by decide +kernel

theorem test_witness_FlashAndJtag : let off := { State.reset with modul := { life := .off, wel := true } }
    let on := { testOn with modul := { life := .ready, jtag := 3 } }
    canonical off = true ∧ 0xFFFFFF < 0x01000000 ∧ (0xFFFFFF % 256 + [0].length ≤ 256) ∧ canonical on = true ∧ on.modul.life ≠ .off ∧
    on.modul.jtag = 3 ∧ on.modul.resetN = true ∧ testOn.modul.jtag ≠ 3 := by decide +kernel

theorem test_witness_ControlSpace : ∀ a ∈ [0x18008, 0x18060], let s := testOn
    canonical s = true ∧ powered s = true ∧ (regRow a).isSome = true ∧ mayWriteAt s .weast a = true ∧ mayWriteAt s .spu a = false := by
  decide +kernel

theorem test_witness_ControlSpace_reads : let s := testOn
    (regRow (coreReg 0 0xC000)).map (fun r => r.rc != 0) = some true ∧ assigned s (coreReg 0 0xC000) = true ∧
    wideValue s (coreReg 0 0xC000) = none ∧ (wideValue s (coreReg 0 0xC000 - 4)).isSome = false ∧
    (wideValue s 0x10000).isSome = true ∧ assigned s 0x10000 = true ∧ assigned s 0x10004 = true ∧
    mayReadAt s .weast 0x10000 = true ∧ assigned s 0x4F0000 = false ∧ inSec 0x4F0000 = false ∧ inSec 0x4FFFC = true ∧
    assigned s 0x4FFFC = false ∧ assigned s 0x30000 = true ∧ mayReadAt s (.config 1) 0x30000 = false := by decide +kernel

/-! ## Values worked out by hand from the manual -/

/-- The state after a command. -/
def testAfter (i : Instr) (s : State) : State := match exec i s with
  | .next t => t
  | _ => s

/-- Pipe 0 at one instruction word with x2 as given. -/
def testWord (w : Nat) (x2 : DWord) : State := spuSet 0 0 2 x2 (testPipe w 0 4095)

/-- LI x3, -5 (table of instruction words: OPC 0x01, rd in bits [12:8], imm in [63:32], sign-extended). -/
theorem test_li : xReg (testAfter (.li 0 0) (testWord 0xFFFFFFFB00000301 0)) 0 0 3 = 0xFFFFFFFFFFFFFFFB := by decide +kernel

/-- SAR x3, x2, x0, 1: the sign stays. -/
theorem test_sar : xReg (testAfter (.sar 0 0) (testWord 0x100004311 0x8000000000000000)) 0 0 3 = 0xC000000000000000 := by decide +kernel

/-- ST8 of x2 at x0 + 16 is little-endian, and LD1 at 17 reads its second byte. -/
theorem test_st8 : tarnRead (testAfter (.st8 0 0) (testWord 0x1000080027 0x0807060504030201)) 0 16 8 = [1, 2, 3, 4, 5, 6, 7, 8] := by
  decide +kernel

/-- A write to x0 is ignored: LI x0, 9. -/
theorem test_x0 : xReg (testAfter (.li 0 0) (testWord 0x900000001 0)) 0 0 0 = 0 := by decide +kernel

/-- 1 + 2 = 3, and the sum of the largest and itself overflows to infinity, in FP32. -/
theorem test_fadd : fadd 0x3F800000 0x40000000 = 0x40400000 ∧ fadd 0x7F7FFFFF 0x7F7FFFFF = 0x7F800000 := by decide +kernel

/-- Nearest, ties to even: 2^24 + 1 is 2^24 in FP32, and 2^24 + 3 is 2^24 + 4. -/
theorem test_i2f_ties : i2f 16777217 = 0x4B800000 ∧ i2f 16777219 = 0x4B800002 := by decide +kernel

/-- E4M3 saturates at 448, whose code is 0x7E. -/
theorem test_e4m3 : convTo 4 false (f32 0x7F000000) = (0x7E, true) ∧ fE4M3.decode 0x7E = .fin false 14 5 := by decide +kernel

/-- CRC-32C of the nine digits is 0xE3069283 (its standard check value). -/
theorem test_crc : crc32c [0x31, 0x32, 0x33, 0x34, 0x35, 0x36, 0x37, 0x38, 0x39] = 0xE3069283 := by decide +kernel

/-- The counter of unassigned accesses stops at its highest value (R494). -/
theorem test_unassigned : rd (testAfter (.unassignedAccess .weast 0x4F0000 none) (testRegs [(0x1010004, 0xFFFFFFFF)] testOn)) 0x1010004 =
    0xFFFFFFFF := by decide +kernel

/-- A page program clears bits only, and the latch (R492). -/
theorem test_page_program : let s := { State.reset with modul := { life := .off, wel := true }, flash := [(5, 0xF0)] }
    sget erased 5 (testAfter (.pageProgram 5 [0x3C]) s).flash = 0x30 ∧ (testAfter (.pageProgram 5 [0x3C]) s).modul.wel = false := by
  decide +kernel

/-- A pause of 10 quanta of 0.64 ns lasts 6.4 ns, rounded up to 7 ticks (R373). -/
theorem test_pfc : sget (fun _ => 0) 0 (testAfter (.pfcFrame 0 10) (testRegs [(rOhtCtl, 5)] testOn)).pfcPaused = 7 := by decide +kernel

/-- A SYNC.SET of flag 2 by 3 from 65,532 leaves 65,535; by 4 it is held (R57). -/
theorem test_sync_set : ∀ n ∈ [3, 4], let q : QCmd := { cmd := { testCmd 10 1 none none with w1 := 2, w4 := Word.ofNat n } }
    let s := { testStep with flags := [(2, 65532)], ssq := { run := true, holds := [q] } }
    flag (testAfter (.syncSet 0) s) 0 2 = (if n = 3 then 65535 else 65532) ∧ (testAfter (.syncSet 0) s).heldAdds.length = n - 3 := by
  decide +kernel

/-- A port goes from DOWN to TRAIN and then, locked on its eight lanes, to AUTH (R320). -/
theorem test_train : (port (testAfter (.linkSignal 0) (testPort {})) 0).state = 1 ∧
    port (testAfter (.linkSignal 0) (testPort { state := 1 })) 0 = { state := 2, lock := 0xFF } := by decide +kernel

/-- An empty fetched section that ends: an END bundle of no command ends the fetch (R36, R41). -/
theorem test_bundle_fetch : (testAfter (.bundleFetch []) (testBundle true)).ssq.endSeen = true ∧
    (testAfter (.bundleFetch []) (testBundle false)).ssq.result = 5 := by decide +kernel

end Sys2Proof.Machine
end

section
/-! The state after reset (R10, R195, R214, R494): its stores are empty, so each is in canonical form and every register reads
the reset value of its row. -/

namespace Sys2Proof.Machine

/-- The empty store is in canonical form: every key reads as unlisted. -/
@[simp] theorem swf_nil {α : Type} [DecidableEq α] (d : Nat → α) : swf d [] = true := rfl

/-- A control space that lists no word reads the reset value of each row. -/
theorem rd_of_csr_nil {s : State} (h : s.csr = []) (a : Nat) : rd s a = resetWord a := by
  rw [rd, h, sget]

theorem memoriesCanonical_reset : memoriesCanonical State.reset = true := by
  simp [memoriesCanonical, State.reset]

theorem storesCanonical_reset : storesCanonical State.reset = true := by
  simp [storesCanonical, State.reset]

theorem canonical_reset : canonical State.reset = true := by
  rw [canonical, memoriesCanonical_reset, storesCanonical_reset, Bool.and_self]

theorem rd_reset (a : Nat) : rd State.reset a = resetWord a := rd_of_csr_nil rfl a

/-- The row of TARN_SIZE (R501): 96 MiB, that is 24 segments of 4 MiB. -/
theorem resetWord_tarnSize : (resetWord rTarnSize).toNat = 24 * 2 ^ 22 := by decide

/-- Settles O3: the stores are empty after reset, and TARN_SIZE reads the value of its row. -/
theorem resetState : Obligations.ResetState := by
  have hsize : (rd State.reset rTarnSize).toNat = 24 * 2 ^ 22 := by
    rw [rd_reset, resetWord_tarnSize]
  refine ⟨canonical_reset, rfl, rd_reset, ?_, ?_, ?_⟩ <;> rw [hsize] <;> decide

end Sys2Proof.Machine
end

section
/-! SUPPORT. Frames: what counters, errors and runs of operations leave alone, and the words of the control space that an operation
may change. -/

namespace Sys2Proof.Machine

variable {s t u : State} {p p' : Nat → Prop}

/-! ## Stores and counters of a canonical state -/

theorem csr_of_canonical (h : canonical s = true) : swf resetWord s.csr = true := by
  simp only [canonical, memoriesCanonical, Bool.and_eq_true] at h
  exact h.1.1.2

theorem tarn_of_canonical (h : canonical s = true) : swf zero8 s.tarn = true := by
  simp only [canonical, memoriesCanonical, Bool.and_eq_true] at h
  exact h.1.1.1.1.1

theorem mere_of_canonical (h : canonical s = true) : swf zero8 s.mere = true := by
  simp only [canonical, memoriesCanonical, Bool.and_eq_true] at h
  exact h.1.1.1.1.2

theorem sessions_of_canonical (h : canonical s = true) : swf (fun _ => {}) s.sessions = true := by
  simp only [canonical, storesCanonical, Bool.and_eq_true] at h
  simp only [h]

theorem charged_of_canonical (h : canonical s = true) : swf (fun _ => 0) s.charged = true := by
  simp only [canonical, storesCanonical, Bool.and_eq_true] at h
  simp only [h]

theorem segs_of_canonical (h : canonical s = true) : swf (fun _ => {}) s.segs = true := by
  simp only [canonical, storesCanonical, Bool.and_eq_true] at h
  simp only [h]

/-- A read of several Tarn bytes gives those written there. -/
theorem tarnRead_tarnWrite {c a : Nat} {l : List Byte} (h : swf zero8 s.tarn = true) :
    tarnRead (tarnWrite c a l s) c a l.length = l := by
  apply List.ext_getElem
  · simp [tarnRead, sgetMany]
  · intro i _ hi
    simpa [tarnRead, sgetMany] using tarnWrite_inside h hi

theorem rd_bump_same {a n : Nat} (h : swf resetWord s.csr = true) :
    (rd (bump a n s) a).toNat = min ((rd s a).toNat + n) 0xFFFFFFFF := by
  rw [bump, rd_wr_same h, BitVec.toNat_ofNat, Nat.mod_eq_of_lt (by omega)]

theorem rd_bump_other {a b n : Nat} (h : swf resetWord s.csr = true) (hb : b ≠ a) : rd (bump a n s) b = rd s b :=
  rd_wr_other h hb

theorem swf_csr_wr {a : Nat} {v : Word} (h : swf resetWord s.csr = true) : swf resetWord (wr a v s).csr = true := swf_sset h

theorem swf_csr_bump {a n : Nat} (h : swf resetWord s.csr = true) : swf resetWord (bump a n s).csr = true := swf_sset h

/-- A counter that stays at its value has grown by nothing. -/
theorem counts_zero {a : Nat} (h : rd t a = rd s a) : counts s t a 0 := by
  have := (rd s a).isLt
  simp only [counts, h]
  omega

/-- Growth by one step after another adds up. -/
theorem counts_trans {a m n : Nat} (h : counts s t a m) (h' : counts t u a n) : counts s u a (m + n) := by
  simp only [counts] at h h' ⊢
  omega

/-- A counter that grew goes on showing it while only other words change, before or after. -/
theorem counts_before {a n : Nat} (hp : ¬ p a) (hr : registersStay s t p) (h : counts t u a n) : counts s u a n := by
  rwa [counts, ← hr a hp]

theorem counts_after {a n : Nat} (hp : ¬ p a) (hr : registersStay t u p) (h : counts s t a n) : counts s u a n := by
  rwa [counts, hr a hp]

/-- An error raised is asserted: it merges with one of its cause that its source holds, or joins the others (R417). -/
theorem asserts_raise (source cause detail : Nat) : asserts (raise source cause detail s) source cause := by
  simp only [asserts, raise, raisePend]
  split
  · next h =>
    obtain ⟨p, hp, hpe⟩ := List.any_eq_true.mp h
    refine List.any_eq_true.mpr ⟨_, List.mem_map_of_mem hp, ?_⟩
    simp [hpe]
  · simp

/-- Raising an error changes nothing but what is asserted. -/
theorem raise_keeps {β : Type} (view : State → β) (h : ∀ (s : State) (l : List Pend), view { s with pend := l } = view s)
    (source cause detail : Nat) (s : State) : view (raise source cause detail s) = view s := by
  rw [raise, raisePend]
  split <;> exact h _ _

/-- A counter is a matter of the control space alone. -/
theorem counts_congr {s' t' : State} {a n : Nat} (hs : s'.csr = s.csr) (ht : t'.csr = t.csr) (h : counts s t a n) :
    counts s' t' a n := by
  rwa [counts, rd, rd, hs, ht]

/-! ## Runs of operations over a list -/

/-- What each operation of a run leaves alone, the run leaves alone. -/
theorem foldl_keeps {α β : Type} (view : State → β) {f : State → α → State} (h : ∀ s x, view (f s x) = view s)
    (l : List α) (s : State) : view (l.foldl f s) = view s := by
  induction l generalizing s with
  | nil => rfl
  | cons x r ih => rw [List.foldl_cons, ih, h]

/-- A run whose operations all leave a state as it is leaves it so. -/
theorem foldl_eq_self {α : Type} {f : State → α → State} {l : List α} (h : ∀ x ∈ l, f s x = s) : l.foldl f s = s := by
  induction l with
  | nil => rfl
  | cons x r ih => rw [List.foldl_cons, h x (by simp), ih fun y hy => h y (by simp [hy])]

theorem iter_keeps {β : Type} (view : State → β) {f : Nat → State → State} (h : ∀ i s, view (f i s) = view s) (n : Nat)
    (s : State) : view (iter n f s) = view s := foldl_keeps view (fun s i => h i s) _ s

/-! ## Words of the control space -/

/-- The store's form is kept, and only words at addresses that a test picks may differ. -/
def regsWithin (p : Nat → Prop) (s t : State) : Prop :=
  swf resetWord s.csr = true → swf resetWord t.csr = true ∧ registersStay s t p

theorem regsWithin.of_csr (h : t.csr = s.csr) : regsWithin p s t := fun hs => ⟨h ▸ hs, fun a _ => by rw [rd, rd, h]⟩

theorem regsWithin.trans (h : regsWithin p s t) (h' : regsWithin p t u) : regsWithin p s u := fun hs =>
  have ⟨ht, hst⟩ := h hs
  have ⟨hu, htu⟩ := h' ht
  ⟨hu, fun a ha => (htu a ha).trans (hst a ha)⟩

theorem regsWithin.mono (hp : ∀ a, p a → p' a) (h : regsWithin p s t) : regsWithin p' s t := fun hs =>
  ⟨(h hs).1, fun a ha => (h hs).2 a fun hpa => ha (hp a hpa)⟩

theorem regsWithin_wr {a : Nat} {v : Word} (h : p a) : regsWithin p s (wr a v s) := fun hs =>
  ⟨swf_csr_wr hs, fun _ hb => rd_wr_other hs fun e => hb (e ▸ h)⟩

theorem regsWithin_foldl {α : Type} {f : State → α → State} {l : List α} (h : ∀ s, ∀ x ∈ l, regsWithin p s (f s x)) :
    regsWithin p s (l.foldl f s) := by
  induction l generalizing s with
  | nil => exact .of_csr rfl
  | cons x r ih => exact (h s x (by simp)).trans (ih fun s y hy => h s y (by simp [hy]))

/-- A field in a word's low bits reads as written. -/
theorem fld_setFld_low {w : Word} {n v : Nat} (hn : n ≤ 32) : fld (setFld w 0 n v) 0 n = v % 2 ^ n := by
  have hw : w.toNat - w.toNat % 2 ^ n = 2 ^ n * (w.toNat / 2 ^ n) := by
    have := Nat.mod_add_div w.toNat (2 ^ n)
    omega
  simp only [fld, setFld, Nat.shiftRight_zero, Nat.shiftLeft_zero, BitVec.toNat_ofNat]
  rw [Nat.mod_mod_of_dvd _ (Nat.pow_dvd_pow 2 hn), hw, Nat.mul_add_mod, Nat.mod_mod]

end Sys2Proof.Machine
end

section
/-! SUPPORT. Accesses that arrive at a core's Tarn from outside it (R24, R190, R193, R194). -/

namespace Sys2Proof.Machine

variable {s : State}

/-! ## Segments -/

theorem segOf_setSeg_same {c g : Nat} {v : Seg} (h : swf (fun _ => {}) s.segs = true) : segOf (setSeg c g v s) c g = v :=
  sget_sset_same h

theorem segOf_setSeg_other {c g g' : Nat} {v : Seg} (h : swf (fun _ => {}) s.segs = true) (hg : g' ≠ g) :
    segOf (setSeg c g v s) c g' = segOf s c g' := sget_sset_other h (by omega)

theorem nodup_segSpan (a n : Nat) : (segSpan a n).Nodup := by
  rw [segSpan]
  split
  · exact List.nodup_nil
  · exact List.nodup_range.map fun i j h => by omega

/-- An operation on segment g of core c: it makes `u` of that segment, leaves the core's others alone, and keeps the store's
form. -/
def ActsOnSeg (c : Nat) (u : Seg → Seg) (f : State → Nat → State) : Prop :=
  ∀ (s : State) (g : Nat), swf (fun _ => {}) s.segs = true →
    swf (fun _ => {}) (f s g).segs = true ∧ segOf (f s g) c g = u (segOf s c g) ∧
      ∀ g', g' ≠ g → segOf (f s g) c g' = segOf s c g'

/-- A run of such operations over different segments makes `u` of each of them. -/
theorem ActsOnSeg.foldl {c : Nat} {u : Seg → Seg} {f : State → Nat → State} (hf : ActsOnSeg c u f) {l : List Nat}
    (hl : l.Nodup) (hs : swf (fun _ => {}) s.segs = true) :
    swf (fun _ => {}) (l.foldl f s).segs = true ∧
      ∀ g, segOf (l.foldl f s) c g = if g ∈ l then u (segOf s c g) else segOf s c g := by
  induction l generalizing s with
  | nil => exact ⟨hs, fun g => by simp⟩
  | cons x r ih =>
    obtain ⟨hx, hr⟩ := List.nodup_cons.mp hl
    obtain ⟨hs', hsame, hother⟩ := hf s x hs
    refine ⟨(ih hr hs').1, fun g => ?_⟩
    rw [List.foldl_cons, (ih hr hs').2]
    by_cases hg : g = x
    · subst hg
      simp [hx, hsame]
    · simp [hg, hother g hg]

/-- A change of a write counter's segment (R193). -/
def countWrite (up : Bool) (x : Seg) : Seg := { x with owc := if up then x.owc + 1 else x.owc - 1 }

theorem actsOnSeg_countWrite (c : Nat) (up : Bool) :
    ActsOnSeg c (countWrite up) fun s g => setSeg c g (countWrite up (segOf s c g)) s :=
  fun _ _ h => ⟨swf_sset h, segOf_setSeg_same h, fun _ hg => segOf_setSeg_other h hg⟩

/-- Counting a write changes the segments only. -/
theorem owcAdd_keeps {β : Type} (view : State → β) (h : ∀ s c g v, view (setSeg c g v s) = view s) (c a n : Nat) (up : Bool)
    (s : State) : view (owcAdd c a n up s) = view s :=
  foldl_keeps view (fun s g => h s c g _) _ s

@[simp] theorem owcAdd_tarn (c a n : Nat) (up : Bool) : (owcAdd c a n up s).tarn = s.tarn := owcAdd_keeps (·.tarn) (by simp) ..
@[simp] theorem owcAdd_mere (c a n : Nat) (up : Bool) : (owcAdd c a n up s).mere = s.mere := owcAdd_keeps (·.mere) (by simp) ..
@[simp] theorem owcAdd_csr (c a n : Nat) (up : Bool) : (owcAdd c a n up s).csr = s.csr := owcAdd_keeps (·.csr) (by simp) ..
@[simp] theorem owcAdd_out (c a n : Nat) (up : Bool) : (owcAdd c a n up s).out = s.out := owcAdd_keeps (·.out) (by simp) ..
@[simp] theorem owcAdd_ingress (c a n : Nat) (up : Bool) : (owcAdd c a n up s).ingress = s.ingress :=
  owcAdd_keeps (·.ingress) (by simp) ..

theorem segOf_owcAdd {c a n : Nat} {up : Bool} (h : swf (fun _ => {}) s.segs = true) (g : Nat) :
    segOf (owcAdd c a n up s) c g = if g ∈ segSpan a n then countWrite up (segOf s c g) else segOf s c g :=
  ((actsOnSeg_countWrite c up).foldl (nodup_segSpan a n) h).2 g

theorem swf_segs_owcAdd {c a n : Nat} {up : Bool} (h : swf (fun _ => {}) s.segs = true) :
    swf (fun _ => {}) (owcAdd c a n up s).segs = true :=
  ((actsOnSeg_countWrite c up).foldl (nodup_segSpan a n) h).1

/-- A segment in retention or off that is neither changing nor waking. -/
def Seg.sleeps (x : Seg) : Bool := x.st != 0 && !x.changing && !x.waking

/-- A segment that an access has reached (R194). -/
def Seg.reached (x : Seg) : Seg := { x with waking := x.waking || x.sleeps }

theorem reachSeg_of_sleeps {c g : Nat} (h : (segOf s c g).sleeps = true) :
    reachSeg c g s = bump (coreReg c 0xC008) 1 (setSeg c g (segOf s c g).reached s) := by
  simp only [Seg.sleeps, Bool.and_eq_true, bne_iff_ne, Bool.not_eq_true'] at h
  obtain ⟨⟨hst, hch⟩, hwk⟩ := h
  have hne : ((segOf s c g).st != 0) = true := bne_iff_ne.mpr hst
  simp [reachSeg, Seg.reached, Seg.sleeps, hst, hch, hwk, hne]

theorem reachSeg_of_not_sleeps {c g : Nat} (h : (segOf s c g).sleeps = false) : reachSeg c g s = s := by
  rw [reachSeg, if_pos]
  simpa [Seg.sleeps, or_assoc, imp_iff_not_or] using h

theorem Seg.reached_of_not_sleeps {x : Seg} (h : x.sleeps = false) : x.reached = x := by simp [Seg.reached, h]

theorem actsOnSeg_reachSeg (c : Nat) : ActsOnSeg c Seg.reached fun s g => reachSeg c g s := by
  intro s g h
  simp only
  cases hg : (segOf s c g).sleeps with
  | true =>
    rw [reachSeg_of_sleeps hg]
    exact ⟨swf_sset h, segOf_setSeg_same h, fun _ hne => segOf_setSeg_other h hne⟩
  | false =>
    rw [reachSeg_of_not_sleeps hg, Seg.reached_of_not_sleeps hg]
    exact ⟨h, rfl, fun _ _ => rfl⟩

/-- Reaching segments changes the segments and the registers only. -/
theorem reachSegs_keeps {β : Type} (view : State → β) (hseg : ∀ s c g v, view (setSeg c g v s) = view s)
    (hwr : ∀ s a v, view (wr a v s) = view s) (c a n : Nat) (s : State) : view (reachSegs c a n s) = view s := by
  refine foldl_keeps view (fun s g => ?_) _ s
  rw [reachSeg]
  split
  · rfl
  · exact (hwr ..).trans (hseg ..)

theorem segOf_reachSegs {c a n g : Nat} (h : swf (fun _ => {}) s.segs = true) (hg : g ∈ segSpan a n) :
    segOf (reachSegs c a n s) c g = (segOf s c g).reached := by
  rw [reachSegs, ((actsOnSeg_reachSeg c).foldl (nodup_segSpan a n) h).2, if_pos hg]

/-- TARN_WAKE counts each segment that begins to wake. -/
theorem counts_foldl_reachSeg {c : Nat} {l : List Nat} (hl : l.Nodup) (hs : swf (fun _ => {}) s.segs = true)
    (hr : swf resetWord s.csr = true) :
    counts s (l.foldl (fun s g => reachSeg c g s) s) (coreReg c 0xC008) (l.filter fun g => (segOf s c g).sleeps).length := by
  induction l generalizing s with
  | nil => exact counts_zero rfl
  | cons g r ih =>
    obtain ⟨hg, hr'⟩ := List.nodup_cons.mp hl
    obtain ⟨hs', -, hother⟩ := actsOnSeg_reachSeg c s g hs
    have hrest : (r.filter fun g' => (segOf (reachSeg c g s) c g').sleeps) = r.filter fun g' => (segOf s c g').sleeps :=
      List.filter_congr fun g' hm => by rw [hother g' fun e => hg (e ▸ hm)]
    rw [List.foldl_cons]
    cases hsl : (segOf s c g).sleeps with
    | true =>
      have hcsr : swf resetWord (reachSeg c g s).csr = true := by
        rw [reachSeg_of_sleeps hsl]
        exact swf_csr_bump hr
      have hone : counts s (reachSeg c g s) (coreReg c 0xC008) 1 := by
        rw [reachSeg_of_sleeps hsl]
        exact rd_bump_same (s := setSeg c g _ s) hr
      have := counts_trans hone (ih hr' hs' hcsr)
      rw [hrest, Nat.add_comm] at this
      simpa [hsl] using this
    | false =>
      rw [reachSeg_of_not_sleeps hsl] at hrest ⊢
      simpa [hsl] using ih hr' hs hr

theorem counts_reachSegs {c a n : Nat} (hs : swf (fun _ => {}) s.segs = true) (hr : swf resetWord s.csr = true) :
    counts s (reachSegs c a n s) (coreReg c 0xC008) ((segSpan a n).filter fun g => (segOf s c g).sleeps).length :=
  counts_foldl_reachSeg (nodup_segSpan a n) hs hr

/-! ## Arrivals -/

/-- An access taken in: a write counts in its segments until it lands (R193). -/
def takeIn (c a : Nat) (acc : Access) (s : State) : State :=
  match acc with
  | .rd _ => s
  | .wr _ => owcAdd c a (accLen acc) true s

/-- Writes that an access adds to its segments' counters. -/
def arrivalWrites (acc : Access) : Nat :=
  match acc with
  | .rd _ => 0
  | .wr _ => 1

/-- An arrival joins those that wait at their ingress. -/
def joinIngress (x : Arrival) (s : State) : State := { s with ingress := s.ingress ++ [x] }

/-- Where nothing waits at a core's ingress, an arrival at it is made, or waits and wakes its segments. -/
theorem serveIngress_alone {c a : Nat} {acc : Access} (h : ∀ x ∈ s.ingress, x.core ≠ c) :
    serveIngress c (joinIngress { core := c, addr := a, acc := acc } s) =
      if segsOn s c a (accLen acc) then makeArrival { core := c, addr := a, acc := acc } s
      else reachSegs c a (accLen acc) (joinIngress { core := c, addr := a, acc := acc } s) := by
  have hne : ({ core := c, addr := a, acc := acc } : Arrival) ∉ s.ingress := fun hm => h _ hm rfl
  rw [serveIngress, joinIngress, List.foldl_append, foldl_eq_self fun x hx => if_pos (h x hx)]
  simp only [List.foldl_cons, List.foldl_nil, ne_eq, not_true_eq_false, if_false]
  rw [List.erase_append_right _ hne, List.erase_cons_head, List.append_nil]
  rfl

/-- An arrival inside its task's window is taken in and served. -/
theorem tarnArrival_inside {c k a : Nat} {acc : Access} (he : engines s = true) (hl : live s c = true)
    (hin : inTarn s c k a ((a + accLen acc : Nat) - 1) = true) :
    tarnArrival c k a acc s = serveIngress c (joinIngress { core := c, addr := a, acc := acc } (takeIn c a acc s)) := by
  simp only [tarnArrival, he, hl, hin, Bool.not_true, Bool.or_false, Bool.false_eq_true, if_false]
  cases acc <;> rfl

/-- One outside is dropped. -/
theorem tarnArrival_outside {c k a : Nat} {acc : Access} (he : engines s = true) (hl : live s c = true)
    (hin : inTarn s c k a ((a + accLen acc : Nat) - 1) = false) :
    tarnArrival c k a acc s = send (.tarnData c false []) (windowDrop c s) := by
  simp only [tarnArrival, he, hl, hin, Bool.not_true, Bool.not_false, Bool.or_false, Bool.false_eq_true, if_false, if_true]

@[simp] theorem takeIn_tarn (c a : Nat) (acc : Access) : (takeIn c a acc s).tarn = s.tarn := by cases acc <;> simp [takeIn]
@[simp] theorem takeIn_mere (c a : Nat) (acc : Access) : (takeIn c a acc s).mere = s.mere := by cases acc <;> simp [takeIn]
@[simp] theorem takeIn_csr (c a : Nat) (acc : Access) : (takeIn c a acc s).csr = s.csr := by cases acc <;> simp [takeIn]
@[simp] theorem takeIn_out (c a : Nat) (acc : Access) : (takeIn c a acc s).out = s.out := by cases acc <;> simp [takeIn]
@[simp] theorem takeIn_ingress (c a : Nat) (acc : Access) : (takeIn c a acc s).ingress = s.ingress := by
  cases acc <;> simp [takeIn]

theorem swf_segs_takeIn {c a : Nat} {acc : Access} (h : swf (fun _ => {}) s.segs = true) :
    swf (fun _ => {}) (takeIn c a acc s).segs = true := by
  cases acc with
  | rd n => exact h
  | wr l => exact swf_segs_owcAdd h

/-- What taking an access in makes of each segment that it touches. -/
theorem segOf_takeIn {c a g : Nat} {acc : Access} (h : swf (fun _ => {}) s.segs = true) (hg : g ∈ segSpan a (accLen acc)) :
    segOf (takeIn c a acc s) c g =
      { segOf s c g with owc := (segOf s c g).owc + arrivalWrites acc } := by
  cases acc with
  | rd n => rfl
  | wr l =>
    rw [takeIn, segOf_owcAdd h, if_pos hg]
    rfl

theorem segOn_takeIn {c a g : Nat} {acc : Access} (h : swf (fun _ => {}) s.segs = true) (hg : g ∈ segSpan a (accLen acc)) :
    segOn (takeIn c a acc s) c g = segOn s c g := by simp [segOn, segOf_takeIn h hg]

theorem sleeps_takeIn {c a g : Nat} {acc : Access} (h : swf (fun _ => {}) s.segs = true) (hg : g ∈ segSpan a (accLen acc)) :
    (segOf (takeIn c a acc s) c g).sleeps = (segOf s c g).sleeps := by simp [Seg.sleeps, segOf_takeIn h hg]

theorem segsOn_takeIn {c a : Nat} {acc : Access} (h : swf (fun _ => {}) s.segs = true) :
    segsOn (takeIn c a acc s) c a (accLen acc) = segsOn s c a (accLen acc) := by
  rw [segsOn, segsOn, Bool.eq_iff_iff, List.all_eq_true, List.all_eq_true]
  exact forall₂_congr fun g hg => by rw [segOn_takeIn h hg]

/-- TARN_WAKE counts each segment that sleeps where a waiting access touches it. -/
theorem counts_wakes {c a : Nat} {acc : Access} {x : Arrival} (hs : swf (fun _ => {}) s.segs = true)
    (hr : swf resetWord s.csr = true) :
    counts s (reachSegs c a (accLen acc) (joinIngress x (takeIn c a acc s))) (coreReg c 0xC008)
      ((segSpan a (accLen acc)).filter fun g => (segOf s c g).sleeps).length := by
  have hcsr : (joinIngress x (takeIn c a acc s)).csr = s.csr := takeIn_csr c a acc
  rw [← List.filter_congr fun g hg => sleeps_takeIn (c := c) hs hg]
  exact counts_congr hcsr.symm rfl (counts_reachSegs (s := joinIngress x (takeIn c a acc s)) (swf_segs_takeIn hs) (hcsr ▸ hr))

section
variable {c k a : Nat} {acc : Access} (he : engines s = true) (hl : live s c = true) (hi : ∀ x ∈ s.ingress, x.core ≠ c)
  (hin : inTarn s c k a ((a + accLen acc : Nat) - 1) = true) (hs : swf (fun _ => {}) s.segs = true)
include he hl hi hin hs

/-- With its segments on, an arrival is made at once. -/
theorem tarnArrival_on (hon : segsOn s c a (accLen acc) = true) :
    tarnArrival c k a acc s = makeArrival { core := c, addr := a, acc := acc } (takeIn c a acc s) := by
  rw [tarnArrival_inside he hl hin, serveIngress_alone (by simpa using hi), segsOn_takeIn hs, if_pos hon]

/-- Else it waits, and reaches its segments. -/
theorem tarnArrival_waits (hon : segsOn s c a (accLen acc) = false) :
    tarnArrival c k a acc s = reachSegs c a (accLen acc) (joinIngress { core := c, addr := a, acc := acc } (takeIn c a acc s)) := by
  rw [tarnArrival_inside he hl hin, serveIngress_alone (by simpa using hi), segsOn_takeIn hs, hon, if_neg Bool.false_ne_true]

end

theorem exec_tarnArrival (c : CoreId) (k : TaskId) (a : Nat) (acc : Access) (s : State) :
    exec (.tarnArrival c k a acc) s = .next (tarnArrival c.val k.val a acc s) := rfl

/-- Settles O36: the three outcomes of an arrival, made, waiting and dropped. -/
theorem tarnArrives : Obligations.TarnArrives := by
  unfold Obligations.TarnArrives
  intro c k a acc s hc he hl hi
  have hs := segs_of_canonical hc
  have hr := csr_of_canonical hc
  refine ⟨fun hin hon => ?_, fun hin hon => ?_, fun hin => ?_⟩
  · rw [exec_tarnArrival, tarnArrival_on he hl hi hin hs hon]
    refine ⟨_, rfl, ?_⟩
    cases acc with
    | rd n => exact ⟨rfl, rfl, rfl, rfl⟩
    | wr l =>
      have ht : swf zero8 (takeIn c.val a (.wr l) s).tarn = true := by simpa using tarn_of_canonical hc
      refine ⟨by simp [makeArrival, send], by simp [makeArrival], by simp [makeArrival, send], ?_, fun b hb => ?_⟩
      · simpa [makeArrival, tarnRead] using tarnRead_tarnWrite (c := c.val) (a := a) (l := l) ht
      · simpa [makeArrival] using tarnWrite_outside ht hb
  · rw [exec_tarnArrival, tarnArrival_waits he hl hi hin hs hon]
    have hs' : swf (fun _ => {}) (takeIn c.val a acc s).segs = true := swf_segs_takeIn hs
    refine ⟨_, rfl, ?_, ?_, ?_, ?_, ?_, fun g hg => ?_⟩
    · rw [reachSegs_keeps (·.ingress) (by simp) (by simp), joinIngress, takeIn_ingress]
    · rw [reachSegs_keeps (·.tarn) (by simp) (by simp), joinIngress, takeIn_tarn]
    · rw [reachSegs_keeps (·.mere) (by simp) (by simp), joinIngress, takeIn_mere]
    · rw [reachSegs_keeps (·.out) (by simp) (by simp), joinIngress, takeIn_out]
    · exact counts_wakes hs hr
    · rw [segOf_reachSegs (by exact hs') hg]
      exact congrArg Seg.reached (segOf_takeIn hs hg)
  · rw [exec_tarnArrival, tarnArrival_outside he hl hin]
    refine ⟨_, rfl, ?_, ?_, ?_, ?_, ?_, asserts_raise ..⟩
    · exact raise_keeps (·.tarn) (fun _ _ => rfl) ..
    · exact raise_keeps (·.mere) (fun _ _ => rfl) ..
    · exact raise_keeps (·.ingress) (fun _ _ => rfl) ..
    · exact congrArg (· ++ _) (raise_keeps (·.out) (fun _ _ => rfl) ..)
    · exact counts_congr rfl (raise_keeps (·.csr) (fun _ _ => rfl) ..) (rd_bump_same hr)

end Sys2Proof.Machine
end

section
/-! SUPPORT. What Weast serves from, and what leaves the part by its queue pairs (R375, R376, R379, R383): messages, completions
and vectors. -/

namespace Sys2Proof.Machine

variable {s t u : State} {p p' : Nat → Prop}

/-- What Weast serves from: the memories, sessions, requests, the step in hand, charges and the time. -/
structure Served where
  tarn : List Host.Cell
  mere : List Host.Cell
  flash : List Host.Cell
  sessions : Sparse Session
  requests : List Request
  batch : Option Batch
  stepNo : Nat
  charged : Sparse Nat
  now : Nat
  time : TimeSt

def served (s : State) : Served where
  tarn := s.tarn
  mere := s.mere
  flash := s.flash
  sessions := s.sessions
  requests := s.requests
  batch := s.batch
  stepNo := s.stepNo
  charged := s.charged
  now := s.now
  time := s.time

/-- From s to t nothing that Weast serves from changes, and of the control space only words that a test picks. -/
def KeepsServed (p : Nat → Prop) (s t : State) : Prop := served t = served s ∧ regsWithin p s t

theorem KeepsServed.refl (s : State) : KeepsServed p s s := ⟨rfl, .of_csr rfl⟩

theorem KeepsServed.trans (h : KeepsServed p s t) (h' : KeepsServed p t u) : KeepsServed p s u :=
  ⟨h'.1.trans h.1, h.2.trans h'.2⟩

theorem KeepsServed.mono (hp : ∀ a, p a → p' a) (h : KeepsServed p s t) : KeepsServed p' s t := ⟨h.1, h.2.mono hp⟩

theorem keepsServed_foldl {α : Type} {f : State → α → State} {l : List α} (h : ∀ s, ∀ x ∈ l, KeepsServed p s (f s x)) :
    KeepsServed p s (l.foldl f s) := by
  induction l generalizing s with
  | nil => exact .refl s
  | cons x r ih => exact (h s x (by simp)).trans (ih fun s y hy => h s y (by simp [hy]))

theorem keepsServed_iter {n : Nat} {f : Nat → State → State} (h : ∀ s, ∀ i < n, KeepsServed p s (f i s)) :
    KeepsServed p s (iter n f s) := keepsServed_foldl fun s i hi => h s i (List.mem_range.mp hi)

/-- Words that sending changes: TX_FRAMES, queue contexts, and the pending vectors of tenants. -/
def sendReg (a : Nat) : Prop :=
  a = 0x500044 ∨ (0x600000 ≤ a ∧ a < 0x700000) ∨ (0x800000 ≤ a ∧ a < 0x810000 ∧ (a % 0x100 = 60 ∨ a % 0x100 = 192))

theorem sendReg_qctx {q w : Nat} (hq : q < 16384) (hw : w < 16) : sendReg (qctx q w) := by
  simp only [sendReg, qctx]
  omega

theorem sendReg_pendWord {n v : Nat} (hn : n < 256) : sendReg (pendWord n v) := by
  simp only [sendReg, pendWord, tenReg]
  split <;> omega

theorem keepsServed_wr {a : Nat} {v : Word} (h : p a) : KeepsServed p s (wr a v s) := ⟨rfl, regsWithin_wr h⟩

theorem keepsServed_setQp {q : Nat} {v : QpSt} : KeepsServed p s (setQp q v s) := ⟨rfl, .of_csr rfl⟩

theorem keepsServed_emit {q : Nat} {dest : Option (Nat × Nat)} {l : List Byte} : KeepsServed sendReg s (emit q dest l s) := by
  cases dest with
  | none => exact .refl s
  | some d =>
    have hbump : KeepsServed sendReg s (bump rTxFrames 1 s) := keepsServed_wr (.inl rfl)
    exact hbump.trans ⟨rfl, .of_csr rfl⟩

section
variable {q : Nat} (hq : q < 16384)
include hq

theorem keepsServed_transmit {dest : Option (Nat × Nat)} {x : OutItem} : KeepsServed sendReg s (transmit q dest x s) :=
  (keepsServed_setQp.trans (keepsServed_wr (sendReg_qctx hq (by omega)))).trans keepsServed_emit

theorem keepsServed_flushOut (n : Nat) (s : State) : KeepsServed sendReg s (flushOut n q s) := by
  induction n generalizing s with
  | zero => exact .refl s
  | succ n ih =>
    rw [flushOut]
    split
    · exact .refl s
    · split
      · exact (keepsServed_setQp.trans (keepsServed_transmit hq)).trans (ih _)
      · exact .refl s

theorem keepsServed_pump (n : Nat) (s : State) : KeepsServed sendReg s (pump n q s) := by
  induction n generalizing s with
  | zero => exact .refl s
  | succ n ih =>
    have hflush := keepsServed_flushOut hq 256 s
    simp only [pump]
    split
    · exact hflush
    · have hcredit : sendReg (qctx q 3) := sendReg_qctx hq (by omega)
      exact hflush.trans (((keepsServed_setQp.trans (keepsServed_wr hcredit)).trans (keepsServed_transmit hq)).trans (ih _))

theorem keepsServed_sendItem {x : OutItem} : KeepsServed sendReg s (sendItem q x s) := by
  rw [sendItem]
  split
  · exact .refl s
  · exact keepsServed_setQp.trans (keepsServed_pump hq _ _)

end

theorem rdF_lt {a lo n : Nat} : rdF s a lo n < 2 ^ n := Nat.mod_lt _ (Nat.two_pow_pos n)

theorem keepsServed_fireVec {n v detail : Nat} (hn : n < 256) : KeepsServed sendReg s (fireVec n v detail s) := by
  simp only [fireVec]
  split
  · exact .refl s
  · split
    · exact ⟨rfl, .of_csr rfl⟩
    · have hfired : KeepsServed sendReg s { s with fired := sset (fun _ => 0) (n * 64 + v) 0 s.fired } := ⟨rfl, .of_csr rfl⟩
      exact (hfired.trans (keepsServed_wr (sendReg_pendWord hn))).trans (keepsServed_sendItem rdF_lt)

/-- Words that a completion changes: it sends, and counts in a statistics counter of a completion status. -/
def doneReg (a : Nat) : Prop := sendReg a ∨ (0x1000000 ≤ a ∧ 12 ≤ a % 0x100)

theorem doneReg_statusStat {n st : Nat} : doneReg (statReg n (statusStat st)) := by
  have : 3 ≤ statusStat st ∧ statusStat st ≤ 15 := by
    simp only [statusStat]
    split_ifs <;> omega
  simp only [doneReg, statReg]
  omega

theorem qpTenant_lt (s : State) (q : Nat) : qpTenant s q < 256 := by
  rw [qpTenant]
  split
  · omega
  · exact Nat.mod_lt _ (by omega)

theorem keepsServed_queueCompletion {c : Completion} (hq : c.q < 16384) : KeepsServed doneReg s (queueCompletion c s) := by
  have hsend : ∀ {x y : State}, KeepsServed sendReg x y → KeepsServed doneReg x y := KeepsServed.mono fun _ => Or.inl
  have hjoin : ∀ v : QpSt, KeepsServed doneReg s (setQp c.q v (bump (statReg (qpTenant s c.q) (statusStat c.status)) 1 s)) :=
    fun _ => (keepsServed_wr doneReg_statusStat).trans keepsServed_setQp
  simp only [queueCompletion]
  refine .trans ?_ (hsend (keepsServed_pump hq _ _))
  split
  · exact (hjoin _).trans (hsend (keepsServed_fireVec (qpTenant_lt s _)))
  · exact hjoin _

end Sys2Proof.Machine
end

section
/-! SUPPORT. How Weast starts a step of a task (R32–R35, R388). -/

namespace Sys2Proof.Machine

variable {s t u : State} {p p' : Nat → Prop}

/-! ## The SSQ's part (R35) -/

/-- Words that a start of a step changes: DET_STATUS, mesh counters, saturation counts of cores, SSQ_TASK and SSQ_ENTRY. -/
def startReg (a : Nat) : Prop :=
  (0x11000 < a ∧ a < 0x13000) ∨ (0x100000 ≤ a ∧ a < 0x1C0000) ∨ a = 0x1800C ∨ a = 0x18010

/-- Those that change before a beginning step reads its entry. -/
abbrev beginReg (a : Nat) : Prop := a = 0x11004 ∨ (0x100000 ≤ a ∧ a < 0x1C0000)

theorem startReg_of_beginReg {a : Nat} (h : beginReg a) : startReg a := by
  simp only [startReg, beginReg] at h ⊢
  omega

theorem live_lt {c : Nat} (h : c ∈ liveCores s) : c < 12 := List.mem_range.mp (List.mem_of_mem_filter h)

theorem keepsServed_endDown : KeepsServed p s (endDown s) := by
  rw [endDown]
  split <;> exact ⟨rfl, .of_csr rfl⟩

theorem keepsServed_stepResets : KeepsServed p s (stepResets s) := ⟨rfl, .of_csr rfl⟩

theorem keepsServed_zeroAllSteps : KeepsServed beginReg s (zeroAllSteps s) :=
  keepsServed_foldl fun _ _ hc => keepsServed_iter fun _ _ hi => keepsServed_wr (by
    have := live_lt hc
    simp only [beginReg, coreReg]
    omega)

theorem keepsServed_frameBegin : KeepsServed startReg s (frameBegin s) := by
  rw [frameBegin]
  split
  · refine keepsServed_iter fun s r hr => ?_
    split
    · exact .refl s
    · exact keepsServed_wr (by simp only [startReg, meshReg]; omega)
  · exact .refl s

theorem frameBegin_ssq (s : State) : (frameBegin s).ssq = s.ssq := by
  rw [frameBegin]
  split
  · refine iter_keeps (·.ssq) (fun r s => ?_) _ _
    split <;> rfl
  · rfl

/-- The state in which a beginning step reads its entry: the resets of R35 are made, and DET_STATUS is written. -/
def beforeEntry (s : State) : State :=
  let r := zeroAllSteps (stepResets (endDown s))
  let x := if r.ssq.lastTask = some s.ssq.task then r else { r with treg := [], mask := [] }
  wrF rDetStatus 2 1 0 (wrF rDetStatus 0 1 (rdF x rDetCtl 0 1) x)

theorem keepsServed_beforeEntry : KeepsServed beginReg s (beforeEntry s) := by
  have hreset : KeepsServed beginReg s (zeroAllSteps (stepResets (endDown s))) :=
    (keepsServed_endDown.trans keepsServed_stepResets).trans keepsServed_zeroAllSteps
  simp only [beforeEntry]
  refine hreset.trans (.trans (.trans ?_ (keepsServed_wr (.inl rfl))) (keepsServed_wr (.inl rfl)))
  split <;> exact ⟨rfl, .of_csr rfl⟩

/-- A beginning step goes on from that state. -/
theorem beginStep_eq (s : State) : ∃ q : State, beginStep s = frameBegin q ∧ KeepsServed startReg (beforeEntry s) q ∧
    q.ssq.run = true ∧ q.ssq.held = false ∧ q.ssq.task = (beforeEntry s).ssq.task ∧
    q.ssq.fetchOff = (rd (beforeEntry s) rSsqEntry).toNat * 16 ∧ q.ssq.issue = (beforeEntry s).ssq.issue :=
  ⟨_, rfl, ⟨rfl, .of_csr rfl⟩, rfl, rfl, rfl, rfl, rfl⟩

theorem zeroSteps_ssq (c : Nat) (s : State) : (zeroSteps c s).ssq = s.ssq := iter_keeps (·.ssq) (fun _ s => wr_ssq s _ _) _ s

theorem zeroAllSteps_ssq (s : State) : (zeroAllSteps s).ssq = s.ssq := foldl_keeps (·.ssq) (fun s c => zeroSteps_ssq c s) _ s

theorem endDown_ssq (s : State) : (endDown s).ssq = s.ssq := by
  rw [endDown]
  split <;> rfl

theorem beforeEntry_ssq (s : State) : (beforeEntry s).ssq = { s.ssq with issue := 0, skips := [] } := by
  have hz : (zeroAllSteps (stepResets (endDown s))).ssq = { s.ssq with issue := 0, skips := [] } := by
    rw [zeroAllSteps_ssq, ← endDown_ssq s]
    rfl
  rw [← hz]
  simp only [beforeEntry]
  split <;> rfl

theorem keepsServed_beginStep : KeepsServed startReg s (beginStep s) := by
  obtain ⟨q, hq, hkeep, -⟩ := beginStep_eq s
  rw [hq]
  exact ((keepsServed_beforeEntry.mono fun _ => startReg_of_beginReg).trans hkeep).trans keepsServed_frameBegin

/-- What the SSQ holds of a step that has begun: it runs from SSQ_ENTRY, at issue time 0 (R35). -/
theorem stepBeganAt_beginStep {entry : Nat} (hs : swf resetWord s.csr = true) (he : (rd s rSsqEntry).toNat = entry) :
    stepBeganAt (beginStep s) s.ssq.task entry := by
  obtain ⟨q, hq, -, hrun, hheld, htask, hoff, hissue⟩ := beginStep_eq s
  have hentry : rd (beforeEntry s) rSsqEntry = rd s rSsqEntry :=
    (keepsServed_beforeEntry.2 hs).2 rSsqEntry (by decide)
  rw [hentry, he] at hoff
  rw [beforeEntry_ssq] at htask hissue
  rw [stepBeganAt, hq, frameBegin_ssq]
  exact ⟨hrun, hheld, htask, hoff, hissue⟩

/-! ## Weast's part -/

/-- Task k is loaded, an entry lies in its stream, and the oscillators are as the mode selected asks: words and time on which a
start depends. -/
def mayStartAt (s : State) (k entry : Nat) : Prop :=
  swf resetWord s.csr = true ∧ k < 64 ∧ taskLoaded s k = true ∧ entry * 16 < streamLen s k ∧
    bitOf (rd s rDetCtl) 0 = s.time.osc

/-- Words on which a start does not depend. -/
def buildReg (a : Nat) : Prop := 0x100000 ≤ a ∧ (a < 0x500600 ∨ 0x500700 ≤ a)

/-- What changes none of them leaves it so. -/
theorem mayStartAt_of_regsWithin {k entry : Nat} (hp : ∀ a, p a → buildReg a ∨ a = rSsqTask ∨ a = rSsqEntry)
    (hr : regsWithin p s t) (ht : t.time = s.time) (h : mayStartAt s k entry) : mayStartAt t k entry := by
  obtain ⟨hs, hk, hload, hlen, hosc⟩ := h
  obtain ⟨hs', hrd⟩ := hr hs
  have hkeep : ∀ a, ¬ (buildReg a ∨ a = rSsqTask ∨ a = rSsqEntry) → rd t a = rd s a := fun a ha => hrd a fun h => ha (hp a h)
  refine ⟨hs', hk, ?_, ?_, ?_⟩
  · rwa [taskLoaded, hkeep _ (by simp only [buildReg, rSsqTask, rSsqEntry, rCompat]; omega)]
  · rwa [streamLen, hkeep _ (by simp only [buildReg, rSsqTask, rSsqEntry]; omega)]
  · rwa [ht, hkeep _ (by simp only [buildReg]; decide)]

/-- The SSQ holds the task that SSQ_TASK names. -/
def namesTask (s : State) : State :=
  { s with ssq := { s.ssq with task := rdF s rSsqTask 0 6, stepDone := false, deadlock := false } }

/-- A start that may begin does. -/
theorem startStep_begins (h : mayStartAt s (rdF s rSsqTask 0 6) (rd s rSsqEntry).toNat) :
    startStep s = beginStep (namesTask s) := by
  obtain ⟨-, -, hload, hlen, hosc⟩ := h
  have hstream : (!(bitOf (rd (namesTask s) (rCompat + 4 * rdF s rSsqTask 0 6)) 1) ||
      decide (streamLen (namesTask s) (rdF s rSsqTask 0 6) ≤ (rd (namesTask s) rSsqEntry).toNat * 16)) = false := by
    have hbit : bitOf (rd (namesTask s) (rCompat + 4 * rdF s rSsqTask 0 6)) 1 = true := hload
    rw [hbit, Bool.not_true, Bool.false_or]
    exact decide_eq_false (Nat.not_le.mpr hlen)
  have hclock : (bitOf (rd (namesTask s) rDetCtl) 0 != (namesTask s).time.osc) = false :=
    bne_eq_false_iff_eq.mpr hosc
  have hstart : startStep s = if (!(bitOf (rd (namesTask s) (rCompat + 4 * rdF s rSsqTask 0 6)) 1) ||
      decide (streamLen (namesTask s) (rdF s rSsqTask 0 6) ≤ (rd (namesTask s) rSsqEntry).toNat * 16)) = true then _
      else if (bitOf (rd (namesTask s) rDetCtl) 0 != (namesTask s).time.osc) = true then _
      else beginStep (namesTask s) := rfl
  rw [hstart, hstream, hclock]
  rfl

/-- SSQ_TASK and SSQ_ENTRY as Weast writes them for a start. -/
def namesEntry (k entry : Nat) (s : State) : State := wr rSsqEntry (Word.ofNat entry) (wrF rSsqTask 0 6 k s)

theorem keepsServed_namesEntry {k entry : Nat} :
    KeepsServed (fun a => a = rSsqTask ∨ a = rSsqEntry) s (namesEntry k entry s) :=
  (keepsServed_wr (.inl rfl)).trans (keepsServed_wr (.inr rfl))

theorem rdF_task_namesEntry {k entry : Nat} (hs : swf resetWord s.csr = true) (hk : k < 64) :
    rdF (namesEntry k entry s) rSsqTask 0 6 = k := by
  have hother : rd (namesEntry k entry s) rSsqTask = rd (wrF rSsqTask 0 6 k s) rSsqTask :=
    rd_wr_other (swf_csr_wr hs) (by decide)
  rw [rdF, hother, wrF, rd_wr_same hs, fld_setFld_low (by omega), Nat.mod_eq_of_lt (by omega)]

theorem rd_entry_namesEntry {k entry : Nat} (hs : swf resetWord s.csr = true) (he : entry < 2 ^ 32) :
    (rd (namesEntry k entry s) rSsqEntry).toNat = entry := by
  have hsame : rd (namesEntry k entry s) rSsqEntry = Word.ofNat entry := rd_wr_same (swf_csr_wr hs)
  rw [hsame, BitVec.toNat_ofNat, Nat.mod_eq_of_lt he]

/-- Weast starts a step of a task: it begins at its entry, and nothing that Weast serves from changes. -/
theorem startTask_begins {k entry : Nat} (h : mayStartAt s k entry) :
    stepBeganAt (startTask k entry s) k entry ∧ KeepsServed startReg s (startTask k entry s) := by
  obtain ⟨hs, hk, hload, hlen, hosc⟩ := id h
  have hlt : entry < 2 ^ 32 := by
    have := (rd s (0x500600 + 4 * k)).isLt
    simp only [streamLen] at hlen
    omega
  have htask := rdF_task_namesEntry (entry := entry) hs hk
  have hentry := rd_entry_namesEntry (k := k) hs hlt
  have hkeep := keepsServed_namesEntry (s := s) (k := k) (entry := entry)
  have hmay : mayStartAt (namesEntry k entry s) k entry :=
    mayStartAt_of_regsWithin (fun _ => Or.inr) hkeep.2 (congrArg Served.time hkeep.1) h
  have hstart : startTask k entry s = beginStep (namesTask (namesEntry k entry s)) :=
    startStep_begins (s := namesEntry k entry s) (by rwa [htask, hentry])
  rw [hstart]
  constructor
  · have hbegan := stepBeganAt_beginStep (s := namesTask (namesEntry k entry s)) hmay.1 hentry
    rwa [show (namesTask (namesEntry k entry s)).ssq.task = k from htask] at hbegan
  · refine (hkeep.mono ?_).trans (KeepsServed.trans ⟨rfl, .of_csr rfl⟩ keepsServed_beginStep)
    rintro a (rfl | rfl) <;> simp [startReg]

end Sys2Proof.Machine
end

section
/-! SUPPORT. How Weast builds a step (R388, R391, R393). -/

namespace Sys2Proof.Machine

variable {s t u : State} {p p' : Nat → Prop}

/-! ## The batch area -/

theorem length_decodeRecord (s : State) (acc samp : Nat) : (decodeRecord s acc samp).length = 32 := by
  simp [decodeRecord, length_leBytes]

/-- A batch of decodes has a header of 64 bytes and a record of 32 for each. -/
theorem length_batchBytes_decode (s : State) (k : Nat) (dec : List Nat) :
    (batchBytes s k dec []).length = 64 + 32 * dec.length := by
  simp [batchBytes, length_decodeRecord, length_leBytes]
  omega

theorem keepsServed_wakeSegs {c a n : Nat} (hp : p (coreReg c 0xC008)) : KeepsServed p s (wakeSegs c a n s) :=
  keepsServed_foldl fun s g _ => by
    rw [wakeSeg]
    split
    · exact .refl s
    · exact KeepsServed.trans ⟨rfl, .of_csr rfl⟩ (keepsServed_wr hp)

/-- What Weast serves from, but for Tarn. -/
def servedOffTarn (s : State) : Served := { served s with tarn := [] }

theorem servedOffTarn_wakeSegs (c a n : Nat) (s : State) : servedOffTarn (wakeSegs c a n s) = servedOffTarn s :=
  congrArg (fun v : Served => { v with tarn := [] }) (keepsServed_wakeSegs (p := fun _ => True) trivial).1

/-- Writing the batch area changes Tarn, and of the registers those of cores. -/
theorem servedOffTarn_writeBatch (k : Nat) (i : TaskImg) (l : List Byte) (s : State) :
    servedOffTarn (writeBatch k i l s) = servedOffTarn s := by
  refine (foldl_keeps servedOffTarn (fun s c => ?_) _ _).trans (rfl : servedOffTarn (freeBytes _ s).2 = _)
  exact servedOffTarn_wakeSegs c _ _ s

/-- The registers of cores. -/
def coreWord (a : Nat) : Prop := 0x100000 ≤ a ∧ a < 0x1C0000

theorem startReg_of_coreWord {a : Nat} (h : coreWord a) : startReg a := .inr (.inl h)

theorem buildReg_of_coreWord {a : Nat} (h : coreWord a) : buildReg a := by
  simp only [coreWord, buildReg] at h ⊢
  omega

theorem regsWithin_writeBatch (k : Nat) (i : TaskImg) (l : List Byte) (s : State) :
    regsWithin coreWord s (writeBatch k i l s) := by
  refine regsWithin.trans (t := (freeBytes (i.f 20 4 - l.length) s).2) (.of_csr rfl) (regsWithin_foldl fun s c hc => ?_)
  have hlt := live_lt (List.mem_of_mem_filter hc)
  refine regsWithin.trans (keepsServed_wakeSegs ?_).2 (.of_csr rfl)
  simp only [coreWord, coreReg]
  omega

/-! ## A step with its batch -/

/-- The batch area is written, and the step is in hand. -/
def handBatch (k n : Nat) (i : TaskImg) (dec : List Nat) (pre : List (Nat × Nat)) (s : State) : State :=
  { writeBatch k i (batchBytes s n dec pre) s with
    stepNo := n, batch := some { task := k, k := n, decode := dec, prefill := pre, nseg := i.nseg, self := i.f 56 2 } }

/-- The entry of an image that a batch takes: of prefills, of decodes, of neither. -/
def batchKind (dec : List Nat) (pre : List (Nat × Nat)) : Nat := if !pre.isEmpty then 1 else if !dec.isEmpty then 0 else 2

/-- What building a step comes to, where its batch is worth a step and fits. -/
theorem buildStep_eq {k n : Nat} {i : TaskImg} {ring : Bool} {s1 s2 s3 : State} {dec : List Nat} {pre : List (Nat × Nat)}
    (hcold : (ordered s k).foldl (fun s r => admitCold r s) s = s1)
    (hdec : (ordered s1 k).foldl (takeDecode i.decLimit) ([], s1) = (dec, s2))
    (hpre : (ordered s2 k).foldl (takePrefill i) ([], s2) = (pre, s3))
    (hrun : (dec.isEmpty && pre.isEmpty && !ring) = false) (hfit : (batchBytes s3 n dec pre).length ≤ i.f 20 4) :
    buildStep k n i ring s = startTask k (i.entryOf (batchKind dec pre)) (handBatch k n i dec pre s3) := by
  simp only [buildStep, hcold, hdec, hpre]
  rw [hrun, if_neg Bool.false_ne_true, if_neg (Nat.not_lt.mpr hfit)]
  rfl

/-- Where a start with that batch may begin, it does: the step is in hand, and nothing else that Weast serves from changes but
Tarn. -/
theorem startTask_handBatch {k n entry : Nat} {i : TaskImg} {dec : List Nat} {pre : List (Nat × Nat)} (h : mayStartAt s k entry)
    (ht : t = startTask k entry (handBatch k n i dec pre s)) :
    stepBeganAt t k entry ∧ t.stepNo = n ∧ t.mere = s.mere ∧ t.requests = s.requests ∧
      t.batch = some { task := k, k := n, decode := dec, prefill := pre, nseg := i.nseg, self := i.f 56 2 } ∧
      regsWithin startReg s t := by
  have hreg : regsWithin coreWord s (handBatch k n i dec pre s) :=
    regsWithin.trans (regsWithin_writeBatch _ i (batchBytes s n dec pre) s) (.of_csr rfl)
  have hserved : servedOffTarn (writeBatch k i (batchBytes s n dec pre) s) = servedOffTarn s := servedOffTarn_writeBatch ..
  have hmay : mayStartAt (handBatch k n i dec pre s) k entry :=
    mayStartAt_of_regsWithin (fun _ ha => .inl (buildReg_of_coreWord ha)) hreg (congrArg Served.time hserved) h
  obtain ⟨hbegan, hkeep, hstart⟩ := startTask_begins hmay
  rw [ht]
  exact ⟨hbegan, congrArg Served.stepNo hkeep, (congrArg Served.mere hkeep).trans (congrArg Served.mere hserved),
    (congrArg Served.requests hkeep).trans (congrArg Served.requests hserved), congrArg Served.batch hkeep,
    (hreg.mono fun _ => startReg_of_coreWord).trans hstart⟩

/-- A task without requests that starts whatever the batch begins with an empty one; another begins none. -/
theorem buildStep_of_ordered_nil {k n : Nat} {i : TaskImg} (h : ordered s k = []) : buildStep k n i false s = s := by
  simp [buildStep, h]

theorem buildStep_ring_of_ordered_nil {k n : Nat} {i : TaskImg} (h : ordered s k = []) (hfit : 64 ≤ i.f 20 4) :
    buildStep k n i true s = startTask k (i.entryOf 2) (handBatch k n i [] [] s) :=
  buildStep_eq (s1 := s) (s2 := s) (s3 := s) (by rw [h]; rfl) (by rw [h]; rfl) (by rw [h]; rfl) rfl
    (by rwa [length_batchBytes_decode])

/-! ## Units (R393) -/

theorem ofNat_toNat_sub {w : Word} {n : Nat} (h : n ≤ w.toNat) : Word.ofNat (w.toNat - n) = w - Word.ofNat n := by
  apply BitVec.eq_of_toNat_eq
  have := w.isLt
  simp only [BitVec.toNat_ofNat, BitVec.toNat_sub]
  omega

theorem ofNat_toNat_add (w : Word) (n : Nat) : Word.ofNat (w.toNat + n) = w + Word.ofNat n := by
  rw [Word.ofNat, BitVec.ofNat_add, BitVec.ofNat_toNat, BitVec.setWidth_eq]

theorem tenReg_ne {a b n : Nat} (h : a ≠ b) : tenReg n a ≠ tenReg n b := by
  simp only [tenReg]
  omega

/-- LEFT and RESERVED of a tenant are no words of sending. -/
theorem not_sendReg_units {n w : Nat} (hw : w = 7 ∨ w = 8) : ¬ sendReg (tenReg n w) := by
  simp only [sendReg, tenReg]
  omega

/-- LEFT and RESERVED after a reservation, before its vector fires. -/
def moveUnits (n units : Nat) (s : State) : State :=
  wr (tenReg n 7) (Word.ofNat (unitsLeft s n - units)) (wr (tenReg n 8) (Word.ofNat ((rd s (tenReg n 8)).toNat + units)) s)

theorem reserve_cases (n units : Nat) (s : State) : reserve n units s = moveUnits n units s ∨
    reserve n units s = fireVec n 48 (unitsLeft s n - units) (moveUnits n units s) := by
  simp only [reserve]
  split
  · exact .inr rfl
  · exact .inl rfl

section
variable {n units : Nat} (hn : n < 256)
include hn

theorem keepsServed_reserve_moveUnits : KeepsServed sendReg (moveUnits n units s) (reserve n units s) := by
  obtain h | h := reserve_cases n units s <;> rw [h]
  · exact .refl _
  · exact keepsServed_fireVec hn

theorem keepsServed_reserve : KeepsServed buildReg s (reserve n units s) := by
  have hword : ∀ w, w < 64 → buildReg (tenReg n w) := fun w hw => by
    simp only [buildReg, tenReg]
    omega
  refine .trans (.trans (keepsServed_wr (hword 8 (by omega))) (keepsServed_wr (hword 7 (by omega))))
    ((keepsServed_reserve_moveUnits hn).mono fun a ha => ?_)
  simp only [sendReg, buildReg] at ha ⊢
  omega

/-- A reservation takes its units from LEFT to RESERVED. -/
theorem rd_reserve (hs : swf resetWord s.csr = true) (hle : units ≤ unitsLeft s n) :
    rd (reserve n units s) (tenReg n 7) = rd s (tenReg n 7) - Word.ofNat units ∧
      rd (reserve n units s) (tenReg n 8) = rd s (tenReg n 8) + Word.ofNat units := by
  have hm := (keepsServed_reserve_moveUnits hn (s := s) (units := units)).2 (swf_csr_wr (swf_csr_wr hs))
  constructor
  · rw [hm.2 _ (not_sendReg_units (.inl rfl)), moveUnits, rd_wr_same (swf_csr_wr hs), unitsLeft, ofNat_toNat_sub hle]
  · rw [hm.2 _ (not_sendReg_units (.inr rfl)), moveUnits, rd_wr_other (swf_csr_wr hs) (tenReg_ne (by omega)), rd_wr_same hs,
      ofNat_toNat_add]

end

/-! ## A batch of one decode -/

theorem ordered_of_single {r : Request} {k : Nat} (hr : s.requests = [r]) (hk : r.task = k) : ordered s k = [r] := by
  simp [ordered, hr, hk, sortBy, insBy]

/-- A session whose frames cover its positions needs none. -/
theorem allocFor_of_enough {k len : Nat} (h : ceilDiv len 16 ≤ (sess s k).alloc) : allocFor k len s = some s := by
  rw [allocFor]
  cases hn : ceilDiv len 16 with
  | zero => rfl
  | succ n => simp [allocTo, ← hn, h]

/-- A request that its budget covers is admitted. -/
theorem admitReq_of_covered {r : Request} {st cost len : Nat} (hcost : cost ≤ unitsLeft s r.tenant)
    (halloc : ceilDiv len 16 ≤ (sess s r.slot).alloc) :
    admitReq r st cost len s =
      (true, updReq r.acc (fun r => { r with st := st, inStep := true, reserved := cost }) (reserve r.tenant cost s)) := by
  simp only [admitReq, allocFor_of_enough halloc]
  rw [if_neg (Nat.not_lt.mpr hcost)]

/-- The one request of task k, in DECODE with frames and units, that the image has room for in its next step. -/
structure ReadyDecode (s : State) (k : Nat) (i : TaskImg) (r : Request) (cost : Nat) : Prop where
  single : s.requests = [r]
  task : r.task = k
  tenant : r.tenant < 256
  state : r.st = 4
  free : r.inStep = false
  toks : r.toks ≠ []
  busy : (sess s r.slot).st = 1
  frames : ceilDiv ((sess s r.slot).pos + 1) 16 ≤ (sess s r.slot).alloc
  room : 1 ≤ i.decLimit
  area : 96 ≤ i.f 20 4
  cost_eq : cost = rdF s (tenReg r.tenant 9) 0 8
  covered : cost ≤ unitsLeft s r.tenant

/-- A request in a step, with the units that it has reserved. -/
def inStepWith (cost : Nat) (r : Request) : Request := { r with st := 4, inStep := true, reserved := cost }

/-- Such a request enters the empty batch. -/
theorem takeDecode_of_ready {k cost : Nat} {i : TaskImg} {r : Request} (h : ReadyDecode s k i r cost) :
    takeDecode i.decLimit ([], s) r = ([r.acc], updReq r.acc (inStepWith cost) (reserve r.tenant cost s)) := by
  have hmay : mayDecode s r = true := by simp [mayDecode, h.busy, h.free, h.state]
  have hempty : ¬ (r.toks.isEmpty = true ∧ r.maxnew = 0) := by simp [h.toks]
  simp only [takeDecode, hmay, Bool.not_true, Bool.false_eq_true, if_false, if_neg hempty, List.length_nil,
    if_neg (Nat.not_le.mpr h.room), ← h.cost_eq, admitReq_of_covered h.covered h.frames, if_true, List.nil_append]
  rfl

/-- One that is in the step is taken into no prefill. -/
theorem takePrefill_of_inStep {i : TaskImg} {a : List (Nat × Nat) × State} {r : Request} (h : r.inStep = true) :
    takePrefill i a r = a := by
  simp [takePrefill, mayPrefill, h]

theorem admitCold_of_st {r : Request} (h : r.st ≠ 1) : admitCold r s = s := by
  simp [admitCold, h]

/-- It is the batch of its task's next step. -/
theorem buildStep_of_ready {k n cost : Nat} {i : TaskImg} {r : Request} (h : ReadyDecode s k i r cost) :
    ∃ s2 : State, buildStep k n i false s = startTask k (i.entryOf 0) (handBatch k n i [r.acc] [] s2) ∧
      s2.requests = [inStepWith cost r] ∧ s2.mere = s.mere ∧ s2.time = s.time ∧ s2.csr = (reserve r.tenant cost s).csr := by
  have hkeep : KeepsServed buildReg s (reserve r.tenant cost s) := keepsServed_reserve h.tenant
  have hreq : (updReq r.acc (inStepWith cost) (reserve r.tenant cost s)).requests = [inStepWith cost r] := by
    rw [updReq, show (reserve r.tenant cost s).requests = [r] from (congrArg Served.requests hkeep.1).trans h.single]
    simp
  refine ⟨updReq r.acc (inStepWith cost) (reserve r.tenant cost s),
    buildStep_eq (s1 := s) (s2 := updReq r.acc (inStepWith cost) (reserve r.tenant cost s)) ?_ ?_ ?_ rfl ?_, hreq,
    congrArg Served.mere hkeep.1, congrArg Served.time hkeep.1, rfl⟩
  · rw [ordered_of_single h.single h.task, List.foldl_cons, List.foldl_nil, admitCold_of_st (by rw [h.state]; decide)]
  · rw [ordered_of_single h.single h.task, List.foldl_cons, List.foldl_nil, takeDecode_of_ready h]
  · rw [ordered_of_single hreq h.task, List.foldl_cons, List.foldl_nil, takePrefill_of_inStep rfl]
  · simpa [length_batchBytes_decode] using h.area

/-! ## STEP_BUILD and RING_STEP_START -/

/-- A step that may begin, at the words and the time on which its start depends. -/
theorem mayStartAt_of_stepMayBegin {k : TaskId} {entry : Nat} (hs : swf resetWord s.csr = true)
    (h : stepMayBegin s k.val entry) : mayStartAt s k.val entry := by
  obtain ⟨-, hload, hlen, hosc⟩ := h
  exact ⟨hs, k.isLt, hload, hlen, hosc⟩

theorem stepBuild_of_free {k : Nat} (hfree : stepFree s = true) (hload : taskLoaded s k = true)
    (hserve : (taskImg s k).serve ≠ []) (hper : (taskImg s k).period = 0) : stepBuild k s = buildStep k (s.stepNo + 1) (taskImg s k) false s := by
  simp [stepBuild, hfree, hload, hserve, hper]

/-- A task without a serving section is started as a management task. -/
theorem stepBuild_management {k : Nat} (hfree : stepFree s = true) (hload : taskLoaded s k = true)
    (hserve : (taskImg s k).serve = []) : stepBuild k s = startTask k 0 { s with
      stepNo := s.stepNo + 1, batch := some { task := k, k := s.stepNo + 1, nseg := (taskImg s k).nseg } } := by
  simp [stepBuild, hfree, hload, hserve]

theorem powered_of_stepFree (h : stepFree s = true) : powered s = true := by
  simp only [stepFree, mayStart, engines, Bool.and_eq_true] at h
  exact h.1.1.1.1.1

/-- With no ORE command running, ORE_REVNO takes a number below 2^32 - 1 as it is (R357). -/
theorem revnoWrite_of_idle {n : Nat} (hp : powered s = true) (hr : (unitOf s oreKey).running = []) (hn : n < 2 ^ 32 - 1) :
    revnoWrite (Word.ofNat n) s = wr rOreRevno (Word.ofNat n) s := by
  have hne : Word.ofNat n ≠ 0xFFFFFFFF := by
    intro h
    have heq : n % 2 ^ 32 = 0xFFFFFFFF := (BitVec.toNat_ofNat n 32).symm.trans (congrArg BitVec.toNat h)
    omega
  rw [revnoWrite, hp, hr, if_neg (by decide), if_neg hne]

/-- At its time a ring task's step is built under its revolution number. -/
theorem ringStepStart_of_due {k : Nat} (hfree : stepFree s = true) (hload : taskLoaded s k = true)
    (hper : (taskImg s k).period ≠ 0) (hdue : timeCounter s % (taskImg s k).period = 0) :
    ringStepStart k s = buildStep k (timeCounter s / (taskImg s k).period) (taskImg s k) true
      (revnoWrite (Word.ofNat (timeCounter s / (taskImg s k).period * (taskImg s k).f 4 2 % (2 ^ 32 - 1))) s) := by
  simp [ringStepStart, hfree, hload, hper, hdue]

/-- At other times none is. -/
theorem ringStepStart_of_not_due {k : Nat}
    (h : (taskImg s k).period = 0 ∨ timeCounter s % (taskImg s k).period ≠ 0 ∨ stepFree s = false) :
    ringStepStart k s = s := by
  simp only [ringStepStart]
  rw [if_pos]
  rcases h with h | h | h <;> simp [h]

end Sys2Proof.Machine
end

section
/-! SUPPORT. How Weast commits a step or fails it (R30, R389, R390, R393). -/

namespace Sys2Proof.Machine

variable {s t u : State} {p p' : Nat → Prop} {b : Batch} {r : Request}

theorem sess_of_sessions (h : t.sessions = s.sessions) (k : Nat) : sess t k = sess s k := congrArg (sget _ k) h

/-! ## The one request of a step -/

theorem reqOf_of_single (hr : s.requests = [r]) : reqOf s r.acc = r := by simp [reqOf, hr]

theorem held_of_single (hr : s.requests = [r]) : (s.requests.all fun x => x.acc != r.acc) = false := by simp [hr]

theorem updReq_of_single (hr : s.requests = [r]) (f : Request → Request) : (updReq r.acc f s).requests = [f r] := by
  simp [updReq, hr]

@[simp] theorem rd_updReq (acc : Nat) (f : Request → Request) (s : State) (a : Nat) : rd (updReq acc f s) a = rd s a := rfl

/-! ## The end of a request that keeps its session -/

/-- Words of a tenant's units. -/
def unitReg (n a : Nat) : Prop := a = tenReg n 7 ∨ a = tenReg n 8

theorem regsWithin_releaseUnits : regsWithin (unitReg r.tenant) s (releaseUnits r s) :=
  regsWithin.trans (t := wr (tenReg r.tenant 8) _ s) (regsWithin_wr (.inr rfl)) (regsWithin_wr (.inl rfl))

theorem rd_left_releaseUnits (hs : swf resetWord s.csr = true) :
    rd (releaseUnits r s) (tenReg r.tenant 7) = rd s (tenReg r.tenant 7) + Word.ofNat r.reserved := by
  rw [← ofNat_toNat_add]
  exact rd_wr_same (s := wr _ _ (updReq ..)) (swf_csr_wr hs)

/-- A request has left: its units are returned, and its session is HOT. -/
def leftHot (r : Request) (s : State) : State :=
  setSess r.slot { sess s r.slot with st := 2, idle := s.now } { releaseUnits r s with requests := [] }

/-- The session of a request that ends with KEEP stays, HOT, and the completion is queued. -/
theorem endRequest_of_keep {st mask : Nat} (hr : s.requests = [r]) (hk : r.keep = true) (hbusy : (sess s r.slot).st = 1) :
    ∃ c : Completion, endRequest r.acc st mask s = queueCompletion c (leftHot r s) ∧ c.q = r.q := by
  have hfind : (s.requests.find? fun x => x.acc == r.acc) = some r := by simp [hr]
  have hfilter : ((releaseUnits r s).requests.filter fun x => x.acc != r.acc) = [] := by
    simp [releaseUnits, wr, updReq, hr]
  have hunbind : unbind r { releaseUnits r s with requests := [] } = leftHot r s := by
    have hst : (sess { releaseUnits r s with requests := [] } r.slot).st = 1 := hbusy
    rw [unbind, hst, hk, if_pos rfl, if_pos rfl]
    rfl
  rw [endRequest, hfind]
  simp only [hfilter, hunbind]
  exact ⟨_, rfl, rfl⟩

/-- What the end of a request in a committed step leaves: its session's position, the charges, the memories, and the registers but
for those of units, completions and sending. -/
def commitLeaves (r : Request) (s t : State) : Prop :=
  (sess t r.slot).pos = (sess s r.slot).pos ∧ t.charged = s.charged ∧ memoriesStay s t ∧
    regsWithin (fun a => doneReg a ∨ unitReg r.tenant a) s t

theorem commitLeaves_endRequest {st mask : Nat} (hr : s.requests = [r]) (hk : r.keep = true) (hbusy : (sess s r.slot).st = 1)
    (hq : r.q < 16384) (hs : swf (fun _ => {}) s.sessions = true) : commitLeaves r s (endRequest r.acc st mask s) := by
  obtain ⟨c, heq, hc⟩ := endRequest_of_keep (st := st) (mask := mask) hr hk hbusy
  obtain ⟨hkeep, hreg⟩ := keepsServed_queueCompletion (c := c) (s := leftHot r s) (by omega)
  have hleftHot : sess (leftHot r s) r.slot = { sess s r.slot with st := 2, idle := s.now } := sget_sset_same hs
  have hsess := sess_of_sessions (congrArg Served.sessions hkeep) r.slot
  have hleft : regsWithin (unitReg r.tenant) s (leftHot r s) := regsWithin_releaseUnits.trans (.of_csr rfl)
  rw [heq]
  exact ⟨by rw [hsess, hleftHot], congrArg Served.charged hkeep,
    ⟨congrArg Served.tarn hkeep, congrArg Served.mere hkeep, congrArg Served.flash hkeep⟩,
    (hleft.mono fun _ => Or.inr).trans (hreg.mono fun _ => Or.inl)⟩

/-- A request leaves a committed step: it ends, or goes on to the next. -/
theorem commitLeaves_afterCommit {done : Bool} {mask next : Nat} (hr : s.requests = [r]) (hk : r.keep = true)
    (hbusy : (sess s r.slot).st = 1) (hq : r.q < 16384) (hs : swf (fun _ => {}) s.sessions = true) :
    commitLeaves r s (afterCommit r.acc done mask next s) := by
  rw [afterCommit]
  split
  · exact commitLeaves_endRequest hr hk hbusy hq hs
  · split
    · exact commitLeaves_endRequest hr hk hbusy hq hs
    · exact ⟨rfl, rfl, ⟨rfl, rfl, rfl⟩, .of_csr rfl⟩

/-! ## The commit of a decode (R389, R393) -/

/-- A decode's session with its token appended, the units charged. -/
def appended (acc k : Nat) (s : State) : State :=
  let t := sampled (charge acc s)
  setSess k { sess t.2 k with pos := (sess t.2 k).pos + 1, last := t.1 } t.2

/-- A token counted. -/
def counted (acc : Nat) (s : State) : State :=
  bump (statReg (reqOf s acc).tenant 1) 1 (updReq acc (fun r => { r with nout := r.nout + 1 }) s)

/-- A token is counted, and what else its delivery does is sending. -/
theorem keepsServed_deliverToken {acc : Nat} {tok : Word} (hq : (reqOf s acc).q < 16384) :
    KeepsServed sendReg (counted acc s) (deliverToken acc tok s) := by
  simp only [deliverToken]
  split
  · exact keepsServed_sendItem hq
  · exact .refl _

/-- A decode commits: its session takes the token, which is delivered, and its request ends or goes on. -/
theorem commitDecode_eq (hr : s.requests = [r]) (hn : b.named.contains r.slot = false) :
    ∃ (tok : Word) (done : Bool), commitDecode b s r.acc =
      afterCommit r.acc done (segMask b) 4 (deliverToken r.acc tok (appended r.acc r.slot s)) := by
  rw [commitDecode, held_of_single hr, isNamed, reqOf_of_single hr, hn, if_neg Bool.false_ne_true, if_neg Bool.false_ne_true]
  exact ⟨_, _, rfl⟩

/-- The units of a request, charged. -/
def chargedWith (r : Request) : Request := { r with reserved := 0, charged := r.charged + r.reserved }

/-- The registers and the account after a charge. -/
def chargeUnits (n units : Nat) (s : State) : State :=
  { wr (tenReg n 8) (Word.ofNat ((rd s (tenReg n 8)).toNat - units)) (bump (statReg n 2) units s) with
    charged := sset (fun _ => 0) n (chargedOf s n + units) s.charged }

theorem charge_of_single (hr : s.requests = [r]) : charge r.acc s =
    updReq r.acc (fun x => { x with reserved := 0, charged := x.charged + r.reserved }) (chargeUnits r.tenant r.reserved s) := by
  simp only [charge, reqOf_of_single hr]
  rfl

/-- Appending leaves the request charged. -/
theorem requests_appended (hr : s.requests = [r]) : (appended r.acc r.slot s).requests = [chargedWith r] := by
  have hreq : (charge r.acc s).requests = [chargedWith r] := by
    rw [charge_of_single hr]
    exact updReq_of_single (s := chargeUnits r.tenant r.reserved s) hr _
  exact hreq

theorem csr_appended (hr : s.requests = [r]) : (appended r.acc r.slot s).csr = (chargeUnits r.tenant r.reserved s).csr :=
  (congrArg State.csr (charge_of_single hr) :)

theorem charged_appended (hr : s.requests = [r]) :
    (appended r.acc r.slot s).charged = (chargeUnits r.tenant r.reserved s).charged :=
  (congrArg State.charged (charge_of_single hr) :)

/-- The session is one position on. -/
theorem sess_appended {acc k : Nat} (hs : swf (fun _ => {}) s.sessions = true) :
    (sess (appended acc k s) k).pos = (sess s k).pos + 1 ∧ (sess (appended acc k s) k).st = (sess s k).st := by
  have hsess : sess (appended acc k s) k = { sess s k with pos := (sess s k).pos + 1, last := (sampled (charge acc s)).1 } :=
    sget_sset_same hs
  rw [hsess]
  exact ⟨rfl, rfl⟩

/-- Words that a charge changes. -/
def chargeReg (n a : Nat) : Prop := a = statReg n 2 ∨ a = tenReg n 8

theorem regsWithin_appended (hr : s.requests = [r]) : regsWithin (chargeReg r.tenant) s (appended r.acc r.slot s) :=
  regsWithin.trans (regsWithin.trans (regsWithin_wr (.inl rfl)) (regsWithin_wr (.inr rfl)))
    (.of_csr (csr_appended hr))

/-- The units are counted and charged. -/
theorem units_appended (hr : s.requests = [r]) (hs : swf resetWord s.csr = true)
    (hc : swf (fun _ => 0) s.charged = true) :
    counts s (appended r.acc r.slot s) (statReg r.tenant 2) r.reserved ∧
      chargedOf (appended r.acc r.slot s) r.tenant = chargedOf s r.tenant + r.reserved := by
  have hne : statReg r.tenant 2 ≠ tenReg r.tenant 8 := by
    simp only [statReg, tenReg]
    omega
  constructor
  · have hreserved : regsWithin (· = tenReg r.tenant 8) (bump (statReg r.tenant 2) r.reserved s)
        (chargeUnits r.tenant r.reserved s) := regsWithin_wr (p := (· = tenReg r.tenant 8)) rfl
    exact counts_congr rfl (csr_appended hr) (counts_after hne (hreserved (swf_csr_bump hs)).2 (rd_bump_same hs))
  · rw [chargedOf, charged_appended hr]
    exact sget_sset_same hc

/-- A request with one token more. -/
def withToken (r : Request) : Request := { r with nout := r.nout + 1 }

/-- What a decode's commit leaves before its request goes on or ends: a token counted, the units charged, and the session as
it was appended to. -/
theorem deliver_appended {tok : Word} (hr : s.requests = [r]) (hq : r.q < 16384) (ht : r.tenant < 256) (hc : canonical s = true)
    (hw : t = deliverToken r.acc tok (appended r.acc r.slot s)) :
    t.requests = [withToken (chargedWith r)] ∧ t.sessions = (appended r.acc r.slot s).sessions ∧
      chargedOf t r.tenant = chargedOf s r.tenant + r.reserved ∧ memoriesStay s t ∧ swf resetWord t.csr = true ∧
      counts s t (statReg r.tenant 1) 1 ∧ counts s t (statReg r.tenant 2) r.reserved := by
  have hcsr := csr_of_canonical hc
  have hreq : reqOf (appended r.acc r.slot s) r.acc = chargedWith r :=
    reqOf_of_single (r := chargedWith r) (requests_appended hr)
  obtain ⟨hunits, hcharged⟩ := units_appended hr hcsr (charged_of_canonical hc)
  obtain ⟨hcsrA, hregA⟩ := regsWithin_appended hr hcsr
  obtain ⟨hkeep, hsend⟩ := keepsServed_deliverToken (s := appended r.acc r.slot s) (acc := r.acc) (tok := tok)
    (by rw [hreq]; exact hq)
  obtain ⟨hcsrT, hregT⟩ := hsend (swf_csr_bump hcsrA)
  have hreqC : (counted r.acc (appended r.acc r.slot s)).requests = [withToken (chargedWith r)] :=
    updReq_of_single (r := chargedWith r) (requests_appended hr) _
  have hstat : ∀ n, ¬ sendReg (statReg r.tenant n) := fun n => by
    simp only [sendReg, statReg]
    omega
  have hone : counts (appended r.acc r.slot s) (counted r.acc (appended r.acc r.slot s)) (statReg r.tenant 1) 1 := by
    rw [counted, hreq]
    exact rd_bump_same (s := updReq r.acc withToken (appended r.acc r.slot s)) hcsrA
  have htwo : rd (counted r.acc (appended r.acc r.slot s)) (statReg r.tenant 2) =
      rd (appended r.acc r.slot s) (statReg r.tenant 2) := by
    rw [counted, hreq]
    exact rd_bump_other (s := updReq r.acc withToken (appended r.acc r.slot s)) hcsrA (by simp only [statReg, chargedWith]; omega)
  rw [hw]
  refine ⟨(congrArg Served.requests hkeep).trans hreqC, congrArg Served.sessions hkeep, ?_,
    ⟨congrArg Served.tarn hkeep, congrArg Served.mere hkeep, congrArg Served.flash hkeep⟩, hcsrT, ?_, ?_⟩
  · rw [chargedOf, show (deliverToken r.acc tok (appended r.acc r.slot s)).charged = _ from congrArg Served.charged hkeep]
    exact hcharged
  · exact counts_after (hstat 1) hregT (counts_before (by simp only [chargeReg, statReg, tenReg]; omega) hregA hone)
  · refine counts_after (hstat 2) hregT ?_
    rwa [counts, htwo]

/-- A decode commits: its session moves on by one position, its token is counted, and its units are charged. -/
theorem commitDecode_commits (hr : s.requests = [r]) (hn : b.named.contains r.slot = false) (hk : r.keep = true)
    (hq : r.q < 16384) (ht : r.tenant < 256) (hbusy : (sess s r.slot).st = 1) (hc : canonical s = true)
    (hu : u = commitDecode b s r.acc) :
    (sess u r.slot).pos = (sess s r.slot).pos + 1 ∧ counts s u (statReg r.tenant 1) 1 ∧
      counts s u (statReg r.tenant 2) r.reserved ∧ chargedOf u r.tenant = chargedOf s r.tenant + r.reserved ∧
      memoriesStay s u := by
  obtain ⟨tok, done, heq⟩ := commitDecode_eq hr hn
  obtain ⟨hreq, hsessions, hcharged, ⟨htarn, hmere, hflash⟩, hcsr, hone, htwo⟩ :=
    deliver_appended (tok := tok) hr hq ht hc rfl
  obtain ⟨hpos, hst⟩ := sess_appended (acc := r.acc) (k := r.slot) (sessions_of_canonical hc)
  have hsess := sess_of_sessions hsessions r.slot
  have hswf : swf (fun _ => {}) (deliverToken r.acc tok (appended r.acc r.slot s)).sessions = true := by
    rw [hsessions]
    exact swf_sset (l := s.sessions) (sessions_of_canonical hc)
  obtain ⟨hpos', hcharged', ⟨htarn', hmere', hflash'⟩, hreg⟩ :=
    commitLeaves_afterCommit (r := withToken (chargedWith r)) (done := done) (mask := segMask b) (next := 4) hreq hk
      (by rw [show (withToken (chargedWith r)).slot = r.slot from rfl, hsess, hst, hbusy]) hq hswf
  have hstat : ∀ n, n < 3 → ¬ (doneReg (statReg r.tenant n) ∨ unitReg r.tenant (statReg r.tenant n)) := fun n hlt => by
    simp only [doneReg, sendReg, unitReg, statReg, tenReg]
    omega
  rw [hu, heq]
  refine ⟨hpos'.trans ?_, counts_after (hstat 1 (by omega)) (hreg hcsr).2 hone,
    counts_after (hstat 2 (by omega)) (hreg hcsr).2 htwo, ?_, htarn'.trans htarn, hmere'.trans hmere, hflash'.trans hflash⟩
  · rw [← hpos, ← hsess]
    rfl
  · rw [← hcharged, chargedOf, chargedOf]
    exact congrArg (sget _ r.tenant) hcharged'

/-! ## The failure of a step (R30, R390) -/

/-- What Weast serves from, but for Mere. -/
def servedOffMere (s : State) : Served := { served s with mere := [] }

/-- Rows that count as undefined change Mere only, beside the free values drawn. -/
theorem loseRows_keeps {β : Type} (view : State → β) (hw : ∀ s a l, view (mereWrite a l s) = view s)
    (hf : ∀ s n, view (freeBytes n s).2 = view s) (k n : Nat) (s : State) : view (loseRows k n s) = view s := by
  unfold loseRows
  dsimp only
  split
  · rfl
  · refine iter_keeps view (fun i s => ?_) _ _
    split
    · rfl
    · exact iter_keeps view (fun l s => (hw ..).trans (hf s _)) _ _

/-- Writes that each leave a byte of Mere alone leave it alone together. -/
theorem mere_iter_outside {a n : Nat} {f : Nat → State → State} (h : ∀ l < n, ∀ s : State, swf zero8 s.mere = true →
    swf zero8 (f l s).mere = true ∧ sget zero8 a (f l s).mere = sget zero8 a s.mere) (hs : swf zero8 s.mere = true) :
    sget zero8 a (iter n f s).mere = sget zero8 a s.mere := by
  have hall : ∀ (l : List Nat) (s : State), (∀ x ∈ l, x < n) → swf zero8 s.mere = true →
      sget zero8 a (l.foldl (fun s i => f i s) s).mere = sget zero8 a s.mere := by
    intro l
    induction l with
    | nil => exact fun _ _ _ => rfl
    | cons x r ih =>
      intro s hlt hs
      obtain ⟨hs', hx⟩ := h x (hlt x (by simp)) s hs
      rw [List.foldl_cons, ih (f x s) (fun y hy => hlt y (by simp [hy])) hs', hx]
  exact hall _ s (fun x hx => List.mem_range.mp hx) hs

/-- One lost row is that of the session's position, in each layer of its frame. -/
theorem loseRows_one_outside {k fr a : Nat} {p : Pool} (hp : poolOf s (sess s k).fmt = some p)
    (hf : frameOf s p k (sess s k).s0 ((sess s k).pos / 16) = some fr) (hs : swf zero8 s.mere = true)
    (ha : ∀ l, l < p.nl → a < rowAt p (((sess s k).s0 + (sess s k).pos / 16) % 24) fr l ((sess s k).pos % 16) ∨
      rowAt p (((sess s k).s0 + (sess s k).pos / 16) % 24) fr l ((sess s k).pos % 16) + p.rb ≤ a) :
    sget zero8 a (loseRows k 1 s).mere = sget zero8 a s.mere := by
  have hone : ∀ f : Nat → State → State, iter 1 f s = f 0 s := fun _ => rfl
  unfold loseRows
  simp only [hp, hone, Nat.add_zero, hf]
  refine mere_iter_outside (fun l hl s hs => ?_) hs
  exact ⟨swf_ssetMany hs, mereWrite_outside hs (by simpa [freeBytes] using ha l hl)⟩

/-- The state of a request's failed step: its row is lost, and its units are returned. -/
def failed (b : Batch) (r : Request) (s : State) : State := releaseUnits r (loseRows r.slot (b.rows r.acc) s)

/-- A request whose step failed, waiting again. -/
def retried (r : Request) : Request := { r with inStep := false, reserved := 0, retries := r.retries + 1 }

theorem requests_loseRows (k n : Nat) (s : State) : (loseRows k n s).requests = s.requests :=
  loseRows_keeps (·.requests) (by simp) (fun _ _ => rfl) k n s

theorem csr_loseRows (k n : Nat) (s : State) : (loseRows k n s).csr = s.csr := 
  loseRows_keeps (·.csr) (by simp) (fun _ _ => rfl) k n s

/-- RETRY_LIMIT is no word of units. -/
theorem rdF_retries_failed (hs : swf resetWord s.csr = true) (ht : r.tenant < 256) :
    rdF (failed b r s) 0x500034 0 2 = rdF s 0x500034 0 2 := by
  have hreg : regsWithin (unitReg r.tenant) s (failed b r s) := .trans (.of_csr (csr_loseRows ..)) regsWithin_releaseUnits
  rw [rdF, (hreg hs).2 _ (by simp only [unitReg, tenReg]; omega), rdF]

/-- A request of a failed step with retries left waits again. -/
theorem failReq_of_retries (hr : s.requests = [r]) (hst : r.st ≠ 5) (hn : b.named.contains r.slot = false)
    (hcon : b.conseq = false) (hretry : r.retries < rdF (failed b r s) 0x500034 0 2) :
    failReq b s r.acc = updReq r.acc (fun x => { x with retries := x.retries + 1 })
      (bump (statReg r.tenant 7) 1 (updReq r.acc (fun x => { x with inStep := false }) (failed b r s))) := by
  rw [failReq, held_of_single hr, reqOf_of_single hr, if_neg Bool.false_ne_true]
  simp only [if_neg hst, hn, hcon, Bool.false_and, Bool.false_eq_true, if_false]
  exact if_pos hretry

/-- A decode's failed step: its request waits again with its units returned, and of Mere only the row that the step was to append
changes. -/
theorem failReq_waits (hr : s.requests = [r]) (hst : r.st ≠ 5) (hn : b.named.contains r.slot = false) (hcon : b.conseq = false)
    (hretry : r.retries < rdF s 0x500034 0 2) (ht : r.tenant < 256) (hs : swf resetWord s.csr = true)
    (hu : u = failReq b s r.acc) :
    u.tarn = s.tarn ∧ u.flash = s.flash ∧ u.sessions = s.sessions ∧ u.requests = [retried r] ∧
      rd u (tenReg r.tenant 7) = rd s (tenReg r.tenant 7) + Word.ofNat r.reserved ∧
      u.mere = (loseRows r.slot (b.rows r.acc) s).mere := by
  have hrow : servedOffMere (loseRows r.slot (b.rows r.acc) s) = servedOffMere s :=
    loseRows_keeps servedOffMere (fun _ _ _ => rfl) (fun _ _ => rfl) _ _ s
  have hreq : (loseRows r.slot (b.rows r.acc) s).requests = [r] := (requests_loseRows ..).trans hr
  have hcsr := csr_loseRows r.slot (b.rows r.acc) s
  rw [failReq_of_retries hr hst hn hcon (by rwa [rdF_retries_failed hs ht])] at hu
  have hregs : regsWithin (unitReg r.tenant) s (failed b r s) := .trans (.of_csr hcsr) regsWithin_releaseUnits
  subst hu
  refine ⟨congrArg Served.tarn hrow, congrArg Served.flash hrow, congrArg Served.sessions hrow, ?_, ?_, rfl⟩
  · simp [updReq, failed, releaseUnits, bump, wr, hreq, retried]
  · have hne : tenReg r.tenant 7 ≠ statReg r.tenant 7 := by
      simp only [tenReg, statReg]
      omega
    have hleft : rd (failed b r s) (tenReg r.tenant 7) = rd s (tenReg r.tenant 7) + Word.ofNat r.reserved := by
      rw [failed, rd_left_releaseUnits (by rwa [hcsr]), rd, hcsr, rd]
    rw [← hleft]
    rw [rd_updReq, rd_bump_other (by exact (hregs hs).1) hne, rd_updReq]

/-! ## SEGMENT_RESULT, STEP_COMMIT and COMMIT_TIMEOUT -/

theorem rows_of_decode {acc : Nat} (hd : b.decode = [acc]) (hp : b.prefill = []) : b.rows acc = 1 := by
  simp [Batch.rows, hd, hp]

/-- A result of another segment that has not reported is noted, and its packet taken. -/
theorem segmentResult_of_new {seg : Nat} {ok : Bool} (hp : powered s = true) (hb : s.batch = some b) (hseg : seg < b.nseg)
    (hself : seg ≠ b.self) (hnew : (b.segs.any fun x => x.1 == seg) = false) :
    segmentResult seg b.k ok s = { s with
      batch := some { b with segs := b.segs ++ [(seg, ok)] }
      mail := dropFirst (fun k => k.op == 8 && k.data == resultData b.k seg ok) s.mail } := by
  simp [segmentResult, hb, hp, hself, hnew, Nat.not_le.mpr hseg]

/-- A result is noted once. -/
theorem segmentResult_of_noted {seg : Nat} {ok : Bool} (hb : s.batch = some b) (hold : (b.segs.any fun x => x.1 == seg) = true) :
    segmentResult seg b.k ok s = s := by
  simp [segmentResult, hb, hold]

theorem stepCommit_of_open (hb : s.batch = some b) (hf : someFail b = false) (ho : allOk b = false) : stepCommit s = s := by
  simp [stepCommit, hb, hf, ho]

section
variable (hp : powered s = true) (hsil : s.recov.silent = false) (hb : s.batch = some b)
include hp hsil hb

theorem stepCommit_of_fail (he : b.ended.isSome = true) (hf : someFail b = true) : stepCommit s = failStep b s := by
  simp [stepCommit, hb, hp, hsil, Option.isSome_iff_ne_none.mp he, hf]

theorem stepCommit_of_ok (he : b.ended.isSome = true) (hf : someFail b = false) (ho : allOk b = true) :
    stepCommit s = commitAll b s := by
  simp [stepCommit, hb, hp, hsil, Option.isSome_iff_ne_none.mp he, hf, ho]

theorem commitTimeout_of_late {at_ : Nat} (he : b.ended = some at_) (hf : someFail b = false) (ho : allOk b = false)
    (hlate : at_ + 1000 * rdF s 0x500038 0 20 ≤ s.now) : commitTimeout s = failStep b s := by
  simp [commitTimeout, hb, he, hp, hsil, hf, ho, Nat.not_lt.mpr hlate]

end

/-- A batch of no request commits or fails without more. -/
theorem commitAll_of_members_nil (h : b.members = []) : commitAll b s = { s with batch := none } := by
  obtain ⟨hd, hp⟩ := List.append_eq_nil_iff.mp h
  rw [commitAll, hd, List.map_eq_nil_iff.mp hp]
  rfl

theorem failStep_of_members_nil (h : b.members = []) : failStep b s = { s with batch := none } := by
  rw [failStep, h]
  rfl

/-- One of a single decode commits or fails it. -/
theorem commitAll_of_decode {acc : Nat} (hd : b.decode = [acc]) (hp : b.prefill = []) :
    commitAll b s = { commitDecode b s acc with batch := none } := by
  rw [commitAll, hd, hp]
  rfl

theorem failStep_of_decode {acc : Nat} (hd : b.decode = [acc]) (hp : b.prefill = []) :
    failStep b s = { failReq b s acc with batch := none } := by
  rw [failStep, Batch.members, hd, hp]
  rfl

theorem exec_stepBuild (k : TaskId) (s : State) : exec (.stepBuild k) s = .next (stepBuild k.val s) := rfl

theorem exec_ringStepStart (k : TaskId) (s : State) : exec (.ringStepStart k) s = .next (ringStepStart k.val s) := rfl

theorem exec_segmentResult (seg step : Nat) (ok : Bool) (s : State) :
    exec (.segmentResult seg step ok) s = .next (segmentResult seg step ok s) := rfl

theorem exec_stepCommit (s : State) : exec .stepCommit s = .next (stepCommit s) := rfl

theorem exec_commitTimeout (s : State) : exec .commitTimeout s = .next (commitTimeout s) := rfl

/-! ## The clauses of O52 -/

/-- A management step begins. -/
theorem stepBuild_management_begins {k : TaskId} (hcsr : swf resetWord s.csr = true) (hserve : (taskImg s k.val).serve = [])
    (hmay : stepMayBegin s k.val 0) (ht : t = stepBuild k.val s) :
    stepBeganAt t k.val 0 ∧ t.stepNo = s.stepNo + 1 ∧ t.mere = s.mere ∧ t.tarn = s.tarn ∧
      t.batch = some { task := k.val, k := s.stepNo + 1, nseg := (taskImg s k.val).nseg } := by
  have hinHand : mayStartAt { s with
      stepNo := s.stepNo + 1, batch := some { task := k.val, k := s.stepNo + 1, nseg := (taskImg s k.val).nseg } } k.val 0 :=
    (mayStartAt_of_stepMayBegin hcsr hmay :)
  obtain ⟨hbegan, hkeep, -⟩ := startTask_begins hinHand
  rw [ht, stepBuild_management hmay.1 hmay.2.1 hserve]
  exact ⟨hbegan, congrArg Served.stepNo hkeep, congrArg Served.mere hkeep, congrArg Served.tarn hkeep,
    congrArg Served.batch hkeep⟩

/-- The step of one decode begins, its cost moved from LEFT to RESERVED. -/
theorem stepBuild_decode_begins {k : TaskId} {i : TaskImg} {cost : Nat} (hcsr : swf resetWord s.csr = true)
    (hi : i = taskImg s k.val) (hserve : i.serve ≠ []) (hper : i.period = 0) (h : ReadyDecode s k.val i r cost)
    (hmay : stepMayBegin s k.val (i.entryOf 0)) (ht : t = stepBuild k.val s) :
    stepBeganAt t k.val (i.entryOf 0) ∧ t.stepNo = s.stepNo + 1 ∧ t.mere = s.mere ∧
      t.batch = some { task := k.val, k := s.stepNo + 1, decode := [r.acc], nseg := i.nseg, self := i.f 56 2 } ∧
      t.requests = [{ r with inStep := true, reserved := cost }] ∧
      rd t (tenReg r.tenant 7) = rd s (tenReg r.tenant 7) - Word.ofNat cost ∧
      rd t (tenReg r.tenant 8) = rd s (tenReg r.tenant 8) + Word.ofNat cost := by
  obtain ⟨s2, hbuild, hreq, hmere, htime, hcsr2⟩ := buildStep_of_ready (n := s.stepNo + 1) h
  have hreserve : regsWithin buildReg s s2 := (keepsServed_reserve h.tenant).2.trans (.of_csr hcsr2)
  have hmay2 : mayStartAt s2 k.val (i.entryOf 0) :=
    mayStartAt_of_regsWithin (fun _ => Or.inl) hreserve htime (mayStartAt_of_stepMayBegin hcsr hmay)
  have hstep : t = startTask k.val (i.entryOf 0) (handBatch k.val (s.stepNo + 1) i [r.acc] [] s2) := by
    rw [ht, stepBuild_of_free hmay.1 hmay.2.1 (hi ▸ hserve) (hi ▸ hper), ← hi, hbuild]
  obtain ⟨hbegan, hno, hmere2, hreq2, hbatch, hstart⟩ := startTask_handBatch hmay2 hstep
  have hunits : ∀ w, rd t (tenReg r.tenant w) = rd (reserve r.tenant cost s) (tenReg r.tenant w) := fun w => by
    rw [(hstart (hreserve hcsr).1).2 _ (by simp only [startReg, tenReg]; omega), rd, hcsr2, rd]
  obtain ⟨hleft, hreserved⟩ := rd_reserve h.tenant hcsr h.covered
  have hinStep : inStepWith cost r = { r with inStep := true, reserved := cost } := by rw [inStepWith, ← h.state]
  exact ⟨hbegan, hno, hmere2.trans hmere, hbatch, by rw [hreq2, hreq, hinStep], (hunits 7).trans hleft, (hunits 8).trans hreserved⟩

/-- At its time a ring task's step begins under its revolution number, with an empty batch where it has no request. -/
theorem ringStepStart_begins {k : TaskId} {i : TaskImg} {n : Nat} (hcsr : swf resetWord s.csr = true) (hi : i = taskImg s k.val)
    (hn : n = timeCounter s / i.period) (hper : i.period ≠ 0) (hdue : timeCounter s % i.period = 0) (hnone : ordered s k.val = [])
    (hidle : (unitOf s oreKey).running = []) (hfit : 64 ≤ i.f 20 4) (hmay : stepMayBegin s k.val (i.entryOf 2))
    (ht : t = ringStepStart k.val s) :
    stepBeganAt t k.val (i.entryOf 2) ∧ t.stepNo = n ∧ t.mere = s.mere ∧
      t.batch = some { task := k.val, k := n, nseg := i.nseg, self := i.f 56 2 } ∧
      rd t rOreRevno = Word.ofNat (n * i.f 4 2 % (2 ^ 32 - 1)) := by
  have hrev := revnoWrite_of_idle (powered_of_stepFree hmay.1) hidle (Nat.mod_lt (n * i.f 4 2) (by decide : 0 < 2 ^ 32 - 1))
  have hreg : regsWithin buildReg s (wr rOreRevno (Word.ofNat (n * i.f 4 2 % (2 ^ 32 - 1))) s) :=
    regsWithin_wr (by simp only [buildReg]; decide)
  have hmay2 : mayStartAt (wr rOreRevno (Word.ofNat (n * i.f 4 2 % (2 ^ 32 - 1))) s) k.val (i.entryOf 2) :=
    mayStartAt_of_regsWithin (fun _ => Or.inl) hreg rfl (mayStartAt_of_stepMayBegin hcsr hmay)
  subst hi hn
  obtain ⟨hbegan, hno, hmere, -, hbatch, hstart⟩ := startTask_handBatch (t := t) hmay2 (by
    rw [ht, ringStepStart_of_due hmay.1 hmay.2.1 hper hdue, hrev, buildStep_ring_of_ordered_nil (by exact hnone) hfit])
  refine ⟨hbegan, hno, hmere, hbatch, ?_⟩
  rw [(hstart (hreg hcsr).1).2 _ (by simp only [startReg]; decide), rd_wr_same hcsr]

/-- Settles O52: the batches that begin a step, the results noted, and the commit or the failure of a step of one decode. -/
theorem stepsServed : Obligations.StepsServed := by
  unfold Obligations.StepsServed
  intro s hc
  have hcsr := csr_of_canonical hc
  refine ⟨fun k hserve hmay => ?_, fun k hfree hload hserve hper hnone => ?_, ?_, fun k => ⟨?_, fun h => ?_⟩,
    fun b seg ok hp hb => ⟨fun hseg hself hnew => ?_, fun hold => ?_⟩,
    fun b hp hsil hb he => ⟨fun hnil hend => ?_, fun hf ho => ?_, ?_⟩,
    fun b at_ hp hsil hb he hf ho hlate => ⟨fun hnil => ?_, ?_⟩⟩
  · exact ⟨_, exec_stepBuild k s, stepBuild_management_begins hcsr hserve hmay rfl⟩
  · rw [exec_stepBuild, stepBuild_of_free hfree hload hserve hper, buildStep_of_ordered_nil hnone]
  · intro k r i cost hserve hper hr hk hten hst hin htoks hbusy halloc hlim hfit hcost hmay
    have hready : ReadyDecode s k.val i r cost := ⟨hr, hk, hten, hst, hin, htoks, hbusy, halloc, hlim, hfit, rfl, hcost⟩
    obtain ⟨hbegan, hno, hmere, hbatch, hreq, hleft, hres⟩ := stepBuild_decode_begins hcsr rfl hserve hper hready hmay rfl
    exact ⟨_, exec_stepBuild k s, hbegan, hno, hmere, ⟨_, hbatch, rfl, rfl, rfl, rfl, rfl⟩, hreq, hleft, hres⟩
  · intro hper hdue hnone hidle hfit hmay
    exact ⟨_, exec_ringStepStart k s, ringStepStart_begins hcsr rfl rfl hper hdue hnone hidle hfit hmay rfl⟩
  · rw [exec_ringStepStart, ringStepStart_of_not_due h]
  · rw [exec_segmentResult, segmentResult_of_new hp hb hseg hself hnew]
  · rw [exec_segmentResult, segmentResult_of_noted hb hold]
  · rw [exec_stepCommit]
    cases hf : someFail b with
    | true => rw [stepCommit_of_fail hp hsil hb he hf, failStep_of_members_nil hnil]
    | false => rw [stepCommit_of_ok hp hsil hb he hf (hend.resolve_left (by simp [hf])), commitAll_of_members_nil hnil]
  · rw [exec_stepCommit, stepCommit_of_open hb hf ho]
  · intro r hd hpre hf ho hr hn hk hq hten hbusy
    rw [exec_stepCommit, stepCommit_of_ok hp hsil hb he hf ho, commitAll_of_decode hd hpre]
    have hcommit := commitDecode_commits (b := b) hr hn hk hq hten hbusy hc rfl
    exact ⟨_, rfl, rfl, hcommit⟩
  · rw [exec_commitTimeout, commitTimeout_of_late hp hsil hb he hf ho hlate, failStep_of_members_nil hnil]
  · intro r hd hpre hr hst hn hcon hretry hten x
    obtain ⟨htarn, hflash, hsess, hreq, hleft, hmere⟩ := failReq_waits (b := b) hr hst hn hcon hretry hten hcsr rfl
    rw [exec_commitTimeout, commitTimeout_of_late hp hsil hb he hf ho hlate, failStep_of_decode hd hpre]
    refine ⟨_, rfl, rfl, htarn, hflash, hsess, hreq, hleft, fun p fr a hpool hframe hout => ?_⟩
    rw [rows_of_decode hd hpre] at hmere
    exact (congrArg (sget zero8 a) hmere).trans (loseRows_one_outside hpool hframe (mere_of_canonical hc) hout)

end Sys2Proof.Machine
end

section
/-! SUPPORT. Frames of the stack sequencer's commands: stores read after a removal or a change of every entry, and the parts of the
state that registers, asserted errors and ledgers do not touch. -/

namespace Sys2Proof.Machine

variable {s t u : State} {p : Nat → Prop}

/-! ## Stores changed as a whole -/

/-- A key that a removal picks reads as unlisted; every other key reads as before. -/
theorem sget_sdrop {α : Type} [DecidableEq α] {d : Nat → α} {b : Nat} {l : List (Nat × α)} (h : swfFrom d b l = true)
    (p : Nat → Bool) (k : Nat) : sget d k (sdrop p l) = if p k then d k else sget d k l := by
  induction l generalizing b with
  | nil => simp [sdrop, sget]
  | cons e r ih =>
    obtain ⟨j, v⟩ := e
    simp only [swfFrom, Bool.and_eq_true] at h
    have hcons : sdrop p ((j, v) :: r) = if p j then sdrop p r else (j, v) :: sdrop p r := by
      simp only [sdrop, List.filter_cons]
      cases p j <;> rfl
    have hbelow : k = j ∨ k < j → sget d k r = d k := fun hk => sget_below h.2 (by omega)
    rw [hcons]
    split
    · rw [ih h.2, sget]
      split_ifs <;> simp_all
    · rw [sget, sget, ih h.2]
      split_ifs <;> simp_all

/-- Where every entry of a store changes by a function that keeps what unlisted keys read as, a key reads as its entry changed. -/
theorem sget_map_filter {α : Type} [DecidableEq α] {z : α} {g : α → α} (hg : g z = z) {b : Nat} {l : List (Nat × α)}
    (h : swfFrom (fun _ => z) b l = true) (k : Nat) :
    sget (fun _ => z) k ((l.map fun e => (e.1, g e.2)).filter fun e => e.2 != z) = g (sget (fun _ => z) k l) := by
  induction l generalizing b with
  | nil => simp [sget, hg]
  | cons e r ih =>
    obtain ⟨j, v⟩ := e
    simp only [swfFrom, Bool.and_eq_true] at h
    have hbelow : k = j ∨ k < j → sget (fun _ => z) k r = z := fun hk => sget_below h.2 (by omega)
    rw [List.map_cons, List.filter_cons]
    split
    · rw [sget, sget, ih h.2]
      split_ifs <;> simp_all
    · next hv =>
      have hz : g v = z := by simpa using hv
      rw [ih h.2, sget]
      split_ifs <;> simp_all

theorem flags_of_canonical (h : canonical s = true) : swf zero16 s.flags = true := by
  simp only [canonical, storesCanonical, Bool.and_eq_true] at h
  simp only [h]

theorem units_of_canonical (h : canonical s = true) : swf (fun _ => {}) s.units = true := by
  simp only [canonical, storesCanonical, Bool.and_eq_true] at h
  simp only [h]

/-! ## Flags -/

theorem wflag_lt (c : Cmd) : c.wflag < 4096 := Nat.mod_lt _ (by decide)

theorem sflag_lt (c : Cmd) : c.sflag < 4096 := Nat.mod_lt _ (by decide)

/-- Flags of two cores, or two flags of one, have places of their own. -/
theorem flagKey_ne {c c' f f' : Nat} (hf : f < 4096) (hf' : f' < 4096) (h : c' ≠ c ∨ f' ≠ f) : c' * 4096 + f' ≠ c * 4096 + f := by
  omega

theorem flag_setFlag_same {c f v : Nat} (h : swf zero16 s.flags = true) (hv : v ≤ 65535) : flag (setFlag c f v s) c f = v := by
  rw [flag, setFlag, sget_sset_same h, BitVec.toNat_ofNat, Nat.mod_eq_of_lt (by omega)]

theorem flag_setFlag_other {c c' f f' v : Nat} (h : swf zero16 s.flags = true) (hk : c' * 4096 + f' ≠ c * 4096 + f) :
    flag (setFlag c f v s) c' f' = flag s c' f' := by
  rw [flag, setFlag, sget_sset_other h hk, flag]

theorem swf_flags_setFlag {c f v : Nat} (h : swf zero16 s.flags = true) : swf zero16 (setFlag c f v s).flags = true := swf_sset h

theorem flag_congr (h : t.flags = s.flags) (c f : Nat) : flag t c f = flag s c f := by rw [flag, flag, h]

theorem flag_le (s : State) (c f : Nat) : flag s c f ≤ 65535 := by
  have := (sget zero16 (c * 4096 + f) s.flags).isLt
  rw [flag]
  omega

/-- The flags of live cores read 0 once they are reset (R35, R59, R70). -/
theorem flag_zeroFlags {c f : Nat} (h : swf zero16 s.flags = true) (hc : live s c = true) (hf : f < 4096) :
    flag (zeroFlags s) c f = 0 := by
  have hkey : (c * 4096 + f) / 4096 = c := by omega
  rw [flag, zeroFlags, sget_sdrop h, hkey, hc, if_pos rfl]
  rfl

/-- Which cores are live is a matter of MASK_LIVE. -/
theorem live_congr (h : rd t rMaskLive = rd s rMaskLive) (c : Nat) : live t c = live s c := by rw [live, live, h]

/-! ## What registers, errors and ledgers leave alone -/

/-- The state but for registers, asserted errors, and the stacks' tables of errors. -/
def offRegs (s : State) : State := { s with csr := [], pend := [], stackSt := [] }

/-- The state but for these and what the end of a step tells Weast, the loader and other parts. -/
def offEnd (s : State) : State := { offRegs s with transit := [], fabWait := [], tasks := [], batch := none }

theorem offEnd_of_offRegs (h : offRegs t = offRegs s) : offEnd t = offEnd s :=
  congrArg (fun x : State => { x with transit := [], fabWait := [], tasks := [], batch := none }) h

section
variable (h : offRegs t = offRegs s)
include h

theorem flags_of_offRegs : t.flags = s.flags := (congrArg State.flags h :)
theorem units_of_offRegs : t.units = s.units := (congrArg State.units h :)
theorem ssq_of_offRegs : t.ssq = s.ssq := (congrArg State.ssq h :)
theorem tarn_of_offRegs : t.tarn = s.tarn := (congrArg State.tarn h :)
theorem mere_of_offRegs : t.mere = s.mere := (congrArg State.mere h :)
theorem acc_of_offRegs : t.acc = s.acc := (congrArg State.acc h :)

end

@[simp] theorem offRegs_wr (a : Nat) (v : Word) (s : State) : offRegs (wr a v s) = offRegs s := rfl

@[simp] theorem offRegs_bump (a n : Nat) (s : State) : offRegs (bump a n s) = offRegs s := rfl

@[simp] theorem offRegs_wrF (a lo n v : Nat) (s : State) : offRegs (wrF a lo n v s) = offRegs s := rfl

@[simp] theorem offRegs_raise (source cause detail : Nat) (s : State) : offRegs (raise source cause detail s) = offRegs s :=
  raise_keeps offRegs (fun _ _ => rfl) ..

/-- Raising an error changes no register. -/
@[simp] theorem raise_csr (source cause detail : Nat) (s : State) : (raise source cause detail s).csr = s.csr :=
  raise_keeps (·.csr) (fun _ _ => rfl) ..

theorem regsWithin_bump {a n : Nat} (h : p a) : regsWithin p s (bump a n s) := regsWithin_wr h

/-- An error stays asserted while no error is dropped. -/
theorem asserts_of_pend {source cause : Nat} (h : t.pend = s.pend) (ha : asserts s source cause) : asserts t source cause := by
  rwa [asserts, h]

end Sys2Proof.Machine
end

section
/-! How a step of the stack sequencer begins (R32, R34, R35, R301). -/

namespace Sys2Proof.Machine

variable {s t u : State} {rq : Requester} {strict : Bool}

theorem exec_go (rq : Requester) (strict : Bool) (s : State) : exec (.go rq strict) s = .next (go rq strict s) := rfl

theorem exec_stepBeginAfterSettle (s : State) : exec .stepBeginAfterSettle s = .next (stepBeginAfterSettle s) := rfl

/-! ## The write of SSQ_CTL -/

/-- The STRICT bit of a write of SSQ_CTL. -/
def writesStrict (strict : Bool) (s : State) : State :=
  wrF rSsqCtl 1 1 (if strict then 1 else 0) { s with ssq := { s.ssq with strict := strict } }

/-- The write changes the word of SSQ_CTL alone. -/
theorem regsWithin_writesStrict : regsWithin (fun a => a = rSsqCtl) s (writesStrict strict s) :=
  regsWithin.trans (t := { s with ssq := { s.ssq with strict := strict } }) (.of_csr rfl) (regsWithin_wr rfl)

theorem canonical_writesStrict (h : canonical s = true) : canonical (writesStrict strict s) = true :=
  canonical_wr (s := { s with ssq := { s.ssq with strict := strict } }) h

theorem engines_of_running (hp : powered s = true) (hf : fclState s = 0) : engines s = true := by simp [engines, hp, hf]

/-- GO by a requester that may write starts a step in a powered part in RUN where none runs (R32). -/
theorem go_starts (hcsr : swf resetWord s.csr = true) (hp : powered s = true) (hf : fclState s = 0) (hw : mayWrite s rq = true)
    (hr : s.ssq.run = false) : go rq strict s = startStep (writesStrict strict s) := by
  have hword : rd (writesStrict strict s) rFclStatus = rd s rFclStatus := (regsWithin_writesStrict hcsr).2 _ (by decide)
  have hfcl : fclState (writesStrict strict s) = 0 := by rw [fclState, rdF, hword, ← rdF, ← fclState, hf]
  have hmay : mayStart (writesStrict strict s) = true := by
    rw [mayStart, engines_of_running (s := writesStrict strict s) hp hfcl, hfcl]
    rfl
  have hrun : (writesStrict strict s).ssq.run = false := hr
  have hgo : go rq strict s = if (!powered s) = true then s else if (!mayWrite s rq) = true then privRefuse rq s
      else if ((writesStrict strict s).ssq.run || !mayStart (writesStrict strict s)) = true then writesStrict strict s
      else startStep (writesStrict strict s) := rfl
  simp [hgo, hp, hw, hmay, hrun]

/-- GO while a step runs starts nothing (R32). -/
theorem go_of_running (hp : powered s = true) (hw : mayWrite s rq = true) (hr : s.ssq.run = true) :
    go rq strict s = writesStrict strict s := by
  have hrun : (writesStrict strict s).ssq.run = true := hr
  have hgo : go rq strict s = if (!powered s) = true then s else if (!mayWrite s rq) = true then privRefuse rq s
      else if ((writesStrict strict s).ssq.run || !mayStart (writesStrict strict s)) = true then writesStrict strict s
      else startStep (writesStrict strict s) := rfl
  simp [hgo, hp, hw, hrun]

/-- Settles O7: GO changes the STRICT bit alone while a step runs. -/
theorem goWhileRunning : Obligations.GoWhileRunning := by
  unfold Obligations.GoWhileRunning
  intro rq strict s hp hw hr
  rw [exec_go, go_of_running hp hw hr]
  rfl

/-! ## The resets of R35 -/

theorem offRegs_zeroAllSteps (s : State) : offRegs (zeroAllSteps s) = offRegs s :=
  foldl_keeps offRegs (fun s _ => iter_keeps offRegs (fun _ s => offRegs_wr _ _ s) _ s) _ s

theorem offRegs_frameBegin (s : State) : offRegs (frameBegin s) = offRegs s := by
  rw [frameBegin]
  split
  · refine iter_keeps offRegs (fun r s => ?_) _ _
    split <;> rfl
  · rfl

theorem endDown_flags (s : State) : (endDown s).flags = s.flags := by
  rw [endDown]
  split <;> rfl

theorem endDown_acc (s : State) : (endDown s).acc = s.acc := by
  rw [endDown]
  split <;> rfl

theorem endDown_csr (s : State) : (endDown s).csr = s.csr := by
  rw [endDown]
  split <;> rfl

theorem beforeEntry_flags (s : State) : (beforeEntry s).flags = (zeroFlags s).flags := by
  have hz : (zeroAllSteps (stepResets (endDown s))).flags = (stepResets (endDown s)).flags :=
    flags_of_offRegs (offRegs_zeroAllSteps _)
  have hr : (stepResets (endDown s)).flags = (zeroFlags s).flags := by
    have hlive : live (endDown s) = live s := funext (live_congr (by rw [rd, rd, endDown_csr]))
    simp only [stepResets, zeroFlags, endDown_flags]
    exact congrArg (fun l : Nat → Bool => sdrop (fun k => l (k / 4096)) s.flags) hlive
  rw [← hr, ← hz]
  simp only [beforeEntry]
  split <;> rfl

theorem beforeEntry_acc (s : State) : (beforeEntry s).acc = s.acc := by
  have hz : (zeroAllSteps (stepResets (endDown s))).acc = s.acc :=
    (acc_of_offRegs (offRegs_zeroAllSteps _)).trans (endDown_acc s)
  rw [← hz]
  simp only [beforeEntry]
  split <;> rfl

/-- A beginning step clears DONE, and takes flags, skip log and accumulators from the state with its resets made. -/
theorem beginStep_resets (s : State) : ∃ q : State, beginStep s = frameBegin q ∧ q.ssq.stepDone = false ∧
    q.ssq.skips = (beforeEntry s).ssq.skips ∧ q.flags = (beforeEntry s).flags ∧ q.acc = (beforeEntry s).acc ∧
    q.ssq.strict = (beforeEntry s).ssq.strict :=
  ⟨_, rfl, rfl, rfl, rfl, rfl, rfl⟩

theorem beginStep_strict (s : State) : (beginStep s).ssq.strict = s.ssq.strict := by
  obtain ⟨q, hq, -, -, -, -, hstrict⟩ := beginStep_resets s
  rw [hq, frameBegin_ssq, hstrict, beforeEntry_ssq]

/-- The resets of R35: what a step that begins finds. -/
theorem stepBegun_beginStep (hc : canonical s = true) : stepBegun s (beginStep s) := by
  obtain ⟨q, hq, hdone, hskips, hflags, hacc, -⟩ := beginStep_resets s
  obtain ⟨hrun, hheld, -, -, hissue⟩ := stepBeganAt_beginStep (csr_of_canonical hc) rfl
  have hkeep := keepsServed_beginStep (s := s)
  have hq' : offRegs (beginStep s) = offRegs q := by rw [hq, offRegs_frameBegin]
  have hssq : (beginStep s).ssq = q.ssq := ssq_of_offRegs hq'
  refine ⟨hrun, hheld, hssq ▸ hdone, hissue, ?_, fun c f hl hf => ?_, fun a hlo hhi => ?_, congrArg Served.mere hkeep.1,
    congrArg Served.tarn hkeep.1, ?_⟩
  · rw [hssq, hskips, beforeEntry_ssq]
  · have hz : (beginStep s).flags = (zeroFlags s).flags := (flags_of_offRegs hq').trans (hflags.trans (beforeEntry_flags s))
    rw [flag_congr hz, flag_zeroFlags (flags_of_canonical hc) hl hf]
  · exact (hkeep.2 (csr_of_canonical hc)).2 a (by simp only [startReg]; omega)
  · exact (acc_of_offRegs hq').trans (hacc.trans (beforeEntry_acc s))

/-- A step begun from a state that agrees with another in what a beginning keeps has begun from that one. -/
theorem stepBegun_of_agrees (hr : regsWithin (fun a => a = rSsqCtl) s t) (hcsr : swf resetWord s.csr = true)
    (hm : t.mere = s.mere) (ht : t.tarn = s.tarn) (ha : t.acc = s.acc) (h : stepBegun t u) : stepBegun s u := by
  have hrd := (hr hcsr).2
  obtain ⟨hrun, hheld, hdone, hissue, hskips, hflag, hword, hmere, htarn, hacc⟩ := h
  refine ⟨hrun, hheld, hdone, hissue, hskips, fun c f hl => hflag c f ?_, fun a hlo hhi => ?_, hmere.trans hm, htarn.trans ht,
    hacc.trans ha⟩
  · rwa [live_congr (hrd _ (by decide))]
  · rw [hword a hlo hhi, hrd a (by simp only [rSsqCtl]; omega)]

/-- GO for a loaded task, with its entry inside its stream and the oscillators settled, begins a step. -/
theorem go_begins (hc : canonical s = true) (hp : powered s = true) (hf : fclState s = 0) (hw : mayWrite s rq = true)
    (hr : s.ssq.run = false) (h : mayStartAt s (rdF s rSsqTask 0 6) (rd s rSsqEntry).toNat) :
    ∃ x, go rq strict s = beginStep x ∧ canonical x = true ∧ regsWithin (fun a => a = rSsqCtl) s x ∧ x.mere = s.mere ∧
      x.tarn = s.tarn ∧ x.acc = s.acc ∧ x.ssq.task = rdF s rSsqTask 0 6 ∧ x.ssq.strict = strict := by
  have hcsr := csr_of_canonical hc
  have hword := (regsWithin_writesStrict (strict := strict) hcsr).2
  have htask : rdF (writesStrict strict s) rSsqTask 0 6 = rdF s rSsqTask 0 6 := by rw [rdF, hword _ (by decide), rdF]
  have hmay : mayStartAt (writesStrict strict s) (rdF (writesStrict strict s) rSsqTask 0 6)
      (rd (writesStrict strict s) rSsqEntry).toNat := by
    obtain ⟨-, hk, hload, hlen, hosc⟩ := h
    rw [htask, hword rSsqEntry (by decide)]
    refine ⟨swf_csr_wr (s := { s with ssq := { s.ssq with strict := strict } }) hcsr, hk, ?_, ?_, ?_⟩
    · rwa [taskLoaded, hword _ (by simp only [rCompat, rSsqCtl]; omega)]
    · rwa [streamLen, hword _ (by simp only [rSsqCtl]; omega)]
    · rw [hword _ (by decide)]
      exact hosc
  refine ⟨namesTask (writesStrict strict s), by rw [go_starts hcsr hp hf hw hr, startStep_begins hmay], canonical_writesStrict hc,
    regsWithin.trans regsWithin_writesStrict (.of_csr rfl), rfl, rfl, rfl, htask, rfl⟩

/-- STEP_BEGIN_AFTER_SETTLE begins the step that is held. -/
theorem stepBeginAfterSettle_of_held (he : engines s = true) (hr : s.ssq.run = true) (hh : s.ssq.held = true)
    (ha : s.ssq.aborting = false) :
    stepBeginAfterSettle s = beginStep { s with time := { s.time with osc := bitOf (rd s rDetCtl) 0 } } := by
  simp [stepBeginAfterSettle, he, hr, hh, ha]

/-- Settles O5: both ways in which a step begins go through the resets of R35. -/
theorem stepBegins : Obligations.StepBegins := by
  unfold Obligations.StepBegins
  refine ⟨fun rq strict s hc hp hf hw hr hload hlen hosc => ?_, fun s hc he hr hh ha => ?_⟩
  · have hcsr := csr_of_canonical hc
    obtain ⟨x, hgo, hcx, hregs, hm, ht, hacc, htask, hstrict⟩ := go_begins (strict := strict) hc hp hf hw hr
      ⟨hcsr, Nat.mod_lt _ (by decide), hload, hlen, hosc⟩
    have hentry : (rd x rSsqEntry).toNat = (rd s rSsqEntry).toNat := by rw [(hregs hcsr).2 _ (by decide)]
    obtain ⟨-, -, hbtask, hoff, -⟩ := stepBeganAt_beginStep (csr_of_canonical hcx) hentry
    rw [exec_go, hgo]
    exact ⟨_, rfl, stepBegun_of_agrees hregs hcsr hm ht hacc (stepBegun_beginStep hcx), hbtask.trans htask,
      (beginStep_strict x).trans hstrict, hoff⟩
  · rw [exec_stepBeginAfterSettle, stepBeginAfterSettle_of_held he hr hh ha]
    have hcx : canonical { s with time := { s.time with osc := bitOf (rd s rDetCtl) 0 } } = true := hc
    obtain ⟨-, -, htask, -⟩ := stepBeganAt_beginStep (csr_of_canonical hcx) rfl
    exact ⟨_, rfl, stepBegun_of_agrees (.of_csr rfl) (csr_of_canonical hc) rfl rfl rfl (stepBegun_beginStep hcx), htask⟩

end Sys2Proof.Machine
end

section
/-! How a running step is made to end early: ABORT, OVERRUN and DEADLOCK_WALK (R70, R72, R73). -/

namespace Sys2Proof.Machine

variable {s t u : State} {result : Nat}

theorem exec_abort (s : State) : exec .abort s = .next (abort s) := rfl

theorem exec_overrun (s : State) : exec .overrun s = .next (overrun s) := rfl

theorem exec_deadlockWalk (s : State) : exec .deadlockWalk s = .next (deadlockWalk s) := rfl

theorem powered_of_engines (h : engines s = true) : powered s = true := by
  rw [engines, Bool.and_eq_true] at h
  exact h.1

/-! ## What an abort leaves of the units (R70) -/

/-- A unit under an abort: nothing waits, and what runs is to end at its iteration boundary. -/
def UnitSt.ending (x : UnitSt) : UnitSt :=
  { queue := [], running := x.running.map fun r => { r with todo := [], unsent := [], err := true } }

/-- A step that runs, is not held and not yet ending is to end with the result (R70). -/
theorem abortStep_of_running (hr : s.ssq.run = true) (hh : s.ssq.held = false) (ha : s.ssq.aborting = false) :
    ∃ x : State, abortStep result s = oreAbort x ∧
      x.ssq = { s.ssq with aborting := true, bundles := [], holds := [], result := result } ∧ x.pgv.reqs = [] ∧
      x.units = ((s.units.map fun e => (e.1, e.2.ending)).filter fun e => e.2 != {}) ∧
      x.flags = s.flags ∧ x.tarn = s.tarn ∧ x.mere = s.mere ∧ x.csr = s.csr ∧ x.pend = s.pend := by
  rw [abortStep, if_neg (by simp [hr]), if_neg (by simp [hh])]
  exact ⟨_, rfl, by simp [ha], rfl, rfl, rfl, rfl, rfl, rfl, rfl⟩

/-- Stopping the ring engine changes nothing beside it. -/
theorem oreAbort_keeps {β : Type} (view : State → β) (h : ∀ (s : State) (o : Ore), view { s with ore := o } = view s) (s : State) :
    view (oreAbort s) = view s := by
  rw [oreAbort]
  split
  · exact h _ _
  · rfl

/-- What an abort of a running step keeps beside the SSQ, the PGV and the units. -/
theorem abortStep_ends (hu : swf (fun _ => {}) s.units = true) (hr : s.ssq.run = true) (hh : s.ssq.held = false)
    (ha : s.ssq.aborting = false) (ht : t = abortStep result s) :
    stepEnding s t ∧ t.ssq.result = result ∧ t.ssq.deadlock = s.ssq.deadlock ∧ t.csr = s.csr ∧ t.pend = s.pend := by
  obtain ⟨x, hx, hssq, hreqs, hunits, hflags, htarn, hmere, hcsr, hpend⟩ := abortStep_of_running (result := result) hr hh ha
  rw [hx] at ht
  have hkeep : ∀ {β : Type} (view : State → β), (∀ (s : State) (o : Ore), view { s with ore := o } = view s) → view t = view x :=
    fun view h => ht ▸ oreAbort_keeps view h x
  have htssq : t.ssq = { s.ssq with aborting := true, bundles := [], holds := [], result := result } :=
    (hkeep (·.ssq) fun _ _ => rfl).trans hssq
  have hunit : ∀ k, unitOf t k = (unitOf s k).ending := fun k => by
    rw [unitOf, hkeep (·.units) fun _ _ => rfl, hunits, sget_map_filter rfl hu, unitOf]
  refine ⟨⟨?_, ?_, ?_, ?_, (congrArg Pgv.reqs (hkeep (·.pgv) fun _ _ => rfl)).trans hreqs, fun k => ?_, fun k => ?_,
    (hkeep (·.flags) fun _ _ => rfl).trans hflags, (hkeep (·.tarn) fun _ _ => rfl).trans htarn,
    (hkeep (·.mere) fun _ _ => rfl).trans hmere⟩, ?_, ?_, (hkeep (·.csr) fun _ _ => rfl).trans hcsr,
    (hkeep (·.pend) fun _ _ => rfl).trans hpend⟩
  · rw [htssq]
    exact hr
  · rw [htssq]
  · rw [htssq]
  · rw [htssq]
  · rw [hunit]
    rfl
  · rw [hunit, UnitSt.ending, List.all_map]
    exact List.all_eq_true.mpr fun _ _ => rfl
  · rw [htssq]
  · rw [htssq]

/-- A step ends as seen from every state with the same flags and memories. -/
theorem stepEnding_of_offRegs (h : offRegs t = offRegs s) (he : stepEnding t u) : stepEnding s u := by
  obtain ⟨hrun, hab, hb, hh, hreqs, hqueue, hrunning, hflags, htarn, hmere⟩ := he
  exact ⟨hrun, hab, hb, hh, hreqs, hqueue, hrunning, hflags.trans (flags_of_offRegs h), htarn.trans (tarn_of_offRegs h),
    hmere.trans (mere_of_offRegs h)⟩

/-- An abort that follows an error of the SSQ: the step ends with the result, and the error is asserted (R38, R72, R73). -/
theorem abortStep_raise_ends {cause detail : Nat} (hu : swf (fun _ => {}) s.units = true) (hr : s.ssq.run = true)
    (hh : s.ssq.held = false) (ha : s.ssq.aborting = false) (ht : t = abortStep result (raise (srcOf 4 0 0) cause detail s)) :
    stepEnding s t ∧ t.ssq.result = result ∧ t.ssq.deadlock = s.ssq.deadlock ∧ t.csr = s.csr ∧
      asserts t (srcOf 4 0 0) cause := by
  have hoff := offRegs_raise (srcOf 4 0 0) cause detail s
  have hssq := ssq_of_offRegs hoff
  obtain ⟨hend, hres, hdl, hcsr, hpend⟩ := abortStep_ends (by rwa [units_of_offRegs hoff]) (by rwa [hssq]) (by rwa [hssq])
    (by rwa [hssq]) ht
  exact ⟨stepEnding_of_offRegs hoff hend, hres, hdl.trans (by rw [hssq]), hcsr.trans (raise_csr ..),
    asserts_of_pend hpend (asserts_raise ..)⟩

/-! ## The three commands -/

theorem overrun_of_late (he : engines s = true) (hr : s.ssq.run = true) (hh : s.ssq.held = false) (ha : s.ssq.aborting = false)
    (hhalt : s.ssq.halt = false) (hon : bitOf (rd s rStepLimit) 31 = true)
    (hlate : s.ssq.began + fld (rd s rStepLimit) 0 24 * 1024 ≤ s.now) :
    overrun s = abortStep 3 (raise (srcOf 4 0 0) 0x13 0 s) := by
  simp [overrun, he, hr, hh, ha, hhalt, hon, hlate]

/-- The deadlock is counted, and its bit set. -/
def marksDeadlock (s : State) : State := bump rDeadlockCount 1 { s with ssq := { s.ssq with deadlock := true } }

theorem deadlockWalk_of_cycle (he : engines s = true) (hr : s.ssq.run = true) (hh : s.ssq.held = false)
    (ha : s.ssq.aborting = false) (hhalt : s.ssq.halt = false) (hlate : s.ssq.lastRetire + 2 ^ 20 ≤ s.now)
    (hwork : workLeft s = true) (hcycle : hasCycle (waitTable s) = true) :
    deadlockWalk s = abortStep 2 (raise (srcOf 4 0 0) 0x12 0 (marksDeadlock s)) := by
  have hnot : ¬ s.now < s.ssq.lastRetire + 1048576 := by omega
  simp [deadlockWalk, he, hr, hh, ha, hhalt, hnot, hwork, hcycle, marksDeadlock]

/-- Settles O8: each of the three commands comes to an abort of the step, the latter two after their error. -/
theorem stepAborts : Obligations.StepAborts := by
  unfold Obligations.StepAborts
  intro s hc he hr hh ha hhalt
  have hu := units_of_canonical hc
  refine ⟨?_, fun hon hlate => ?_, fun hlate hwork hcycle => ?_⟩
  · rw [exec_abort, abort, if_pos (powered_of_engines he)]
    obtain ⟨hend, hres, -⟩ := abortStep_ends (result := 6) hu hr hh ha rfl
    exact ⟨_, rfl, hend, hres⟩
  · rw [exec_overrun, overrun_of_late he hr hh ha hhalt hon hlate]
    obtain ⟨hend, hres, -, -, hpend⟩ := abortStep_raise_ends (result := 3) (cause := 0x13) (detail := 0) hu hr hh ha rfl
    exact ⟨_, rfl, hend, hres, hpend⟩
  · rw [exec_deadlockWalk, deadlockWalk_of_cycle he hr hh ha hhalt hlate hwork hcycle]
    obtain ⟨hend, hres, hdl, hcsr, hpend⟩ := abortStep_raise_ends (s := marksDeadlock s) (result := 2) (cause := 0x12) (detail := 0)
      hu hr hh ha rfl
    have hcount : (rd (marksDeadlock s) rDeadlockCount).toNat = min ((rd s rDeadlockCount).toNat + 1) 0xFFFFFFFF :=
      rd_bump_same (s := { s with ssq := { s.ssq with deadlock := true } }) (csr_of_canonical hc)
    exact ⟨_, rfl, hend, hres, hdl, by rw [rd, hcsr]; exact hcount, hpend⟩

end Sys2Proof.Machine
end

section
/-! How a step ends: at once for GO outside a stream (R34), or once everything of it has retired (R41, R59). -/

namespace Sys2Proof.Machine

variable {s t u : State} {rq : Requester} {strict : Bool} {result : Nat}

theorem exec_stepEnd (s : State) : exec .stepEnd s = .next (stepEnd s) := rfl

/-! ## The ledgers, Weast and the loader at a step's end (R41, R389, R403, R412) -/

section
variable (h : offEnd t = offEnd s)
include h

theorem ssq_of_offEnd : t.ssq = s.ssq := (congrArg State.ssq h :)
theorem units_of_offEnd : t.units = s.units := (congrArg State.units h :)
theorem flags_of_offEnd : t.flags = s.flags := (congrArg State.flags h :)
theorem tarn_of_offEnd : t.tarn = s.tarn := (congrArg State.tarn h :)
theorem mere_of_offEnd : t.mere = s.mere := (congrArg State.mere h :)
theorem acc_of_offEnd : t.acc = s.acc := (congrArg State.acc h :)

end

/-- Words that the end of a step changes: those of the ledgers, LDR_CTL and LDR_STATUS, and the entry of a task unloaded. -/
def endReg (a : Nat) : Prop := (0x14000 ≤ a ∧ a ≤ 0x14008) ∨ a = rLdrCtl ∨ a = rLdrStatus ∨ (0x18400 ≤ a ∧ a < 0x18500)

theorem offRegs_checkLedgers (s : State) : offRegs (checkLedgers s) = offRegs s := by
  simp only [checkLedgers, offRegs_bump]
  exact foldl_keeps offRegs (fun s i => by rw [offRegs_raise, offRegs_bump, setBit, offRegs_wrF]) _ s

theorem regsWithin_checkLedgers : regsWithin endReg s (checkLedgers s) := by
  simp only [checkLedgers]
  refine regsWithin.trans (regsWithin_foldl fun s i _ => ?_) (regsWithin_bump (.inl (by decide)))
  have hset : regsWithin endReg s (setBit 0x14000 i s) := regsWithin_wr (.inl ⟨by decide, by decide⟩)
  have hcount : regsWithin endReg (setBit 0x14000 i s) (bump 0x14004 1 (setBit 0x14000 i s)) :=
    regsWithin_bump (.inl ⟨by decide, by decide⟩)
  exact (hset.trans hcount).trans (.of_csr (raise_csr ..))

theorem offEnd_freshPacket (k : Packet) (s : State) : offEnd (freshPacket k s) = offEnd s := by
  rw [freshPacket]
  split <;> rfl

theorem freshPacket_csr (k : Packet) (s : State) : (freshPacket k s).csr = s.csr := by
  rw [freshPacket]
  split <;> rfl

theorem freshPacket_batch (k : Packet) (s : State) : (freshPacket k s).batch = s.batch := by
  rw [freshPacket]
  split <;> rfl

/-- The step in hand as noted at its end here. -/
def Batch.endedAt (b : Batch) (now : Nat) (ok : Bool) : Batch := { b with ended := some now, segs := (b.self, ok) :: b.segs }

/-- Weast notes the end of the step in hand once, and may send a packet of it. -/
theorem endBatch_cases (result : Nat) (s : State) : endBatch result s = s ∨
    ∃ b, s.batch = some b ∧ b.ended = none ∧
      (endBatch result s = { s with batch := some (b.endedAt s.now (result == 0 && !b.failed)) } ∨
        ∃ k, endBatch result s = freshPacket k { s with batch := some (b.endedAt s.now (result == 0 && !b.failed)) }) := by
  rw [endBatch]
  split
  · exact .inl rfl
  · next b hb =>
    split
    · exact .inl rfl
    · next he =>
      refine .inr ⟨b, hb, by simpa using he, ?_⟩
      simp only
      split
      · exact .inr ⟨_, rfl⟩
      · exact .inl rfl

theorem offEnd_endBatch (result : Nat) (s : State) : offEnd (endBatch result s) = offEnd s := by
  obtain h | ⟨b, -, -, h | ⟨k, h⟩⟩ := endBatch_cases result s <;> rw [h]
  · rfl
  · exact offEnd_freshPacket k _

theorem endBatch_csr (result : Nat) (s : State) : (endBatch result s).csr = s.csr := by
  obtain h | ⟨b, -, -, h | ⟨k, h⟩⟩ := endBatch_cases result s <;> rw [h]
  exact freshPacket_csr k _

/-- The step in hand is noted as ended, with its own segment's result. -/
theorem endBatch_batch {b : Batch} (hb : s.batch = some b) (he : b.ended = none) :
    (endBatch result s).batch = some (b.endedAt s.now (result == 0 && !b.failed)) := by
  rw [endBatch, hb]
  simp only [he, Option.isSome_none, Bool.false_eq_true, if_false]
  split
  · rw [sendMgmt, freshPacket_batch, Batch.endedAt]
  · rfl

theorem offEnd_lateUnload (s : State) : offEnd (lateUnload s) = offEnd s := by
  simp only [lateUnload]
  split <;> rfl

theorem lateUnload_batch (s : State) : (lateUnload s).batch = s.batch := by
  simp only [lateUnload]
  split <;> rfl

theorem regsWithin_lateUnload : regsWithin endReg s (lateUnload s) := by
  have htask : rdF s rLdrCtl 2 6 < 64 := Nat.mod_lt _ (by decide)
  simp only [lateUnload, unloadTask]
  split
  · refine .trans (.trans (.trans (t := { s with tasks := _ }) (.of_csr rfl) (regsWithin_wr ?_)) (regsWithin_wr ?_)) (regsWithin_wr ?_)
    · exact .inr (.inr (.inr ⟨by simp only [rCompat]; omega, by simp only [rCompat]; omega⟩))
    · exact .inr (.inr (.inl rfl))
    · exact .inr (.inl rfl)
  · exact .of_csr rfl

/-- The SSQ of a state as a step's end leaves it. -/
def endsSsq (result : Nat) (s : State) : State := { s with ssq := endSsq result s.ssq }

/-- A step that ends leaves the engines as they were, but for the SSQ. -/
theorem offEnd_endStep (result : Nat) (s : State) : offEnd (endStep result s) = offEnd (endsSsq result s) := by
  rw [endStep, offEnd_lateUnload, offEnd_endBatch, offEnd_of_offRegs (offRegs_checkLedgers _), endsSsq]

theorem regsWithin_endStep : regsWithin endReg s (endStep result s) :=
  .trans (.trans (.trans (t := endsSsq result s) (.of_csr rfl) regsWithin_checkLedgers) (.of_csr (endBatch_csr ..)))
    regsWithin_lateUnload

theorem checkLedgers_keeps_batch (s : State) : (checkLedgers s).batch = s.batch ∧ (checkLedgers s).now = s.now := by
  have h := offRegs_checkLedgers s
  exact ⟨(congrArg State.batch h :), (congrArg State.now h :)⟩

theorem endStep_batch {b : Batch} (hb : s.batch = some b) (he : b.ended = none) :
    (endStep result s).batch = some (b.endedAt s.now (result == 0 && !b.failed)) := by
  obtain ⟨hbatch, hnow⟩ := checkLedgers_keeps_batch (endsSsq result s)
  have hend : endStep result s = lateUnload (endBatch result (checkLedgers (endsSsq result s))) := rfl
  rw [hend, lateUnload_batch, endBatch_batch (hbatch.trans hb) he, hnow, endsSsq]

/-- What the end of a step leaves, but for what it tells of the step. -/
theorem endStep_ends (ht : t = endStep result s) :
    t.ssq = endSsq result s.ssq ∧ t.flags = s.flags ∧ t.units = s.units ∧ t.tarn = s.tarn ∧ t.mere = s.mere ∧ t.acc = s.acc := by
  have h : offEnd t = offEnd (endsSsq result s) := ht ▸ offEnd_endStep result s
  exact ⟨ssq_of_offEnd h, (flags_of_offEnd h :), (units_of_offEnd h :), (tarn_of_offEnd h :), (mere_of_offEnd h :), (acc_of_offEnd h :)⟩

/-! ## GO outside a stream (R34) -/

/-- A start of a task not loaded, or at an entry outside its section, ends the step at once with result STREAM (R34). -/
theorem startStep_ends (h : taskLoaded s (rdF s rSsqTask 0 6) = false ∨
      streamLen s (rdF s rSsqTask 0 6) ≤ (rd s rSsqEntry).toNat * 16) :
    startStep s = raise (srcOf 4 0 0) 0x10 0 (endStep 5 (zeroAllSteps (stepResets (namesTask s)))) := by
  have hstart : startStep s = if (!(taskLoaded (namesTask s) (rdF s rSsqTask 0 6)) ||
      decide (streamLen (namesTask s) (rdF s rSsqTask 0 6) ≤ (rd (namesTask s) rSsqEntry).toNat * 16)) = true then
        raise (srcOf 4 0 0) 0x10 0 (endStep 5 (zeroAllSteps (stepResets (namesTask s)))) else _ := rfl
  rw [hstart, if_pos]
  rw [Bool.or_eq_true, Bool.not_eq_true', decide_eq_true_iff]
  exact h

/-- What an end at once leaves: the SSQ idle with result STREAM, the flags of live cores 0, and no unit changed. -/
theorem startStep_ends_stream (hc : canonical s = true)
    (h : taskLoaded s (rdF s rSsqTask 0 6) = false ∨ streamLen s (rdF s rSsqTask 0 6) ≤ (rd s rSsqEntry).toNat * 16)
    (ht : t = startStep s) :
    t.ssq.run = false ∧ t.ssq.result = 5 ∧ t.ssq.stepDone = true ∧ t.ssq.issue = 0 ∧ t.ssq.skips = [] ∧
      (∀ c f, live s c = true → f < 4096 → flag t c f = 0) ∧ asserts t (srcOf 4 0 0) 0x10 ∧ t.units = s.units := by
  obtain ⟨hssq, hflags, hunits, -⟩ := endStep_ends (result := 5) (s := zeroAllSteps (stepResets (namesTask s))) rfl
  have hz := offRegs_zeroAllSteps (stepResets (namesTask s))
  have hr := offRegs_raise (srcOf 4 0 0) 0x10 0 (endStep 5 (zeroAllSteps (stepResets (namesTask s))))
  rw [← startStep_ends h, ← ht] at hr
  have htssq : t.ssq = endSsq 5 (stepResets (namesTask s)).ssq := by
    rw [ssq_of_offRegs hr, hssq, ssq_of_offRegs hz]
  have htflags : t.flags = (zeroFlags s).flags := (flags_of_offRegs hr).trans (hflags.trans (flags_of_offRegs hz :))
  rw [htssq]
  refine ⟨rfl, rfl, rfl, rfl, rfl, fun c f hl hf => ?_, ?_, (units_of_offRegs hr).trans (hunits.trans (units_of_offRegs hz :))⟩
  · rw [flag_congr htflags, flag_zeroFlags (flags_of_canonical hc) hl hf]
  · rw [ht, startStep_ends h]
    exact asserts_raise ..

/-- Settles O6: such a GO comes to the end at once, with the stream fault. -/
theorem goEndsOutsideStream : Obligations.GoEndsOutsideStream := by
  unfold Obligations.GoEndsOutsideStream
  intro rq strict s hc hp hf hw hr hout
  have hcsr := csr_of_canonical hc
  have hword := (regsWithin_writesStrict (strict := strict) hcsr).2
  have htask : rdF (writesStrict strict s) rSsqTask 0 6 = rdF s rSsqTask 0 6 := by rw [rdF, hword _ (by decide), rdF]
  have hout' : taskLoaded (writesStrict strict s) (rdF (writesStrict strict s) rSsqTask 0 6) = false ∨
      streamLen (writesStrict strict s) (rdF (writesStrict strict s) rSsqTask 0 6) ≤ (rd (writesStrict strict s) rSsqEntry).toNat * 16 := by
    rwa [htask, taskLoaded, streamLen, hword _ (by simp only [rCompat, rSsqCtl]; omega), hword _ (by simp only [rSsqCtl]; omega),
      hword rSsqEntry (by decide)]
  obtain ⟨hrun, hres, hdone, hissue, hskips, hflag, hpend, hunits⟩ :=
    startStep_ends_stream (s := writesStrict strict s) (t := go rq strict s) (canonical_writesStrict hc) hout'
      (go_starts hcsr hp hf hw hr)
  refine ⟨_, exec_go .., hrun, hres, hdone, hissue, hskips, fun c f hl hf' => hflag c f ?_ hf', hpend, hunits⟩
  rwa [live_congr (hword _ (by decide))]

/-! ## STEP_END (R41, R59) -/

/-- The flags that are not 0 are counted and reset (R59). -/
def countsResidue (s : State) : State := zeroFlags (bump rFlagResidue (residue s) s)

/-- Scales adapt at the end of a step with result OK (R273). -/
def adaptsIf (result : Nat) (s : State) : State := if result = 0 then adapt s else s

/-- A step that is done counts its flags that are not 0, resets them, adapts its scales, and ends. -/
theorem stepEnd_of_done (he : engines s = true) (hr : s.ssq.run = true) (hh : s.ssq.held = false) (ha : s.ssq.aborting = false)
    (hhalt : s.ssq.halt = false) (hd : allDone s = true) (hres : result = if residue s = 0 then s.ssq.result else 4) :
    stepEnd s = endStep result (adaptsIf result (countsResidue s)) := by
  rw [stepEnd, if_neg (by simp [he, hr, hh]), if_neg (by simp [ha]), if_neg (by simp [hd, hhalt]), hres]
  rfl

theorem stepEnd_of_not_done (hh : s.ssq.held = false) (ha : s.ssq.aborting = false) (hd : allDone s = false) : stepEnd s = s := by
  simp [stepEnd, hh, ha, hd]

/-- Adaptation changes registers of cores only. -/
theorem offRegs_adaptSlot (c k : Nat) (s : State) : offRegs (adaptSlot c k s) = offRegs s := by
  simp only [adaptSlot]
  split_ifs <;> rfl

theorem coreWord_coreReg {c off : Nat} (hc : c < 12) (ho : off < 0x10000) : coreWord (coreReg c off) := by
  simp only [coreWord, coreReg]
  omega

theorem regsWithin_adaptSlot {c k : Nat} (hc : c < 12) (hk : k < 64) : regsWithin coreWord s (adaptSlot c k s) := by
  have hpair : fld (cfg s (coreReg c (0xB600 + 4 * k))) 3 6 < 64 := Nat.mod_lt _ (by decide)
  have hword : ∀ {off : Nat}, off < 0x10000 → coreWord (coreReg c off) := coreWord_coreReg hc
  simp only [adaptSlot]
  split_ifs
  · exact .of_csr rfl
  · exact regsWithin_bump (hword (by omega))
  · exact .trans (.trans (regsWithin_wr (hword (by omega))) (regsWithin_wr (hword (by omega)))) (regsWithin_bump (hword (by omega)))
  · exact .trans (regsWithin_wr (hword (by omega))) (regsWithin_bump (hword (by omega)))

theorem offRegs_adapt (s : State) : offRegs (adapt s) = offRegs s :=
  foldl_keeps offRegs (fun s c => iter_keeps offRegs (fun i s => offRegs_adaptSlot c (i + 1) s) _ s) _ s

theorem regsWithin_adapt : regsWithin coreWord s (adapt s) :=
  regsWithin_foldl fun _ _ hc => regsWithin_foldl fun _ i hi =>
    regsWithin_adaptSlot (live_lt hc) (by have := List.mem_range.mp hi; omega)

theorem offRegs_adaptsIf (result : Nat) (s : State) : offRegs (adaptsIf result s) = offRegs s := by
  rw [adaptsIf]
  split
  · exact offRegs_adapt s
  · rfl

theorem regsWithin_adaptsIf : regsWithin coreWord s (adaptsIf result s) := by
  rw [adaptsIf]
  split
  · exact regsWithin_adapt
  · exact .of_csr rfl

theorem flag_countsResidue {c f : Nat} (hc : canonical s = true) (hl : live s c = true) (hf : f < 4096) :
    flag (countsResidue s) c f = 0 := by
  have hlive : live (bump rFlagResidue (residue s) s) c = true := by
    rwa [live_congr (rd_bump_other (csr_of_canonical hc) (by decide))]
  exact flag_zeroFlags (s := bump rFlagResidue (residue s) s) (flags_of_canonical (s := s) hc) hlive hf

/-- What the end of a step that is done leaves. -/
theorem stepEnd_ends (hc : canonical s = true) (ht : t = endStep result (adaptsIf result (countsResidue s))) :
    t.ssq = endSsq result s.ssq ∧ counts s t rFlagResidue (residue s) ∧
      (∀ c f, live s c = true → f < 4096 → flag t c f = 0) ∧ t.tarn = s.tarn ∧ t.mere = s.mere ∧ t.acc = s.acc ∧
      ∀ b : Batch, s.batch = some b → b.ended = none → t.batch = some (b.endedAt s.now (result == 0 && !b.failed)) := by
  have hcsr := csr_of_canonical hc
  obtain ⟨hssq, hflags, -, htarn, hmere, hacc⟩ := endStep_ends ht
  have hoff := offRegs_adaptsIf result (countsResidue s)
  refine ⟨hssq.trans (congrArg (endSsq result) (ssq_of_offRegs hoff :)), ?_, fun c f hl hf => ?_, htarn.trans (tarn_of_offRegs hoff :),
    hmere.trans (mere_of_offRegs hoff :), hacc.trans (acc_of_offRegs hoff :), fun b hb hnone => ?_⟩
  · have hcount : counts s (countsResidue s) rFlagResidue (residue s) := rd_bump_same (s := s) hcsr
    have hbump : swf resetWord (countsResidue s).csr = true := swf_csr_bump (s := s) hcsr
    obtain ⟨hcsr', hadapt⟩ := regsWithin_adaptsIf (result := result) hbump
    have hend : registersStay (adaptsIf result (countsResidue s)) t endReg := ht ▸ (regsWithin_endStep hcsr').2
    exact counts_after (by simp only [endReg]; decide) hend (counts_after (by simp only [coreWord]; decide) hadapt hcount)
  · rw [flag_congr (hflags.trans (flags_of_offRegs hoff)), flag_countsResidue hc hl hf]
  · have hbatch : (adaptsIf result (countsResidue s)).batch = s.batch := (congrArg State.batch hoff :)
    have hnow : (adaptsIf result (countsResidue s)).now = s.now := (congrArg State.now hoff :)
    rw [ht, endStep_batch (hbatch.trans hb) hnone, hnow]

/-- Settles O17: a step ends once it is done, with its flags counted and reset, and not before. -/
theorem stepEnds : Obligations.StepEnds := by
  unfold Obligations.StepEnds
  intro s hc he hr hh ha hhalt
  refine ⟨fun hd => ?_, fun hd => ?_⟩
  · obtain ⟨hssq, hcount, hflag, htarn, hmere, hacc, hbatch⟩ := stepEnd_ends hc (stepEnd_of_done he hr hh ha hhalt hd rfl)
    refine ⟨_, exec_stepEnd s, ?_, ?_, ?_, hcount, hflag, htarn, hmere, hacc, fun hne b hb hnone => ?_⟩
    · rw [hssq]
      rfl
    · rw [hssq]
      rfl
    · rw [hssq]
      rfl
    · exact ⟨_, hbatch b hb hnone, rfl, by simp [Batch.endedAt, hne]⟩
  · rw [exec_stepEnd, stepEnd_of_not_done hh ha hd]

end Sys2Proof.Machine
end

section
/-! How bundles are fetched (R36, R37, R38, R53). -/

namespace Sys2Proof.Machine

variable {s t u : State} {ecc : EccMap}

theorem exec_bundleFetch (ecc : EccMap) (s : State) : exec (.bundleFetch ecc) s = .next (bundleFetch ecc s) := rfl

/-! ## Reading the stream -/

theorem offRegs_checkBank (n bank : Nat) (old : StackSt) (s : State) : offRegs (checkBank n bank old s) = offRegs s := by
  simp only [checkBank]
  split
  · rw [degrade, offRegs_raise, setBit, offRegs_wrF, setBit, offRegs_wrF]
  · rfl

/-- What the code of an access unit finds changes registers, errors and the tables of its stack only (R225, R226). -/
theorem offRegs_eccNote (e : Ecc) (a : Nat) (s : State) : offRegs (eccNote e a s) = offRegs s := by
  cases e with
  | clean => rfl
  | corrected =>
    simp only [eccNote, corrected]
    split
    · rw [offRegs_raise]
      rfl
    · rfl
  | uncorrectable =>
    rw [eccNote, uncorrectable, offRegs_raise, noteUe, offRegs_checkBank]
    rfl

theorem offRegs_wakeStack (n : Nat) (s : State) : offRegs (wakeStack n s) = offRegs s := by
  rw [wakeStack]
  split <;> rfl

/-- An access to Mere touches nothing else either (R221, R224). -/
theorem offRegs_reachMere (ecc : EccMap) (a n : Nat) (s : State) : offRegs (reachMere ecc a n s) = offRegs s :=
  (foldl_keeps offRegs (fun s u => offRegs_eccNote _ (u * 256) s) _ _).trans
    (foldl_keeps offRegs (fun s n => offRegs_wakeStack n s) _ s)

/-! ## The bundle that is fetched -/

/-- Of the bundles fetched only one with an id changes, and that only in its tokens. -/
def TokensOf (lead : Nat) (x y : Bundle) : Prop :=
  y = { x with tokens := y.tokens, asked := y.asked, granted := y.granted } ∧ (x.id ≠ lead → y = x)

/-- A bundle that is joined to another adds its tokens to that one's (R37). -/
def joinsLead (lead tokens count : Nat) (s : State) : State :=
  if lead = s.ssq.nextBundle ∨ count = 0 then s else joinTokens lead tokens s

theorem joinsLead_keeps {β : Type} (view : State → β) (h : ∀ (s : State) (q : Ssq), view { s with ssq := q } = view s)
    (lead tokens count : Nat) (s : State) : view (joinsLead lead tokens count s) = view s := by
  rw [joinsLead]
  split
  · rfl
  · exact h _ _

/-- The SSQ after a join: bundle for bundle as before, but for the tokens of the one joined to. -/
theorem joinsLead_ssq (lead tokens count : Nat) (s : State) : ∃ old : List Bundle,
    (joinsLead lead tokens count s).ssq = { s.ssq with bundles := old } ∧
    (lead = s.ssq.nextBundle ∨ count = 0 → old = s.ssq.bundles) ∧ old.length = s.ssq.bundles.length ∧
    ∀ (n : Nat) (x y : Bundle), s.ssq.bundles[n]? = some x → old[n]? = some y → TokensOf lead x y := by
  rw [joinsLead]
  split
  · refine ⟨s.ssq.bundles, rfl, fun _ => rfl, rfl, fun n x y hx hy => ?_⟩
    obtain rfl : x = y := Option.some.inj (hx.symm.trans hy)
    exact ⟨rfl, fun _ => rfl⟩
  · next hlead =>
    refine ⟨_, rfl, fun h => absurd h hlead, List.length_map _, fun n x y hx hy => ?_⟩
    rw [List.getElem?_map, hx, Option.map_some] at hy
    obtain rfl := Option.some.inj hy
    split
    · next hid => exact ⟨rfl, fun hne => absurd hid hne⟩
    · exact ⟨rfl, fun _ => rfl⟩

/-- The bundle that lies at the fetch offset, from its header h and its bytes l (R36, R37). -/
def bundleAt (s : State) (h l : List Byte) (count : Nat) : Bundle :=
  let lead := joined s (s.ssq.lastIssue + leAt h 0 2) (leAt h 3 1)
  let own := lead == s.ssq.nextBundle && leAt h 4 4 % 4096 != 0 && count != 0
  { id := s.ssq.nextBundle, lead := lead, issue := s.ssq.lastIssue + leAt h 0 2, tag := leAt h 6 2, fence := leAt h 3 1,
    tokens := leAt h 4 4 % 4096, asked := !own, granted := !own
    cmds := (List.range count).map fun i => (i, Cmd.ofBytes (slice (16 + 32 * i) 32 l)) }

theorem bundleAt_cmds {h l : List Byte} {count i : Nat} (hi : i < count) :
    (bundleAt s h l count).cmds[i]? = some (i, Cmd.ofBytes (slice (16 + 32 * i) 32 l)) := by
  simp [bundleAt, hi]

/-- The bundle joins those fetched. -/
def appendsBundle (off : Nat) (b : Bundle) (s : State) : State :=
  { s with ssq := { s.ssq with
      fetchOff := off, lastIssue := b.issue, nextBundle := s.ssq.nextBundle + 1,
      bundles := s.ssq.bundles ++ [b], endSeen := b.fence.testBit 3 } }

theorem appendsBundle_ssq {off : Nat} {b : Bundle} {q : Ssq} {old : List Bundle} (h : s.ssq = { q with bundles := old }) :
    (appendsBundle off b s).ssq = { q with
      fetchOff := off, lastIssue := b.issue, nextBundle := q.nextBundle + 1, bundles := old ++ [b], endSeen := b.fence.testBit 3 } := by
  rw [appendsBundle, h]

section
variable {h l : List Byte} {count : Nat} (hopen : stepOpen s = true) (hend : s.ssq.endSeen = false)
  (hh : h = streamBytes s s.ssq.fetchOff 16) (hcount : count = leAt h 0 4 / 2 ^ 16 % 32)
  (hl : l = streamBytes s s.ssq.fetchOff (16 + 32 * count)) (hle : count ≤ 16)
  (hin : s.ssq.fetchOff + 16 + 32 * count ≤ streamLen s s.ssq.task)
include hopen hend hh hcount hl hle hin

/-- What a fetch makes of a bundle of at most 16 commands that lies inside the section. -/
theorem bundleFetch_of_inside : bundleFetch ecc s =
    if 8192 < buffered s + count then s
    else if !(bundleOk l count) then streamFault (leAt h 6 2) (reachStream ecc s.ssq.fetchOff (16 + 32 * count) s)
    else
      let x := reachStream ecc s.ssq.fetchOff (16 + 32 * count) s
      appendsBundle (s.ssq.fetchOff + (16 + 32 * count)) (bundleAt x h l count)
        (joinsLead (bundleAt x h l count).lead (bundleAt x h l count).tokens count x) := by
  simp only [bundleFetch]
  rw [if_neg (by simp [hopen, hend]), if_neg (by omega), ← hh, ← hcount, ← hl, if_neg (by omega)]
  split
  · rfl
  · split
    · rfl
    · generalize reachStream ecc s.ssq.fetchOff (16 + 32 * count) s = x
      by_cases hj : joined x (x.ssq.lastIssue + leAt h 0 2) (leAt h 3 1) = x.ssq.nextBundle ∨ count = 0
      · have hjoin : joinsLead (bundleAt x h l count).lead (bundleAt x h l count).tokens count x = x := if_pos hj
        simp only [if_pos hj, hjoin]
        rfl
      · have hjoin : joinsLead (bundleAt x h l count).lead (bundleAt x h l count).tokens count x =
          joinTokens (bundleAt x h l count).lead (bundleAt x h l count).tokens x := if_neg hj
        simp only [if_neg hj, hjoin]
        rfl

end

/-- The stream fault of a bundle ends the step (R38). -/
theorem streamFault_ends {tag : Nat} (hoff : offRegs t = offRegs s) (hc : canonical s = true) (hopen : stepOpen s = true)
    (hu : u = streamFault tag t) : stepEnding s u ∧ u.ssq.result = 5 ∧ asserts u (srcOf 4 0 0) 0x10 := by
  simp only [stepOpen, Bool.and_eq_true, Bool.not_eq_true'] at hopen
  obtain ⟨⟨⟨⟨-, hrun⟩, hheld⟩, -⟩, hab⟩ := hopen
  have hssq := ssq_of_offRegs hoff
  obtain ⟨hend, hres, -, -, hpend⟩ := abortStep_raise_ends (s := t) (t := u) (result := 5) (cause := 0x10) (detail := tag)
    (by rw [units_of_offRegs hoff]; exact units_of_canonical hc) (by rwa [hssq]) (by rwa [hssq]) (by rwa [hssq]) hu
  exact ⟨stepEnding_of_offRegs hoff hend, hres, hpend⟩

/-- Settles O9: a bundle inside the section is fetched, waits for room, or ends the step. -/
theorem bundleFetched : Obligations.BundleFetched := by
  unfold Obligations.BundleFetched
  intro ecc s hopen hend h count l hle hin
  have hfetch := bundleFetch_of_inside (ecc := ecc) hopen hend (h := h) (l := l) (count := count) rfl rfl rfl hle hin
  have hoff : offRegs (reachStream ecc s.ssq.fetchOff (16 + 32 * count) s) = offRegs s := offRegs_reachMere ..
  refine ⟨fun hfull => ?_, fun hroom hok => ?_, fun hroom hbad hc => ?_⟩
  · rw [exec_bundleFetch, hfetch, if_pos hfull]
  · rw [if_neg (by omega), hok, if_neg (by decide)] at hfetch
    generalize reachStream ecc s.ssq.fetchOff (16 + 32 * count) s = x at hfetch hoff
    have hssq := ssq_of_offRegs hoff
    simp only at hfetch
    generalize hb : bundleAt x h l count = b at hfetch
    obtain ⟨old, ho, hsame, hlen, htok⟩ := joinsLead_ssq b.lead b.tokens count x
    have hkeep : ∀ {β : Type} (view : State → β), (∀ (s : State) (q : Ssq), view { s with ssq := q } = view s) →
        view (appendsBundle (s.ssq.fetchOff + (16 + 32 * count)) b (joinsLead b.lead b.tokens count x)) = view x :=
      fun view h => (h _ _).trans (joinsLead_keeps view h ..)
    rw [hssq] at hsame hlen htok
    refine ⟨_, old, b, (exec_bundleFetch ecc s).trans (congrArg _ hfetch), ?_, ?_, hlen, htok,
      (hkeep (·.units) fun _ _ => rfl).trans (units_of_offRegs hoff :), (hkeep (·.flags) fun _ _ => rfl).trans (flags_of_offRegs hoff :),
      (hkeep (·.tarn) fun _ _ => rfl).trans (tarn_of_offRegs hoff :), (hkeep (·.mere) fun _ _ => rfl).trans (mere_of_offRegs hoff :),
      ?_, ?_, ?_, ?_, ?_, ?_, fun i hi => ?_⟩
    all_goals subst hb
    · rw [appendsBundle_ssq ho, hssq, Nat.add_assoc]
      simp only [bundleAt, hssq]
    · rintro (hlead | h0)
      · exact hsame (.inl (hlead.trans (congrArg Ssq.nextBundle hssq)))
      · exact hsame (.inr h0)
    · rw [← hssq]
      rfl
    · rfl
    · rfl
    · rfl
    · rfl
    · simp [bundleAt]
    · exact bundleAt_cmds hi
  · rw [if_neg (by omega), hbad, Bool.not_false, if_pos rfl] at hfetch
    rw [exec_bundleFetch, hfetch]
    exact ⟨_, rfl, streamFault_ends hoff hc hopen rfl⟩

end Sys2Proof.Machine
end

section
/-! How commands are dispatched to the units' queues (R42, R51, R52, R53). -/

namespace Sys2Proof.Machine

variable {s t : State} {b : Bundle} {slot : Nat} {c : Cmd}

theorem exec_dispatch (s : State) : exec .dispatch s = .next (dispatch s) := rfl

theorem unitOf_setUnit_same {k : Nat} {v : UnitSt} (h : swf (fun _ => {}) s.units = true) : unitOf (setUnit k v s) k = v :=
  sget_sset_same h

theorem unitOf_setUnit_other {k k' : Nat} {v : UnitSt} (h : swf (fun _ => {}) s.units = true) (hk : k' ≠ k) :
    unitOf (setUnit k v s) k' = unitOf s k' := sget_sset_other h hk

theorem unitOf_congr (h : t.units = s.units) (k : Nat) : unitOf t k = unitOf s k := by rw [unitOf, unitOf, h]

/-- A command as dispatch makes it: with its bundle's time and tag, and the reason that the checks of dispatch find. -/
def dispatchedCmd (s : State) (b : Bundle) (slot : Nat) (c : Cmd) : QCmd :=
  { cmd := c, core := c.core, tag := b.tag, slot := slot, issue := b.issue, bundle := b.lead, refused := dispatchReason s b.fence c }

/-- It leaves its bundle. -/
def leavesBundle (b : Bundle) (s : State) : State := updBundle b.id (fun x => { x with cmds := x.cmds.tail }) s

/-- A command that taps takes the next number of its unit (R172). -/
theorem numberTap_keeps {β : Type} (view : State → β) (h : ∀ (s : State) (q : Ssq), view { s with ssq := q } = view s) (n : Nat)
    (c : Cmd) (s : State) : view (numberTap n c s).2 = view s := by
  simp only [numberTap]
  split
  · rfl
  · exact h _ _

/-- The queue entry of core n, as it joins the queue in state s. -/
def placedCmd (c : Cmd) (q : QCmd) (n : Nat) (s : State) : QCmd :=
  { q with core := n, seq := (numberTap n c s).2.ssq.nextSeq, tapNo := (numberTap n c s).1 }

/-- The command takes its numbers for core n: as a tapping one, and in stream order. -/
def takesSeq (c : Cmd) (n : Nat) (s : State) : State :=
  { (numberTap n c s).2 with ssq := { (numberTap n c s).2.ssq with nextSeq := (numberTap n c s).2.ssq.nextSeq + 1 } }

theorem takesSeq_keeps {β : Type} (view : State → β) (h : ∀ (s : State) (q : Ssq), view { s with ssq := q } = view s) (n : Nat)
    (s : State) : view (takesSeq c n s) = view s := by
  rw [← numberTap_keeps view h n c s]
  exact h _ _

/-- The command joins the queue of its unit of core n. -/
def place (c : Cmd) (q : QCmd) (s : State) (n : Nat) : State :=
  setUnit (unitKey n c.unit) { unitOf (takesSeq c n s) (unitKey n c.unit) with
    queue := (unitOf (takesSeq c n s) (unitKey n c.unit)).queue ++ [placedCmd c q n s] } (takesSeq c n s)

/-- Beside the SSQ's numbers, placing a command changes one unit. -/
theorem place_units (q : QCmd) (s : State) (n : Nat) : (place c q s n).units = (setUnit (unitKey n c.unit) {
    unitOf s (unitKey n c.unit) with queue := (unitOf s (unitKey n c.unit)).queue ++ [placedCmd c q n s] } s).units := by
  have hu : (takesSeq c n s).units = s.units := takesSeq_keeps (·.units) (fun _ _ => rfl) n s
  simp only [place, setUnit, unitOf, hu]

theorem place_keeps {β : Type} (view : State → β) (hs : ∀ (s : State) (q : Ssq), view { s with ssq := q } = view s)
    (hu : ∀ (s : State) (k : Nat) (v : UnitSt), view (setUnit k v s) = view s) (q : QCmd) (s : State) (n : Nat) :
    view (place c q s n) = view s := by
  rw [place, hu, takesSeq_keeps view hs]

/-- Cores have queues of their own for each unit below the ring engine. -/
theorem unitKey_inj {u n m : Nat} (hu : u ≠ 11) (h : unitKey n u = unitKey m u) : n = m := by
  simp only [unitKey, if_neg hu] at h
  omega

/-- A command that is for several cores is not for the ring engine (R43). -/
theorem targets_cases (s : State) (c : Cmd) : targets s c = [c.core] ∨ targets s c = [] ∨ (targets s c = liveCores s ∧ c.unit ≠ 11) := by
  rw [targets]
  split
  · exact .inr (.inl rfl)
  · next h =>
    split
    · next hc =>
      refine .inr (.inr ⟨rfl, fun hu => h (.inr (.inr ?_))⟩)
      simp [badCore, hc, hu]
    · exact .inl rfl

/-- Its queues are apart. -/
theorem targets_queues (s : State) (c : Cmd) : ((targets s c).map fun n => unitKey n c.unit).Nodup := by
  obtain h | h | ⟨h, hu⟩ := targets_cases s c <;> rw [h]
  · exact List.nodup_singleton _
  · exact List.nodup_nil
  · exact (List.nodup_range.filter _).map fun n m hk => unitKey_inj hu hk

/-- Placed on each core of a list whose queues are apart, the command stands at the end of each of them. -/
theorem unitOf_foldl_place {q : QCmd} {l : List Nat} (hl : (l.map fun n => unitKey n c.unit).Nodup)
    (hu : swf (fun _ => {}) s.units = true) :
    (∀ k, k ∉ l.map (fun n => unitKey n c.unit) → unitOf (l.foldl (place c q) s) k = unitOf s k) ∧
    ∀ n ∈ l, ∃ x, unitOf (l.foldl (place c q) s) (unitKey n c.unit) =
      { unitOf s (unitKey n c.unit) with queue := (unitOf s (unitKey n c.unit)).queue ++ [placedCmd c q n x] } := by
  induction l generalizing s with
  | nil => exact ⟨fun _ _ => rfl, fun n hn => absurd hn List.not_mem_nil⟩
  | cons m r ih =>
    rw [List.map_cons, List.nodup_cons] at hl
    have hu' : swf (fun _ => {}) (place c q s m).units = true := by
      rw [place_units]
      exact swf_sset hu
    obtain ⟨hother, hin⟩ := ih hl.2 hu'
    have hsame : unitOf (place c q s m) (unitKey m c.unit) = { unitOf s (unitKey m c.unit) with
        queue := (unitOf s (unitKey m c.unit)).queue ++ [placedCmd c q m s] } := by
      rw [unitOf_congr (place_units q s m), unitOf_setUnit_same hu]
    have hrest : ∀ k, k ≠ unitKey m c.unit → unitOf (place c q s m) k = unitOf s k := fun k hk => by
      rw [unitOf_congr (place_units q s m), unitOf_setUnit_other hu hk]
    refine ⟨fun k hk => ?_, fun n hn => ?_⟩
    · rw [List.map_cons, List.mem_cons, not_or] at hk
      rw [List.foldl_cons, hother k hk.2, hrest k hk.1]
    · rw [List.foldl_cons]
      obtain rfl | hn := List.mem_cons.mp hn
      · exact ⟨s, by rw [hother _ hl.1, hsame]⟩
      · obtain ⟨x, hx⟩ := hin n hn
        have hne : unitKey n c.unit ≠ unitKey m c.unit := fun he => hl.1 (he ▸ List.mem_map_of_mem hn)
        exact ⟨x, by rw [hx, hrest _ hne]⟩

/-- The command joins those that the SSQ holds. -/
def joinsHolds (q : QCmd) (s : State) : State :=
  { s with ssq := { s.ssq with holds := s.ssq.holds ++ [{ q with seq := s.ssq.nextSeq }], nextSeq := s.ssq.nextSeq + 1 } }

/-- What dispatch makes of the next command, within the run-ahead limit and with room in its queues. -/
theorem dispatch_of_room (hopen : stepOpen s = true) (hn : nextCmd s = some (b, slot, c))
    (hahead : b.issue ≤ s.ssq.issue + fld (rd s rRunahead) 0 24) (hroom : fullQueue s c = none) :
    dispatch s = if targets s c = [] then joinsHolds (dispatchedCmd s b slot c) (leavesBundle b s)
      else (targets s c).foldl (place c (dispatchedCmd s b slot c)) (leavesBundle b s) := by
  have htargets : targets (updBundle b.id (fun x => { x with cmds := x.cmds.tail }) s) c = targets s c := rfl
  rw [dispatch, if_neg (by simp [hopen]), hn]
  simp only
  rw [if_neg (by simp [hroom, hahead])]
  cases h : targets s c with
  | nil =>
    rw [if_pos rfl]
    simp only [htargets, h]
    rfl
  | cons m r =>
    rw [if_neg (List.cons_ne_nil m r)]
    simp only [htargets, h]
    rfl

/-- Settles O10: the command joins its queues, or those that the SSQ holds. -/
theorem dispatched : Obligations.Dispatched := by
  unfold Obligations.Dispatched
  intro s b slot c hc hopen hn hahead hroom
  have hd := dispatch_of_room hopen hn hahead hroom
  have hkeep : ∀ {β : Type} (view : State → β), (∀ (s : State) (q : Ssq), view { s with ssq := q } = view s) →
      (∀ (s : State) (k : Nat) (v : UnitSt), view (setUnit k v s) = view s) → view (dispatch s) = view s := fun view hs hu => by
    rw [hd]
    split
    · exact (hs _ _).trans (hs _ _)
    · exact (foldl_keeps view (fun s n => place_keeps view hs hu _ s n) _ _).trans (hs _ _)
  refine ⟨_, exec_dispatch s, hkeep (·.tarn) (fun _ _ => rfl) (fun _ _ _ => rfl), hkeep (·.mere) (fun _ _ => rfl) (fun _ _ _ => rfl),
    hkeep (·.csr) (fun _ _ => rfl) (fun _ _ _ => rfl), hkeep (·.flags) (fun _ _ => rfl) (fun _ _ _ => rfl), fun hnone => ?_,
    fun n hmem => ?_⟩
  · rw [hd, if_pos hnone]
    exact ⟨_, rfl, rfl, rfl, rfl, rfl, rfl⟩
  · rw [hd, if_neg (List.ne_nil_of_mem hmem)]
    have hunits := units_of_canonical (s := leavesBundle b s) hc
    obtain ⟨x, hx⟩ := (unitOf_foldl_place (q := dispatchedCmd s b slot c) (targets_queues s c) hunits).2 n hmem
    have hsame : unitOf (leavesBundle b s) (unitKey n c.unit) = unitOf s (unitKey n c.unit) := rfl
    rw [hx, hsame]
    exact ⟨_, rfl, rfl, rfl, rfl, rfl, rfl, rfl, rfl⟩

end Sys2Proof.Machine
end

section
/-! INSTRUCTION STREAM. Issue of bundles and the tokens of the PGV (R38–R40, R408): what BUNDLE_ISSUE and TOKEN_GRANT make of the first
bundle and of the first request. -/

namespace Sys2Proof.Machine

variable {s : State}

theorem exec_bundleIssue (s : State) : exec .bundleIssue s = .next (bundleIssue s) := rfl

theorem exec_tokenGrant (s : State) : exec .tokenGrant s = .next (tokenGrant s) := rfl

/-! ## BUNDLE_ISSUE -/

/-- Settles O11: a bundle joined to an earlier one has asked already, and asks nothing more. -/
theorem bundleIssues : Obligations.BundleIssued := by
  unfold Obligations.BundleIssued
  intro s b hopen hnext htime hfence
  have hnot : ¬(s.ssq.issue < b.issue ∨ (!fencesMet s b) = true) := by simp [htime, hfence]
  rw [exec_bundleIssue, bundleIssue, if_neg (by simp [hopen]), hnext]
  simp only [Bool.or_eq_true, decide_eq_true_eq, if_neg hnot]
  cases hasked : b.asked with
  | true => simp only [if_true, List.append_nil, updBundle]
  | false => simp only [Bool.false_eq_true, if_false, updBundle]

/-! ## TOKEN_GRANT -/

/-- The first request leaves the PGV. -/
def dropsRequest (rest : List PgvReq) (s : State) : State := { s with pgv := { s.pgv with reqs := rest } }

/-- A bundle with its grant. -/
def Bundle.takesGrant (a : Nat) (x : Bundle) : Bundle := { x with granted := true, grant := a }

/-- A bundle with a command still to start keeps its grant. -/
theorem settleBundle_of_unstarted {b : Nat} (h : unstarted s b = true) : settleBundle b s = s := by
  rw [settleBundle, if_pos h]

/-- Which commands have started does not turn on a bundle's grant. -/
theorem unstarted_updBundle {b b' : Nat} {s : State} (f : Bundle → Bundle) (hlead : ∀ x, (f x).lead = x.lead)
    (hcmds : ∀ x, (f x).cmds = x.cmds) : unstarted (updBundle b f s) b' = unstarted s b' := by
  have hany : ((s.ssq.bundles.map fun x => if x.id = b then f x else x).any fun x => x.lead == b' && !x.cmds.isEmpty) =
      s.ssq.bundles.any fun x => x.lead == b' && !x.cmds.isEmpty := by
    rw [List.any_map]
    congr 1
    funext x
    by_cases hx : x.id = b <;> simp [hx, hlead, hcmds]
  simp only [unstarted, updBundle, hany]

/-- What TOKEN_GRANT does once the pool can serve the first request. -/
theorem tokenGrant_of_room {r : PgvReq} {rest : List PgvReq} (heng : engines s = true) (hrun : s.ssq.run = true)
    (hab : s.ssq.aborting = false) (hreqs : s.pgv.reqs = r :: rest) (hroom : s.pgv.held + min r.amount (poolSize s) ≤ poolSize s) :
    tokenGrant s =
      if r.isDraw then
        match headOf (dropsRequest rest s) r.unit with
        | some q =>
          if q.seq ≠ r.seq then dropsRequest rest s
          else
            setUnit r.unit { unitOf s r.unit with
              queue := { q with asked := false, drawn := q.drawn + min r.amount (poolSize s) } :: (unitOf s r.unit).queue.tail }
              (takeTokens (min r.amount (poolSize s)) (dropsRequest rest s))
        | none => dropsRequest rest s
      else
        settleBundle r.bundle (updBundle r.bundle (Bundle.takesGrant (min r.amount (poolSize s)))
          (takeTokens (min r.amount (poolSize s))
            (if poolSize s < r.amount then bump rPgvClamp 1 (dropsRequest rest s) else dropsRequest rest s))) := by
  rw [tokenGrant, if_neg (by simp [heng, hrun, hab]), hreqs]
  simp only [if_neg (Nat.not_lt.mpr hroom)]
  rfl

/-- Settles O12: a grant returns at once only where every command has started; a draw goes to the command that asked for it. -/
theorem tokensGranted : Obligations.TokensGranted := by
  unfold Obligations.TokensGranted
  intro s r rest hc heng hrun hab hreqs
  refine ⟨fun hroom hdraw hopen => ⟨_, exec_tokenGrant s, ?_⟩, fun q hroom hdraw hhead hseq => ⟨_, exec_tokenGrant s, ?_⟩,
    fun hfull => ?_⟩
  · have hkeep : unstarted (updBundle r.bundle (Bundle.takesGrant (min r.amount (poolSize s)))
        (takeTokens (min r.amount (poolSize s))
          (if poolSize s < r.amount then bump rPgvClamp 1 (dropsRequest rest s) else dropsRequest rest s))) r.bundle = true := by
      rw [unstarted_updBundle (Bundle.takesGrant _) (fun _ => rfl) (fun _ => rfl), ← hopen]
      split <;> rfl
    rw [tokenGrant_of_room heng hrun hab hreqs hroom, if_neg (by simp [hdraw]), settleBundle_of_unstarted hkeep]
    split <;> exact ⟨rfl, rfl, rfl, rfl⟩
  · have hhead' : headOf (dropsRequest rest s) r.unit = some q := hhead
    rw [tokenGrant_of_room heng hrun hab hreqs hroom, if_pos hdraw, hhead']
    simp only [ne_eq, hseq, not_true_eq_false, if_false]
    refine ⟨rfl, rfl, ?_⟩
    have hunits : swf (fun _ => {}) (takeTokens (min r.amount (poolSize s)) (dropsRequest rest s)).units = true :=
      units_of_canonical (s := s) hc
    rw [headOf, unitOf_setUnit_same hunits]
    exact congrArg some (by rw [← hseq])
  · rw [exec_tokenGrant, tokenGrant, if_neg (by simp [heng, hrun, hab]), hreqs]
    simp only [if_pos hfull]

end Sys2Proof.Machine
end

section
/-! INSTRUCTION STREAM. One tick of issue time (R47, R50, R69): what the blocks count leaves the step alone, and issue time either moves or
is frozen. -/

namespace Sys2Proof.Machine

variable {s t u : State}

theorem exec_issueTimeAdvance (s : State) : exec .issueTimeAdvance s = .next (issueTimeAdvance s) := rfl

/-! ## What a tick counts -/

/-- From `s` to `t` only registers of cores, ports and the ring engine count. -/
def countsOnly (s t : State) : Prop := offRegs t = offRegs s ∧ regsWithin (fun a => 0x100000 ≤ a) s t

theorem countsOnly.refl (s : State) : countsOnly s s := ⟨rfl, .of_csr rfl⟩

theorem countsOnly.trans (h : countsOnly s t) (h' : countsOnly t u) : countsOnly s u := ⟨h'.1.trans h.1, h.2.trans h'.2⟩

theorem countsOnly.bump {a n : Nat} (h : countsOnly s t) (ha : 0x100000 ≤ a) : countsOnly s (bump a n t) :=
  h.trans ⟨offRegs_bump .., regsWithin_bump ha⟩

theorem countsOnly.bump_if {a n : Nat} (b : Bool) (h : countsOnly s t) (ha : 0x100000 ≤ a) :
    countsOnly s (if b then Machine.bump a n t else t) := by
  cases b
  · exact h
  · exact h.bump ha

theorem countsOnly_foldl {α : Type} {f : State → α → State} (h : ∀ s x, countsOnly s (f s x)) (l : List α) (s : State) :
    countsOnly s (l.foldl f s) := by
  induction l generalizing s with
  | nil => exact .refl s
  | cons x r ih => exact (h s x).trans (ih _)

theorem le_coreReg (c off : Nat) : 0x100000 ≤ coreReg c off := by
  rw [coreReg]
  omega

theorem le_portReg (p off : Nat) : 0x100000 ≤ portReg p off := by
  rw [portReg]
  omega

theorem countsOnly_countWaits (c : Nat) (s : State) : countsOnly s (countWaits c s) :=
  (((countsOnly.refl s).bump_if _ (le_coreReg ..)).bump_if _ (le_coreReg ..)).trans
    (countsOnly_foldl (fun s _ =>
      (((countsOnly.refl s).bump_if _ (le_coreReg ..)).bump_if _ (le_coreReg ..)).bump_if _ (le_coreReg ..)) _ _)

/-- Ticks for which a port is held off. -/
theorem countsOnly_ports (l : List (Nat × PortSt)) (s : State) : countsOnly s (l.foldl (fun s p =>
    bump (portReg p.1 0x24) (if p.2.waiting then 1 else 0) (if p.2.heldOff = 0 then s else bump (portReg p.1 0x2C) 1 s)) s) :=
  countsOnly_foldl (fun s p => by
    refine countsOnly.bump ?_ (le_portReg ..)
    split
    · exact .refl s
    · exact (countsOnly.refl s).bump (le_portReg ..)) _ _

theorem countsOnly_countTicks (s : State) : countsOnly s (countTicks s) := by
  have hcores : countsOnly s
      (if s.ssq.run && !s.ssq.aborting && engines s then (liveCores s).foldl (fun s c => countWaits c s) s else s) := by
    split
    · exact countsOnly_foldl (fun s c => countsOnly_countWaits c s) _ _
    · exact .refl s
  unfold countTicks
  extract_lets a b tile
  refine (hcores.trans (countsOnly_ports a.ports a) : countsOnly s b).trans ?_
  have hb : ∀ r n, 0x100000 ≤ r → countsOnly b (bump r n b) := fun _ _ => (countsOnly.refl b).bump
  split
  · exact .refl b
  · split
    · split
      · exact hb _ _ (by decide)
      · exact .refl b
    · split
      · exact .refl b
      · split
        · split
          · exact hb _ _ (by decide)
          · exact .refl b
        · exact .refl b

/-! ## Issue time -/

/-- The tick is frozen (R47). -/
def freezes (s : State) : State := { s with ssq := { s.ssq with freeze := true, freezeTicks := s.ssq.freezeTicks + 1 } }

/-- Issue time moves on. -/
def advances (s : State) : State := { s with ssq := { s.ssq with freeze := false, issue := s.ssq.issue + 1 } }

/-- Bundles of which nothing is left go. -/
def dropsDone (s : State) : State :=
  { s with ssq := { s.ssq with bundles := s.ssq.bundles.filter (fun b => !(bundleDone s b)) } }

/-- The cause of a frozen tick is counted (R50). -/
def countsCause (c : Nat) (s : State) : State := if c = 0 then s else bump (rLate + 4 * (c - 1)) 1 s

/-- What becomes of issue time once the blocks have counted. -/
def issueTick (s : State) : State :=
  if s.ssq.halt then freezes s
  else if (lateItems s).isEmpty then frameBegin (dropsDone (advances s))
  else freezes (countsCause (lateCause (lateItems s)) (countHazards s))

/-- The state but for registers, errors, stacks' tables and the queues and runs of units. -/
def offUnits (s : State) : State := { offRegs s with units := [] }

/-- Commands held back are counted and marked in their queues; nothing else turns on it. -/
theorem offUnits_countHazards (s : State) : offUnits (countHazards s) = offUnits s :=
  foldl_keeps offUnits (fun s u => by
    split
    · split
      · rfl
      · split <;> rfl
    · rfl) _ s

/-- One tick of a running step (R47, R69). -/
theorem issueTimeAdvance_of_running (hp : powered s = true) (ht : countTicks { s with now := s.now + 1 } = t) (hrun : t.ssq.run = true)
    (hheld : t.ssq.held = false) (hab : t.ssq.aborting = false) (heng : engines t = true) : issueTimeAdvance s = issueTick t := by
  have hp' : powered { s with now := s.now + 1 } = true := hp
  unfold issueTimeAdvance
  extract_lets a b frozen
  have hb : b = t := ht
  clear_value b
  subst hb
  rw [if_neg (by simp [a, hp']), if_neg (by simp [hrun, hheld, hab, heng])]
  rfl

/-- Counting a cause and marking the commands held back leave the sequencer alone. -/
theorem offUnits_countsCause (c : Nat) (s : State) : offUnits (countsCause c s) = offUnits s := by
  rw [countsCause]
  split <;> rfl

/-- An issue time at which nothing is late passes; one at which something is, or a halted step's, stays (R47, R69). -/
theorem issueTick_outcome (t : State) :
    (t.ssq.halt = false → lateItems t = [] → (issueTick t).ssq.issue = t.ssq.issue + 1 ∧ (issueTick t).ssq.freeze = false ∧
      (issueTick t).ssq.freezeTicks = t.ssq.freezeTicks ∧ (issueTick t).units = t.units) ∧
    (t.ssq.halt = true ∨ lateItems t ≠ [] → (issueTick t).ssq.issue = t.ssq.issue ∧ (issueTick t).ssq.freeze = true ∧
      (issueTick t).ssq.freezeTicks = t.ssq.freezeTicks + 1) := by
  refine ⟨fun hhalt hl => ?_, fun h => ?_⟩
  · rw [issueTick, if_neg (by simp [hhalt]), hl, List.isEmpty_nil, if_pos rfl, frameBegin_ssq, units_of_offRegs (offRegs_frameBegin _)]
    exact ⟨rfl, rfl, rfl, rfl⟩
  · rw [issueTick]
    split
    · exact ⟨rfl, rfl, rfl⟩
    · next hhalt =>
      have hl : lateItems t ≠ [] := h.resolve_left (by simpa using hhalt)
      have hkeep := (offUnits_countsCause (lateCause (lateItems t)) (countHazards t)).trans (offUnits_countHazards t)
      have hssq : (countsCause (lateCause (lateItems t)) (countHazards t)).ssq = t.ssq := (congrArg State.ssq hkeep :)
      rw [if_neg (by simpa using hl)]
      exact ⟨congrArg (·.issue) hssq, rfl, congrArg (·.freezeTicks + 1) hssq⟩

/-- The state but for registers, errors, stacks' tables, units and the sequencer. -/
def offStep (s : State) : State := { offUnits s with ssq := {} }

theorem offStep_issueTick (t : State) : offStep (issueTick t) = offStep t := by
  rw [issueTick]
  split
  · rfl
  · split
    · have h := congrArg (fun x : State => { x with units := [], ssq := {} }) (offRegs_frameBegin (dropsDone (advances t)))
      exact h.trans rfl
    · have h := congrArg (fun x : State => { x with ssq := {} })
        ((offUnits_countsCause (lateCause (lateItems t)) (countHazards t)).trans (offUnits_countHazards t))
      exact h

/-- Settles O13: the blocks' counters are no part of what is late. -/
theorem issueTimeTick : Obligations.IssueTimeTick := by
  unfold Obligations.IssueTimeTick
  intro s hc heng hrun hheld hab
  obtain ⟨hoff, hreg⟩ := countsOnly_countTicks { s with now := s.now + 1 }
  generalize ht : countTicks { s with now := s.now + 1 } = t at hoff hreg ⊢
  have hssq : t.ssq = s.ssq := (ssq_of_offRegs hoff :)
  have hword : rd t rFclStatus = rd s rFclStatus := (hreg (csr_of_canonical hc)).2 _ (by decide)
  have hmodul : t.modul = s.modul := (congrArg State.modul hoff :)
  have heng' : engines t = true := by
    rw [← heng, engines, engines, powered, powered, fclState, fclState, rdF, rdF, hword, hmodul]
  have hadv : issueTimeAdvance s = issueTick t := issueTimeAdvance_of_running (powered_of_engines heng) ht (hssq ▸ hrun)
    (hssq ▸ hheld) (hssq ▸ hab) heng'
  have hkeep := offStep_issueTick t
  obtain ⟨hpass, hstay⟩ := issueTick_outcome t
  have hnow : t.now = s.now + 1 := (congrArg State.now hoff :)
  have hunits : t.units = s.units := (units_of_offRegs hoff :)
  rw [exec_issueTimeAdvance, hadv]
  rw [hssq, hunits] at hpass
  rw [hssq] at hstay
  exact ⟨_, rfl, (congrArg State.now hkeep).trans hnow, hpass, hstay, (congrArg State.flags hkeep).trans (flags_of_offRegs hoff :),
    (congrArg State.tarn hkeep).trans (tarn_of_offRegs hoff :), (congrArg State.mere hkeep).trans (mere_of_offRegs hoff :)⟩

end Sys2Proof.Machine
end

section
/-! SUPPORT. What the machinery of running commands leaves alone (R40, R55–R57, R63, R65): their flags, sets, tokens, iterations and
retirement touch no queue and no storage. -/

namespace Sys2Proof.Machine

variable {s t u : State}

/-! ## The frame -/

/-- The state but for registers, flags, held adds, units, the pool, and what the sequencer keeps of grants and retirements. -/
def offRuns (s : State) : State :=
  { s with csr := [], flags := [], heldAdds := [], units := [], pgv := {}, ssq := { s.ssq with bundles := [], lastRetire := 0 } }

/-- Registers that running commands count in: SSQ_FLAG_HOLD and a core's own. -/
def runWord (a : Nat) : Prop := a = rFlagHold ∨ coreWord a

/-- From `s` to `t` only running commands have gone on: queues, storage and what the sequencer keeps of the step are as they were. -/
structure OnlyRuns (s t : State) : Prop where
  off : offRuns t = offRuns s
  regs : regsWithin runWord s t
  swf : swf (fun _ => {}) s.units = true → Machine.swf (fun _ => {}) t.units = true
  queue : Machine.swf (fun _ => {}) s.units = true → ∀ k, (unitOf t k).queue = (unitOf s k).queue

namespace OnlyRuns

theorem refl (s : State) : OnlyRuns s s := ⟨rfl, .of_csr rfl, id, fun _ _ => rfl⟩

theorem trans (h : OnlyRuns s t) (h' : OnlyRuns t u) : OnlyRuns s u :=
  ⟨h'.off.trans h.off, h.regs.trans h'.regs, h'.swf ∘ h.swf, fun hs k => (h'.queue (h.swf hs) k).trans (h.queue hs k)⟩

theorem of_units (h : offRuns t = offRuns s) (hr : regsWithin runWord s t) (hu : t.units = s.units) : OnlyRuns s t :=
  ⟨h, hr, fun hs => hu ▸ hs, fun _ k => by rw [unitOf_congr hu]⟩

theorem ite {p : Prop} [Decidable p] (ht : OnlyRuns s t) (hu : OnlyRuns s u) : OnlyRuns s (if p then t else u) := by
  split
  · exact ht
  · exact hu

theorem skips (h : OnlyRuns s t) : t.ssq.skips = s.ssq.skips := (congrArg (fun x : State => x.ssq.skips) h.off :)
theorem tarn (h : OnlyRuns s t) : t.tarn = s.tarn := (congrArg State.tarn h.off :)
theorem mere (h : OnlyRuns s t) : t.mere = s.mere := (congrArg State.mere h.off :)
theorem ore (h : OnlyRuns s t) : t.ore = s.ore := (congrArg State.ore h.off :)
theorem spu (h : OnlyRuns s t) : t.spu = s.spu := (congrArg State.spu h.off :)
theorem pipes (h : OnlyRuns s t) : t.pipes = s.pipes := (congrArg State.pipes h.off :)

end OnlyRuns

/-! ## Its operations -/

theorem onlyRuns_setFlag (c f v : Nat) (s : State) : OnlyRuns s (setFlag c f v s) := .of_units rfl (.of_csr rfl) rfl

theorem onlyRuns_addFlag (c f n k seq : Nat) (s : State) : OnlyRuns s (addFlag c f n k seq s) := by
  rw [addFlag]
  split
  · exact onlyRuns_setFlag ..
  · exact .of_units rfl (regsWithin_bump (s := { s with heldAdds := _ }) (.inl rfl)) rfl

theorem onlyRuns_foldl {α : Type} {f : State → α → State} (h : ∀ s x, OnlyRuns s (f s x)) (l : List α) (s : State) :
    OnlyRuns s (l.foldl f s) := by
  induction l generalizing s with
  | nil => exact .refl s
  | cons x r ih => exact (h s x).trans (ih _)

theorem onlyRuns_doSet (k : Nat) (q : QCmd) (s : State) : OnlyRuns s (doSet k q s) := by
  rw [doSet]
  split
  · exact onlyRuns_foldl (fun s c => onlyRuns_addFlag c _ _ k q.seq s) _ s
  · exact .refl s

theorem onlyRuns_consume (c : Nat) (q : QCmd) (s : State) : OnlyRuns s (consume c q s) := by
  rw [consume]
  split
  · exact onlyRuns_setFlag ..
  · exact .refl s

/-- A unit's running commands change, and its queue does not. -/
theorem onlyRuns_setUnit (k : Nat) (l : List Run) (s : State) : OnlyRuns s (setUnit k { unitOf s k with running := l } s) := by
  refine ⟨rfl, .of_csr rfl, fun hs => swf_sset hs, fun hs k' => ?_⟩
  by_cases hk : k' = k
  · rw [hk, unitOf_setUnit_same hs]
  · rw [unitOf_setUnit_other hs hk]

theorem onlyRuns_updRun (k seq : Nat) (f : Run → Run) (s : State) : OnlyRuns s (updRun k seq f s) := onlyRuns_setUnit k _ s

theorem onlyRuns_returnTokens (n : Nat) (s : State) : OnlyRuns s (returnTokens n s) := .of_units rfl (.of_csr rfl) rfl

theorem onlyRuns_settleBundle (b : Nat) (s : State) : OnlyRuns s (settleBundle b s) := by
  rw [settleBundle]
  split_ifs
  · exact .refl s
  · exact .refl s
  · exact .of_units rfl (.of_csr rfl) rfl

/-- The tokens that a run holds return. -/
def Run.returns (r : Run) (s : State) : State := if r.tokens = 0 then s else returnTokens r.tokens s

/-- A run leaves its unit. -/
def dropRun (k seq : Nat) (s : State) : State :=
  setUnit k { unitOf s k with running := (unitOf s k).running.filter fun x => x.q.seq != seq } s

/-- A run is over. -/
def Run.over (r : Run) : Run := { r with ended := true, tokens := 0 }

/-- A run has landed an iteration. -/
def Run.landed (r : Run) : Run := { r with it := r.it + 1, waited := false }

/-- A set that is due. -/
def setsIf (b : Prop) [Decidable b] (k : Nat) (q : QCmd) (s : State) : State := if b then doSet k q s else s

/-- A retirement is noted. -/
def notesRetire (s : State) : State := { s with ssq := { s.ssq with lastRetire := s.now } }

theorem retire_eq (k seq : Nat) (s : State) : retire k seq s =
    match runOf s k seq with
    | none => s
    | some r => notesRetire (r.returns (dropRun k seq s)) := rfl

theorem complete_eq (k seq : Nat) (s : State) : complete k seq s =
    match runOf s k seq with
    | none => s
    | some r =>
      if addHeld (setsIf (r.nest.setLv = 0) k r.q (updRun k seq Run.over (r.returns s))) k seq then
        setsIf (r.nest.setLv = 0) k r.q (updRun k seq Run.over (r.returns s))
      else retire k seq (setsIf (r.nest.setLv = 0) k r.q (updRun k seq Run.over (r.returns s))) := rfl

theorem endIter_eq (k seq : Nat) (s : State) : endIter k seq s =
    match runOf s k seq with
    | none => s
    | some r =>
      if r.total ≤ r.it + 1 then complete k seq (updRun k seq Run.landed (setsIf (r.nest.setsAt r.it) k r.q s))
      else updRun k seq Run.landed (setsIf (r.nest.setsAt r.it) k r.q s) := rfl

theorem onlyRuns_returns (r : Run) (s : State) : OnlyRuns s (r.returns s) := .ite (.refl s) (onlyRuns_returnTokens ..)

theorem onlyRuns_setsIf (b : Prop) [Decidable b] (k : Nat) (q : QCmd) (s : State) : OnlyRuns s (setsIf b k q s) :=
  .ite (onlyRuns_doSet ..) (.refl s)

theorem onlyRuns_notesRetire (s : State) : OnlyRuns s (notesRetire s) := .of_units rfl (.of_csr rfl) rfl

theorem onlyRuns_retire (k seq : Nat) (s : State) : OnlyRuns s (retire k seq s) := by
  rw [retire_eq]
  split
  · exact .refl s
  · exact ((onlyRuns_setUnit k _ s).trans (onlyRuns_returns ..)).trans (onlyRuns_notesRetire _)

theorem onlyRuns_complete (k seq : Nat) (s : State) : OnlyRuns s (complete k seq s) := by
  rw [complete_eq]
  split
  · exact .refl s
  · exact (((onlyRuns_returns ..).trans (onlyRuns_updRun ..)).trans (onlyRuns_setsIf ..)).trans
      (.ite (.refl _) (onlyRuns_retire ..))

theorem onlyRuns_endIter (k seq : Nat) (s : State) : OnlyRuns s (endIter k seq s) := by
  rw [endIter_eq]
  split
  · exact .refl s
  · exact ((onlyRuns_setsIf ..).trans (onlyRuns_updRun ..)).trans (.ite (onlyRuns_complete ..) (.refl _))

theorem onlyRuns_takeWait (k : Nat) (r : Run) (s : State) : OnlyRuns s (takeWait k r s) := by
  exact OnlyRuns.trans (.ite (onlyRuns_consume ..) (.refl s)) (onlyRuns_updRun ..)

theorem onlyRuns_drainStream (c : Nat) (r : Run) (s : State) : OnlyRuns s (drainStream c r s) := by
  exact ((onlyRuns_setFlag c (streamFlag r.q) _ s).trans (onlyRuns_updRun ..)).trans (.ite (onlyRuns_complete ..) (.refl _))

theorem onlyRuns_skipStep (k : Nat) (r : Run) (s : State) : OnlyRuns s (skipStep k r s) :=
  .ite (onlyRuns_drainStream ..) (.ite (.refl s) (.ite (.refl s)
    (((onlyRuns_takeWait ..).trans (.ite (onlyRuns_setFlag ..) (.refl _))).trans
      (.ite (((OnlyRuns.ite (onlyRuns_doSet ..) (.refl _)).trans (onlyRuns_updRun ..)).trans (onlyRuns_drainStream ..))
        (onlyRuns_endIter ..)))))

/-! ## The head starts -/

/-- From `s` to `t` the head of unit k has left its queue; for the rest only running commands have gone on. -/
structure HeadLeft (k : Nat) (s t : State) : Prop where
  off : offRuns t = offRuns s
  regs : regsWithin runWord s t
  swf : swf (fun _ => {}) s.units = true → Machine.swf (fun _ => {}) t.units = true
  queue : Machine.swf (fun _ => {}) s.units = true → (unitOf t k).queue = (unitOf s k).queue.tail

theorem HeadLeft.trans {k : Nat} (h : HeadLeft k s t) (h' : OnlyRuns t u) : HeadLeft k s u :=
  ⟨h'.off.trans h.off, h.regs.trans h'.regs, h'.swf ∘ h.swf, fun hs => (h'.queue (h.swf hs) k).trans (h.queue hs)⟩

theorem OnlyRuns.headLeft {k : Nat} (h : OnlyRuns s t) (h' : HeadLeft k t u) : HeadLeft k s u :=
  ⟨h'.off.trans h.off, h.regs.trans h'.regs, h'.swf ∘ h.swf, fun hs => (h'.queue (h.swf hs)).trans (by rw [h.queue hs])⟩

/-- The head leaves its queue, and runs are as given. -/
theorem headLeft_setUnit (k : Nat) (l : List Run) (s : State) :
    HeadLeft k s (setUnit k { queue := (unitOf s k).queue.tail, running := l } s) :=
  ⟨rfl, .of_csr rfl, fun hs => swf_sset hs, fun hs => by rw [unitOf_setUnit_same hs]⟩

theorem headLeft_launch (k : Nat) (q : QCmd) (r : Run) (s : State) : HeadLeft k s (launch k q r s) :=
  OnlyRuns.headLeft (.ite (onlyRuns_consume ..) (.refl s)) ((headLeft_setUnit k _ _).trans (onlyRuns_settleBundle ..))

end Sys2Proof.Machine
end

section
/-! INSTRUCTION STREAM. Commands that are skipped (R68, R69) and adds that a flag has no room for (R57). -/

namespace Sys2Proof.Machine

variable {s t : State} {k : Nat} {q : QCmd}

theorem exec_skippedCommand (c : CoreId) (u : Fin 12) (s : State) : exec (.skippedCommand c u) s =
    .next (inTurn (if u.val = 10 then ssqKey else unitKey c.val u.val) (skippedCommand c.val u.val) s) := rfl

theorem exec_flagAddHeld (c : CoreId) (f : Fin 4096) (s : State) : exec (.flagAddHeld c f) s = .next (flagAddHeld c.val f.val s) := rfl

/-- An event in its turn happens. -/
theorem inTurn_of_inLine {ev : State → State} (h : inLine k s (ev s) = true) : inTurn k ev s = ev s := by
  simp only [inTurn, h, if_true]

theorem engines_of_stepOpen (h : stepOpen s = true) : engines s = true := by
  simp only [stepOpen, Bool.and_eq_true] at h
  obtain ⟨⟨⟨⟨heng, -⟩, -⟩, -⟩, -⟩ := h
  exact heng

theorem not_aborting_of_stepOpen (h : stepOpen s = true) : s.ssq.aborting = false := by
  simp only [stepOpen, Bool.and_eq_true, Bool.not_eq_true'] at h
  exact h.2

/-! ## SKIPPED_COMMAND -/

/-- The entry of a skip in the log (R68). -/
def skipEntry (q : QCmd) (e : Nat) : Word × Word :=
  (Word.ofNat (q.tag % 2 ^ 16 + q.slot % 16 * 2 ^ 16 + e % 256 * 2 ^ 20 + 2 ^ 31), Word.ofNat q.issue)

/-- A skip is counted and logged, and the step marked. -/
def notesSkip (q : QCmd) (e : Nat) (s : State) : State := markSkip (logSkip q e s)

/-- The refused command leaves its queue and stands in for its waits and sets. -/
def skipRuns (k : Nat) (q : QCmd) (e : Nat) (n : Nest) (s : State) : State :=
  loseTaps q (launch k { q with drawn := 0 }
    { skipped := e, nest := n, total := n.total, chan := if q.cmd.unit = 7 ∨ q.cmd.unit = 8 then (freeChan s k).getD 0 else 0 } s)

/-- It goes on as a run whose iterations make no access, or completes at once. -/
def goesSkipped (k seq : Nat) (s : State) : State :=
  match runOf s k seq with
  | some r => if r.total = 0 then complete k seq s else skipStep k r s
  | none => s

/-- Tokens that a command has drawn return. -/
def returnsDrawn (q : QCmd) (s : State) : State := if q.drawn = 0 then s else returnTokens q.drawn s

theorem startSkip_of_met {e : Nat} (hopen : stepOpen s = true) (hr : reached s q = true)
    (hw : startWaits (skipNest s q) = true → waitOk s q.core q = true) (hh : readsHeld s q e = false) :
    startSkip k q e s = if (notesSkip q e s).ssq.strict then strictHalt q (notesSkip q e s)
      else goesSkipped k q.seq (skipRuns k q e (skipNest s q) (returnsDrawn q (notesSkip q e s))) := by
  have hcond : ¬((!(stepOpen s && reached s q) || startWaits (skipNest s q) && !waitOk s q.core q || readsHeld s q e) = true) := by
    cases hs : startWaits (skipNest s q) <;> simp [hopen, hr, hh]
    exact hw hs
  rw [startSkip]
  exact if_neg hcond

theorem logSkip_of_room {e : Nat} (h : s.ssq.skips.length < 16) : logSkip q e s =
    { bump rSkipCount 1 s with ssq := { s.ssq with skips := s.ssq.skips ++ [skipEntry q e] } } :=
  if_pos h

theorem skips_notesSkip {e : Nat} (h : s.ssq.skips.length < 16) : (notesSkip q e s).ssq.skips = s.ssq.skips ++ [skipEntry q e] := by
  rw [notesSkip, logSkip_of_room h]
  rfl

theorem notesSkip_keeps {e : Nat} {β : Type} (view : State → β) (h : ∀ (s : State) (x : Ssq), view { s with ssq := x } = view s)
    (hb : ∀ (s : State) (n : Nat), view (bump rSkipCount n s) = view s) : view (notesSkip q e s) = view s := by
  rw [notesSkip, markSkip, h, logSkip]
  split
  · exact (h _ _).trans (hb _ _)
  · exact hb _ _

theorem csr_notesSkip {e : Nat} : (notesSkip q e s).csr = (bump rSkipCount 1 s).csr := by
  rw [notesSkip, markSkip, logSkip]
  split <;> rfl

theorem strict_notesSkip {e : Nat} : (notesSkip q e s).ssq.strict = s.ssq.strict := by
  rw [notesSkip, markSkip, logSkip]
  split <;> rfl

theorem loseTaps_of_not_taps (h : taps q.cmd = false) (s : State) : loseTaps q s = s := by simp [loseTaps, h]

/-- The skipped command has left its queue. -/
theorem headLeft_skipRuns {e : Nat} {n : Nest} (ht : taps q.cmd = false) (s : State) : HeadLeft k s (skipRuns k q e n s) := by
  rw [skipRuns, loseTaps_of_not_taps ht]
  exact headLeft_launch ..

theorem onlyRuns_goesSkipped (k seq : Nat) (s : State) : OnlyRuns s (goesSkipped k seq s) := by
  rw [goesSkipped]
  split
  · exact .ite (onlyRuns_complete ..) (onlyRuns_skipStep ..)
  · exact .refl s

theorem onlyRuns_returnsDrawn (q : QCmd) (s : State) : OnlyRuns s (returnsDrawn q s) := .ite (.refl s) (onlyRuns_returnTokens ..)

/-- The command judged bad is the one that SKIPPED_COMMAND starts. -/
theorem skippedCommand_of_head {c u e : Nat} (heng : engines s = true) (hab : s.ssq.aborting = false) (hu : u ≠ 10)
    (hrun : firstRun s (unitKey c u) (fun r => r.skipped != 0) = none) (hhead : headOf s (unitKey c u) = some q)
    (hfree : headFree s (unitKey c u) q = true) (hj : judge s q = .error e) : skippedCommand c u s = startSkip (unitKey c u) q e s := by
  rw [skippedCommand, if_neg (by simp [heng, hab]), if_neg hu]
  simp only [hrun, hhead, hfree, hj, Bool.not_true, Bool.false_eq_true, if_false]

/-- Settles O14: the run that stands in for a skipped command touches neither the log nor its count. -/
theorem commandSkipped : Obligations.CommandSkipped := by
  unfold Obligations.CommandSkipped
  intro c u q e s hc hopen hu hrun hhead hfree hj _ hreach htaps _ _ hwait hheld hroom hline
  have hskip := (skippedCommand_of_head (engines_of_stepOpen hopen) (not_aborting_of_stepOpen hopen) hu hrun hhead hfree hj).trans
    (startSkip_of_met hopen hreach hwait hheld)
  have hcsr := csr_of_canonical hc
  have hcount : (rd (notesSkip q e s) rSkipCount).toNat = min ((rd s rSkipCount).toNat + 1) 0xFFFFFFFF := by
    rw [rd, csr_notesSkip, ← rd, rd_bump_same hcsr]
  have hswf : swf resetWord (notesSkip q e s).csr = true := csr_notesSkip ▸ swf_csr_bump hcsr
  rw [exec_skippedCommand, if_neg hu, inTurn_of_inLine hline, hskip]
  cases hstrict : s.ssq.strict with
  | true =>
    rw [if_pos (strict_notesSkip.trans hstrict)]
    have hkeep : ∀ {β : Type} (view : State → β), (∀ (s : State) (l : List Pend), view { s with pend := l } = view s) →
        view (strictHalt q (notesSkip q e s)) = view { notesSkip q e s with ssq := { (notesSkip q e s).ssq with halt := true } } :=
      fun view h => raise_keeps view h ..
    refine ⟨_, rfl, (hkeep (·.ssq.skips) fun _ _ => rfl).trans (skips_notesSkip hroom), ?_, fun _ => ⟨?_, ?_, ?_⟩, nofun⟩
    · exact (congrArg BitVec.toNat (hkeep (fun s => rd s rSkipCount) fun _ _ => rfl)).trans hcount
    · exact hkeep (·.ssq.halt) fun _ _ => rfl
    · exact (hkeep (·.units) fun _ _ => rfl).trans (notesSkip_keeps (·.units) (fun _ _ => rfl) (fun _ _ => rfl))
    · exact (hkeep (·.flags) fun _ _ => rfl).trans (notesSkip_keeps (·.flags) (fun _ _ => rfl) (fun _ _ => rfl))
  | false =>
    rw [if_neg (by simp [strict_notesSkip, hstrict])]
    have h := ((onlyRuns_returnsDrawn q (notesSkip q e s)).headLeft (headLeft_skipRuns (k := unitKey c.val u.val) (e := e)
      (n := skipNest s q) htaps _)).trans (onlyRuns_goesSkipped (unitKey c.val u.val) q.seq _)
    refine ⟨_, rfl, ?_, ?_, nofun, fun _ => ?_⟩
    · exact (congrArg (fun x : State => x.ssq.skips) h.off :).trans (skips_notesSkip hroom)
    · rw [← hcount]
      exact congrArg BitVec.toNat ((h.regs hswf).2 rSkipCount (by simp only [runWord, coreWord, rFlagHold, rSkipCount]; omega))
    · have hunits : (notesSkip q e s).units = s.units := notesSkip_keeps (·.units) (fun _ _ => rfl) (fun _ _ => rfl)
      rw [h.queue (hunits ▸ units_of_canonical hc), unitOf_congr hunits]

/-! ## FLAG_ADD_HELD -/

theorem retire_keeps {β : Type} (view : State → β) (hu : ∀ (s : State) (k : Nat) (v : UnitSt), view (setUnit k v s) = view s)
    (hp : ∀ (s : State) (x : Pgv), view { s with pgv := x } = view s) (hs : ∀ (s : State) (x : Ssq), view { s with ssq := x } = view s)
    (k seq : Nat) (s : State) : view (retire k seq s) = view s := by
  rw [retire_eq]
  split
  · rfl
  · rw [notesRetire, hs, Run.returns, dropRun]
    split
    · exact hu ..
    · exact (hp _ _).trans (hu ..)

/-- What follows on a held add applied: its setter retires, or its acknowledgement leaves (R57, R330). -/
def afterAdd (h : HeldAdd) (s : State) : State :=
  if h.unit = portUnit then sendHeldAck h.seq s
  else if addHeld s h.unit h.seq then s
  else if h.unit = ssqKey then notesRetire s
  else match runOf s h.unit h.seq with
    | some r => if r.ended then retire h.unit h.seq s else s
    | none => s

theorem afterAdd_keeps {β : Type} (view : State → β) (hu : ∀ (s : State) (k : Nat) (v : UnitSt), view (setUnit k v s) = view s)
    (hp : ∀ (s : State) (x : Pgv), view { s with pgv := x } = view s) (hs : ∀ (s : State) (x : Ssq), view { s with ssq := x } = view s)
    (hack : ∀ (n : Nat) (s : State), view (sendHeldAck n s) = view s) (h : HeldAdd) (s : State) : view (afterAdd h s) = view s := by
  rw [afterAdd]
  split_ifs
  · exact hack ..
  · rfl
  · exact hs _ _
  · split
    · split_ifs
      · exact retire_keeps view hu hp hs ..
      · rfl
    · rfl

theorem sendHeldAck_flags (n : Nat) (s : State) : (sendHeldAck n s).flags = s.flags := by
  rw [sendHeldAck]
  split <;> rfl

theorem sendHeldAck_heldAdds (n : Nat) (s : State) : (sendHeldAck n s).heldAdds = s.heldAdds := by
  rw [sendHeldAck]
  split <;> rfl

/-- The add is applied, and is held no more. -/
def appliesAdd (c f : Nat) (h : HeldAdd) (s : State) : State := setFlag c f (flag s c f + h.n) { s with heldAdds := s.heldAdds.erase h }

/-- Settles O15: the setter's retirement touches no flag and no held add. -/
theorem heldAddApplied : Obligations.HeldAddApplied := by
  unfold Obligations.HeldAddApplied
  intro c f s hc heng
  dsimp only
  have hflags := flags_of_canonical hc
  refine ⟨fun h hfirst => ?_, fun hnone => ?_⟩
  · have hadd : flagAddHeld c.val f.val s = afterAdd h (appliesAdd c.val f.val h s) := by
      rw [flagAddHeld, if_neg (by simp [heng]), hfirst]
      rfl
    have hroom : flag s c.val f.val + h.n ≤ 65535 := by
      have := List.find?_some hfirst
      simp only [Bool.and_eq_true, decide_eq_true_eq] at this
      exact this.2
    have hfl : (flagAddHeld c.val f.val s).flags = (setFlag c.val f.val (flag s c.val f.val + h.n) s).flags := by
      rw [hadd, afterAdd_keeps (·.flags) (fun _ _ _ => rfl) (fun _ _ => rfl) (fun _ _ => rfl) sendHeldAck_flags]
      rfl
    have hheld : (flagAddHeld c.val f.val s).heldAdds = s.heldAdds.erase h := by
      rw [hadd, afterAdd_keeps (·.heldAdds) (fun _ _ _ => rfl) (fun _ _ => rfl) (fun _ _ => rfl) sendHeldAck_heldAdds]
      rfl
    refine ⟨_, exec_flagAddHeld .., ?_, hheld, fun c' f' hk => ?_⟩
    · rw [flag_congr hfl, flag_setFlag_same hflags hroom]
    · rw [flag_congr hfl, flag_setFlag_other hflags hk]
  · rw [exec_flagAddHeld, flagAddHeld, if_neg (by simp [heng]), hnone]

end Sys2Proof.Machine
end

section
/-! INSTRUCTION STREAM. SYNC_SET and SYNC_WAIT (R504): a flag of each of several cores changes once. -/

namespace Sys2Proof.Machine

variable {s t : State} {q : QCmd}

theorem exec_syncSet (n : Nat) (s : State) : exec (.syncSet n) s = .next (inTurn ssqKey (syncSet n) s) := rfl

theorem exec_syncWait (n : Nat) (s : State) : exec (.syncWait n) s = .next (inTurn ssqKey (syncWait n) s) := rfl

/-! ## One flag of several cores -/

/-- Where a change of flag f at a core is made at each core of a list, every core of it has its count changed once, and no other flag
changes. -/
theorem flag_foldl {g : State → Nat → State} {f : Nat} {w : Nat → Nat} {ok : Nat → Prop} (hf : f < 4096)
    (hw : ∀ v, ok v → w v ≤ 65535) (hg : ∀ s c, ok (flag s c f) → (g s c).flags = (setFlag c f (w (flag s c f)) s).flags)
    {l : List Nat} (hl : l.Nodup) (hs : swf zero16 s.flags = true) (hok : ∀ c ∈ l, ok (flag s c f)) :
    swf zero16 (l.foldl g s).flags = true ∧ (∀ c ∈ l, flag (l.foldl g s) c f = w (flag s c f)) ∧
      ∀ c' f', f' < 4096 → f' ≠ f ∨ c' ∉ l → flag (l.foldl g s) c' f' = flag s c' f' := by
  induction l generalizing s with
  | nil => exact ⟨hs, by simp, fun _ _ _ _ => rfl⟩
  | cons c r ih =>
    rw [List.nodup_cons] at hl
    have hc := hok c (by simp)
    have hfl := hg s c hc
    have hother : ∀ c' f', f' < 4096 → f' ≠ f ∨ c' ≠ c → flag (g s c) c' f' = flag s c' f' := fun c' f' hf' hne => by
      rw [flag_congr hfl, flag_setFlag_other hs (flagKey_ne hf hf' (by tauto))]
    have hrest : ∀ x ∈ r, flag (g s c) x f = flag s x f := fun x hx => hother x f hf (.inr fun he => hl.1 (he ▸ hx))
    obtain ⟨hswf, hin, hout⟩ := ih hl.2 (hfl ▸ swf_flags_setFlag hs) fun x hx => by
      rw [hrest x hx]
      exact hok x (by simp [hx])
    rw [List.foldl_cons]
    refine ⟨hswf, fun x hx => ?_, fun c' f' hf' hne => ?_⟩
    · obtain rfl | hx := List.mem_cons.mp hx
      · rw [hout x f hf (.inr hl.1), flag_congr hfl, flag_setFlag_same hs (hw _ hc)]
      · rw [hin x hx, hrest x hx]
    · rw [List.mem_cons, not_or] at hne
      rw [hout c' f' hf' (by tauto), hother c' f' hf' (by tauto)]

theorem nodup_liveCores (s : State) : (liveCores s).Nodup := List.Nodup.filter _ List.nodup_range

theorem nodup_holdCores (s : State) (q : QCmd) : (holdCores s q).Nodup := by
  rw [holdCores]
  split_ifs
  · exact nodup_liveCores s
  · exact List.nodup_singleton _
  · exact List.nodup_nil

theorem nodup_holdSets (s : State) (q : QCmd) : (holdSets s q).Nodup := by
  rw [holdSets]
  split_ifs
  · exact nodup_holdCores s q
  · exact List.nodup_singleton _
  · exact List.nodup_nil

/-! ## A held command acts -/

/-- The waits are consumed on the cores that the command waits on. -/
def consumesAt (q : QCmd) (l : List Nat) (s : State) : State := l.foldl (fun s c => consume c q s) s

/-- The adds are made on the cores that it sets. -/
def addsAt (q : QCmd) (n : Nat) (l : List Nat) (s : State) : State := l.foldl (fun s c => addFlag c q.cmd.sflag n ssqKey q.seq s) s

/-- It leaves the SSQ. -/
def leavesHolds (q : QCmd) (s : State) : State :=
  { s with ssq := { s.ssq with holds := s.ssq.holds.filter fun x => x.seq != q.seq } }

/-- What it takes and adds. -/
def actsHeld (q : QCmd) (adds : Bool) (n : Nat) (s : State) : State :=
  if adds then addsAt q n (holdSets s q) (consumesAt q (holdCores s q) s) else consumesAt q (holdCores s q) s

/-- Its retirement is noted, unless an add of it is held. -/
def notesUnheld (q : QCmd) (s : State) : State := if addHeld s ssqKey q.seq then s else notesRetire s

theorem runHold_eq (q : QCmd) (adds : Bool) (n : Nat) (s : State) :
    runHold q adds n s = notesUnheld q (settleBundle q.bundle (leavesHolds q (actsHeld q adds n s))) := rfl

theorem settleBundle_flags (b : Nat) (s : State) : (settleBundle b s).flags = s.flags := by
  rw [settleBundle]
  split_ifs <;> rfl

theorem runHold_flags (adds : Bool) (n : Nat) : (runHold q adds n s).flags = (actsHeld q adds n s).flags := by
  rw [runHold_eq, notesUnheld]
  split <;> exact settleBundle_flags ..

theorem OnlyRuns.holds (h : OnlyRuns s t) : t.ssq.holds = s.ssq.holds := (congrArg (fun x : State => x.ssq.holds) h.off :)

theorem runHold_holds (adds : Bool) (n : Nat) : (runHold q adds n s).ssq.holds = s.ssq.holds.filter fun x => x.seq != q.seq := by
  have hc : OnlyRuns s (consumesAt q (holdCores s q) s) := onlyRuns_foldl (fun s c => onlyRuns_consume c q s) _ s
  have hmade : OnlyRuns s (actsHeld q adds n s) :=
    .ite (hc.trans (onlyRuns_foldl (fun s c => onlyRuns_addFlag c _ n ssqKey q.seq s) _ _)) hc
  rw [runHold_eq, ← hmade.holds]
  exact ((onlyRuns_settleBundle ..).trans (.ite (.refl _) (onlyRuns_notesRetire _))).holds

/-- Of a command that waits, every core that it waits on has its count taken; no other flag changes. -/
theorem flag_consumesAt (hs : swf zero16 s.flags = true) {l : List Nat} (hl : l.Nodup) :
    swf zero16 (consumesAt q l s).flags = true ∧
      (q.cmd.wen = true → ∀ c ∈ l, flag (consumesAt q l s) c q.cmd.wflag = flag s c q.cmd.wflag - q.cmd.wcnt) ∧
      ∀ c f, f < 4096 → (q.cmd.wen = true → f ≠ q.cmd.wflag) → flag (consumesAt q l s) c f = flag s c f := by
  cases hwen : q.cmd.wen with
  | false =>
    have hid : consumesAt q l s = s := foldl_eq_self fun c _ => by simp [consume, hwen]
    exact ⟨hid.symm ▸ hs, nofun, fun c f _ _ => by rw [hid]⟩
  | true =>
    obtain ⟨hswf, hin, hout⟩ := flag_foldl (g := fun s c => consume c q s) (w := fun v => v - q.cmd.wcnt) (ok := fun v => v ≤ 65535)
      (wflag_lt q.cmd) (fun v hv => by omega) (fun s c _ => by rw [consume, if_pos hwen]) hl hs fun c _ => flag_le s c _
    exact ⟨hswf, fun _ => hin, fun c f hf hne => hout c f hf (.inl (hne rfl))⟩

/-- Adds that their flags have room for are made; no other flag changes. -/
theorem flag_addsAt (hs : swf zero16 s.flags = true) {l : List Nat} (hl : l.Nodup) {n : Nat}
    (hfit : ∀ c ∈ l, flag s c q.cmd.sflag + n ≤ 65535) :
    (∀ c ∈ l, flag (addsAt q n l s) c q.cmd.sflag = flag s c q.cmd.sflag + n) ∧
      ∀ c f, f < 4096 → f ≠ q.cmd.sflag → flag (addsAt q n l s) c f = flag s c f := by
  obtain ⟨-, hin, hout⟩ := flag_foldl (g := fun s c => addFlag c q.cmd.sflag n ssqKey q.seq s) (w := fun v => v + n)
    (ok := fun v => v + n ≤ 65535) (sflag_lt q.cmd) (fun v hv => hv) (fun s c h => by rw [addFlag, if_pos h]) hl hs hfit
  exact ⟨hin, fun c f hf hne => hout c f hf (.inl hne)⟩

/-- A held command that acts (R504). -/
theorem runHold_outcome {adds : Bool} {n : Nat} (hs : swf zero16 s.flags = true) (hne : q.cmd.wen = true → q.cmd.wflag ≠ q.cmd.sflag)
    (hfit : adds = true → ∀ c ∈ holdSets s q, flag s c q.cmd.sflag + n ≤ 65535) :
    (∀ c ∈ holdSets s q, flag (runHold q adds n s) c q.cmd.sflag = flag s c q.cmd.sflag + if adds then n else 0) ∧
      (q.cmd.wen = true → ∀ c ∈ holdCores s q, flag (runHold q adds n s) c q.cmd.wflag = flag s c q.cmd.wflag - q.cmd.wcnt) := by
  obtain ⟨hswf, htaken, hkept⟩ := flag_consumesAt (q := q) hs (nodup_holdCores s q)
  have hsets : ∀ c, flag (consumesAt q (holdCores s q) s) c q.cmd.sflag = flag s c q.cmd.sflag := fun c =>
    hkept c _ (sflag_lt _) fun hw => (hne hw).symm
  simp only [flag_congr (runHold_flags adds n)]
  cases adds with
  | false => exact ⟨fun c _ => hsets c, htaken⟩
  | true =>
    obtain ⟨hadd, hout⟩ := flag_addsAt (q := q) (n := n) hswf (nodup_holdSets s q) fun c hc => by
      rw [hsets c]
      exact hfit rfl c hc
    refine ⟨fun c hc => ?_, fun hw c hc => ?_⟩
    · exact (hadd c hc).trans (by rw [hsets c, if_pos rfl])
    · exact (hout c _ (wflag_lt _) (hne hw)).trans (htaken hw c hc)

/-- Settles O16: what a SYNC takes and what it adds are flags of their own, each of every core once. -/
theorem syncActs : Obligations.SyncActs := by
  unfold Obligations.SyncActs
  intro n q s hc hne
  have hflags := flags_of_canonical hc
  refine ⟨fun hq hline hfit => ?_, fun hq hline hfit => ?_⟩
  · have hset : syncSet n s = runHold q true (fld q.cmd.w4 0 16 + if q.cmd.sen then q.cmd.scnt else 0) s := by rw [syncSet, hq]
    obtain ⟨hadd, htaken⟩ := runHold_outcome (adds := true) hflags hne fun _ => hfit
    rw [exec_syncSet, inTurn_of_inLine hline, hset]
    exact ⟨_, rfl, runHold_holds .., hadd, htaken⟩
  · have hwait : syncWait n s = runHold q q.cmd.sen q.cmd.scnt s := by rw [syncWait, hq]
    obtain ⟨hadd, htaken⟩ := runHold_outcome (adds := q.cmd.sen) (n := q.cmd.scnt) hflags hne hfit
    rw [exec_syncWait, inTurn_of_inLine hline, hwait]
    exact ⟨_, rfl, runHold_holds .., hadd, htaken⟩

end Sys2Proof.Machine
end

section
/-! SUPPORT. A head that starts (R46, R55, R61): it leaves its queue, and a wait at level 0 is taken then and not again by what the same
event goes on with. -/

namespace Sys2Proof.Machine

variable {s t u : State} {k seq : Nat} {c : Cmd} {q : QCmd} {r : Run} {P : Run → Prop}

/-! ## Properties of a unit's runs -/

/-- Every run of unit k has a property. -/
def runsAll (k : Nat) (P : Run → Prop) (s : State) : Prop := ∀ r ∈ (unitOf s k).running, P r

theorem runsAll_congr (h : t.units = s.units) (hr : runsAll k P s) : runsAll k P t := by rwa [runsAll, unitOf_congr h]

theorem runsAll_setUnit {v : UnitSt} (hs : swf (fun _ => {}) s.units = true) (hv : ∀ r ∈ v.running, P r) :
    runsAll k P (setUnit k v s) := by
  rwa [runsAll, unitOf_setUnit_same hs]

theorem runsAll_updRun {f : Run → Run} (hf : ∀ r, P r → P (f r)) (hs : swf (fun _ => {}) s.units = true) (hr : runsAll k P s) :
    runsAll k P (updRun k seq f s) := by
  refine runsAll_setUnit hs fun r hmem => ?_
  obtain ⟨x, hx, rfl⟩ := List.mem_map.mp hmem
  split
  · exact hf x (hr x hx)
  · exact hr x hx

theorem runsAll_dropRun (hs : swf (fun _ => {}) s.units = true) (hr : runsAll k P s) : runsAll k P (dropRun k seq s) :=
  runsAll_setUnit hs fun r hmem => hr r (List.mem_of_mem_filter hmem)

theorem mem_of_runOf (h : runOf s k seq = some r) : r ∈ (unitOf s k).running := List.mem_of_find?_eq_some h

theorem mem_of_firstRun {p : Run → Bool} (h : firstRun s k p = some r) : r ∈ (unitOf s k).running := List.mem_of_find?_eq_some h

/-! ## Runs that take no wait at level 0 any more -/

/-- A run of command c whose wait at level 0 has been taken. -/
def waitDone (c : Cmd) (r : Run) : Prop := r.q.cmd = c ∧ r.nest.waitLv = 0 ∧ (r.waited = true ∨ 0 < r.it) ∧ 0 < r.met

namespace waitDone

theorem cmd (h : waitDone c r) : r.q.cmd = c := h.1

theorem level (h : waitDone c r) : r.nest.waitLv = 0 := h.2.1

theorem taken (h : waitDone c r) : r.waited = true ∨ 0 < r.it := by
  obtain ⟨-, -, ht, -⟩ := h
  exact ht

theorem met (h : waitDone c r) : 0 < r.met := by
  obtain ⟨-, -, -, hm⟩ := h
  exact hm

end waitDone

/-- The runs of unit k are all of command c, and their waits at level 0 have been taken. -/
def calm (k : Nat) (c : Cmd) (s : State) : Prop := swf (fun _ => {}) s.units = true ∧ runsAll k (waitDone c) s

theorem waitDone_over (h : waitDone c r) : waitDone c r.over := h

theorem waitDone_landed (h : waitDone c r) : waitDone c r.landed := ⟨h.cmd, h.level, .inr (Nat.succ_pos _), h.met⟩

theorem calm_updRun {f : Run → Run} (hf : ∀ r, waitDone c r → waitDone c (f r)) (h : calm k c s) : calm k c (updRun k seq f s) :=
  ⟨swf_sset h.1, runsAll_updRun hf h.1 h.2⟩

theorem calm_dropRun (h : calm k c s) : calm k c (dropRun k seq s) := ⟨swf_sset h.1, runsAll_dropRun h.1 h.2⟩

theorem calm_congr (hu : t.units = s.units) (h : calm k c s) : calm k c t := ⟨hu ▸ h.1, runsAll_congr hu h.2⟩

/-- A command with SEN = 0 sets no flag. -/
theorem doSet_of_sen_false (h : q.cmd.sen = false) (s : State) : doSet k q s = s := by simp [doSet, h]

theorem setsIf_of_waitDone (hsen : c.sen = false) (h : waitDone c r) (b : Prop) [Decidable b] (s : State) : setsIf b k r.q s = s := by
  have : r.q.cmd.sen = false := h.cmd ▸ hsen
  simp [setsIf, doSet_of_sen_false this]

/-! ## What an event goes on with -/

/-- Units and flags. -/
def unitView (s : State) : Sparse UnitSt × Sparse (BitVec 16) := (s.units, s.flags)

/-- From `s` to `t` unit k keeps its queue; and where its runs are of command c with SEN = 0 and no wait at level 0 left, they stay
so, and no flag changes. -/
structure Follows (k : Nat) (c : Cmd) (s t : State) : Prop where
  swf : swf (fun _ => {}) s.units = true → Machine.swf (fun _ => {}) t.units = true
  queue : Machine.swf (fun _ => {}) s.units = true → (unitOf t k).queue = (unitOf s k).queue
  calm : c.sen = false → Machine.calm k c s → Machine.calm k c t ∧ t.flags = s.flags

namespace Follows

theorem refl (s : State) : Follows k c s s := ⟨id, fun _ => rfl, fun _ h => ⟨h, rfl⟩⟩

theorem trans (h : Follows k c s t) (h' : Follows k c t u) : Follows k c s u :=
  ⟨h'.swf ∘ h.swf, fun hs => (h'.queue (h.swf hs)).trans (h.queue hs), fun hsen hc =>
    have ht := h.calm hsen hc
    have hu := h'.calm hsen ht.1
    ⟨hu.1, hu.2.trans ht.2⟩⟩

theorem ite {p : Prop} [Decidable p] (ht : Follows k c s t) (hu : Follows k c s u) : Follows k c s (if p then t else u) := by
  split
  · exact ht
  · exact hu

theorem of_eq (hu : t.units = s.units) (hf : t.flags = s.flags) : Follows k c s t :=
  ⟨fun hs => hu ▸ hs, fun _ => by rw [unitOf_congr hu], fun _ h => ⟨calm_congr hu h, hf⟩⟩

theorem of_view (h : unitView t = unitView s) : Follows k c s t := of_eq (congrArg Prod.fst h) (congrArg Prod.snd h)

end Follows

theorem OnlyRuns.follows (h : OnlyRuns s t) (hc : c.sen = false → calm k c s → calm k c t ∧ t.flags = s.flags) : Follows k c s t :=
  ⟨h.swf, fun hs => h.queue hs k, hc⟩

theorem follows_foldl {α : Type} {f : State → α → State} (h : ∀ s x, Follows k c s (f s x)) (l : List α) (s : State) :
    Follows k c s (l.foldl f s) := by
  induction l generalizing s with
  | nil => exact .refl s
  | cons x r ih => exact (h s x).trans (ih _)

theorem follows_updRun {f : Run → Run} (hf : ∀ r, waitDone c r → waitDone c (f r)) : Follows k c s (updRun k seq f s) :=
  (onlyRuns_updRun ..).follows fun _ h => ⟨calm_updRun hf h, rfl⟩

theorem follows_returns (r : Run) (s : State) : Follows k c s (r.returns s) := .ite (.refl s) (.of_eq rfl rfl)

theorem follows_retire (k seq : Nat) (c : Cmd) (s : State) : Follows k c s (retire k seq s) := by
  rw [retire_eq]
  split
  · exact .refl s
  · have hdrop : Follows k c s (dropRun k seq s) := OnlyRuns.follows (onlyRuns_setUnit k _ s) fun _ h => ⟨calm_dropRun h, rfl⟩
    exact (hdrop.trans (follows_returns ..)).trans (.of_eq rfl rfl)

theorem follows_complete (k seq : Nat) (c : Cmd) (s : State) : Follows k c s (complete k seq s) := by
  refine (onlyRuns_complete ..).follows fun hsen h => ?_
  rw [complete_eq]
  split
  · exact ⟨h, rfl⟩
  · next r hr =>
    have hset := fun x => setsIf_of_waitDone (k := k) hsen (h.2 r (mem_of_runOf hr)) (r.nest.setLv = 0) x
    rw [hset]
    have hover : Follows k c s (updRun k seq Run.over (r.returns s)) :=
      (follows_returns r s).trans (follows_updRun fun _ => waitDone_over)
    exact (hover.trans (.ite (.refl _) (follows_retire ..))).calm hsen h

theorem follows_endIter (k seq : Nat) (c : Cmd) (s : State) : Follows k c s (endIter k seq s) := by
  refine (onlyRuns_endIter ..).follows fun hsen h => ?_
  rw [endIter_eq]
  split
  · exact ⟨h, rfl⟩
  · next r hr =>
    have hset := fun x => setsIf_of_waitDone (k := k) hsen (h.2 r (mem_of_runOf hr)) (r.nest.setsAt r.it = true) x
    rw [hset]
    have hland : Follows k c s (updRun k seq Run.landed s) := follows_updRun fun _ => waitDone_landed
    exact (Follows.ite (hland.trans (follows_complete ..)) hland).calm hsen h

theorem follows_startEmpty (k seq : Nat) (c : Cmd) (s : State) : Follows k c s (startEmpty k seq s) := by
  rw [startEmpty]
  split
  · exact .ite (follows_complete ..) (.refl s)
  · exact .refl s

/-- A run whose wait at level 0 has been taken waits before none of its iterations from the present one on. -/
theorem not_waits_of_waitDone (h : waitDone c r) : ¬(!r.waited && r.nest.waitsAt r.it) = true := by
  rw [Nest.waitsAt, if_pos h.level]
  obtain hw | hw := h.taken
  · simp [hw]
  · simp [Nat.ne_of_gt hw]

theorem follows_takeWait (hr : r ∈ (unitOf s k).running) : Follows k c s (takeWait k r s) := by
  refine (onlyRuns_takeWait ..).follows fun hsen h => ?_
  rw [takeWait]
  simp only [if_neg (not_waits_of_waitDone (h.2 r hr))]
  exact ⟨calm_updRun (fun x hx => ⟨hx.cmd, hx.level, .inl rfl, hx.met⟩) h, rfl⟩

theorem onlyRuns_takeMet (k : Nat) (r : Run) (i : Nat) (s : State) : OnlyRuns s (takeMet k r i s) :=
  .ite (.refl s) ((OnlyRuns.ite (onlyRuns_consume ..) (.refl s)).trans (onlyRuns_updRun ..))

theorem follows_takeMet {i : Nat} (hr : r ∈ (unitOf s k).running) : Follows k c s (takeMet k r i s) := by
  refine (onlyRuns_takeMet ..).follows fun hsen h => ?_
  obtain ⟨-, hlv, -, hmet⟩ := h.2 r hr
  rw [takeMet]
  split
  · exact ⟨h, rfl⟩
  · next hi =>
    have hno : r.nest.waitsAt i = false := by
      rw [Nest.waitsAt, if_pos hlv]
      exact beq_false_of_ne (by omega)
    simp only [hno, Bool.false_eq_true, if_false]
    exact ⟨calm_updRun (fun x hx => ⟨hx.cmd, hx.level, hx.taken, Nat.succ_pos _⟩) h, rfl⟩

/-! ## Segments under an access -/

theorem follows_reachSeg (c' g : Nat) (s : State) : Follows k c s (reachSeg c' g s) := .ite (.refl s) (.of_eq rfl rfl)

theorem follows_withSegs {c' : Nat} {l : List Nat} {f : State → State} (h : Follows k c s (f s)) : Follows k c s (withSegs c' l f s) :=
  .ite h (follows_foldl (fun s g => follows_reachSeg c' g s) _ s)

/-- One iteration, by a body that keeps units and flags. -/
theorem follows_runIter {body : State → State} (hr : r ∈ (unitOf s k).running) (hbody : ∀ s, unitView (body s) = unitView s) :
    Follows k c s (runIter k r body s) :=
  .ite (follows_withSegs (((follows_takeWait hr).trans (.of_view (hbody _))).trans (follows_endIter ..))) (.refl s)

end Sys2Proof.Machine
end

section
/-! SUPPORT. A head that may start does (R40, R46, R55): its launch, and the start of what it becomes. -/

namespace Sys2Proof.Machine

variable {s t u x : State} {k seq : Nat} {c : Cmd} {q q' : QCmd} {r : Run} {p : Prep} {P : Run → Prop}

/-! ## Launching -/

/-- A run as it starts: a wait at level 0 has been taken, and stands for that of iteration 0. -/
def startedRun (q : QCmd) (r : Run) : Run :=
  { r with q := q, waited := startWaits r.nest, met := if startWaits r.nest then 1 else 0 }

/-- The head leaves its queue and runs. -/
def takesHead (k : Nat) (r : Run) (s : State) : State :=
  setUnit k { queue := (unitOf s k).queue.tail, running := (unitOf s k).running ++ [r] } s

/-- The wait at level 0 is taken at the start. -/
def startTakes (q : QCmd) (r : Run) (s : State) : State := if startWaits r.nest then consume q.core q s else s

theorem launch_eq (k : Nat) (q : QCmd) (r : Run) (s : State) :
    launch k q r s = settleBundle q.bundle (takesHead k (startedRun q r) (startTakes q r s)) := rfl

theorem settleBundle_units (b : Nat) (s : State) : (settleBundle b s).units = s.units := by
  rw [settleBundle]
  split_ifs <;> rfl

theorem consume_units (c : Nat) (q : QCmd) (s : State) : (consume c q s).units = s.units := by
  rw [consume]
  split <;> rfl

theorem startTakes_units (q : QCmd) (r : Run) (s : State) : (startTakes q r s).units = s.units := by
  rw [startTakes]
  split
  · exact consume_units ..
  · rfl

theorem launch_units (k : Nat) (q : QCmd) (r : Run) (s : State) :
    (launch k q r s).units = (takesHead k (startedRun q r) s).units := by
  have hu := startTakes_units q r s
  rw [launch_eq, settleBundle_units, takesHead, takesHead, setUnit, setUnit, hu, unitOf_congr hu]

theorem launch_flags (k : Nat) (q : QCmd) (r : Run) (s : State) : (launch k q r s).flags = (startTakes q r s).flags := by
  rw [launch_eq, settleBundle_flags]
  rfl

/-- From `s` to `t` the head of unit k has started as run r, as it stood or with its tokens settled. -/
structure Launches (k : Nat) (q : QCmd) (r : Run) (s t : State) : Prop where
  left : HeadLeft k s t
  run : ∃ q' : QCmd, q'.cmd = q.cmd ∧ q'.core = q.core ∧ q'.seq = q.seq ∧ t.units = (takesHead k (startedRun q' r) s).units
  flags : t.flags = (startTakes q r s).flags

/-- A command takes its wait alike with its tokens settled. -/
theorem startTakes_flags (hcmd : q'.cmd = q.cmd) (hcore : q'.core = q.core) (hf : x.flags = s.flags) :
    (startTakes q' r x).flags = (startTakes q r s).flags := by
  rw [startTakes, startTakes]
  split
  · rw [consume, consume, hcmd, hcore]
    split
    · simp only [setFlag, flag_congr hf, hf]
    · exact hf
  · exact hf

theorem launches_launch (hcmd : q'.cmd = q.cmd) (hcore : q'.core = q.core) (hseq : q'.seq = q.seq) (hx : OnlyRuns s x)
    (hu : x.units = s.units) (hf : x.flags = s.flags) : Launches k q r s (launch k q' r x) :=
  ⟨hx.headLeft (headLeft_launch ..), ⟨q', hcmd, hcore, hseq, by
    rw [launch_units, takesHead, takesHead, setUnit, setUnit, hu, unitOf_congr hu]⟩, by
    rw [launch_flags, startTakes_flags hcmd hcore hf]⟩

theorem Launches.trans_of_eq (h : Launches k q r s t) (hr : OnlyRuns t u) (hu : u.units = t.units) (hf : u.flags = t.flags) :
    Launches k q r s u := by
  obtain ⟨q', hcmd, hcore, hseq, hrun⟩ := h.run
  exact ⟨h.left.trans hr, ⟨q', hcmd, hcore, hseq, hu.trans hrun⟩, hf.trans h.flags⟩

/-- Of a unit with nothing running, the run of the head is the only one. -/
theorem Launches.running (h : Launches k q r s t) (hs : swf (fun _ => {}) s.units = true) (hr : (unitOf s k).running = []) :
    ∃ q' : QCmd, q'.cmd = q.cmd ∧ q'.core = q.core ∧ q'.seq = q.seq ∧ (unitOf t k).running = [startedRun q' r] := by
  obtain ⟨q', hcmd, hcore, hseq, hu⟩ := h.run
  refine ⟨q', hcmd, hcore, hseq, ?_⟩
  rw [unitOf_congr hu, takesHead, unitOf_setUnit_same hs, hr, List.nil_append]

/-! ## Conditions of starting -/

theorem stepOpen_of_mayStart (h : mayStartAs s k q p) : stepOpen s = true := h.1

theorem headOf_of_mayStart (h : mayStartAs s k q p) : headOf s k = some q := h.2.1

theorem refused_of_mayStart (h : mayStartAs s k q p) : q.refused = 0 := by
  obtain ⟨-, -, hrefused, -⟩ := h
  exact hrefused

theorem judge_of_mayStart (h : mayStartAs s k q p) : judge s q = .ok p := by
  obtain ⟨-, -, -, hjudge, -⟩ := h
  exact hjudge

theorem running_of_mayStart (h : mayStartAs s k q p) : (unitOf s k).running = [] := by
  obtain ⟨-, -, -, -, hrunning, -⟩ := h
  exact hrunning

theorem taps_of_mayStart (h : mayStartAs s k q p) : taps q.cmd = false := by
  obtain ⟨-, -, -, -, -, -, -, -, -, htaps, -⟩ := h
  exact htaps

/-- A head that may start, starts as a run of its nest and claims. -/
theorem launches_tryStart (h : mayStartAs s k q p) (hnest : r.nest = p.run.nest) (hclaims : r.claims = p.run.claims) :
    Launches k q { r with tokens := p.cost } s (tryStart k q r p.cost s) := by
  obtain ⟨hopen, -, -, -, -, hreach, hgrant, hwait, hsb, -, hcost⟩ := h
  have hmet : ¬(startWaits r.nest && !waitOk s q.core q) = true := by
    rw [hnest]
    cases hw : startWaits p.run.nest with
    | false => simp
    | true => simp [hwait hw]
  rw [tryStart, if_neg (by simp [hopen, hreach, hgrant]), if_neg hmet, if_neg (by rw [hclaims, hsb]; simp)]
  by_cases hle : p.cost ≤ q.drawn
  · rw [if_pos hle]
    have hl : Launches k q { r with tokens := p.cost } s
        (launch k { q with drawn := 0, asked := false } { r with tokens := p.cost } s) := launches_launch rfl rfl rfl (.refl s) rfl rfl
    refine hl.trans_of_eq (.ite (.refl _) (onlyRuns_returnTokens ..)) ?_ ?_
    · split <;> rfl
    · split <;> rfl
  · obtain ⟨hasked, hneed⟩ := hcost.resolve_left hle
    rw [if_neg hle, if_neg (by simp [hasked])]
    simp only [if_pos hneed]
    exact launches_launch rfl rfl rfl (.of_units rfl (.of_csr rfl) rfl) rfl rfl

/-! ## What has started -/

/-- From `s` to `t` the head of unit k has started, and a wait at level 0 of a command with SEN = 0 has been taken once. -/
structure Starts (k : Nat) (q : QCmd) (p : Prep) (s t : State) : Prop where
  swf : swf (fun _ => {}) t.units = true
  queue : (unitOf t k).queue = (unitOf s k).queue.tail
  calm : q.cmd.sen = false → startWaits p.run.nest = true → Machine.calm k q.cmd t ∧ t.flags = (consume q.core q s).flags

theorem waitDone_startedRun (hcmd : q'.cmd = q.cmd) (h : startWaits r.nest = true) : waitDone q.cmd (startedRun q' r) :=
  ⟨hcmd, beq_iff_eq.mp h, .inl h, by simp [startedRun, h]⟩

theorem Launches.starts (h : Launches k q r s t) (hs : Machine.swf (fun _ => {}) s.units = true) (hr : (unitOf s k).running = [])
    (hnest : r.nest = p.run.nest) : Starts k q p s t := by
  refine ⟨h.left.swf hs, h.left.queue hs, fun _ hw => ⟨⟨h.left.swf hs, ?_⟩, ?_⟩⟩
  · obtain ⟨q', hcmd, -, -, hrun⟩ := h.running hs hr
    rw [runsAll, hrun, List.forall_mem_singleton]
    exact waitDone_startedRun hcmd (hnest ▸ hw)
  · rw [h.flags, startTakes, hnest, if_pos hw]

theorem Starts.trans (h : Starts k q p s t) (h' : Follows k q.cmd t u) : Starts k q p s u :=
  ⟨h'.swf h.swf, (h'.queue h.swf).trans h.queue, fun hsen hw =>
    have ht := h.calm hsen hw
    have hu := h'.calm hsen ht.1
    ⟨hu.1, hu.2.trans ht.2⟩⟩

/-- What has started in that sense has started as the statements say. -/
theorem Starts.hasStarted (h : Starts k q p s t) (hc : canonical s = true) : hasStarted k q p s t := by
  refine ⟨h.queue, fun hsen hwen hw => ?_⟩
  rw [flag_congr (h.calm hsen hw).2, consume, if_pos hwen, flag_setFlag_same (flags_of_canonical hc)]
  exact (Nat.sub_le _ _).trans (flag_le ..)

/-- Clamped origins are counted, and a command of no iterations completes at once. -/
theorem follows_startPrep_rest (k : Nat) (q : QCmd) (n : Nat) (c : Cmd) (s : State) :
    Follows k c s (if started s k q.seq then startEmpty k q.seq (bump (coreReg q.core 0xA090) n s) else s) :=
  .ite (Follows.trans (t := bump (coreReg q.core 0xA090) n s) (.of_eq rfl rfl) (follows_startEmpty ..)) (.refl s)

theorem starts_startPrep (hc : canonical s = true) (h : mayStartAs s k q p) {p' : Prep} (hcost : p'.cost = p.cost)
    (hnest : p'.run.nest = p.run.nest) (hclaims : p'.run.claims = p.run.claims) : Starts k q p s (startPrep k q p' s) := by
  have hl := launches_tryStart (r := p'.run) h hnest hclaims
  rw [startPrep, hcost]
  exact (hl.starts (units_of_canonical hc) (running_of_mayStart h) hnest).trans (follows_startPrep_rest ..)

end Sys2Proof.Machine
end

section
/-! SUPPORT. The bodies of the units' iterations keep every unit and every flag: they write storage and count. -/

namespace Sys2Proof.Machine

variable {s t : State}

@[simp] theorem unitView_bump (a n : Nat) (s : State) : unitView (bump a n s) = unitView s := rfl
@[simp] theorem unitView_wrF (a lo n v : Nat) (s : State) : unitView (wrF a lo n v s) = unitView s := rfl
@[simp] theorem unitView_tarnWrite (c a : Nat) (l : List Byte) (s : State) : unitView (tarnWrite c a l s) = unitView s := rfl
@[simp] theorem unitView_tregSet (c r e : Nat) (v : Word) (s : State) : unitView (tregSet c r e v s) = unitView s := rfl
@[simp] theorem unitView_accSet (c a row col : Nat) (v : Word) (s : State) : unitView (accSet c a row col v s) = unitView s := rfl
@[simp] theorem unitView_setArr (c a : Nat) (v : ArraySt) (s : State) : unitView (setArr c a v s) = unitView s := rfl
@[simp] theorem unitView_setStk (n : Nat) (v : StackSt) (s : State) : unitView (setStk n v s) = unitView s := rfl
@[simp] theorem unitView_setSeg (c g : Nat) (v : Seg) (s : State) : unitView (setSeg c g v s) = unitView s := rfl

theorem unitView_progs (v : Sparse Word) (s : State) : unitView { s with progs := v } = unitView s := rfl
theorem unitView_mask (v : Sparse Word) (s : State) : unitView { s with mask := v } = unitView s := rfl

theorem unitView_ite {p : Prop} [Decidable p] {x : State} (ht : unitView t = unitView x) (hs : unitView s = unitView x) :
    unitView (if p then t else s) = unitView x := by
  split
  · exact ht
  · exact hs

theorem unitView_foldl {α : Type} {f : State → α → State} (h : ∀ s x, unitView (f s x) = unitView s) (l : List α) (s : State) :
    unitView (l.foldl f s) = unitView s := foldl_keeps unitView h l s

theorem unitView_iter {f : Nat → State → State} (h : ∀ i s, unitView (f i s) = unitView s) (n : Nat) (s : State) :
    unitView (iter n f s) = unitView s := iter_keeps unitView h n s

/-- A run of operations that carries a value along. -/
theorem foldl_keeps_fst {α β : Type} {f : State × β → α → State × β} (h : ∀ p x, unitView (f p x).1 = unitView p.1) (l : List α)
    (p : State × β) : unitView (l.foldl f p).1 = unitView p.1 := by
  induction l generalizing p with
  | nil => rfl
  | cons x r ih => rw [List.foldl_cons, ih, h]

@[simp] theorem unitView_countSat (c slot n : Nat) (s : State) : unitView (countSat c slot n s) = unitView s :=
  unitView_ite rfl (unitView_ite rfl rfl)

@[simp] theorem unitView_writeRow (st : Store) (d : Desc) (n : Nest) (i j : Nat) (x : Nat × Nat × Nat) (v : List Nat × List Nat)
    (s : State) : unitView (writeRow st d n i j x v s) = unitView s := by
  cases st <;> rfl

@[simp] theorem unitView_dstRow (c : Nat) (d : Desc) (n : Nest) (i j : Nat) (w : Ext4) (row : Nat × Nat × Nat) (codes : List (Option Nat))
    (s : State) : unitView (dstRow c d n i j w row codes s) = unitView s := by
  rw [dstRow]
  split
  · refine unitView_iter (fun c0 s => ?_) _ s
    split <;> rfl
  · exact unitView_writeRow ..

@[simp] theorem unitView_bumpMeets (a n : Nat) (s : State) : unitView (bumpMeets a n s) = unitView s := unitView_ite rfl rfl

@[simp] theorem unitView_accMeets (c : Nat) (d : Desc) (n : Nest) (i j astep : Nat) (w : Ext4) (s : State) :
    unitView (accMeets c d n i j astep w s) = unitView s := unitView_ite rfl (unitView_ite (unitView_bumpMeets ..) rfl)

@[simp] theorem unitView_redPut (c : Nat) (d : Desc) (n : Nest) (it j i : Nat) (v : Word) (s : State) :
    unitView (redPut c d n it j i v s) = unitView s := unitView_ite rfl rfl

/-! ## Arrays -/

theorem unitView_passBody (c a : Nat) (r : Run) (s : State) : unitView (passBody c a r s) = unitView s := by
  refine (unitView_bump ..).trans ((unitView_iter (fun m s => unitView_iter (fun j s => ?_) _ s) _ _).trans ?_)
  · exact unitView_ite rfl rfl
  · exact unitView_ite ((unitView_setArr ..).trans (unitView_ite rfl rfl)) (unitView_ite rfl rfl)

theorem unitView_zaccBody (c a : Nat) (r : Run) (s : State) : unitView (zaccBody c a r s) = unitView s :=
  unitView_ite rfl (unitView_iter (fun _ s => unitView_iter (fun _ _ => unitView_accSet ..) _ s) _ s)

/-! ## VXE -/

theorem unitView_ldprogBody (c : Nat) (r : Run) (s : State) : unitView (ldprogBody c r s) = unitView s :=
  (unitView_wrF ..).trans (unitView_progs ..)

theorem unitView_mmovBody (c : Nat) (r : Run) (s : State) : unitView (mmovBody c r s) = unitView s :=
  unitView_ite (unitView_tarnWrite ..) (unitView_mask ..)

theorem unitView_laneWrite (c : Nat) (r : Run) (isInt : Bool) (w : Ext4) (row : Nat × Nat × Nat) (lo : Nat) (outs : List (Option Word))
    (s : State) : unitView (laneWrite c r isInt w row lo outs s) = unitView s := by
  simp only [laneWrite, unitView_countSat, unitView_dstRow]

theorem unitView_laneIter (c : Nat) (r : Run) (s : State) : unitView (laneIter c r s).1 = unitView s := by
  simp only [laneIter]
  split
  · exact unitView_bump ..
  · refine (foldl_keeps_fst (fun p b => ?_) _ _).trans
      ((unitView_foldl (fun s x => unitView_accMeets ..) _ _).trans (unitView_bump ..))
    exact unitView_ite (unitView_foldl (fun s o => unitView_laneWrite ..) _ _) rfl

theorem unitView_transBody (c : Nat) (r : Run) (s : State) : unitView (transBody c r s) = unitView s := by
  refine unitView_ite (unitView_bump ..) ((unitView_foldl (fun s b => unitView_iter (fun i s => ?_) _ s) _ _).trans
    ((unitView_accMeets ..).trans (unitView_bump ..)))
  exact unitView_ite ((unitView_iter (fun _ _ => unitView_tregSet ..) _ _).trans (unitView_countSat ..))
    ((unitView_dstRow ..).trans (unitView_countSat ..))

theorem unitView_qconvBody (c : Nat) (r : Run) (s : State) : unitView (qconvBody c r s) = unitView s := by
  refine unitView_ite (unitView_bump ..)
    ((unitView_foldl (fun s x => ?_) _ _).trans (unitView_ite ((unitView_redPut ..).trans ?_) ?_))
  · exact unitView_ite ((unitView_countSat ..).trans (unitView_writeRow ..))
      ((unitView_countSat ..).trans ((unitView_writeRow ..).trans (unitView_ite (unitView_redPut ..) rfl)))
  · exact (unitView_accMeets ..).trans ((unitView_accMeets ..).trans (unitView_bump ..))
  · exact (unitView_accMeets ..).trans ((unitView_accMeets ..).trans (unitView_bump ..))

theorem unitView_pmergeBody (c : Nat) (r : Run) (s : State) : unitView (pmergeBody c r s) = unitView s := by
  refine unitView_ite rfl (unitView_iter (fun row s => ?_) _ s)
  exact unitView_ite
    ((unitView_redPut ..).trans ((unitView_countSat ..).trans ((unitView_writeRow ..).trans (unitView_ite (unitView_bump ..) rfl))))
    ((unitView_countSat ..).trans ((unitView_writeRow ..).trans (unitView_ite (unitView_bump ..) rfl)))

/-! ## RDU, SPU, LSE -/

theorem unitView_redIter (c : Nat) (r : Run) (isInt : Bool) (inp : Nat → Nat → Option Word) (s : State) :
    unitView (redIter c r isInt inp s) = unitView s := by
  refine unitView_ite (unitView_bump ..) ((unitView_iter (fun i s => ?_) _ _).trans (unitView_bump ..))
  extract_lets blocks w start res
  clear_value res
  cases res with
  | none => rfl
  | some v =>
    exact unitView_ite ((unitView_redPut ..).trans ((unitView_redPut ..).trans (unitView_ite rfl (unitView_bump ..))))
      ((unitView_redPut ..).trans (unitView_ite rfl (unitView_bump ..)))

theorem unitView_redBody (c : Nat) (r : Run) (s : State) : unitView (redBody c r s) = unitView s :=
  (unitView_redIter ..).trans (unitView_ite rfl (unitView_accMeets ..))

theorem unitView_setX (c p r : Nat) (v : DWord) (s : State) : unitView (setX c p r v s) = unitView s := unitView_ite rfl rfl

/-- A read of the stream-visible set may latch a high word. -/
theorem unitView_rdregRead (i : Nat) (s : State) : unitView (rdregRead i s).2 = unitView s := by
  simp only [rdregRead]
  split_ifs <;> rfl

theorem unitView_rdregBody (c : Nat) (r : Run) (s : State) : unitView (rdregBody c r s) = unitView s :=
  (unitView_setX ..).trans (unitView_rdregRead ..)

theorem unitView_meshCast (a : Nat) (ends : List MeshEnd) (n : Nat) (s : State) : unitView (meshCast a ends n s) = unitView s :=
  unitView_iter (fun _ _ => unitView_bump ..) _ s

theorem unitView_castQueries (c : Nat) (r : Run) (l : List Nat) (s : State) : unitView (castQueries c r l s) = unitView s :=
  unitView_ite rfl (unitView_meshCast ..)

end Sys2Proof.Machine
end

section
/-! SUPPORT. The units' events at a head that may start (R46, R52, R55): each starts it, and what it goes on with takes no more. -/

namespace Sys2Proof.Machine

variable {s t : State} {k seq op : Nat} {c : Cmd} {q : QCmd} {r : Run} {p : Prep} {P : Run → Prop}

/-! ## A unit with nothing running -/

theorem headIs_of_mayStart (h : mayStartAs s k q p) (hop : q.cmd.opcode = op) : headIs s k op = some q := by
  rw [headIs, headOf_of_mayStart h]
  exact if_pos ⟨hop, refused_of_mayStart h⟩

theorem firstRun_of_idle (h : (unitOf s k).running = []) (f : Run → Bool) : firstRun s k f = none := by simp [firstRun, h]

/-- The engines run, and no abort is under way. -/
theorem not_stopped_of_mayStart (h : mayStartAs s k q p) : ¬(!engines s || s.ssq.aborting) = true := by
  simp [engines_of_stepOpen (stepOpen_of_mayStart h), not_aborting_of_stepOpen (stepOpen_of_mayStart h)]

/-! ## The runs that a start leaves -/

theorem addFlag_units (c f n k seq : Nat) (s : State) : (addFlag c f n k seq s).units = s.units := by
  rw [addFlag]
  split <;> rfl

theorem setsIf_units (b : Prop) [Decidable b] (k : Nat) (q : QCmd) (s : State) : (setsIf b k q s).units = s.units := by
  rw [setsIf, doSet]
  split
  · split
    · exact foldl_keeps (·.units) (fun s c => addFlag_units ..) _ s
    · rfl
  · rfl

theorem returns_units (r : Run) (s : State) : (r.returns s).units = s.units := by
  rw [Run.returns]
  split <;> rfl

theorem runsAll_retire (hs : swf (fun _ => {}) s.units = true) (h : runsAll k P s) : runsAll k P (retire k seq s) := by
  rw [retire_eq]
  split
  · exact h
  · exact runsAll_congr (returns_units ..) (runsAll_dropRun hs h)

/-- A completion keeps a property of every run of its unit that ending keeps. -/
theorem runsAll_complete (hP : ∀ r, P r → P r.over) (hs : swf (fun _ => {}) s.units = true) (h : runsAll k P s) :
    runsAll k P (complete k seq s) := by
  rw [complete_eq]
  split
  · exact h
  · next r _ =>
    have hover : ∀ x : State, x.units = s.units → swf (fun _ => {}) (updRun k seq Run.over x).units = true ∧
        runsAll k P (updRun k seq Run.over x) := fun x hx =>
      ⟨swf_sset (hx ▸ hs), runsAll_updRun hP (hx ▸ hs) (runsAll_congr hx h)⟩
    obtain ⟨hswf, hruns⟩ := hover _ (returns_units r s)
    have hu := setsIf_units (r.nest.setLv = 0) k r.q (updRun k seq Run.over (r.returns s))
    split
    · exact runsAll_congr hu hruns
    · exact runsAll_retire (hu ▸ hswf) (runsAll_congr hu hruns)

/-- A run as the start of head q as p leaves it: of that command, at its first iteration. -/
def startsAs (q : QCmd) (p : Prep) (r : Run) : Prop := r.q.cmd = q.cmd ∧ r.it = p.run.it ∧ r.aux = p.run.aux

theorem startsAs_over (h : startsAs q p r) : startsAs q p r.over := h

theorem Launches.runs (h : Launches k q r s t) (hs : swf (fun _ => {}) s.units = true) (hr : (unitOf s k).running = [])
    (hit : r.it = p.run.it) (haux : r.aux = p.run.aux) : runsAll k (startsAs q p) t := by
  obtain ⟨q', hcmd, -, -, hrun⟩ := h.running hs hr
  rw [runsAll, hrun, List.forall_mem_singleton]
  exact ⟨hcmd, hit, haux⟩

theorem runs_startPrep (hc : canonical s = true) (h : mayStartAs s k q p) {p' : Prep} (hcost : p'.cost = p.cost)
    (hnest : p'.run.nest = p.run.nest) (hclaims : p'.run.claims = p.run.claims) (hit : p'.run.it = p.run.it)
    (haux : p'.run.aux = p.run.aux) : runsAll k (startsAs q p) (startPrep k q p' s) := by
  have hl := launches_tryStart (r := p'.run) h hnest hclaims
  have hs := units_of_canonical hc
  have hruns := hl.runs hs (running_of_mayStart h) hit haux
  rw [startPrep, hcost]
  split
  · have hruns' : runsAll k (startsAs q p) (bump (coreReg q.core 0xA090) p'.clamps (tryStart k q p'.run p.cost s)) :=
      runsAll_congr rfl hruns
    rw [startEmpty]
    split
    · split
      · exact runsAll_complete (fun _ => startsAs_over) (hl.left.swf hs) hruns'
      · exact hruns'
    · exact hruns'
  · exact hruns

/-! ## Commands whose iterations run one after another -/

/-- The event of a command of which an iteration follows at once. -/
theorem starts_unitEvent {free : State → Bool} {prep : State → QCmd → Except Nat Prep} {body : Run → State → State}
    (hc : canonical s = true) (h : mayStartAs s k q p) (hop : q.cmd.opcode = op) (hfree : free s = true) (hprep : prep s q = .ok p)
    (hbody : ∀ r s, unitView (body r s) = unitView s) : Starts k q p s (unitEvent k op free prep body s) := by
  have hstart := starts_startPrep hc h (p' := p) rfl rfl rfl
  rw [unitEvent, if_neg (not_stopped_of_mayStart h), firstRun_of_idle (running_of_mayStart h), headIs_of_mayStart h hop]
  simp only [hfree, hprep, Bool.not_true, Bool.false_eq_true, if_false]
  split
  · next r hr =>
    exact hstart.trans (follows_runIter (mem_of_runOf hr) (hbody r))
  · exact hstart

/-! ## Arrays -/

theorem arrayFree_of_idle (h : (unitOf s k).running = []) : arrayFree k s = true := by simp [arrayFree, h]

theorem starts_mxaLoadw {c a : Nat} (hc : canonical s = true) (h : mayStartAs s (unitKey c a) q p) (hop : q.cmd.opcode = 0x10)
    (hprep : prepLoadw s q = .ok p) : Starts (unitKey c a) q p s (mxaLoadw c a s) := by
  rw [mxaLoadw, if_neg (not_stopped_of_mayStart h), headIs_of_mayStart h hop]
  simp only [arrayFree_of_idle (running_of_mayStart h), hprep, Bool.not_true, Bool.false_eq_true, if_false]
  exact starts_startPrep hc h rfl rfl rfl

theorem mem_of_rowRun (h : rowRun s k = some r) : r ∈ (unitOf s k).running := by
  rw [rowRun] at h
  exact mem_of_firstRun h

theorem follows_pass (k c' a : Nat) (c : Cmd) (s : State) : Follows k c s (mxaStream.pass k c' a s) := by
  rw [mxaStream.pass]
  split
  · exact .refl s
  · next r hr =>
    have hpass : Follows k c s (endIter k r.q.seq (passBody c' a r (takeMet k r r.it s))) :=
      ((follows_takeMet (mem_of_rowRun hr)).trans (.of_view (unitView_passBody ..))).trans (follows_endIter ..)
    exact .ite (.refl s) (follows_withSegs hpass)

theorem starts_mxaStream {c a : Nat} (hc : canonical s = true) (h : mayStartAs s (unitKey c a) q p) (hop : q.cmd.opcode = 0x20)
    (hprep : prepStream s q = .ok p) : Starts (unitKey c a) q p s (mxaStream c a s) := by
  have hholder : holder s (unitKey c a) = none := by simp [holder, running_of_mayStart h]
  have hstart := starts_startPrep hc h (p' := p) rfl rfl rfl
  rw [mxaStream, if_neg (not_stopped_of_mayStart h), headIs_of_mayStart h hop, headOf_of_mayStart h]
  simp only [arrayFree_of_idle (running_of_mayStart h), hprep, startStream, hholder, Bool.not_true, Bool.false_eq_true, if_false]
  split
  · exact hstart
  · exact hstart.trans (follows_pass ..)

theorem starts_mxaZacc {c a : Nat} (hc : canonical s = true) (h : mayStartAs s (unitKey c a) q p) (hop : q.cmd.opcode = 0x30)
    (hprep : prepZacc s q = .ok p) : Starts (unitKey c a) q p s (mxaZacc c a s) := by
  have hstart := starts_startPrep hc h (p' := p) rfl rfl rfl
  rw [mxaZacc, if_neg (not_stopped_of_mayStart h), headIs_of_mayStart h hop]
  simp only [arrayFree_of_idle (running_of_mayStart h), hprep, Bool.not_true, Bool.false_eq_true, if_false]
  split
  · exact hstart
  · next r hr =>
    exact hstart.trans (.ite (follows_runIter (mem_of_rowRun hr) (unitView_zaccBody c a r)) (.refl _))

/-! ## VXE and RDU -/

theorem vxeFree_of_idle (h : (unitOf s k).running = []) : vxeFree k s = true := by simp [vxeFree, h]

theorem unitFree_of_idle (h : (unitOf s k).running = []) : unitFree k s = true := by simp [unitFree, h]

/-- A VXE.LANE that does not tap runs alone. -/
theorem follows_laneStep {c' : Nat} (hr : r ∈ (unitOf s k).running) (htap : laneTap r.q = false) :
    Follows k c s (laneStep c' k r s) := by
  have heq : laneStep c' k r s = runIter k r (fun s => (laneIter c' r s).1) s := by
    simp only [laneStep, htap, Bool.false_and, Bool.false_eq_true, if_false]
  rw [heq]
  exact follows_runIter hr (unitView_laneIter c' r)

theorem starts_vxeLane {c : Nat} (hc : canonical s = true) (h : mayStartAs s (unitKey c 4) q p) (hop : q.cmd.opcode = 0x20)
    (htap : bitOf q.cmd.w4 13 = false) (hprep : prepLane s q = .ok p) : Starts (unitKey c 4) q p s (vxeLane c s) := by
  have hstart := starts_startPrep hc h (p' := p) rfl rfl rfl
  have hruns := runs_startPrep hc h (p' := p) rfl rfl rfl rfl rfl
  have hlane : startLane (unitKey c 4) q p s = startPrep (unitKey c 4) q p s := by simp [startLane, laneTap, htap]
  rw [vxeLane, if_neg (not_stopped_of_mayStart h), firstRun_of_idle (running_of_mayStart h), headIs_of_mayStart h hop]
  simp only [vxeFree_of_idle (running_of_mayStart h), hprep, hlane, Bool.not_true, Bool.false_eq_true, if_false]
  split
  · next r hr =>
    have hmem := mem_of_firstRun hr
    obtain ⟨hcmd, -, -⟩ := hruns r hmem
    exact hstart.trans (follows_laneStep hmem (by rw [laneTap, hcmd, htap]))
  · exact hstart

theorem starts_rduRed {c : Nat} (hc : canonical s = true) (h : mayStartAs s (unitKey c 5) q p) (hop : q.cmd.opcode = 0x10)
    (htap : bitOf q.cmd.w4 4 = false) (hprep : prepRed s q = .ok p) : Starts (unitKey c 5) q p s (rduRed c s) := by
  have hstart := starts_startPrep hc h (p' := p) rfl rfl rfl
  have hred : startRed (unitKey c 5) q p s = startPrep (unitKey c 5) q p s := by simp [startRed, redTap, htap]
  rw [rduRed, if_neg (not_stopped_of_mayStart h), firstRun_of_idle (running_of_mayStart h), headIs_of_mayStart h hop]
  simp only [unitFree_of_idle (running_of_mayStart h), hprep, hred, Bool.not_true, Bool.false_eq_true, if_false]
  split
  · next r hr =>
    exact hstart.trans (.ite (.refl _) (follows_runIter (mem_of_firstRun hr) (unitView_redBody c r)))
  · exact hstart

/-! ## SPU -/

theorem spuFree_of_idle (hh : headOf s k = some q) (h : (unitOf s k).running = []) : spuFree k s = true := by simp [spuFree, hh, h]

theorem unitView_setPipe (c p : Nat) (v : PipeRun) (s : State) : unitView (setPipe c p v s) = unitView s := rfl

theorem follows_beginRun {c' : Nat} (hr : r ∈ (unitOf s (spuKey c')).running) : Follows (spuKey c') c s (beginRun c' r s) := by
  refine .ite ((follows_takeWait hr).trans (follows_endIter ..)) ?_
  refine ((follows_takeWait hr).trans (.of_view ?_)).trans (follows_updRun fun x hx => hx)
  exact (unitView_setX ..).trans ((unitView_setX ..).trans (unitView_setPipe ..))

theorem starts_spuRun {c : Nat} (hc : canonical s = true) (h : mayStartAs s (spuKey c) q p) (hop : q.cmd.opcode = 0x10)
    (hprep : prepRun s q = .ok p) : Starts (spuKey c) q p s (spuRun c s) := by
  have hstart := starts_startPrep hc h (p' := p) rfl rfl rfl
  rw [spuRun, if_neg (not_stopped_of_mayStart h), firstRun_of_idle (running_of_mayStart h), headIs_of_mayStart h hop]
  simp only [spuFree_of_idle (headOf_of_mayStart h) (running_of_mayStart h), hprep, Bool.not_true, Bool.false_eq_true, if_false]
  split
  · next r hr => exact hstart.trans (.ite (follows_beginRun (mem_of_firstRun hr)) (.refl _))
  · exact hstart

end Sys2Proof.Machine
end

section
/-! SUPPORT. The events of the engines and of the LSE at a head that may start (R46, R196, R237). -/

namespace Sys2Proof.Machine

variable {s t : State} {k seq op : Nat} {c : Cmd} {q : QCmd} {r : Run} {p : Prep}

/-! ## What judging leaves to a run -/

/-- A judgement that passes has passed each of its steps. -/
theorem of_bind_ok {α β : Type} {x : Except Nat α} {f : α → Except Nat β} {b : β} (h : (x >>= f) = .ok b) : ∃ a, f a = .ok b := by
  cases x with
  | error e => cases h
  | ok a => exact ⟨a, h⟩

/-- The run begins at its first iteration. -/
def Prep.fresh (p : Prep) : Prop := p.run.it = 0 ∧ p.run.aux = 0

theorem fresh_prepNop (h : prepNop s q = .ok p) : p.fresh := by
  obtain ⟨_, h⟩ := of_bind_ok h
  cases h
  exact ⟨rfl, rfl⟩

theorem fresh_fsFinish {n ext al : Nest} {sps : List OpSpec} {raw ds : List Desc} {tcs : List Nat} {late : Bool}
    (h : fsFinish s q n ext sps raw ds tcs late al = .ok p) : p.fresh := by
  obtain ⟨_, h⟩ := of_bind_ok h
  obtain ⟨_, h⟩ := of_bind_ok h
  cases h
  exact ⟨rfl, rfl⟩

theorem fresh_prepCopy {sxe stream : Bool} (h : prepCopy sxe stream s q = .ok p) : p.fresh := by
  obtain ⟨_, h⟩ := of_bind_ok h
  obtain ⟨_, h⟩ := of_bind_ok h
  obtain ⟨_, h⟩ := of_bind_ok h
  obtain ⟨_, h⟩ := of_bind_ok h
  obtain ⟨_, h⟩ := of_bind_ok h
  exact fresh_fsFinish h

theorem fresh_prepList {sxe add : Bool} (h : prepList sxe add s q = .ok p) : p.fresh := by
  obtain ⟨_, h⟩ := of_bind_ok h
  obtain ⟨_, h⟩ := of_bind_ok h
  obtain ⟨_, h⟩ := of_bind_ok h
  obtain ⟨_, h⟩ := of_bind_ok h
  obtain ⟨_, h⟩ := of_bind_ok h
  obtain ⟨_, h⟩ := of_bind_ok h
  obtain ⟨_, h⟩ := of_bind_ok h
  exact fresh_fsFinish h

/-! ## Channels -/

theorem freeChan_of_idle (h : (unitOf s k).running = []) : freeChan s k = some 0 := by
  simp only [freeChan, h]
  rfl

theorem chanFree_of_idle (h : (unitOf s k).running = []) : chanFree k s = true := by
  simp [chanFree, freeChan_of_idle h, h]

/-- A head on the first channel. -/
def onChan0 (r : Run) : Run := { r with chan := 0 }

/-- A command of no iteration owes its flag add. -/
def owesBare (k seq : Nat) (s : State) : State :=
  if started s k seq then updRun k seq (fun r => { r with todo := [bareRsen r 0] }) s else s

theorem startChan_of_idle (h : (unitOf s k).running = []) (q : QCmd) (p : Prep) : startChan k q p s =
    if owesRsen (onChan0 p.run) then owesBare k q.seq (tryStart k q (onChan0 p.run) p.cost s)
    else startPrep k q { p with run := onChan0 p.run } s := by
  rw [startChan, freeChan_of_idle h]
  rfl

theorem follows_owesBare (k seq : Nat) (c : Cmd) (s : State) : Follows k c s (owesBare k seq s) :=
  .ite (follows_updRun (by exact fun _ hx => hx)) (.refl s)

theorem starts_startChan (hc : canonical s = true) (h : mayStartAs s k q p) : Starts k q p s (startChan k q p s) := by
  have hl := launches_tryStart (r := onChan0 p.run) h rfl rfl
  rw [startChan_of_idle (running_of_mayStart h)]
  split
  · exact (hl.starts (units_of_canonical hc) (running_of_mayStart h) rfl).trans (follows_owesBare ..)
  · exact starts_startPrep hc h rfl rfl rfl

theorem runs_startChan (hc : canonical s = true) (h : mayStartAs s k q p) : runsAll k (startsAs q p) (startChan k q p s) := by
  have hl := launches_tryStart (r := onChan0 p.run) h rfl rfl
  have hs := units_of_canonical hc
  have hruns := hl.runs (p := p) hs (running_of_mayStart h) rfl rfl
  rw [startChan_of_idle (running_of_mayStart h)]
  split
  · rw [owesBare]
    split
    · exact runsAll_updRun (fun _ hx => hx) (hl.left.swf hs) hruns
    · exact hruns
  · exact runs_startPrep hc h rfl rfl rfl rfl rfl

/-! ## An engine's event -/

theorem onlyRuns_settleIters (c e seq fuel : Nat) (s : State) : OnlyRuns s (settleIters c e seq fuel s) := by
  induction fuel generalizing s with
  | zero => exact .refl s
  | succ n ih =>
    rw [settleIters]
    split
    · exact .refl s
    · exact .ite (.ite (.refl s) (onlyRuns_complete ..)) (.ite (.refl s)
        (.ite ((OnlyRuns.ite (onlyRuns_doSet ..) (.refl s)).trans (onlyRuns_updRun ..)) ((onlyRuns_endIter ..).trans (ih _))))

theorem follows_settleIters (c e seq fuel : Nat) (cmd : Cmd) (s : State) :
    Follows (unitKey c (engUnit e)) cmd s (settleIters c e seq fuel s) := by
  induction fuel generalizing s with
  | zero => exact .refl s
  | succ n ih =>
    refine (onlyRuns_settleIters ..).follows fun hsen h => ?_
    rw [settleIters]
    split
    · exact ⟨h, rfl⟩
    · next r hr =>
      have hset := setsIf_of_waitDone (k := unitKey c (engUnit e)) hsen (h.2 r (mem_of_runOf hr)) (r.nest.setsAt r.it = true) s
      have hlast : Follows (unitKey c (engUnit e)) cmd s (updRun (unitKey c (engUnit e)) seq (fun r => { r with it := r.it + 1 })
          (setsIf (r.nest.setsAt r.it = true) (unitKey c (engUnit e)) r.q s)) := by
        rw [hset]
        exact follows_updRun fun x hx => ⟨hx.cmd, hx.level, .inr (Nat.succ_pos _), hx.met⟩
      exact (Follows.ite (.ite (.refl s) (follows_complete ..)) (.ite (.refl s)
        (.ite hlast ((follows_endIter ..).trans (ih _))))).calm hsen h

/-- The next iteration of a run that has cut none is cut. -/
theorem follows_openIter {c e : Nat} {cmd : Cmd} (hr : r ∈ (unitOf s (unitKey c (engUnit e))).running) (haux : r.aux = 0) :
    Follows (unitKey c (engUnit e)) cmd s (openIter c e r s) := by
  have hno : ¬(r.q.cmd.unit == 7 && r.q.cmd.opcode == 0x20 && decide (8 ≤ r.aux)) = true := by simp [haux]
  rw [openIter]
  simp only [if_neg hno]
  have hmet : Follows (unitKey c (engUnit e)) cmd s (takeMet (unitKey c (engUnit e)) r r.aux s) := follows_takeMet hr
  refine ((hmet.trans (.of_view ?_)).trans (follows_updRun (by exact fun _ hx => hx))).trans (follows_settleIters ..)
  exact (unitView_bump ..).trans (unitView_bump ..)

/-- An engine's event at a head that may start. -/
theorem starts_engineEvent {c e : Nat} {prep : State → QCmd → Except Nat Prep} (hc : canonical s = true)
    (h : mayStartAs s (unitKey c (engUnit e)) q p) (hop : q.cmd.opcode = op) (hprep : prep s q = .ok p)
    (hfresh : prep s q = .ok p → p.fresh) :
    Starts (unitKey c (engUnit e)) q p s (engineEvent c e op prep s) := by
  have hstart := starts_startChan hc h
  have hruns := runs_startChan hc h
  obtain ⟨hit0, haux0⟩ := hfresh hprep
  rw [engineEvent, if_neg (not_stopped_of_mayStart h), headIs_of_mayStart h hop]
  simp only [chanFree_of_idle (running_of_mayStart h), hprep, Bool.not_true, Bool.false_eq_true, if_false]
  split
  · next r hr =>
    obtain ⟨-, -, haux⟩ := hruns r (mem_of_firstRun hr)
    exact hstart.trans (follows_openIter (mem_of_firstRun hr) (haux.trans haux0))
  · split
    · next r hr =>
      obtain ⟨-, hit, -⟩ := hruns r (mem_of_firstRun hr)
      have hend := List.find?_some hr
      simp only [streamEnd, hit.trans hit0, Bool.and_eq_true, decide_eq_true_eq, bne_iff_ne, ne_eq] at hend
      omega
    · exact hstart

/-! ## FXE.TPWR -/

theorem follows_settleTpwr (c : Nat) (cmd : Cmd) (s : State) : Follows (unitKey c 7) cmd s (settleTpwr c s) :=
  follows_foldl (fun _ _ => .ite (follows_endIter ..) (.refl _)) _ s

theorem starts_fxeTpwr {c : Nat} (hc : canonical s = true) (h : mayStartAs s (unitKey c 7) q p) (hop : q.cmd.opcode = 0x40)
    (hprep : prepTpwr s q = .ok p) : Starts (unitKey c 7) q p s (fxeTpwr c s) := by
  have hstart := starts_startChan hc h
  rw [fxeTpwr, if_neg (not_stopped_of_mayStart h), headIs_of_mayStart h hop]
  simp only [chanFree_of_idle (running_of_mayStart h), hprep, Bool.not_true, Bool.false_eq_true, if_false]
  split
  · exact hstart
  · exact hstart.trans (Follows.trans (.of_view (unitView_foldl (fun s g => unitView_ite rfl (unitView_setSeg ..)) _ _))
      (follows_settleTpwr ..))

/-! ## LSE -/

theorem lseFree_of_idle (h : (unitOf s k).running = []) : lseFree k s = true := by simp [lseFree, h]

theorem follows_settleLse (c seq : Nat) (cmd : Cmd) (s : State) : Follows (lseKey c) cmd s (settleLse c seq s) := by
  rw [settleLse]
  split
  · exact .refl s
  · exact .ite ((follows_updRun (by exact fun _ hx => hx)).trans (follows_endIter ..)) (.refl s)

theorem follows_sendSubs (c : Nat) (r : Run) (cmd : Cmd) (s : State) : Follows (lseKey c) cmd s (sendSubs c r s) := by
  refine (Follows.trans (.of_view (unitView_castQueries ..)) (follows_foldl (fun s st => ?_) _ _)).trans (follows_settleLse ..)
  exact .ite (Follows.trans (.of_view (unitView_setStk ..)) (follows_updRun (by exact fun _ hx => hx))) (.refl s)

theorem unitView_writePart (c : Nat) (pd : Desc) (row p : Nat) (v : List Word) (s : State) :
    unitView (writePart c pd row p v s) = unitView s := unitView_tarnWrite ..

theorem follows_beginLse {c : Nat} {cmd : Cmd} (hr : r ∈ (unitOf s (lseKey c)).running) :
    Follows (lseKey c) cmd s (beginLse c r s) := by
  have htake : Follows (lseKey c) cmd s (takeWait (lseKey c) r s) := follows_takeWait hr
  refine .ite (htake.trans (follows_endIter ..)) (((htake.trans (.of_view ?_)).trans (follows_updRun (by exact fun _ hx => hx))).trans
    (follows_sendSubs ..))
  exact unitView_ite
    ((unitView_foldl (fun s st => unitView_iter (fun row s => unitView_writePart ..) _ s) _ _).trans (unitView_bump ..))
    (unitView_bump ..)

theorem starts_lseEvent {c : Nat} {prep : State → QCmd → Except Nat Prep} (hc : canonical s = true)
    (h : mayStartAs s (lseKey c) q p) (hop : q.cmd.opcode = op) (hprep : prep s q = .ok p) :
    Starts (lseKey c) q p s (lseEvent c op prep s) := by
  have hstart := starts_startPrep hc h (p' := p) rfl rfl rfl
  rw [lseEvent, if_neg (not_stopped_of_mayStart h), headIs_of_mayStart h hop]
  simp only [lseFree_of_idle (running_of_mayStart h), hprep, Bool.not_true, Bool.false_eq_true, if_false]
  split
  · exact hstart.trans (follows_sendSubs ..)
  · split
    · next r hr => exact hstart.trans (follows_withSegs (follows_beginLse (mem_of_firstRun hr)))
    · exact hstart

end Sys2Proof.Machine
end

section
/-! INSTRUCTION STREAM. Every command of a core's units starts at its head (R46, R52, R55): O22 row by row. -/

namespace Sys2Proof.Machine

variable {s t : State} {k op u : Nat} {q : QCmd} {p : Prep} {i : Instr}

/-! ## Which judgement a head gets (R503) -/

theorem judge_array_loadw (hr : q.refused = 0) (hu : q.cmd.unit < 4) (hop : q.cmd.opcode = 0x10) : judge s q = prepLoadw s q := by
  obtain hu | hu | hu | hu : q.cmd.unit = 0 ∨ q.cmd.unit = 1 ∨ q.cmd.unit = 2 ∨ q.cmd.unit = 3 := by omega
  all_goals simp [judge, hr, hu, hop]

theorem judge_array_stream (hr : q.refused = 0) (hu : q.cmd.unit < 4) (hop : q.cmd.opcode = 0x20) : judge s q = prepStream s q := by
  obtain hu | hu | hu | hu : q.cmd.unit = 0 ∨ q.cmd.unit = 1 ∨ q.cmd.unit = 2 ∨ q.cmd.unit = 3 := by omega
  all_goals simp [judge, hr, hu, hop]

theorem judge_array_zacc (hr : q.refused = 0) (hu : q.cmd.unit < 4) (hop : q.cmd.opcode = 0x30) : judge s q = prepZacc s q := by
  obtain hu | hu | hu | hu : q.cmd.unit = 0 ∨ q.cmd.unit = 1 ∨ q.cmd.unit = 2 ∨ q.cmd.unit = 3 := by omega
  all_goals simp [judge, hr, hu, hop]

/-- Operation code 0 is NOP on every unit but the LSE and the ring engine. -/
theorem judge_nop (hr : q.refused = 0) (hu : q.cmd.unit < 9) (hop : q.cmd.opcode = 0) : judge s q = prepNop s q := by
  have : q.cmd.unit ≠ 9 ∧ q.cmd.unit ≠ 11 := by omega
  simp [judge, hr, hop, this]

/-- The judgement that a head gets, given by the unit and the operation code. -/
theorem prep_of_judge {prep : State → QCmd → Except Nat Prep} (h : mayStartAs s k q p)
    (hj : q.refused = 0 → judge s q = prep s q) : prep s q = .ok p :=
  (hj (refused_of_mayStart h)).symm.trans (judge_of_mayStart h)

/-- A unit's event, in its turn, by which the head starts. -/
theorem hasStarted_of_starts {ev : State → State} (hc : canonical s = true) (hline : firstInLine s k)
    (hexec : exec i s = .next (inTurn k ev s)) (h : Starts k q p s (ev s)) : ∃ t, exec i s = .next t ∧ hasStarted k q p s t :=
  ⟨_, hexec, by
    rw [inTurn_eq_of_firstInLine hline]
    exact h.hasStarted hc⟩

/-! ## The commands -/

/-- Every row of the table of unit commands. -/
theorem starts_of_unitCommand {c : CoreId} (hc : canonical s = true) (hi : unitCommand i = some (c, u, op)) (hu : q.cmd.unit = u)
    (hop : q.cmd.opcode = op) (h : mayStartAs s (unitKey c.val u) q p) :
    ∃ ev : State → State, exec i s = .next (inTurn (unitKey c.val u) ev s) ∧ Starts (unitKey c.val u) q p s (ev s) := by
  have hidle := running_of_mayStart h
  have hfree := arrayFree_of_idle hidle
  have hvxe := vxeFree_of_idle hidle
  have hunit := unitFree_of_idle hidle
  have hspu := spuFree_of_idle (headOf_of_mayStart h) hidle
  have htaps := taps_of_mayStart h
  have hrow : ∀ {free : State → Bool} {prep : State → QCmd → Except Nat Prep} {body : Run → State → State}, free s = true →
      (q.refused = 0 → judge s q = prep s q) → (∀ r s, unitView (body r s) = unitView s) →
      Starts (unitKey c.val u) q p s (unitEvent (unitKey c.val u) op free prep body s) := fun hf hj hb =>
    starts_unitEvent hc h hop hf (prep_of_judge h hj) hb
  unfold unitCommand at hi
  split at hi <;> simp only [Option.some.injEq, Prod.mk.injEq, reduceCtorEq] at hi <;> obtain ⟨rfl, rfl, rfl⟩ := hi
  case _ c a => exact ⟨_, rfl, hrow hfree (fun hr => judge_nop hr (by omega) hop) fun _ _ => rfl⟩
  case _ c a => exact ⟨_, rfl, starts_mxaLoadw hc h hop (prep_of_judge h fun hr => judge_array_loadw hr (by omega) hop)⟩
  case _ c a => exact ⟨_, rfl, starts_mxaStream hc h hop (prep_of_judge h fun hr => judge_array_stream hr (by omega) hop)⟩
  case _ c a => exact ⟨_, rfl, starts_mxaZacc hc h hop (prep_of_judge h fun hr => judge_array_zacc hr (by omega) hop)⟩
  case _ c => exact ⟨_, rfl, hrow hvxe (fun hr => judge_nop hr (by omega) hop) fun _ _ => rfl⟩
  case _ c => exact ⟨_, rfl, hrow (by simp [idle, hidle]) (fun hr => by simp [judge, hr, hu, hop]) (unitView_ldprogBody c)⟩
  case _ c =>
    have htap : bitOf q.cmd.w4 13 = false := by simpa [taps, hu, hop] using htaps
    exact ⟨_, rfl, starts_vxeLane hc h hop htap (prep_of_judge h fun hr => by simp [judge, hr, hu, hop])⟩
  case _ c => exact ⟨_, rfl, hrow hvxe (fun hr => by simp [judge, hr, hu, hop]) (unitView_qconvBody c)⟩
  case _ c => exact ⟨_, rfl, hrow hvxe (fun hr => by simp [judge, hr, hu, hop]) (unitView_pmergeBody c)⟩
  case _ c => exact ⟨_, rfl, hrow hvxe (fun hr => by simp [judge, hr, hu, hop]) (unitView_transBody c)⟩
  case _ c => exact ⟨_, rfl, hrow hvxe (fun hr => by simp [judge, hr, hu, hop]) (unitView_mmovBody c)⟩
  case _ c => exact ⟨_, rfl, hrow hunit (fun hr => judge_nop hr (by omega) hop) fun _ _ => rfl⟩
  case _ c =>
    have htap : bitOf q.cmd.w4 4 = false := by simpa [taps, hu, hop] using htaps
    exact ⟨_, rfl, starts_rduRed hc h hop htap (prep_of_judge h fun hr => by simp [judge, hr, hu, hop])⟩
  case _ c => exact ⟨_, rfl, hrow hspu (fun hr => judge_nop hr (by omega) hop) fun _ _ => rfl⟩
  case _ c => exact ⟨_, rfl, starts_spuRun hc h hop (prep_of_judge h fun hr => by simp [judge, hr, hu, hop])⟩
  case _ c => exact ⟨_, rfl, hrow hspu (fun hr => by simp [judge, hr, hu, hop]) (unitView_rdregBody c)⟩
  case _ c => exact ⟨_, rfl, starts_engineEvent (e := 0) hc h hop (prep_of_judge h fun hr => judge_nop hr (by omega) hop) fresh_prepNop⟩
  case _ c => exact ⟨_, rfl, starts_engineEvent (e := 0) hc h hop (prep_of_judge h fun hr => by simp [judge, hr, hu, hop]) fresh_prepCopy⟩
  case _ c => exact ⟨_, rfl, starts_engineEvent (e := 0) hc h hop (prep_of_judge h fun hr => by simp [judge, hr, hu, hop]) fresh_prepCopy⟩
  case _ c => exact ⟨_, rfl, starts_engineEvent (e := 0) hc h hop (prep_of_judge h fun hr => by simp [judge, hr, hu, hop]) fresh_prepList⟩
  case _ c => exact ⟨_, rfl, starts_fxeTpwr hc h hop (prep_of_judge h fun hr => by simp [judge, hr, hu, hop])⟩
  case _ c => exact ⟨_, rfl, starts_engineEvent (e := 1) hc h hop (prep_of_judge h fun hr => judge_nop hr (by omega) hop) fresh_prepNop⟩
  case _ c => exact ⟨_, rfl, starts_engineEvent (e := 1) hc h hop (prep_of_judge h fun hr => by simp [judge, hr, hu, hop]) fresh_prepCopy⟩
  case _ c => exact ⟨_, rfl, starts_engineEvent (e := 1) hc h hop (prep_of_judge h fun hr => by simp [judge, hr, hu, hop]) fresh_prepList⟩
  case _ c => exact ⟨_, rfl, starts_engineEvent (e := 1) hc h hop (prep_of_judge h fun hr => by simp [judge, hr, hu, hop]) fresh_prepList⟩
  case _ c => exact ⟨_, rfl, starts_lseEvent hc h hop (prep_of_judge h fun hr => by simp [judge, hr, hu, hop])⟩
  case _ c => exact ⟨_, rfl, starts_lseEvent hc h hop (prep_of_judge h fun hr => by simp [judge, hr, hu, hop])⟩
  case _ c => exact ⟨_, rfl, starts_lseEvent hc h hop (prep_of_judge h fun hr => by simp [judge, hr, hu, hop])⟩

/-- Settles O22, row by row of the table of unit commands: the run that starts takes its wait at its start, and what its event goes on
with takes none and sets none. -/
theorem unitsStart : Obligations.UnitsStart := by
  unfold Obligations.UnitsStart
  intro i c u op q p s hc hi _ hu hop h hline
  obtain ⟨ev, hexec, hstarts⟩ := starts_of_unitCommand hc hi hu hop h
  exact hasStarted_of_starts hc hline hexec hstarts

end Sys2Proof.Machine
end

section
/-! INSTRUCTION STREAM. The commands of the ring engine start (R357, R361). -/

namespace Sys2Proof.Machine

variable {s t : State} {k : Nat} {q : QCmd} {p : Prep}

theorem exec_oreNop (s : State) : exec .oreNop s = .next (inTurn oreKey oreNop s) := rfl

theorem exec_oreRev (s : State) : exec .oreRev s = .next (inTurn oreKey oreRev s) := rfl

/-! ## A start that leaves a run -/

/-- The head's run is there once it has started. -/
theorem runOf_of_launches {r : Run} (h : Launches k q r s t) (hs : swf (fun _ => {}) s.units = true) (hr : (unitOf s k).running = []) :
    ∃ q', runOf t k q.seq = some (startedRun q' r) := by
  obtain ⟨q', -, -, hseq, hrun⟩ := h.running hs hr
  refine ⟨q', ?_⟩
  rw [runOf, hrun]
  exact List.find?_cons_of_pos (p := fun r : Run => r.q.seq == q.seq) (beq_iff_eq.mpr hseq)

/-- A command with an iteration runs on after its start. -/
theorem startPrep_of_total (hc : canonical s = true) (h : mayStartAs s k q p) (htotal : p.run.total ≠ 0) :
    started (startPrep k q p s) k q.seq = true ∧
      startPrep k q p s = bump (coreReg q.core 0xA090) p.clamps (tryStart k q p.run p.cost s) := by
  obtain ⟨q', hrun⟩ := runOf_of_launches (launches_tryStart (r := p.run) h rfl rfl) (units_of_canonical hc) (running_of_mayStart h)
  have hrun' : runOf (bump (coreReg q.core 0xA090) p.clamps (tryStart k q p.run p.cost s)) k q.seq =
      some (startedRun q' { p.run with tokens := p.cost }) := hrun
  have heq : startPrep k q p s = bump (coreReg q.core 0xA090) p.clamps (tryStart k q p.run p.cost s) := by
    rw [startPrep, started, hrun, Option.isSome_some, if_pos rfl, startEmpty, hrun']
    exact if_neg htotal
  exact ⟨by rw [started, heq, hrun', Option.isSome_some], heq⟩

/-! ## A revolution begins -/

theorem sendCtl_keeps {β : Type} (view : State → β) (h : ∀ (s : State) (p : Nat) (v : PortSt), view (setPort p v s) = view s)
    (b kind revno n : Nat) (s : State) : view (sendCtl b kind revno n s) = view s := h ..

theorem oreOpen_keeps {β : Type} (view : State → β) (h : ∀ (s : State) (p : Nat) (v : PortSt), view (setPort p v s) = view s)
    (ho : ∀ (s : State) (o : Ore), view { s with ore := o } = view s) (fill : Bool) (m revno : Nat) (s : State) :
    view (oreOpen fill m revno s) = view s := (foldl_keeps view (fun _ _ => sendCtl_keeps view h ..) _ _).trans (ho ..)

/-- The GRANTs of an opening leave what the engine has been set to. -/
theorem ore_oreOpen (fill : Bool) (m revno : Nat) (s : State) : (oreOpen fill m revno s).ore.rev = !fill ∧
    (oreOpen fill m revno s).ore.model = m ∧ (oreOpen fill m revno s).ore.revno = revno := by
  have hgrants : ∀ (l : List Nat) (x : State), (l.foldl (fun s i => sendCtl i ringGrant revno 8 s) x).ore = x.ore := fun l x =>
    foldl_keeps (·.ore) (fun s i => sendCtl_keeps (·.ore) (fun _ _ _ => rfl) ..) l x
  simp only [oreOpen, hgrants, and_self]

theorem unitView_beginRev (q : QCmd) (s : State) : unitView (beginRev q s) = unitView s :=
  oreOpen_keeps unitView (fun _ _ _ => rfl) (fun _ _ => rfl) ..

theorem csr_beginRev (q : QCmd) (s : State) : (beginRev q s).csr =
    (wr rOreRevno (Word.ofNat (((rd s rOreRevno).toNat + 1) % 0xFFFFFFFF)) s).csr :=
  oreOpen_keeps (·.csr) (fun _ _ _ => rfl) (fun _ _ => rfl) ..

/-- ORE_REVNO steps to the next number. -/
theorem revno_beginRev (hs : swf resetWord s.csr = true) :
    (rd (beginRev q s) rOreRevno).toNat = ((rd s rOreRevno).toNat + 1) % 0xFFFFFFFF := by
  have hlt : ((rd s rOreRevno).toNat + 1) % 0xFFFFFFFF < 2 ^ 32 := (Nat.mod_lt _ (by decide)).trans (by decide)
  rw [rd, csr_beginRev, ← rd, rd_wr_same hs, BitVec.toNat_ofNat, Nat.mod_eq_of_lt hlt]

theorem total_prepRev (h : prepRev s q = .ok p) : p.run.total = 1 := by
  obtain ⟨_, h⟩ := of_bind_ok h
  obtain ⟨_, h⟩ := of_bind_ok h
  obtain ⟨_, h⟩ := of_bind_ok h
  obtain ⟨_, h⟩ := of_bind_ok h
  obtain ⟨_, h⟩ := of_bind_ok h
  obtain ⟨_, h⟩ := of_bind_ok h
  cases h
  rfl

/-- A head of ORE.REV that may start begins a revolution. -/
theorem oreRev_begins (hc : canonical s = true) (h : mayStartAs s oreKey q p) (hop : q.cmd.opcode = 0x10) (hrev : s.ore.rev = false)
    (hfill : s.ore.filling = false) (hprep : prepRev s q = .ok p) : oreRev s = beginRev q (startPrep oreKey q p s) := by
  have htotal : p.run.total ≠ 0 := by simp [total_prepRev hprep]
  have hstop := not_stopped_of_mayStart h
  rw [oreRev, if_neg (by simpa [hrev, hfill] using hstop), headIs_of_mayStart h hop]
  simp only [unitFree_of_idle (running_of_mayStart h), hprep, (startPrep_of_total hc h htotal).1, Bool.not_true, Bool.false_eq_true,
    if_false, if_true]

/-- Settles O23: neither the start nor the GRANTs touch ORE_REVNO, which steps once. -/
theorem ringCommandsStart : Obligations.RingCommandsStart := by
  unfold Obligations.RingCommandsStart
  intro q p s hc hu hcore hrev hfill h hline
  refine ⟨fun hop => ?_, fun hop => ?_⟩
  · have hprep : prepOreNop s q = .ok p := prep_of_judge h fun hr => by simp [judge, hr, hu, hop]
    exact hasStarted_of_starts hc hline (exec_oreNop s)
      (starts_unitEvent hc h hop (unitFree_of_idle (running_of_mayStart h)) hprep fun _ _ => rfl)
  · have hprep : prepRev s q = .ok p := prep_of_judge h fun hr => by simp [judge, hr, hu, hop]
    have hbegins := oreRev_begins hc h hop hrev hfill hprep
    have heq := (startPrep_of_total hc h (by simp [total_prepRev hprep])).2
    have hstarts : Starts oreKey q p s (oreRev s) := by
      rw [hbegins]
      exact (starts_startPrep hc h rfl rfl rfl).trans (.of_view (unitView_beginRev ..))
    have hregs : regsWithin runWord s (startPrep oreKey q p s) := by
      rw [heq]
      exact (launches_tryStart (r := p.run) h rfl rfl).left.regs.trans
        (regsWithin_bump (.inr (coreWord_coreReg hcore (by decide))))
    obtain ⟨hswf, hstay⟩ := hregs (csr_of_canonical hc)
    have hword : rd (startPrep oreKey q p s) rOreRevno = rd s rOreRevno :=
      hstay _ (by simp only [runWord, coreWord, rFlagHold, rOreRevno]; omega)
    obtain ⟨hrev', hmodel, hrevno⟩ := ore_oreOpen false (revModel q) (rd (startPrep oreKey q p s) rOreRevno).toNat
      (wr rOreRevno (Word.ofNat (((rd (startPrep oreKey q p s) rOreRevno).toNat + 1) % 0xFFFFFFFF)) (startPrep oreKey q p s))
    rw [exec_oreRev, inTurn_eq_of_firstInLine hline]
    refine ⟨_, rfl, hstarts.hasStarted hc, ?_⟩
    rw [hbegins, ← hword]
    exact ⟨hrev', hmodel, hrevno, revno_beginRev hswf⟩

end Sys2Proof.Machine
end

section
/-! INSTRUCTION STREAM. SPU.RUN begins a run on its pipe, and SPU.RDREG reads a register (R74, R174, R176, R177). -/

namespace Sys2Proof.Machine

variable {s t : State} {k seq : Nat} {r : Run}

theorem exec_spuRun (c : CoreId) (s : State) : exec (.spuRun c) s = .next (inTurn (spuKey c.val) (spuRun c.val) s) := rfl

theorem exec_spuRdreg (c : CoreId) (s : State) : exec (.spuRdreg c) s = .next (inTurn (spuKey c.val) (spuRdreg c.val) s) := rfl

theorem spu_of_canonical (h : canonical s = true) : swf (fun _ => 0) s.spu = true := by
  simp only [canonical, storesCanonical, Bool.and_eq_true] at h
  simp only [h]

theorem pipes_of_canonical (h : canonical s = true) : swf (fun _ => {}) s.pipes = true := by
  simp only [canonical, storesCanonical, Bool.and_eq_true] at h
  simp only [h]

/-! ## Registers of a pipe -/

theorem swf_spu_setX {c p i : Nat} {v : DWord} (h : swf (fun _ => 0) s.spu = true) :
    swf (fun _ => 0) (setX c p i v s).spu = true := by
  rw [setX]
  split
  · exact h
  · exact swf_sset h

theorem xReg_setX_same {c p i : Nat} {v : DWord} (h : swf (fun _ => 0) s.spu = true) (hi : i ≠ 0) :
    xReg (setX c p i v s) c p i = v := by
  rw [xReg, if_neg hi, setX, if_neg hi]
  exact sget_sset_same h

theorem xReg_setX_other {c p i j : Nat} {v : DWord} (h : swf (fun _ => 0) s.spu = true) (hj : j ≠ i) :
    xReg (setX c p i v s) c p j = xReg s c p j := by
  rw [xReg, xReg, setX]
  split
  · rfl
  · split
    · rfl
    · exact sget_sset_other h (by omega)

theorem xReg_congr (h : t.spu = s.spu) (c p i : Nat) : xReg t c p i = xReg s c p i := by
  rw [xReg, xReg, spuReg, spuReg, h]

/-! ## SPU.RUN -/

/-- The words of x1 as one register. -/
theorem toNat_pair (lo hi : Word) : (BitVec.ofNat 64 (lo.toNat + 2 ^ 32 * hi.toNat)).toNat = lo.toNat + 2 ^ 32 * hi.toNat := by
  have := lo.isLt
  have := hi.isLt
  rw [BitVec.toNat_ofNat, Nat.mod_eq_of_lt (by omega)]

theorem ofNat_ux (v : Int) : BitVec.ofNat 64 (ux 64 v) = BitVec.ofInt 64 v := by
  apply BitVec.eq_of_toNat_eq
  have hlt : (v % ((2 ^ 64 : Nat) : Int)).toNat < 2 ^ 64 := by omega
  rw [BitVec.toNat_ofNat, BitVec.toNat_ofInt, ux, Nat.mod_eq_of_lt hlt]

/-- What a pipe holds as a run begins on it. -/
def pipeStart (r : Run) : PipeRun :=
  let w := r.desc.getD 1 {}
  let base := w.base + r.nest.offset r.it 1 * 64
  { seq := r.q.seq, prog := rowAddr (r.desc.getD 0 {}) r.nest r.it 0 0 0 0, nins := (r.desc.getD 0 {}).e 0 / 8, pc := 0
    winLo := (base + (strideSpan w w.ext).1).toNat, winHi := (base + (strideSpan w w.ext).2).toNat, count := 0 }

/-- The pipe is loaded, and x1 and x2 are set. -/
def loadsPipe (c : Nat) (r : Run) (s : State) : State :=
  let p := fld r.q.cmd.w4 0 3
  setX c p 2 (BitVec.ofNat 64 (ux 64 ((r.desc.getD 1 {}).base + r.nest.offset r.it 1 * 64)))
    (setX c p 1 (BitVec.ofNat 64 (r.q.cmd.w5.toNat + 2 ^ 32 * r.q.cmd.w6.toNat)) (setPipe c p (pipeStart r) s))

/-- A run that begins on its pipe is open until the pipe ends it. -/
def Run.opens (r : Run) : Run := { r with open_ := true }

theorem beginRun_eq {c : Nat} (hempty : r.empty = false) (herr : r.err = false) (s : State) :
    beginRun c r s = updRun (spuKey c) r.q.seq Run.opens (loadsPipe c r (takeWait (spuKey c) r s)) := by
  rw [beginRun]
  exact if_neg (by simp [hempty, herr])

theorem setX_keeps {β : Type} (view : State → β) (h : ∀ (s : State) (c p i : Nat) (v : DWord), view (spuSet c p i v s) = view s)
    (c p i : Nat) (v : DWord) (s : State) : view (setX c p i v s) = view s := by
  rw [setX]
  split
  · rfl
  · exact h ..

theorem loadsPipe_keeps {β : Type} (view : State → β) (h : ∀ (s : State) (c p i : Nat) (v : DWord), view (spuSet c p i v s) = view s)
    (c : Nat) (r : Run) (s : State) :
    view (loadsPipe c r s) = view (setPipe c (fld r.q.cmd.w4 0 3) (pipeStart r) s) :=
  (setX_keeps view h ..).trans (setX_keeps view h ..)

theorem pipeOf_loadsPipe {c : Nat} (hs : swf (fun _ => {}) s.pipes = true) :
    pipeOf (loadsPipe c r s) c (fld r.q.cmd.w4 0 3) = pipeStart r := by
  have hp : (loadsPipe c r s).pipes = _ := loadsPipe_keeps (·.pipes) (fun _ _ _ _ _ => rfl) c r s
  rw [pipeOf, hp]
  exact sget_sset_same hs

/-- x1 and x2 of a run that begins; registers from x3 on stay (R176). -/
theorem xReg_loadsPipe {c : Nat} (hs : swf (fun _ => 0) s.spu = true) :
    xReg (loadsPipe c r s) c (fld r.q.cmd.w4 0 3) 1 = BitVec.ofNat 64 (r.q.cmd.w5.toNat + 2 ^ 32 * r.q.cmd.w6.toNat) ∧
      xReg (loadsPipe c r s) c (fld r.q.cmd.w4 0 3) 2 =
        BitVec.ofNat 64 (ux 64 ((r.desc.getD 1 {}).base + r.nest.offset r.it 1 * 64)) ∧
      ∀ n, 3 ≤ n → xReg (loadsPipe c r s) c (fld r.q.cmd.w4 0 3) n = xReg s c (fld r.q.cmd.w4 0 3) n := by
  have hs0 : swf (fun _ => 0) (setPipe c (fld r.q.cmd.w4 0 3) (pipeStart r) s).spu = true := hs
  have hs1 := swf_spu_setX (c := c) (p := fld r.q.cmd.w4 0 3) (i := 1)
    (v := BitVec.ofNat 64 (r.q.cmd.w5.toNat + 2 ^ 32 * r.q.cmd.w6.toNat)) hs0
  refine ⟨?_, xReg_setX_same hs1 (by decide), fun n hn => ?_⟩
  · exact (xReg_setX_other hs1 (by decide)).trans (xReg_setX_same hs0 (by decide))
  · exact (xReg_setX_other hs1 (by omega)).trans ((xReg_setX_other hs0 (by omega)).trans (xReg_congr rfl ..))

/-! ## SPU.RDREG -/

/-- Other registers of the pipes, and other latches. -/
def withSpu (a : Sparse DWord) (l : Sparse Word) (s : State) : State := { s with spu := a, latches := l }

section
variable (a : Sparse DWord) (l : Sparse Word)

theorem addFlag_withSpu (c f n k seq : Nat) (s : State) :
    addFlag c f n k seq (withSpu a l s) = withSpu a l (addFlag c f n k seq s) := by
  have hflag : flag (withSpu a l s) c f = flag s c f := rfl
  rw [addFlag, addFlag, hflag]
  split <;> rfl

theorem foldl_addFlag_withSpu (f n k seq : Nat) (cs : List Nat) (s : State) :
    cs.foldl (fun s c => addFlag c f n k seq s) (withSpu a l s) = withSpu a l (cs.foldl (fun s c => addFlag c f n k seq s) s) := by
  induction cs generalizing s with
  | nil => rfl
  | cons c r ih => rw [List.foldl_cons, List.foldl_cons, addFlag_withSpu, ih]

theorem setsIf_withSpu (b : Prop) [Decidable b] (k : Nat) (q : QCmd) (s : State) :
    setsIf b k q (withSpu a l s) = withSpu a l (setsIf b k q s) := by
  rw [setsIf, setsIf, doSet, doSet]
  split
  · split
    · exact foldl_addFlag_withSpu ..
    · rfl
  · rfl

theorem returns_withSpu (r : Run) (s : State) : r.returns (withSpu a l s) = withSpu a l (r.returns s) := by
  rw [Run.returns, Run.returns]
  split <;> rfl

theorem retire_withSpu (k seq : Nat) (s : State) : retire k seq (withSpu a l s) = withSpu a l (retire k seq s) := by
  have hrun : runOf (withSpu a l s) k seq = runOf s k seq := rfl
  have hdrop : dropRun k seq (withSpu a l s) = withSpu a l (dropRun k seq s) := rfl
  rw [retire_eq, retire_eq, hrun]
  split
  · rfl
  · rw [hdrop, returns_withSpu]
    rfl

theorem complete_withSpu (k seq : Nat) (s : State) : complete k seq (withSpu a l s) = withSpu a l (complete k seq s) := by
  have hrun : runOf (withSpu a l s) k seq = runOf s k seq := rfl
  have hover : ∀ x, updRun k seq Run.over (withSpu a l x) = withSpu a l (updRun k seq Run.over x) := fun _ => rfl
  have hheld : ∀ x, addHeld (withSpu a l x) k seq = addHeld x k seq := fun _ => rfl
  rw [complete_eq, complete_eq, hrun]
  split
  · rfl
  · rw [returns_withSpu, hover, setsIf_withSpu, hheld, retire_withSpu]
    split <;> rfl

/-- How an iteration ends does not turn on the pipes' registers. -/
theorem endIter_withSpu (k seq : Nat) (s : State) : endIter k seq (withSpu a l s) = withSpu a l (endIter k seq s) := by
  have hrun : runOf (withSpu a l s) k seq = runOf s k seq := rfl
  have hland : ∀ x, updRun k seq Run.landed (withSpu a l x) = withSpu a l (updRun k seq Run.landed x) := fun _ => rfl
  rw [endIter_eq, endIter_eq, hrun]
  split
  · rfl
  · rw [setsIf_withSpu, hland, complete_withSpu]
    split <;> rfl

end

/-- A read may latch a high word. -/
theorem rdregRead_latches (i : Nat) (s : State) : ∃ l, (rdregRead i s).2 = withSpu s.spu l s := by
  simp only [rdregRead]
  split_ifs <;> exact ⟨_, rfl⟩

theorem rdregBody_withSpu (c : Nat) (r : Run) (s : State) : ∃ a l, rdregBody c r s = withSpu a l s := by
  obtain ⟨l, hl⟩ := rdregRead_latches (fld r.q.cmd.w4 0 5) s
  simp only [rdregBody, hl, setX]
  split <;> exact ⟨_, _, rfl⟩

theorem takeWait_keeps {β : Type} (view : State → β) (hf : ∀ (s : State) (c f v : Nat), view (setFlag c f v s) = view s)
    (hu : ∀ (s : State) (k : Nat) (v : UnitSt), view (setUnit k v s) = view s) (k : Nat) (r : Run) (s : State) :
    view (takeWait k r s) = view s := by
  rw [takeWait, updRun, hu, consume]
  split_ifs
  · exact hf ..
  · rfl
  · rfl

/-- The word that a read of the stream-visible set gives (R74, R75). -/
def rdregWord (i : Nat) (s : State) : Word :=
  if i = 0 then cfg s rMaskLive
  else if i = 1 then cfg s rMaskFused
  else if i = 2 then cfg s rTarnSize
  else if i = 3 then cfg s rSsqFeatures
  else if i = 4 then cfg s rPool
  else if i = 5 then cfg s (rCompat + 4 * s.ssq.task)
  else if i = 6 then Word.ofNat s.ssq.issue
  else if i = 8 then Word.ofNat (timeCounter s)
  else sget zero32 (2 ^ 33 + (i - 6) / 2) s.latches

theorem rdregRead_fst (i : Nat) (s : State) : (rdregRead i s).1 = rdregWord i s := by
  simp only [rdregRead, apply_ite Prod.fst]
  rfl

/-- A read of the stream-visible set does not turn on flags or units. -/
theorem rdregRead_takeWait (i k : Nat) (r : Run) (s : State) : (rdregRead i (takeWait k r s)).1 = (rdregRead i s).1 := by
  rw [rdregRead_fst, rdregRead_fst]
  exact takeWait_keeps (rdregWord i) (fun _ _ _ _ => rfl) (fun _ _ _ => rfl) k r s

/-- An iteration of a run that may begin is made at once. -/
theorem runIter_of_mayIterate {body : State → State} (h : mayIterate s r) :
    runIter k r body s = endIter k r.q.seq (body (takeWait k r s)) := by
  obtain ⟨-, -, hready, hsegs⟩ := h
  rw [runIter, if_pos hready, withSegs]
  exact if_pos hsegs

/-- Settles O32: a wait taken and an iteration that ends touch no pipe and no register of one. -/
theorem pipeRunsBegin : Obligations.PipeRunsBegin := by
  unfold Obligations.PipeRunsBegin
  intro c r s hc heng hab
  have hstop : ¬(!engines s || s.ssq.aborting) = true := by simp [heng, hab]
  have htake := onlyRuns_takeWait (spuKey c.val) r s
  have hspu : swf (fun _ => 0) (takeWait (spuKey c.val) r s).spu = true := htake.spu ▸ spu_of_canonical hc
  refine ⟨fun hline hrun hempty herr => ?_, fun hgo hrd => ?_⟩
  · have hbegin : spuRun c.val s = beginRun c.val r s := by
      rw [spuRun, if_neg hstop, hrun]
    have hopen : ∀ {β : Type} (view : State → β), (∀ (s : State) (k : Nat) (v : UnitSt), view (setUnit k v s) = view s) →
        view (beginRun c.val r s) = view (loadsPipe c.val r (takeWait (spuKey c.val) r s)) := fun view hu => by
      rw [beginRun_eq hempty herr, updRun, hu]
    have hpipe : pipeOf (beginRun c.val r s) c.val (fld r.q.cmd.w4 0 3) = pipeStart r := by
      rw [hopen (fun s => pipeOf s c.val (fld r.q.cmd.w4 0 3)) fun _ _ _ => rfl]
      exact pipeOf_loadsPipe (htake.pipes ▸ pipes_of_canonical hc)
    have hreg : ∀ n, xReg (beginRun c.val r s) c.val (fld r.q.cmd.w4 0 3) n = _ := fun n =>
      hopen (fun s => xReg s c.val (fld r.q.cmd.w4 0 3) n) fun _ _ _ => rfl
    obtain ⟨hx1, hx2, hrest⟩ := xReg_loadsPipe (c := c.val) (r := r) hspu
    rw [exec_spuRun, inTurn_eq_of_firstInLine hline, hbegin]
    refine ⟨_, rfl, by rw [hpipe]; rfl, by rw [hpipe]; rfl, by rw [hpipe]; rfl, by rw [hpipe]; rfl, by rw [hpipe]; rfl,
      by rw [hpipe]; rfl, ?_, ?_, fun n hn _ => ?_, ?_, ?_⟩
    · rw [hreg, hx1, toNat_pair]
    · rw [hreg, hx2, ofNat_ux]
    · rw [hreg, hrest n hn, xReg_congr htake.spu]
    · exact (hopen (·.tarn) fun _ _ _ => rfl).trans ((loadsPipe_keeps (·.tarn) (fun _ _ _ _ _ => rfl) ..).trans htake.tarn)
    · exact (hopen (·.mere) fun _ _ _ => rfl).trans ((loadsPipe_keeps (·.mere) (fun _ _ _ _ _ => rfl) ..).trans htake.mere)
  · obtain ⟨hline, hmay, hop, hrun⟩ := hgo
    have hiter : spuRdreg c.val s = endIter (spuKey c.val) r.q.seq (rdregBody c.val r (takeWait (spuKey c.val) r s)) := by
      rw [spuRdreg, unitEvent, if_neg hstop, hrun]
      exact runIter_of_mayIterate hmay
    obtain ⟨a, l, hbody⟩ := rdregBody_withSpu c.val r (takeWait (spuKey c.val) r s)
    have hend : spuRdreg c.val s = withSpu a l (endIter (spuKey c.val) r.q.seq (takeWait (spuKey c.val) r s)) := by
      rw [hiter, hbody, endIter_withSpu]
    have hkeep := htake.trans (onlyRuns_endIter (spuKey c.val) r.q.seq _)
    rw [exec_spuRdreg, inTurn_eq_of_firstInLine hline]
    refine ⟨_, rfl, ?_, ?_, ?_, ?_⟩
    · rw [hend]
      exact hkeep.tarn
    · rw [hend]
      exact hkeep.mere
    · rw [hend]
      rfl
    · obtain ⟨l', hl'⟩ := rdregRead_latches (fld r.q.cmd.w4 0 5) (takeWait (spuKey c.val) r s)
      have hspu' : swf (fun _ => 0) (withSpu (takeWait (spuKey c.val) r s).spu l' (takeWait (spuKey c.val) r s)).spu = true := hspu
      rw [hiter, xReg_congr (onlyRuns_endIter ..).spu, rdregBody]
      simp only [hl']
      rw [xReg_setX_same hspu' hrd, rdregRead_takeWait]

end Sys2Proof.Machine
end

section
/-! SUPPORT. Frames of what lands: what a landing counts, what accesses to Mere whose units are clean do, and what the mesh counts of
them (R88, R221, R224, R226, R278). No byte and no transfer is touched by any of these. -/

namespace Sys2Proof.Machine

variable {s t : State}

/-! ## What landings count in -/

/-- The state but for what a landing counts in and drives on: what running commands change of it, asserted errors, and the segments
of Tarn. -/
def offLanding (s : State) : State := { offRuns s with pend := [], segs := [] }

theorem offLanding_of_offRuns (h : offRuns t = offRuns s) : offLanding t = offLanding s :=
  congrArg (fun x : State => { x with pend := [], segs := [] }) h

section
variable (h : offLanding t = offLanding s)
include h

theorem tarn_of_offLanding : t.tarn = s.tarn := (congrArg State.tarn h :)
theorem mere_of_offLanding : t.mere = s.mere := (congrArg State.mere h :)
theorem flash_of_offLanding : t.flash = s.flash := (congrArg State.flash h :)
theorem outst_of_offLanding : t.outst = s.outst := (congrArg State.outst h :)
theorem failedTags_of_offLanding : t.failedTags = s.failedTags := (congrArg State.failedTags h :)
theorem now_of_offLanding : t.now = s.now := (congrArg State.now h :)

end

@[simp] theorem offLanding_bump (a n : Nat) (s : State) : offLanding (bump a n s) = offLanding s := rfl
@[simp] theorem offLanding_updRun (k seq : Nat) (f : Run → Run) (s : State) : offLanding (updRun k seq f s) = offLanding s := rfl

/-- Asserting an error changes nothing but what is asserted. -/
theorem raisePend_keeps {β : Type} (view : State → β) (h : ∀ (s : State) (l : List Pend), view { s with pend := l } = view s)
    (p : Pend) (s : State) : view (raisePend p s) = view s := by
  rw [raisePend]
  split <;> exact h _ _

@[simp] theorem offLanding_raisePend (p : Pend) (s : State) : offLanding (raisePend p s) = offLanding s :=
  raisePend_keeps offLanding (fun _ _ => rfl) ..

/-- It is asserted from then on: it merges with one of its cause that its source holds, or joins the others (R417). -/
theorem asserts_raisePend (p : Pend) (s : State) : asserts (raisePend p s) p.source p.cause := by
  simp only [asserts, raisePend]
  split
  · next h =>
    obtain ⟨x, hx, hxe⟩ := List.any_eq_true.mp h
    exact List.any_eq_true.mpr ⟨_, List.mem_map_of_mem hx, by simp [hxe]⟩
  · simp

@[simp] theorem offLanding_owcAdd (c a n : Nat) (up : Bool) (s : State) : offLanding (owcAdd c a n up s) = offLanding s :=
  owcAdd_keeps offLanding (fun _ _ _ _ => rfl) ..

/-- A wake that is over at once leaves every byte of the segment as it is (log entry 75). -/
@[simp] theorem offLanding_wakeSegs (c a n : Nat) (s : State) : offLanding (wakeSegs c a n s) = offLanding s := by
  refine foldl_keeps offLanding (fun s g => ?_) _ s
  rw [wakeSeg]
  split <;> rfl

@[simp] theorem offLanding_countFlits (r n : Nat) (s : State) : offLanding (countFlits r n s) = offLanding s := rfl

/-- A packet that crosses the die is counted and no more. -/
@[simp] theorem offLanding_meshSend (a b : MeshEnd) (n : Nat) (s : State) : offLanding (meshSend a b n s) = offLanding s := by
  rw [meshSend]
  split
  · rfl
  · refine foldl_keeps offLanding (fun s h => ?_) _ s
    exact offLanding_countFlits ..

@[simp] theorem offLanding_meshLand (c : Nat) (x : Xfer) (s : State) : offLanding (meshLand c x s) = offLanding s := by
  rw [meshLand]
  split
  · split_ifs <;> simp
  · rfl

/-! ## Units of Mere -/

/-- The registers of stacks. -/
def stackWord (a : Nat) : Prop := 0x200000 ≤ a ∧ a < 0x260000

/-- Waking stacks writes their registers only (R221). -/
@[simp] theorem offRegs_wakeUnits (us : List Nat) (s : State) : offRegs (wakeUnits us s) = offRegs s := by
  refine foldl_keeps offRegs (fun s n => ?_) _ s
  rw [wakeStack]
  split <;> rfl

@[simp] theorem offLanding_wakeUnits (us : List Nat) (s : State) : offLanding (wakeUnits us s) = offLanding s := by
  refine foldl_keeps offLanding (fun s n => ?_) _ s
  rw [wakeStack]
  split <;> rfl

theorem regsWithin_wakeUnits (us : List Nat) (s : State) : regsWithin stackWord s (wakeUnits us s) := by
  refine regsWithin_foldl fun s n _ => ?_
  rw [wakeStack]
  split
  · next h =>
    have hreg : ∀ off < 0x4000, stackWord (stkReg n off) := fun off hoff => by
      simp only [stackWord, stkReg]
      omega
    exact (regsWithin_wr (hreg 4 (by decide))).trans (regsWithin_bump (hreg 0x24 (by decide)))
  · exact .of_csr rfl

section
variable {m : EccMap} {us : List Nat} (h : ∀ u ∈ us, unitEcc m u = .clean)
include h

theorem noteUnits_of_clean (s : State) : noteUnits m us s = s :=
  foldl_eq_self fun u hu => by rw [h u hu, eccNote]

theorem anyUe_of_clean : anyUe m us = false := by
  rw [anyUe, List.any_eq_false]
  intro u hu
  simp [h u hu]

/-- Where no unit is beyond correction, no byte is taken from elsewhere. -/
theorem maskUe_of_clean {l other : List Byte} (hl : l.length = other.length) (a : Nat) : maskUe m us a l other = l := by
  have hpick : ∀ u ∈ us, unitEcc m u ≠ .uncorrectable := fun u hu => by simp [h u hu]
  apply List.ext_getElem
  · simp [maskUe, hl]
  · intro i _ _
    simpa [maskUe] using fun hu he => absurd he (hpick _ hu)

end

/-- A write merges into units that it touches. -/
theorem mem_unitsOf_of_mergeUnits {add : Bool} {a n u : Nat} (h : u ∈ mergeUnits add a n) : u ∈ unitsOf a n := List.mem_of_mem_filter h

@[simp] theorem length_tarnRead (s : State) (c a n : Nat) : (tarnRead s c a n).length = n := by simp [tarnRead, sgetMany]

@[simp] theorem length_mereRead (s : State) (a n : Nat) : (mereRead s a n).length = n := by simp [mereRead, sgetMany]

theorem tarnRead_congr (h : t.tarn = s.tarn) (c a n : Nat) : tarnRead t c a n = tarnRead s c a n := by rw [tarnRead, h, tarnRead]

theorem mereRead_congr (h : t.mere = s.mere) (a n : Nat) : mereRead t a n = mereRead s a n := by rw [mereRead, h, mereRead]

section
variable {u : State} {b : Nat} {l : List Byte}

/-- Bytes written to a core's Tarn are read there, and every other byte of Tarn is as it was. -/
theorem tarn_written {d : Nat} (hs : swf zero8 s.tarn = true) (h : t.tarn = s.tarn) (hu : u.tarn = (tarnWrite d b l t).tarn) :
    tarnRead u d b l.length = l ∧
      ∀ k, k < tarnKey d b ∨ tarnKey d b + l.length ≤ k → sget zero8 k u.tarn = sget zero8 k s.tarn := by
  have ht : swf zero8 t.tarn = true := h ▸ hs
  exact ⟨by rw [tarnRead_congr hu, tarnRead_tarnWrite ht], fun k hk => by rw [hu, tarnWrite_outside ht hk, h]⟩

/-- Bytes written to Mere are read there, and every other byte of Mere is as it was. -/
theorem mere_written (hs : swf zero8 s.mere = true) (h : t.mere = s.mere) (hu : u.mere = (mereWrite b l t).mere) :
    mereRead u b l.length = l ∧ ∀ k, k < b ∨ b + l.length ≤ k → sget zero8 k u.mere = sget zero8 k s.mere := by
  have hm : swf zero8 t.mere = true := h ▸ hs
  exact ⟨by rw [mereRead_congr hu, mereRead_mereWrite hm], fun k hk => by rw [hu, mereWrite_outside hm hk, h]⟩

end

end Sys2Proof.Machine
end

section
/-! TENSOR DESCRIPTORS. The end of a transfer (R199, R200), and the landing of copies between Mere and an engine's own Tarn. -/

namespace Sys2Proof.Machine

variable {s t : State} {c e a b : Nat} {x : Xfer}

/-! ## The end of a transfer -/

theorem outst_of_canonical (h : canonical s = true) : swf (fun _ => []) s.outst = true := by
  simp only [canonical, storesCanonical, Bool.and_eq_true] at h
  simp only [h]

theorem outstOf_setOutst_same {l : List Xfer} (h : swf (fun _ => []) s.outst = true) : outstOf (setOutst c e l s) c e = l :=
  sget_sset_same h

/-- The transfer is outstanding no more, nor is its write at a core's Tarn (R193). -/
def leavesOutst (c e : Nat) (x : Xfer) (s : State) : State :=
  match e, x.dst with
  | 0, .tarn d a => owcAdd d a x.len false (setOutst c e ((outstOf s c e).erase x) s)
  | _, _ => setOutst c e ((outstOf s c e).erase x) s

/-- Its engine has counted it and its access units. -/
def countsXfer (c e : Nat) (x : Xfer) (s : State) : State :=
  bump (coreReg c ((if e = 0 then 0xC024 else 0xC044) + 4)) (ceilDiv x.len 256)
    (bump (coreReg c (if e = 0 then 0xC024 else 0xC044)) 1 s)

/-- Its engine has counted its failure, noted it for its command, and asserts it (R200, R421). -/
def failsXfer (c e : Nat) (x : Xfer) (conseq : Bool) (s : State) : State :=
  raisePend { source := srcOf 0 c (engUnit e), cause := 0x15, conseq := conseq
              detail := ((runOf s (unitKey c (engUnit e)) x.seq).map fun r => r.q.tag).getD 0 }
    (bump (coreReg c (if e = 0 then 0xC030 else 0xC04C)) 1
      (updRun (unitKey c (engUnit e)) x.seq (fun r => { r with fails := r.fails + 1 }) s))

/-- The state from which a transfer's command goes on as the transfer ends. -/
def endsXfer (c e : Nat) (x : Xfer) (fails conseq : Bool) (s : State) : State :=
  if fails then failsXfer c e x conseq (countsXfer c e x (leavesOutst c e x s)) else countsXfer c e x (leavesOutst c e x s)

theorem onlyRuns_xferDone (c e : Nat) (x : Xfer) (fails conseq : Bool) (s : State) :
    OnlyRuns (endsXfer c e x fails conseq s) (xferDone c e x fails conseq s) :=
  onlyRuns_settleIters c e x.seq _ (endsXfer c e x fails conseq s)

theorem offLanding_leavesOutst (c e : Nat) (x : Xfer) (s : State) :
    offLanding (leavesOutst c e x s) = offLanding (setOutst c e ((outstOf s c e).erase x) s) := by
  unfold leavesOutst
  split <;> simp

/-- A transfer that ends is outstanding no more, and its command goes on. -/
theorem offLanding_xferDone (c e : Nat) (x : Xfer) (fails conseq : Bool) (s : State) :
    offLanding (xferDone c e x fails conseq s) = offLanding (setOutst c e ((outstOf s c e).erase x) s) := by
  rw [offLanding_of_offRuns (onlyRuns_xferDone ..).off, endsXfer]
  split <;> simp [failsXfer, countsXfer, offLanding_leavesOutst]

section
variable {fails conseq : Bool}

@[simp] theorem tarn_xferDone : (xferDone c e x fails conseq s).tarn = s.tarn :=
  tarn_of_offLanding (s := setOutst ..) (offLanding_xferDone ..)
@[simp] theorem mere_xferDone : (xferDone c e x fails conseq s).mere = s.mere :=
  mere_of_offLanding (s := setOutst ..) (offLanding_xferDone ..)
@[simp] theorem flash_xferDone : (xferDone c e x fails conseq s).flash = s.flash :=
  flash_of_offLanding (s := setOutst ..) (offLanding_xferDone ..)
@[simp] theorem failedTags_xferDone : (xferDone c e x fails conseq s).failedTags = s.failedTags :=
  failedTags_of_offLanding (s := setOutst ..) (offLanding_xferDone ..)

theorem outstOf_xferDone (h : swf (fun _ => []) s.outst = true) :
    outstOf (xferDone c e x fails conseq s) c e = (outstOf s c e).erase x := by
  rw [outstOf, outst_of_offLanding (offLanding_xferDone ..)]
  exact outstOf_setOutst_same h

/-- A transfer that fails asserts cause 0x15 at its engine (R200, R421). -/
theorem asserts_xferDone : asserts (xferDone c e x true conseq s) (srcOf 0 c (engUnit e)) 0x15 := by
  refine asserts_of_pend (congrArg State.pend (onlyRuns_xferDone ..).off :) ?_
  rw [endsXfer, if_pos rfl]
  exact asserts_raisePend ..

end

theorem outstOf_congr (h : t.outst = s.outst) (c e : Nat) : outstOf t c e = outstOf s c e := by rw [outstOf, h, outstOf]

/-- What a transfer's end leaves outstanding, where its landing has changed nothing of that. -/
theorem outstOf_landed {fails conseq : Bool} (hc : canonical s = true) (h : t.outst = s.outst) :
    outstOf (xferDone c e x fails conseq t) c e = (outstOf s c e).erase x := by
  rw [outstOf_xferDone (h ▸ outst_of_canonical hc), outstOf_congr h]

/-! ## Landing -/

/-- With the segments that it touches on and no earlier write in its way, a transfer within the part lands. -/
theorem transferLand_of_ready {n : Nat} {m : EccMap} (he : engines s = true) (hx : (outstOf s c e)[n]? = some x)
    (hrem : x.remote = false) (hon : endsOn s x = true) (hpath : pathHolds s c e n x = false) :
    transferLand c e n m s = landLocal c e x m (meshLand c x s) := by
  simp [transferLand, he, hx, hrem, hon, hpath]

/-- A copy from clean units of Mere to the engine's own Tarn. -/
theorem landLocal_mere_tarn {m : EccMap} (hsrc : x.src = .mere a) (hdst : x.dst = .tarn c b) (hadd : x.addDst = 0)
    (hm : ∀ u ∈ unitsOf a x.len, unitEcc m u = .clean) (s : State) :
    landLocal c e x m s =
      xferDone c e x false false (tarnWrite c b (mereRead s a x.len) (wakeUnits (unitsOf a x.len) s)) := by
  have hread : mereRead (wakeUnits (unitsOf a x.len) s) a x.len = mereRead s a x.len :=
    mereRead_congr (mere_of_offLanding (offLanding_wakeUnits ..)) ..
  simp only [landLocal, hsrc, hdst, hadd, noteUnits_of_clean hm, anyUe_of_clean hm, locRead, hread, bne_self_eq_false,
    Bool.false_and, Bool.false_or, Bool.false_eq_true, if_false, if_true]

/-- A copy from the engine's own Tarn to Mere, into clean units. -/
theorem landLocal_tarn_mere {m : EccMap} (hsrc : x.src = .tarn c a) (hdst : x.dst = .mere b) (hadd : x.addDst = 0)
    (hm : ∀ u ∈ unitsOf b x.len, unitEcc m u = .clean) (s : State) :
    landLocal c e x m s = xferDone c e x false false (mereWrite b (tarnRead s c a x.len)
      (bump (coreReg c 0xA098) (partialUnits b x.len) (wakeUnits (unitsOf b x.len) s))) := by
  have hmerge : ∀ u ∈ mergeUnits false b x.len, unitEcc m u = .clean := fun u hu => hm u (mem_unitsOf_of_mergeUnits hu)
  have hlen : x.outLen = x.len := by rw [Xfer.outLen, if_pos hadd]
  simp only [landLocal, hsrc, hdst, hadd, hlen, noteUnits_of_clean hmerge, anyUe_of_clean hmerge, locRead, bne_self_eq_false,
    Bool.false_and, Bool.false_or, Bool.false_eq_true, if_false, if_true]
  rw [maskUe_of_clean hmerge (by simp)]

theorem exec_transferLand (c : CoreId) (e : Engine) (n : Nat) (m : EccMap) (s : State) :
    exec (.transferLand c e n m) s = .next (transferLand c.val (engNo e) n m s) := rfl

/-- Settles O34: each copy writes what it read at its destination, and its end touches no byte. -/
theorem transfersLand : Obligations.TransfersLand := by
  unfold Obligations.TransfersLand
  intro c e n m x a b s hc he hx hon hpath hadd _
  have hmesh := offLanding_meshLand c.val x s
  rw [exec_transferLand]
  refine ⟨fun hsrc hdst hclean => ?_, fun hsrc hdst hclean => ?_⟩
  · have hwake := (offLanding_wakeUnits (unitsOf a x.len) _).trans hmesh
    rw [transferLand_of_ready he hx (by simp [Xfer.remote, hsrc, hdst]) hon hpath, landLocal_mere_tarn hsrc hdst hadd hclean,
      mereRead_congr (mere_of_offLanding hmesh)]
    obtain ⟨hat, hframe⟩ := tarn_written (tarn_of_canonical hc) (tarn_of_offLanding hwake) tarn_xferDone
    rw [length_mereRead] at hat hframe
    exact ⟨_, rfl, hat, mere_xferDone.trans (mere_of_offLanding hwake :), hframe, outstOf_landed hc (outst_of_offLanding hwake :)⟩
  · have hwake := (offLanding_bump (coreReg c.val 0xA098) (partialUnits b x.len) _).trans
      ((offLanding_wakeUnits (unitsOf b x.len) _).trans hmesh)
    rw [transferLand_of_ready he hx (by simp [Xfer.remote, hsrc, hdst]) hon hpath, landLocal_tarn_mere hsrc hdst hadd hclean,
      tarnRead_congr (tarn_of_offLanding hmesh)]
    obtain ⟨hat, hframe⟩ := mere_written (mere_of_canonical hc) (mere_of_offLanding hwake) mere_xferDone
    rw [length_tarnRead] at hat hframe
    exact ⟨_, rfl, hat, tarn_xferDone.trans (tarn_of_offLanding hwake :), hframe, outstOf_landed hc (outst_of_offLanding hwake :)⟩

end Sys2Proof.Machine
end

section
/-! SUPPORT. Accesses of other parts (R105, R329, R330, R332): what making or refusing one leaves alone, its acknowledgement with the flag
add before it, and its answer. -/

namespace Sys2Proof.Machine

variable {s t u : State} {k : Packet}

/-! ## What an access changes -/

/-- The state but for registers, asserted errors, the stacks' tables of errors, Tarn and Mere. -/
def offAccess (s : State) : State := { offRegs s with tarn := [], mere := [] }

theorem offAccess_of_offRegs (h : offRegs t = offRegs s) : offAccess t = offAccess s :=
  congrArg (fun x : State => { x with tarn := [], mere := [] }) h

/-- Registers that an access counts in: those of add clashes and refusals, and those of cores and stacks. -/
def accessWord (a : Nat) : Prop := a = rAddClash ∨ a = rRemoteRefuse ∨ (0x100000 ≤ a ∧ a < 0x260000)

theorem accessWord_of_coreWord {a : Nat} (h : coreWord a) : accessWord a := .inr (.inr ⟨h.1, h.2.trans (by decide)⟩)

theorem accessWord_of_stackWord {a : Nat} (h : stackWord a) : accessWord a := .inr (.inr ⟨le_trans (by decide) h.1, h.2⟩)

theorem not_accessWord_live : ¬ accessWord rMaskLive := by
  unfold accessWord
  decide

theorem not_accessWord_self : ¬ accessWord rSelf := by
  unfold accessWord
  decide

/-- From `s` to `t` the access of packet `k` has left the inbox and been made or refused, and is not yet answered. -/
structure AccessMade (k : Packet) (s t : State) : Prop where
  off : offAccess t = offAccess (taken k s)
  regs : regsWithin accessWord s t

namespace AccessMade

theorem of_taken : AccessMade k s (taken k s) := ⟨rfl, .of_csr rfl⟩

theorem trans_off (h : AccessMade k s t) (ho : offAccess u = offAccess t) (hr : regsWithin accessWord t u) : AccessMade k s u :=
  ⟨ho.trans h.off, h.regs.trans hr⟩

theorem inbox (h : AccessMade k s t) : t.inbox = dropFirst (fun x => x == k) s.inbox := (congrArg State.inbox h.off :)
theorem flash (h : AccessMade k s t) : t.flash = s.flash := (congrArg State.flash h.off :)
theorem transit (h : AccessMade k s t) : t.transit = s.transit := (congrArg State.transit h.off :)
theorem flags (h : AccessMade k s t) : t.flags = s.flags := (congrArg State.flags h.off :)
theorem remoteBad (h : AccessMade k s t) : t.remoteBad = s.remoteBad := (congrArg State.remoteBad h.off :)

theorem badOf (h : AccessMade k s t) : badOf t k = Machine.badOf s k := by rw [Machine.badOf, Machine.badOf, h.remoteBad]

theorem flag (h : AccessMade k s t) (c f : Nat) : flag t c f = Machine.flag s c f := flag_congr h.flags c f

section
variable (hs : swf resetWord s.csr = true)
include hs

theorem live (h : AccessMade k s t) (c : Nat) : live t c = Machine.live s c :=
  live_congr ((h.regs hs).2 rMaskLive not_accessWord_live) c

theorem self (h : AccessMade k s t) : rd t rSelf = rd s rSelf :=
  (h.regs hs).2 rSelf not_accessWord_self

end

end AccessMade

/-- A reply bears the part's own coordinates, and nothing else of the state. -/
theorem replyTo_congr (h : rd t rSelf = rd s rSelf) (op st : Nat) : replyTo t k op st = replyTo s k op st := by
  simp only [replyTo, selfEp, rdF, h]

theorem dataPackets_congr (h : rd t rSelf = rd s rSelf) (status : Nat → Nat) (l : List Byte) :
    dataPackets t k status l = dataPackets s k status l := by
  simp only [dataPackets, replyTo_congr h]

/-! ## The acknowledgement (R330) -/

/-- The state but for what the acknowledgement of an access changes. -/
def offAck (s : State) : State :=
  { s with csr := [], flags := [], heldAdds := [], transit := [], regions := [], remoteBad := [], heldAcks := [] }

theorem offAck_addFlag (c f n k seq : Nat) (s : State) : offAck (addFlag c f n k seq s) = offAck s := by
  rw [addFlag]
  split <;> rfl

theorem offAck_finishRemote (k : Packet) (st : Nat) (s : State) : offAck (finishRemote k st s) = offAck s := by
  simp only [finishRemote]
  split
  · split <;> rfl
  · split
    · split
      · rfl
      · exact offAck_addFlag ..
    · rfl

theorem regsWithin_addFlag (c f n k seq : Nat) (s : State) : regsWithin (· = rFlagHold) s (addFlag c f n k seq s) := by
  rw [addFlag]
  split
  · exact .of_csr rfl
  · exact regsWithin.trans (t := { s with heldAdds := _ }) (.of_csr rfl) (regsWithin_bump rfl)


theorem regsWithin_finishRemote (k : Packet) (st : Nat) (s : State) : regsWithin (· = rFlagHold) s (finishRemote k st s) := by
  simp only [finishRemote]
  split
  · split <;> exact .of_csr rfl
  · split
    · split
      · exact .of_csr rfl
      · refine regsWithin.trans ?_ (regsWithin_addFlag _ _ _ _ _ _)
        exact .of_csr rfl
    · exact .of_csr rfl

@[simp] theorem finishRemote_tarn (k : Packet) (st : Nat) (s : State) : (finishRemote k st s).tarn = s.tarn :=
  (congrArg State.tarn (offAck_finishRemote k st s) :)

@[simp] theorem finishRemote_mere (k : Packet) (st : Nat) (s : State) : (finishRemote k st s).mere = s.mere :=
  (congrArg State.mere (offAck_finishRemote k st s) :)

@[simp] theorem finishRemote_flash (k : Packet) (st : Nat) (s : State) : (finishRemote k st s).flash = s.flash :=
  (congrArg State.flash (offAck_finishRemote k st s) :)

@[simp] theorem finishRemote_inbox (k : Packet) (st : Nat) (s : State) : (finishRemote k st s).inbox = s.inbox :=
  (congrArg State.inbox (offAck_finishRemote k st s) :)

/-- What another part is told of a transfer is over with its last packet. -/
def closesBad (k : Packet) (s : State) : State :=
  { s with remoteBad := s.remoteBad.filter fun x => x.1 != k.src || x.2.1 != k.tag }

/-- The last packet of a transfer that has met no other status is acknowledged with its own. -/
theorem finishRemote_last {st : Nat} (hl : k.lastx = true) (hr : k.rsen = false) (hb : badOf s k = 0) :
    finishRemote k st s = sendAck (replyTo s k 5 st) (closesBad k s) := by
  simp only [finishRemote, hl, hr, hb, Bool.not_true, Bool.false_and, Bool.false_eq_true, if_false, if_true]
  rfl

/-- Its flag add comes first, where the flag has room for it. -/
theorem finishRemote_last_flag {st : Nat} (hl : k.lastx = true) (hr : k.rsen = true) (hb : badOf s k = 0)
    (hlive : live s k.rfcore = true) (hroom : flag s k.rfcore k.rflag + k.rcnt ≤ 65535) :
    finishRemote k st s =
      sendAck (replyTo s k 5 st) (setFlag k.rfcore k.rflag (flag s k.rfcore k.rflag + k.rcnt) (closesBad k s)) := by
  have hroom' : flag (closesBad k s) k.rfcore k.rflag + k.rcnt ≤ 65535 := hroom
  have hlive' : live (closesBad k s) k.rfcore = true := hlive
  simp only [closesBad] at hroom' hlive'
  simp only [finishRemote, hl, hr, hb, hlive', hroom', Bool.not_true, Bool.true_and, Bool.false_eq_true, if_false, if_true]
  rfl

/-- The access of packet `k` is over with a status: it has left the inbox, and the last packet of a transfer that met nothing before is
acknowledged with it, after its flag add (R330). -/
def accessEnds (k : Packet) (s t : State) (st : Nat) : Prop :=
  t.inbox = dropFirst (fun x => x == k) s.inbox ∧ t.flash = s.flash
    ∧ (k.lastx = true → k.rsen = false → badOf s k = 0 → t.transit = s.transit ++ [(12, replyTo s k 5 st)])
    ∧ (k.lastx = true → k.rsen = true → badOf s k = 0 → live s k.rfcore = true → flag s k.rfcore k.rflag + k.rcnt ≤ 65535 →
        t.transit = s.transit ++ [(12, replyTo s k 5 st)] ∧ flag t k.rfcore k.rflag = flag s k.rfcore k.rflag + k.rcnt)

theorem AccessMade.ends (hc : canonical s = true) (h : AccessMade k s t) (st : Nat) : accessEnds k s (finishRemote k st t) st := by
  have hcsr := csr_of_canonical hc
  have hack : t.transit ++ [(12, replyTo t k 5 st)] = s.transit ++ [(12, replyTo s k 5 st)] := by
    rw [h.transit, replyTo_congr (h.self hcsr)]
  refine ⟨by simp [h.inbox], by simp [h.flash], fun hl hr hb => ?_, fun hl hr hb hlive hroom => ?_⟩
  · rw [finishRemote_last hl hr (by rwa [h.badOf])]
    exact hack
  · rw [finishRemote_last_flag hl hr (by rwa [h.badOf]) (by rwa [h.live hcsr]) (by rwa [h.flag])]
    refine ⟨hack, ?_⟩
    rw [← h.flag] at hroom ⊢
    exact flag_setFlag_same (s := closesBad k t) (h.flags ▸ flags_of_canonical hc) hroom

/-- An access that is refused, or that is over otherwise, changes no memory by its acknowledgement. -/
theorem memoriesStay_finishRemote (k : Packet) (st : Nat) (h : memoriesStay s t) : memoriesStay s (finishRemote k st t) := by
  obtain ⟨ht, hm, hf⟩ := h
  exact ⟨by simp [ht], by simp [hm], by simp [hf]⟩

theorem counts_finishRemote {a n : Nat} (k : Packet) (st : Nat) (ha : a ≠ rFlagHold) (hs : swf resetWord t.csr = true)
    (h : counts s t a n) : counts s (finishRemote k st t) a n :=
  counts_after (p := (· = rFlagHold)) ha (regsWithin_finishRemote k st t hs).2 h

/-! ## Refusals (R329) -/

theorem offRegs_windowDrop (c : Nat) (s : State) : offRegs (windowDrop c s) = offRegs s := by
  rw [windowDrop, offRegs_raise, offRegs_bump]

theorem accessMade_remoteRefuse : AccessMade k s (remoteRefuse k (taken k s)) := by
  have hbump : AccessMade k s (bump rRemoteRefuse 1 (taken k s)) :=
    AccessMade.of_taken.trans_off (offAccess_of_offRegs (offRegs_bump ..)) (regsWithin_bump (.inr (.inl rfl)))
  rw [remoteRefuse]
  split
  · next hlt =>
    refine hbump.trans_off (offAccess_of_offRegs (offRegs_windowDrop ..)) ?_
    refine regsWithin.trans (regsWithin_bump (accessWord_of_coreWord ?_)) (.of_csr (raise_csr ..))
    simp only [coreWord, coreReg]
    omega
  · exact hbump

theorem memoriesStay_remoteRefuse (k : Packet) (s : State) : memoriesStay s (remoteRefuse k s) := by
  rw [remoteRefuse]
  split
  · have hdrop := offRegs_windowDrop (epUnit k.dest) (bump rRemoteRefuse 1 s)
    exact ⟨(tarn_of_offRegs hdrop :), (mere_of_offRegs hdrop :), (congrArg State.flash hdrop :)⟩
  · exact ⟨rfl, rfl, rfl⟩

theorem counts_remoteRefuse (hs : swf resetWord s.csr = true) : counts s (remoteRefuse k s) rRemoteRefuse 1 := by
  have hone : counts s (bump rRemoteRefuse 1 s) rRemoteRefuse 1 := rd_bump_same hs
  rw [remoteRefuse]
  split
  · next hlt =>
    refine counts_congr rfl (raise_csr ..) (counts_after (p := coreWord) ?_ (fun a ha => ?_) hone)
    · unfold coreWord
      decide
    · refine rd_bump_other (swf_csr_bump hs) fun e => ha ?_
      simp only [e, coreWord, coreReg]
      omega
  · exact hone

/-! ## Places -/

/-- Bytes written at the place that a packet names, the stacks that it reaches in Mere awake (R221). -/
def placed (k : Packet) (out : List Byte) (s : State) : State :=
  if epUnit k.dest = 16 then mereWrite k.addr out (wakeUnits (unitsOf k.addr out.length) s) else tarnWrite (epUnit k.dest) k.addr out s

theorem unitEcc_nil (u : Nat) : unitEcc [] u = .clean := rfl

/-- Where every unit of Mere is clean, bytes land as they come. -/
theorem putRemote_clean (out : List Byte) (add : Bool) (s : State) : putRemote k [] out add s = (false, placed k out s) := by
  have hclean : ∀ us : List Nat, ∀ u ∈ us, unitEcc [] u = .clean := fun _ u _ => unitEcc_nil u
  simp only [putRemote, placed, noteUnits_of_clean (hclean _), anyUe_of_clean (hclean _)]
  rw [maskUe_of_clean (hclean _) (by simp)]
  split <;> rfl

theorem accessMade_wakeUnits (us : List Nat) : AccessMade k s (wakeUnits us (taken k s)) :=
  AccessMade.of_taken.trans_off (offAccess_of_offRegs (offRegs_wakeUnits ..))
    (regsWithin.mono (fun _ => accessWord_of_stackWord) (regsWithin_wakeUnits _ _))

theorem accessMade_placed (out : List Byte) : AccessMade k s (placed k out (taken k s)) := by
  rw [placed]
  split
  · exact (accessMade_wakeUnits _).trans_off rfl (.of_csr rfl)
  · exact AccessMade.of_taken.trans_off rfl (.of_csr rfl)

end Sys2Proof.Machine
end

section
/-! TENSOR DESCRIPTORS. Accesses of other parts: writes, reads and adds (R105, R329, R330, R332). -/

namespace Sys2Proof.Machine

variable {s t u : State} {k : Packet} {n st : Nat} {out l : List Byte}

/-! ## An access that is due -/

/-- Its turn is come and its segments are on: it is made. -/
theorem whenDue_of_due {f : State → State} (he : engines s = true) (hturn : earlierLeft s k = false)
    (hsegs : segsReady s (epUnit k.dest) (remoteSegs k n)) : whenDue k n f s = f s := by
  simp only [whenDue, he, hturn, Bool.not_true, Bool.or_false, Bool.false_eq_true, if_false]
  exact if_pos hsegs

theorem slice_whole (h : l.length = n) : slice 0 n l = l := by simp [slice, ← h]

theorem unitOk_of_core (hu : epUnit k.dest < 12) (hl : live s (epUnit k.dest) = true) : unitOk s k = true := by
  simp [unitOk, hu, hl]

theorem unitOk_of_mere (hu : epUnit k.dest = 16) : unitOk s k = true := by simp [unitOk, hu]

/-- A unit that is there is a core or Mere. -/
theorem unit_of_unitOk (h : unitOk s k = true) : epUnit k.dest < 12 ∨ epUnit k.dest = 16 := by
  simp only [unitOk, Bool.or_eq_true, Bool.and_eq_true, decide_eq_true_eq, beq_iff_eq] at h
  exact h.imp And.left id

/-- A WRITE at a unit that is there, inside its task's windows. -/
theorem makeWrite_inside (hu : unitOk s k = true) (hin : remoteOk s k k.len = true) (hl : k.data.length = k.len) :
    makeWrite k [] s = finishRemote k 0 (placed k k.data (taken k s)) := by
  have hu' : unitOk (taken k s) k = true := hu
  have hin' : remoteOk (taken k s) k k.len = true := hin
  simp [makeWrite, hu', hin', putRemote_clean, slice_whole hl]

/-- One that leaves them. -/
theorem makeWrite_outside (hu : unitOk s k = true) (hn : k.len ≠ 0) (hin : remoteOk s k k.len = false) :
    makeWrite k [] s = finishRemote k 1 (remoteRefuse k (taken k s)) := by
  have hu' : unitOk (taken k s) k = true := hu
  have hin' : remoteOk (taken k s) k k.len = false := hin
  simp [makeWrite, hu', hin', hn]

/-- One at a unit that is not there. -/
theorem makeWrite_nowhere (hu : unitOk s k = false) : makeWrite k [] s = finishRemote k 2 (taken k s) := by
  have hu' : unitOk (taken k s) k = false := hu
  simp [makeWrite, hu']

/-- The bytes that an access finds where its packet points. -/
def foundAt (s : State) (k : Packet) (n : Nat) : List Byte :=
  if epUnit k.dest = 16 then mereRead s k.addr n else tarnRead s (epUnit k.dest) k.addr n

/-- The sums that an ADD leaves there (log entry 10). -/
def sumsAt (s : State) (k : Packet) : List Byte :=
  addInto (if k.atype = 9 then 9 else 8) k.atype (foundAt s k (addSpan k)) k.data

theorem length_addInto (sdt ddt : Nat) (old new : List Byte) :
    (addInto sdt ddt old new).length = new.length / addBytes sdt * addBytes ddt := by
  simp [addInto, length_leBytes]

theorem sumsAt_of_core (hu : epUnit k.dest < 12) : sumsAt s k =
    addInto (if k.atype = 9 then 9 else 8) k.atype (tarnRead s (epUnit k.dest) k.addr (addSpan k)) k.data := by
  rw [sumsAt, foundAt, if_neg (show epUnit k.dest ≠ 16 by omega)]

theorem sumsAt_of_mere (hu : epUnit k.dest = 16) :
    sumsAt s k = addInto (if k.atype = 9 then 9 else 8) k.atype (mereRead s k.addr (addSpan k)) k.data := by
  rw [sumsAt, foundAt, if_pos hu]

/-- They reach as far as the ADD does. -/
theorem length_sumsAt (hl : k.data.length = k.len) : (sumsAt s k).length = addSpan k := by
  rw [sumsAt, length_addInto, hl, addSpan]
  split <;> rfl

/-- An ADD inside its task's windows, out of reproducible mode. -/
theorem makeAdd_inside (hu : unitOk s k = true) (hin : remoteOk s k (addSpan k) = true) (hr : repro s = false)
    (hl : k.data.length = k.len) : makeAdd k [] s = finishRemote k 0 (placed k (sumsAt s k) (taken k s)) := by
  have hu' : unitOk (taken k s) k = true := hu
  have hin' : remoteOk (taken k s) k (addSpan k) = true := hin
  have hr' : repro (taken k s) = false := hr
  simp only [makeAdd, hu', hin', hr', putRemote_clean, slice_whole hl, Bool.not_true, Bool.false_and, Bool.false_eq_true, and_false,
    if_false]
  rfl

/-- One into a region that another has open, in reproducible mode (R332). -/
theorem makeAdd_clash (hu : unitOk s k = true) (hin : remoteOk s k (addSpan k) = true) (hr : repro s = true)
    (hfree : regionsFree s k (addSpan k) = false) : makeAdd k [] s = finishRemote k 6 (bump rAddClash 1 (taken k s)) := by
  have hu' : unitOk (taken k s) k = true := hu
  have hin' : remoteOk (taken k s) k (addSpan k) = true := hin
  have hr' : repro (taken k s) = true := hr
  have hfree' : regionsFree (taken k s) k (addSpan k) = false := hfree
  simp [makeAdd, hu', hin', hr', hfree']

/-! ## What writes and adds leave -/

section
variable (hc : canonical s = true) (hl : out.length = n)
include hc hl

theorem finishRemote_placed_tarn (hu : epUnit k.dest < 12) :
    let t := finishRemote k 0 (placed k out (taken k s))
    tarnRead t (epUnit k.dest) k.addr n = out ∧ t.mere = s.mere ∧ accessEnds k s t 0
      ∧ ∀ b, b < tarnKey (epUnit k.dest) k.addr ∨ tarnKey (epUnit k.dest) k.addr + n ≤ b →
          sget zero8 b t.tarn = sget zero8 b s.tarn := by
  have hat : placed k out (taken k s) = tarnWrite (epUnit k.dest) k.addr out (taken k s) := if_neg (by omega)
  obtain ⟨hread, hframe⟩ := tarn_written (t := taken k s) (u := finishRemote k 0 (placed k out (taken k s)))
    (tarn_of_canonical hc) rfl (by rw [finishRemote_tarn, hat])
  rw [hl] at hread hframe
  exact ⟨hread, by rw [finishRemote_mere, hat]; rfl, (accessMade_placed out).ends hc 0, hframe⟩

theorem finishRemote_placed_mere (hu : epUnit k.dest = 16) :
    let t := finishRemote k 0 (placed k out (taken k s))
    mereRead t k.addr n = out ∧ t.tarn = s.tarn ∧ accessEnds k s t 0
      ∧ ∀ b, b < k.addr ∨ k.addr + n ≤ b → sget zero8 b t.mere = sget zero8 b s.mere := by
  have hat : placed k out (taken k s) = mereWrite k.addr out (wakeUnits (unitsOf k.addr out.length) (taken k s)) := if_pos hu
  have hwake := offRegs_wakeUnits (unitsOf k.addr out.length) (taken k s)
  obtain ⟨hread, hframe⟩ := mere_written (s := taken k s) (u := finishRemote k 0 (placed k out (taken k s)))
    (mere_of_canonical hc) (mere_of_offRegs hwake) (by rw [finishRemote_mere, hat])
  rw [hl] at hread hframe
  exact ⟨hread, by rw [finishRemote_tarn, hat]; exact (tarn_of_offRegs hwake :), (accessMade_placed out).ends hc 0, hframe⟩

end

/-- A refused range is counted, and the access is over with that status. -/
theorem finishRemote_remoteRefuse (hc : canonical s = true) :
    let t := finishRemote k 1 (remoteRefuse k (taken k s))
    counts s t rRemoteRefuse 1 ∧ memoriesStay s t ∧ accessEnds k s t 1 := by
  have hcsr := csr_of_canonical hc
  have hmade := accessMade_remoteRefuse (k := k) (s := s)
  refine ⟨counts_finishRemote k 1 (by decide) (hmade.regs hcsr).1 ?_, memoriesStay_finishRemote k 1 ?_, hmade.ends hc 1⟩
  · exact counts_remoteRefuse (s := taken k s) hcsr
  · exact memoriesStay_remoteRefuse k (taken k s)

/-- So is one at a unit that is not there. -/
theorem finishRemote_taken (hc : canonical s = true) (st : Nat) :
    memoriesStay s (finishRemote k st (taken k s)) ∧ accessEnds k s (finishRemote k st (taken k s)) st :=
  ⟨memoriesStay_finishRemote k st ⟨rfl, rfl, rfl⟩, AccessMade.of_taken.ends hc st⟩

/-- And an add that clashes (R332). -/
theorem finishRemote_clash (hc : canonical s = true) :
    let t := finishRemote k 6 (bump rAddClash 1 (taken k s))
    counts s t rAddClash 1 ∧ memoriesStay s t ∧ accessEnds k s t 6 := by
  have hcsr := csr_of_canonical hc
  have hmade : AccessMade k s (bump rAddClash 1 (taken k s)) :=
    AccessMade.of_taken.trans_off (offAccess_of_offRegs (offRegs_bump ..)) (regsWithin_bump (.inl rfl))
  refine ⟨counts_finishRemote k 6 (by decide) (hmade.regs hcsr).1 ?_, memoriesStay_finishRemote k 6 ⟨rfl, rfl, rfl⟩, hmade.ends hc 6⟩
  exact rd_bump_same (s := taken k s) hcsr

/-! ## What reads answer -/

/-- Packets of this part's own join those that wait for their way. -/
def joinTransit (ps : List Packet) (s : State) : State := { s with transit := s.transit ++ ps.map fun d => (12, d) }

theorem foldl_ownPacket (ps : List Packet) (s : State) : ps.foldl (fun s d => ownPacket d s) s = joinTransit ps s := by
  induction ps generalizing s with
  | nil => simp [joinTransit]
  | cons d r ih =>
    rw [List.foldl_cons, ih]
    simp only [joinTransit, ownPacket, List.map_cons, List.append_assoc, List.singleton_append]

theorem answerWith_eq (k : Packet) (status : Nat → Nat) (l : List Byte) (s : State) :
    answerWith k status l s = joinTransit (dataPackets s k status l) s := foldl_ownPacket ..

/-- The READ of packet `k` has left the inbox and is answered with bytes and a status, and no memory has changed. -/
def readAnswered (k : Packet) (s t : State) (st : Nat) (l : List Byte) : Prop :=
  t.inbox = dropFirst (fun x => x == k) s.inbox ∧ memoriesStay s t
    ∧ t.transit = s.transit ++ ((dataPackets s k (fun _ => st) l).map fun d => (12, d))

theorem AccessMade.answered (hc : canonical s = true) (h : AccessMade k s t) (hm : memoriesStay s t) :
    readAnswered k s (answerWith k (fun _ => st) l t) st l := by
  rw [answerWith_eq, dataPackets_congr (h.self (csr_of_canonical hc))]
  exact ⟨h.inbox, hm, congrArg (· ++ _) h.transit⟩

/-- Where every unit is clean, each packet of the answer says so. -/
theorem unitStatus_nil (a n : Nat) : unitStatus [] a n = fun _ => 0 := by
  funext i
  simp [unitStatus, anyUe_of_clean fun u _ => unitEcc_nil u]

theorem reachMere_nil (a n : Nat) (s : State) : reachMere [] a n s = wakeUnits (unitsOf a n) s :=
  noteUnits_of_clean (fun u _ => unitEcc_nil u) _

theorem makeRead_tarn (hc : canonical s = true) (hu : epUnit k.dest < 12) (hl : live s (epUnit k.dest) = true)
    (hin : remoteOk s k k.len = true) : readAnswered k s (makeRead k [] s) 0 (tarnRead s (epUnit k.dest) k.addr k.len) := by
  have hu' : unitOk (taken k s) k = true := unitOk_of_core hu hl
  have hin' : remoteOk (taken k s) k k.len = true := hin
  have hmake : makeRead k [] s = answerWith k (fun _ => 0) (tarnRead s (epUnit k.dest) k.addr k.len) (taken k s) := by
    simp [makeRead, hu', hin', show epUnit k.dest ≠ 32 by omega, show epUnit k.dest ≠ 16 by omega]
    rfl
  rw [hmake]
  exact AccessMade.of_taken.answered hc ⟨rfl, rfl, rfl⟩

theorem makeRead_mere (hc : canonical s = true) (hu : epUnit k.dest = 16) (hin : remoteOk s k k.len = true) :
    readAnswered k s (makeRead k [] s) 0 (mereRead s k.addr k.len) := by
  have hu' : unitOk (taken k s) k = true := unitOk_of_mere hu
  have hin' : remoteOk (taken k s) k k.len = true := hin
  have hmake : makeRead k [] s =
      answerWith k (fun _ => 0) (mereRead s k.addr k.len) (wakeUnits (unitsOf k.addr k.len) (taken k s)) := by
    simp [makeRead, hu', hin', hu, unitStatus_nil, reachMere_nil]
    rfl
  have hwake := offRegs_wakeUnits (unitsOf k.addr k.len) (taken k s)
  rw [hmake]
  exact (accessMade_wakeUnits ..).answered hc
    ⟨tarn_of_offRegs (s := taken k s) hwake, mere_of_offRegs (s := taken k s) hwake, (congrArg State.flash hwake :)⟩

theorem makeRead_outside (hc : canonical s = true) (hu : unitOk s k = true) (hin : remoteOk s k k.len = false) :
    counts s (makeRead k [] s) rRemoteRefuse 1 ∧ readAnswered k s (makeRead k [] s) 1 [] := by
  have hcsr := csr_of_canonical hc
  have hu' : unitOk (taken k s) k = true := hu
  have hin' : remoteOk (taken k s) k k.len = false := hin
  have hmake : makeRead k [] s = answerWith k (fun _ => 1) [] (remoteRefuse k (taken k s)) := by
    have := unit_of_unitOk hu
    simp [makeRead, hu', hin', show epUnit k.dest ≠ 32 by omega]
  rw [hmake]
  refine ⟨?_, accessMade_remoteRefuse.answered hc (memoriesStay_remoteRefuse k (taken k s))⟩
  rw [answerWith_eq]
  exact counts_remoteRefuse (s := taken k s) hcsr

theorem makeRead_nowhere (hc : canonical s = true) (hu : unitOk s k = false) (h32 : epUnit k.dest ≠ 32) :
    readAnswered k s (makeRead k [] s) 2 [] := by
  have hu' : unitOk (taken k s) k = false := hu
  have hmake : makeRead k [] s = answerWith k (fun _ => 2) [] (taken k s) := by simp [makeRead, hu', h32]
  rw [hmake]
  exact AccessMade.of_taken.answered hc ⟨rfl, rfl, rfl⟩

end Sys2Proof.Machine
end

section
/-! TENSOR DESCRIPTORS. Replies to this part's transfers, and transfers whose reply does not come (R200, R330, R331). -/

namespace Sys2Proof.Machine

variable {s t : State} {k : Packet} {c e : Nat} {x : Xfer}

/-! ## The transfer that a reply answers -/

theorem mem_of_replyFor (h : replyFor s k = some (e, x)) : x ∈ outstOf s (epUnit k.dest) e := by
  obtain ⟨e', -, he'⟩ := List.exists_of_findSome?_eq_some h
  obtain ⟨y, hy, hxy⟩ := Option.map_eq_some_iff.mp he'
  obtain ⟨rfl, rfl⟩ := Prod.mk.inj hxy
  exact List.mem_of_find?_eq_some hy

/-- A DATA reply to no transfer, or a late one, is counted (R331). -/
theorem transferData_late (he : engines s = true) (hop : k.op = 4) (hu : epUnit k.dest < 12)
    (hlate : (replyFor s k).all (fun x => replyLate s x.2) = true) : transferData k s = bump rLateReply 1 (taken k s) := by
  simp only [transferData, he, hop, Nat.not_le.mpr hu, Bool.not_true, bne_self_eq_false, Bool.or_self, Bool.false_eq_true, if_false]
  split
  · rfl
  · next e x hx =>
    rw [hx] at hlate
    exact if_pos hlate

/-- So is such an ACK. -/
theorem transferAck_late (he : engines s = true) (hop : k.op = 5) (hu : epUnit k.dest < 12)
    (hlate : (replyFor s k).all (fun x => replyLate s x.2) = true) : transferAck k s = bump rLateReply 1 (taken k s) := by
  simp only [transferAck, he, hop, Nat.not_le.mpr hu, Bool.not_true, bne_self_eq_false, Bool.or_self, Bool.false_eq_true, if_false]
  split
  · rfl
  · next e x hx =>
    rw [hx] at hlate
    exact if_pos hlate

/-! ## Data -/

/-- A transfer whose bytes have all arrived whole. -/
def Xfer.arrived (x : Xfer) : Xfer := { x with got := x.len, failed := false }

/-- The transfer's bytes have arrived, as its engine keeps it. -/
def notesArrived (c e : Nat) (x : Xfer) (s : State) : State :=
  setOutst c e ((outstOf s c e).map fun z => if z = x then x.arrived else z) s

@[simp] theorem notesArrived_tarn (c e : Nat) (x : Xfer) (s : State) : (notesArrived c e x s).tarn = s.tarn := rfl
@[simp] theorem notesArrived_mere (c e : Nat) (x : Xfer) (s : State) : (notesArrived c e x s).mere = s.mere := rfl

/-- One transfer fewer is outstanding once it ends. -/
theorem length_outstOf_arrived {fails conseq : Bool} (hs : swf (fun _ => []) s.outst = true) (hx : x ∈ outstOf s c e) :
    (outstOf (xferDone c e x.arrived fails conseq (notesArrived c e x s)) c e).length + 1 = (outstOf s c e).length := by
  have hmem : x.arrived ∈ (outstOf s c e).map fun z => if z = x then x.arrived else z :=
    List.mem_map.mpr ⟨x, hx, if_pos rfl⟩
  rw [outstOf_xferDone (s := notesArrived c e x s) (swf_sset hs), notesArrived, outstOf_setOutst_same hs,
    List.length_erase_of_mem hmem, List.length_map]
  exact Nat.sub_add_cancel (List.length_pos_of_mem hx)

/-- The state in which a read's bytes have landed: the segments that they reach have woken (log entry 75). -/
def landsData (d a : Nat) (x : Xfer) (k : Packet) (s : State) : State := tarnWrite d a k.data (wakeSegs d a x.len (taken k s))

theorem outst_landsData (d a : Nat) : (landsData d a x k s).outst = s.outst :=
  (outst_of_offLanding (offLanding_wakeSegs d a x.len (taken k s)) :)

theorem mere_landsData (d a : Nat) : (landsData d a x k s).mere = s.mere :=
  (mere_of_offLanding (offLanding_wakeSegs d a x.len (taken k s)) :)

section
variable {d a : Nat} (he : engines s = true) (hop : k.op = 4) (hu : epUnit k.dest < 12) (hx : replyFor s k = some (e, x))
  (hlate : replyLate s x = false) (hst : k.status = 0) (hlast : k.lastx = true) (hgot : x.got = 0) (hfail : x.failed = false)
  (hdst : x.dst = .tarn d a) (hlen : k.len = x.len) (hl : k.data.length = k.len)
include he hop hu hx hlate hst hlast hgot hfail hdst hlen hl

/-- A good reply with all the data of a read lands it, and the transfer ends. -/
theorem transferData_whole : transferData k s =
    xferDone (epUnit k.dest) e x.arrived false false (notesArrived (epUnit k.dest) e x (landsData d a x k s)) := by
  have hlate' : replyLate (taken k s) x = false := hlate
  have hl' : k.data.length = x.len := hl.trans hlen
  simp [transferData, he, hop, Nat.not_le.mpr hu, hx, hlate', hst, hlast, hgot, hfail, hdst, hlen, Loc.at_, slice_whole hl', notesArrived,
    landsData, Xfer.arrived]

/-- Its bytes are at its destination, and every other byte is as it was. -/
theorem transferData_lands (hc : canonical s = true) :
    tarnRead (transferData k s) d a x.len = k.data ∧ (transferData k s).mere = s.mere
      ∧ (outstOf (transferData k s) (epUnit k.dest) e).length + 1 = (outstOf s (epUnit k.dest) e).length
      ∧ ∀ b, b < tarnKey d a ∨ tarnKey d a + x.len ≤ b → sget zero8 b (transferData k s).tarn = sget zero8 b s.tarn := by
  have hwhole := transferData_whole he hop hu hx hlate hst hlast hgot hfail hdst hlen hl
  have htarn : (transferData k s).tarn = (landsData d a x k s).tarn := by rw [hwhole, tarn_xferDone, notesArrived_tarn]
  obtain ⟨hread, hframe⟩ := tarn_written (tarn_of_canonical hc)
    (tarn_of_offLanding (s := taken k s) (offLanding_wakeSegs d a x.len (taken k s))) htarn
  rw [hl, hlen] at hread hframe
  refine ⟨hread, by rw [hwhole, mere_xferDone, notesArrived_mere, mere_landsData], ?_, hframe⟩
  have hout := outst_landsData (s := s) (k := k) (x := x) d a
  rw [hwhole, length_outstOf_arrived (hout ▸ outst_of_canonical hc) (outstOf_congr hout .. ▸ mem_of_replyFor hx), outstOf_congr hout]

end

/-- A good ACK ends a write. -/
theorem transferAck_good (he : engines s = true) (hop : k.op = 5) (hu : epUnit k.dest < 12)
    (hx : replyFor s k = some (e, x)) (hlate : replyLate s x = false) (hst : k.status = 0) :
    transferAck k s = xferDone (epUnit k.dest) e x false false
      (bump (coreReg (epUnit k.dest) 0xA098) (remotePartial x) (taken k s)) := by
  have hlate' : replyLate (taken k s) x = false := hlate
  simp [transferAck, he, hop, Nat.not_le.mpr hu, hx, hlate', hst]

/-! ## No reply -/

/-- A transfer that fails so ends with its tag at rest, whatever is left at its destination (R200, R331). -/
theorem remoteFails_eq (c e : Nat) (x : Xfer) (conseq : Bool) (s : State) :
    ∃ t, t.outst = s.outst ∧ t.now = s.now ∧ remoteFails c e x conseq s = xferDone c e x true conseq (restTag x t) := by
  cases hdst : x.dst with
  | tarn d a =>
    have hwake := offLanding_wakeSegs d a x.len s
    exact ⟨tarnWrite d a (List.replicate x.len 0) (wakeSegs d a x.len s), (outst_of_offLanding hwake :), (now_of_offLanding hwake :),
      by simp only [remoteFails, hdst]⟩
  | mere a => exact ⟨mereWrite a (List.replicate x.len 0) s, rfl, rfl, by simp only [remoteFails, hdst]⟩
  | part ep a => exact ⟨s, rfl, rfl, by simp only [remoteFails, hdst]⟩
  | zeros => exact ⟨s, rfl, rfl, by simp only [remoteFails, hdst]⟩

theorem transferTimeout_of_due {i : Nat} (he : engines s = true) (hx : (outstOf s c e)[i]? = some x) (hrem : x.remote = true)
    (hgot : x.got = 0) (hdue : x.sent + xferTicks s ≤ s.now) : transferTimeout c e i s = remoteFails c e x true s := by
  simp [transferTimeout, he, hx, hrem, hgot, Nat.not_lt.mpr hdue]

/-! ## The commands -/

theorem exec_remoteWrite (k : Packet) (m : EccMap) (s : State) : exec (.remoteWrite k m) s = .next (remoteWrite k m s) := rfl
theorem exec_remoteRead (k : Packet) (m : EccMap) (s : State) : exec (.remoteRead k m) s = .next (remoteRead k m s) := rfl
theorem exec_remoteAdd (k : Packet) (m : EccMap) (s : State) : exec (.remoteAdd k m) s = .next (remoteAdd k m s) := rfl
theorem exec_transferData (k : Packet) (s : State) : exec (.transferData k) s = .next (transferData k s) := rfl
theorem exec_transferAck (k : Packet) (s : State) : exec (.transferAck k) s = .next (transferAck k s) := rfl
theorem exec_transferTimeout (c : CoreId) (e : Engine) (i : Nat) (s : State) :
    exec (.transferTimeout c e i) s = .next (transferTimeout c.val (engNo e) i s) := rfl

/-- Settles O47: what is made of an access lands before its acknowledgement, which touches no byte, and a reply ends the transfer that
it finds. -/
theorem remoteAccesses : Obligations.RemoteAccesses := by
  unfold Obligations.RemoteAccesses
  intro k s hc he u n due made answers
  have hcsr := csr_of_canonical hc
  refine ⟨fun hop hl ⟨hturn, hsegs⟩ => ?_, fun hop ⟨hturn, hsegs⟩ => ?_, fun hop hl ⟨hturn, hsegs⟩ hin => ?_, fun hop hu hlate => ?_,
    fun e c a x hu hx hlate hst => ⟨fun hop hlast hgot hfail hdst hlen hl => ?_, fun hop => ?_⟩,
    fun c e i x hx hrem hgot hdue => ?_⟩
  · have hdue : remoteWrite k [] s = makeWrite k [] s := (if_pos hop).trans (whenDue_of_due he hturn hsegs)
    rw [exec_remoteWrite, hdue]
    refine ⟨fun hu hlive hin => ⟨_, rfl, ?_⟩, fun hu hin => ⟨_, rfl, ?_⟩, fun hu hn hin => ⟨_, rfl, ?_⟩, fun hu => ⟨_, rfl, ?_⟩⟩
    · rw [makeWrite_inside (unitOk_of_core hu hlive) hin hl]
      exact finishRemote_placed_tarn hc hl hu
    · rw [makeWrite_inside (unitOk_of_mere hu) hin hl]
      exact finishRemote_placed_mere hc hl hu
    · rw [makeWrite_outside hu hn hin]
      exact finishRemote_remoteRefuse hc
    · rw [makeWrite_nowhere hu]
      exact finishRemote_taken hc 2
  · have hdue : remoteRead k [] s = makeRead k [] s := (if_pos hop).trans (whenDue_of_due he hturn hsegs)
    rw [exec_remoteRead, hdue]
    exact ⟨fun hu hlive hin => ⟨_, rfl, makeRead_tarn hc hu hlive hin⟩, fun hu hin => ⟨_, rfl, makeRead_mere hc hu hin⟩,
      fun hu hin => ⟨_, rfl, makeRead_outside hc hu hin⟩, fun hu h32 => ⟨_, rfl, makeRead_nowhere hc hu h32⟩⟩
  · have hdue : remoteAdd k [] s = makeAdd k [] s := (if_pos hop).trans (whenDue_of_due he hturn hsegs)
    rw [exec_remoteAdd, hdue]
    refine ⟨fun hu hlive hr => ⟨_, rfl, ?_⟩, fun hu hr => ⟨_, rfl, ?_⟩, fun hu hr hfree => ⟨_, rfl, ?_⟩⟩
    · rw [makeAdd_inside (unitOk_of_core hu hlive) hin hr hl, ← sumsAt_of_core hu]
      exact finishRemote_placed_tarn hc (length_sumsAt hl) hu
    · rw [makeAdd_inside (unitOk_of_mere hu) hin hr hl, ← sumsAt_of_mere hu]
      obtain ⟨hread, htarn, hends, -⟩ := finishRemote_placed_mere hc (length_sumsAt hl) hu
      exact ⟨hread, htarn, hends⟩
    · rw [makeAdd_clash hu hin hr hfree]
      exact finishRemote_clash hc
  · have hcount : counts s (bump rLateReply 1 (taken k s)) rLateReply 1 := rd_bump_same (s := taken k s) hcsr
    rcases hop with hop | hop
    · rw [if_pos hop, exec_transferData, transferData_late he hop hu hlate]
      exact ⟨_, rfl, hcount, rfl, rfl, rfl, rfl, rfl⟩
    · rw [if_neg (by omega), exec_transferAck, transferAck_late he hop hu hlate]
      exact ⟨_, rfl, hcount, rfl, rfl, rfl, rfl, rfl⟩
  · exact ⟨_, exec_transferData k s, transferData_lands he hop hu hx hlate hst hlast hgot hfail hdst hlen hl hc⟩
  · rw [exec_transferAck, transferAck_good he hop hu hx hlate hst]
    exact ⟨_, rfl, outstOf_landed hc rfl, tarn_xferDone, mere_xferDone, flash_xferDone⟩
  · obtain ⟨t, hout, hnow, heq⟩ := remoteFails_eq c.val (engNo e) x true s
    rw [exec_transferTimeout, transferTimeout_of_due he hx hrem hgot hdue, heq]
    refine ⟨_, rfl, outstOf_landed hc hout, ?_, asserts_xferDone⟩
    rw [failedTags_xferDone, restTag, hnow]
    exact List.mem_cons_self

end Sys2Proof.Machine
end

section
/-! SUPPORT. Accumulators and the registers of an array (R97, R109): reads after writes, and what a block of writes, row by row, makes of
them. -/

namespace Sys2Proof.Machine

variable {s t u : State} {c a c' a' row row' col col' n w : Nat} {x : Word} {v : Nat → Nat → Word → Word}

theorem acc_of_canonical (h : canonical s = true) : swf zero32 s.acc = true := by
  simp only [canonical, storesCanonical, Bool.and_eq_true] at h
  simp only [h]

theorem arrays_of_canonical (h : canonical s = true) : swf (fun _ => {}) s.arrays = true := by
  simp only [canonical, storesCanonical, Bool.and_eq_true] at h
  simp only [h]

/-! ## An array's registers -/

theorem arr_setArr_same {ar : ArraySt} (h : swf (fun _ => {}) s.arrays = true) : arr (setArr c a ar s) c a = ar := sget_sset_same h

theorem arr_congr (h : t.arrays = s.arrays) (c a : Nat) : arr t c a = arr s c a := by rw [arr, h, arr]

/-! ## One accumulator -/

/-- Different accumulators have different places. -/
theorem accKey_inj (ha : a < 4) (ha' : a' < 4) (hr : row < 1024) (hr' : row' < 1024) (hc : col < 256) (hc' : col' < 256) :
    accKey c a row col = accKey c' a' row' col' ↔ c = c' ∧ a = a' ∧ row = row' ∧ col = col' := by
  simp only [accKey]
  omega

theorem accAt_accSet_same (h : swf zero32 s.acc = true) : accAt (accSet c a row col x s) c a row col = x := sget_sset_same h

theorem accAt_accSet_other (h : swf zero32 s.acc = true) (hk : accKey c' a' row' col' ≠ accKey c a row col) :
    accAt (accSet c a row col x s) c' a' row' col' = accAt s c' a' row' col' := sget_sset_other h hk

theorem accAt_congr (h : t.acc = s.acc) (c a row col : Nat) : accAt t c a row col = accAt s c a row col := by rw [accAt, h, accAt]

/-! ## Many accumulators -/

/-- From `s` to `t` array a of core c makes `v` of each of its accumulators that a test picks; every other one, and Tarn, are as
they were. -/
structure AccsMade (c a : Nat) (p : Nat → Nat → Prop) (v : Nat → Nat → Word → Word) (s t : State) : Prop where
  swf : Machine.swf zero32 t.acc = true
  tarn : t.tarn = s.tarn
  made : ∀ {row col}, row < 1024 → col < 256 → p row col → accAt t c a row col = v row col (accAt s c a row col)
  kept : ∀ {c' a' row col}, a' < 4 → row < 1024 → col < 256 → (c' = c → a' = a → ¬ p row col) →
    accAt t c' a' row col = accAt s c' a' row col

/-- The places of n rows from row0 on, in w columns from col0 on. -/
def inBlock (row0 n col0 w row col : Nat) : Prop := ∃ m < n, ∃ j < w, row = row0 + m ∧ col = col0 + j

theorem not_inBlock {row0 col0 : Nat} (h : row < row0 ∨ row0 + n ≤ row ∨ col < col0 ∨ col0 + w ≤ col) :
    ¬ inBlock row0 n col0 w row col := by
  rintro ⟨m, hm, j, hj, rfl, rfl⟩
  omega

theorem accsMade_accSet (ha : a < 4) (hr : row < 1024) (hc : col < 256) (hs : swf zero32 s.acc = true)
    (hx : x = v row col (accAt s c a row col)) : AccsMade c a (fun r k => r = row ∧ k = col) v s (accSet c a row col x s) where
  swf := swf_sset hs
  tarn := rfl
  made := by
    rintro _ _ - - ⟨rfl, rfl⟩
    rw [accAt_accSet_same hs, hx]
  kept ha' hr' hc' hp := accAt_accSet_other hs fun he => by
    obtain ⟨hc, ha, hrow, hcol⟩ := (accKey_inj ha' ha hr' hr hc' hc).mp he
    exact hp hc ha ⟨hrow, hcol⟩

namespace AccsMade

variable {p : Nat → Nat → Prop} {s' t' : State}

/-- What touches neither accumulators nor Tarn may come before and after. -/
theorem congr (h : AccsMade c a p v s t) (hs : s'.acc = s.acc) (hst : s'.tarn = s.tarn) (ht : t'.acc = t.acc)
    (htt : t'.tarn = t.tarn) : AccsMade c a p v s' t' where
  swf := ht ▸ h.swf
  tarn := by rw [htt, h.tarn, hst]
  made hr hc hp := by rw [accAt_congr ht, accAt_congr hs, h.made hr hc hp]
  kept ha' hr hc hp := by rw [accAt_congr ht, accAt_congr hs, h.kept ha' hr hc hp]

/-- Outside a block of an array nothing changes, nor in any other array. -/
theorem outside {c c' : CoreId} {a a' : ArrId} {row0 col0 : Nat} (h : AccsMade c.val a.val (inBlock row0 n col0 w) v s t)
    (hr : row < 1024) (hk : col < 256)
    (hout : c' ≠ c ∨ a' ≠ a ∨ row < row0 ∨ row0 + n ≤ row ∨ col < col0 ∨ col0 + w ≤ col) :
    accAt t c'.val a'.val row col = accAt s c'.val a'.val row col :=
  h.kept a'.isLt hr hk fun hc ha =>
    not_inBlock ((hout.resolve_left (not_not.mpr (Fin.ext hc))).resolve_left (not_not.mpr (Fin.ext ha)))

end AccsMade

theorem iter_succ {α : Type} (n : Nat) (f : Nat → α → α) (x : α) : iter (n + 1) f x = f n (iter n f x) := by
  simp [iter, List.range_succ]

/-- A run of operations that each make `v` of accumulators of their own makes it of them all. -/
theorem accsMade_iter {f : Nat → State → State} {p : Nat → Nat → Nat → Prop} (ha : a < 4) (hs : swf zero32 s.acc = true)
    (hp : ∀ {i j row col}, p i row col → p j row col → i = j)
    (hf : ∀ i < n, ∀ u : State, swf zero32 u.acc = true → u.tarn = s.tarn → AccsMade c a (p i) v u (f i u)) :
    AccsMade c a (fun row col => ∃ i < n, p i row col) v s (iter n f s) := by
  induction n with
  | zero => exact ⟨hs, rfl, fun _ _ ⟨i, hi, _⟩ => absurd hi (Nat.not_lt_zero i), fun _ _ _ _ => rfl⟩
  | succ n ih =>
    have hbefore := ih fun i hi => hf i (by omega)
    have hlast := hf n (by omega) _ hbefore.swf hbefore.tarn
    rw [iter_succ]
    refine ⟨hlast.swf, hlast.tarn.trans hbefore.tarn, ?_, fun ha' hr hc hno => ?_⟩
    · rintro row col hr hc ⟨i, hi, hpi⟩
      by_cases hin : i = n
      · subst hin
        rw [hlast.made hr hc hpi, hbefore.kept ha hr hc fun _ _ ⟨j, hj, hpj⟩ => by
          have := hp hpi hpj
          omega]
      · rw [hlast.kept ha hr hc fun _ _ hpn => hin (hp hpi hpn), hbefore.made hr hc ⟨i, by omega, hpi⟩]
    · rw [hlast.kept ha' hr hc fun hc ha hpn => hno hc ha ⟨n, by omega, hpn⟩,
        hbefore.kept ha' hr hc fun hc ha ⟨i, hi, hpi⟩ => hno hc ha ⟨i, by omega, hpi⟩]

/-- Operations on the accumulators of a block, row by row, in each row from what stood at its begin. -/
theorem accsMade_block {row0 col0 : Nat} {f : Nat → State → Nat → State → State} (ha : a < 4) (hs : swf zero32 s.acc = true)
    (hf : ∀ m < n, ∀ j < w, ∀ r u : State, r.tarn = s.tarn → swf zero32 u.acc = true →
      AccsMade c a (fun row col => row = row0 + m ∧ col = col0 + j) v u (f m r j u)) :
    AccsMade c a (inBlock row0 n col0 w) v s (iter n (fun m r => iter w (f m r) r) s) := by
  refine accsMade_iter ha hs (p := fun m row col => ∃ j < w, row = row0 + m ∧ col = col0 + j) ?_ fun m hm r hr htr => ?_
  · rintro i j row col ⟨_, _, hi, -⟩ ⟨_, _, hj, -⟩
    omega
  · refine accsMade_iter ha hr ?_ fun j hj u hu _ => hf m hm j hj r u htr hu
    rintro i j row col ⟨-, hi⟩ ⟨-, hj⟩
    omega

/-! ## What running commands leave of an array -/

theorem OnlyRuns.acc (h : OnlyRuns s t) : t.acc = s.acc := (congrArg State.acc h.off :)
theorem OnlyRuns.treg (h : OnlyRuns s t) : t.treg = s.treg := (congrArg State.treg h.off :)
theorem OnlyRuns.arrays (h : OnlyRuns s t) : t.arrays = s.arrays := (congrArg State.arrays h.off :)

end Sys2Proof.Machine
end

section
/-! MATRIX ARRAYS. MXA.ZACC zeroes accumulators (R115). -/

namespace Sys2Proof.Machine

variable {s : State} {c a : Nat} {r : Run}

theorem exec_mxaZacc (c : CoreId) (a : ArrId) (s : State) :
    exec (.mxaZacc c a) s = .next (inTurn (unitKey c.val a.val) (mxaZacc c.val a.val) s) := rfl

/-- With no ZACC at the head, a ZACC whose rows enter next makes its iteration. -/
theorem mxaZacc_of_mayIterate (hmay : mayIterate s r) (hhead : headIs s (unitKey c a) 0x30 = none)
    (hrow : rowRun s (unitKey c a) = some r) (hop : r.q.cmd.opcode = 0x30) :
    mxaZacc c a s = endIter (unitKey c a) r.q.seq (zaccBody c a r (takeWait (unitKey c a) r s)) := by
  have hstop : ¬(!engines s || s.ssq.aborting) = true := by
    obtain ⟨heng, hab, -⟩ := hmay
    simp [heng, hab]
  rw [mxaZacc, if_neg hstop]
  simp only [hhead, hrow, hop, if_true]
  exact runIter_of_mayIterate hmay

theorem zaccBody_keeps {β : Type} (view : State → β) (h : ∀ (s : State) (l : Sparse Word), view { s with acc := l } = view s)
    (c a : Nat) (r : Run) (s : State) : view (zaccBody c a r s) = view s := by
  rw [zaccBody]
  split
  · rfl
  · exact iter_keeps view (fun _ s => iter_keeps view (fun _ s => h s _) _ s) _ s

/-- The accumulators of the operand's rows and columns become 0. -/
theorem accsMade_zaccBody (ha : a < 4) (hempty : r.empty = false) (hs : swf zero32 s.acc = true)
    (hcol : 32 * (r.desc.getD 0 {}).colb + (r.desc.getD 0 {}).e 0 ≤ 256)
    (hrow : ((r.desc.getD 0 {}).base + r.nest.offset r.it 0).toNat + (r.desc.getD 0 {}).e 1 ≤ 1024) :
    AccsMade c a (inBlock ((r.desc.getD 0 {}).base + r.nest.offset r.it 0).toNat ((r.desc.getD 0 {}).e 1)
      (32 * (r.desc.getD 0 {}).colb) ((r.desc.getD 0 {}).e 0)) (fun _ _ _ => 0) s (zaccBody c a r s) := by
  rw [zaccBody, if_neg (by simp [hempty])]
  exact accsMade_block ha hs fun m hm j hj _ u _ hu => accsMade_accSet ha (by omega) (by omega) hu rfl

/-- Settles O24: the iteration's zeros, framed by a wait taken and an iteration that ends, which touch no accumulator. -/
theorem mxaZeros : Obligations.MxaZeros := by
  unfold Obligations.MxaZeros
  intro c a r s hc hmay hline hhead hrun hop hempty d row0 hcol hrow
  have htake := onlyRuns_takeWait (unitKey c.val a.val) r s
  have hend := onlyRuns_endIter (unitKey c.val a.val) r.q.seq (zaccBody c.val a.val r (takeWait (unitKey c.val a.val) r s))
  have hmade := (accsMade_zaccBody (c := c.val) a.isLt hempty (htake.acc ▸ acc_of_canonical hc) hcol hrow).congr htake.acc.symm
    htake.tarn.symm hend.acc hend.tarn
  rw [exec_mxaZacc, inTurn_eq_of_firstInLine hline, mxaZacc_of_mayIterate hmay hhead hrun hop]
  refine ⟨_, rfl, hmade.tarn, ?_, ?_, fun m j hm hj => ?_, fun c' a' row col hr hk hout => ?_⟩
  · exact hend.treg.trans ((zaccBody_keeps (·.treg) (fun _ _ => rfl) ..).trans htake.treg)
  · exact hend.mere.trans ((zaccBody_keeps (·.mere) (fun _ _ => rfl) ..).trans htake.mere)
  · exact hmade.made (by omega) (by omega) ⟨m, hm, j, hj, rfl, rfl⟩
  · exact hmade.outside hr hk hout

end Sys2Proof.Machine
end

section
/-! MATRIX ARRAYS. A pass of MXA.STREAM swaps its tile in and writes its sums (R109, R118, R119, R123, R262, R264). -/

namespace Sys2Proof.Machine

variable {s : State} {c a : Nat} {r : Run} {tile : Tile}

theorem exec_mxaStream (c : CoreId) (a : ArrId) (s : State) :
    exec (.mxaStream c a) s = .next (inTurn (unitKey c.val a.val) (mxaStream c.val a.val) s) := rfl

/-! ## The pass that is made -/

/-- With no STREAM to start, a STREAM whose rows enter next makes its pass. -/
theorem mxaStream_of_passReady (heng : engines s = true) (hab : s.ssq.aborting = false) (hhead : headIs s (unitKey c a) 0x20 = none)
    (hstart : ∀ q, headOf s (unitKey c a) = some q → started s (unitKey c a) q.seq = false)
    (hrow : rowRun s (unitKey c a) = some r) (hop : r.q.cmd.opcode = 0x20) (hready : passReady s r = true)
    (hsegs : segsReady s c (runSegs r r.it fun j => j == 0)) :
    mxaStream c a s = endIter (unitKey c a) r.q.seq (passBody c a r (takeMet (unitKey c a) r r.it s)) := by
  have hpass : mxaStream.pass (unitKey c a) c a s =
      endIter (unitKey c a) r.q.seq (passBody c a r (takeMet (unitKey c a) r r.it s)) := by
    rw [mxaStream.pass, hrow]
    simp only [hop, hready, ne_eq, not_true_eq_false, decide_false, Bool.not_true, Bool.or_self, Bool.false_eq_true, if_false]
    exact if_pos hsegs
  rw [mxaStream, if_neg (by simp [heng, hab])]
  simp only [hhead]
  split
  · next q hq => rw [hstart q hq, if_neg Bool.false_ne_true, hpass]
  · exact hpass

/-! ## The tile of a pass -/

/-- A pass swaps the shadow in (R118, R119). -/
def Run.swaps (r : Run) : Bool := (mxaWsrc r.q == 0 && loadsAt r r.it) || (mxaWsrc r.q == 1 && r.it == 0)

/-- The tile of a pass (R118). -/
def passTile (c a : Nat) (r : Run) (s : State) : Tile := if r.swaps then (arr s c a).shadow.getD {} else (arr s c a).active

/-- A swap, or a pass that goes on with the tile it has, with what either counts. -/
def swapsTile (c a : Nat) (r : Run) (s : State) : State :=
  if r.swaps then
    setArr c a { arr s c a with active := (arr s c a).shadow.getD {}, shadow := none }
      (if (arr s c a).shadow.isNone then bump (arrReg c a 0x20) 1 s else s)
  else if mxaWsrc r.q == 0 then bump (arrReg c a 0x10) 1 s else s

theorem swapsTile_keeps {β : Type} (view : State → β) (ha : ∀ (s : State) (l : Sparse ArraySt), view { s with arrays := l } = view s)
    (hw : ∀ (s : State) (a : Nat) (v : Word), view (wr a v s) = view s) (c a : Nat) (r : Run) (s : State) :
    view (swapsTile c a r s) = view s := by
  rw [swapsTile]
  split_ifs
  · exact (ha ..).trans (hw ..)
  · exact ha ..
  · exact hw ..
  · rfl

/-- The tile is active after the swap. -/
theorem active_swapsTile (hs : swf (fun _ => {}) s.arrays = true) : (arr (swapsTile c a r s) c a).active = passTile c a r s := by
  rw [swapsTile, passTile]
  split
  · rw [arr_setArr_same]
    split <;> exact hs
  · split <;> rfl

/-- The shadow is empty after a swap. -/
theorem shadow_swapsTile (hs : swf (fun _ => {}) s.arrays = true) (h : r.swaps = true) :
    (arr (swapsTile c a r s) c a).shadow = none := by
  rw [swapsTile, if_pos h, arr_setArr_same]
  split <;> exact hs

/-! ## The sums of a pass -/

/-- Row of the pass's first accumulators. -/
def Run.row0 (r : Run) : Nat := ((r.desc.getD 2 {}).base + r.nest.offset r.it 2).toNat

/-- The pass adds to its accumulators (R123). -/
def Run.adds (r : Run) : Bool := mxaAmode r.q == 1 || (mxaAmode r.q == 2 && r.nest.digit r.it (mxaAlvl r.q) != 0)

/-- The codes of activation row m. -/
def passRow (c : Nat) (r : Run) (s : State) (m : Nat) : List Nat := (readRow s (.tarn c) (r.desc.getD 0 {}) r.nest r.it 0 (m, 0, 0)).1

/-- The sum of activations xs for column j of a tile, and the overflows met: 0 past the tile's columns and with a zero tile. -/
def passSum (r : Run) (tile : Tile) (xs : List Nat) (j : Nat) : Word × Nat :=
  if tile.k = 0 ∨ tile.n ≤ j then (0, 0)
  else columnOut tile.cls tile.dt (r.desc.getD 0 {}).dtype xs (tile.codes.getD j []) (tile.scales.getD j []) (tile.csum.getD j 0)
    (mxaZpen r.q) (mxaZp r.q)

theorem passSum_fst (r : Run) (tile : Tile) (xs : List Nat) (j : Nat) : (passSum r tile xs j).1 =
    if tile.k = 0 ∨ tile.n ≤ j then 0
    else (columnOut tile.cls tile.dt (r.desc.getD 0 {}).dtype xs (tile.codes.getD j []) (tile.scales.getD j []) (tile.csum.getD j 0)
      (mxaZpen r.q) (mxaZp r.q)).1 := apply_ite ..

/-- What a sum makes of an accumulator, and the saturations. -/
def passNew (r : Run) (old : Word) (out : Word × Nat) : Word × Nat := accumulate ((r.desc.getD 2 {}).dtype == 8) r.adds old out.1

/-- A sum lands at an accumulator, and what overflowed or saturated is counted. -/
def landsSum (c a : Nat) (r : Run) (row col : Nat) (out : Word × Nat) (s : State) : State :=
  let new := passNew r (accAt s c a row col) out
  if out.2 + new.2 = 0 then accSet c a row col new.1 s else bump (arrReg c a 0x30) (out.2 + new.2) (accSet c a row col new.1 s)

/-- The rows of a pass enter one after another, and their sums land. -/
def landsRows (c a : Nat) (r : Run) (tile : Tile) (s : State) : State :=
  iter ((r.desc.getD 0 {}).e 1) (fun m x => iter ((r.desc.getD 2 {}).e 0) (fun j u =>
    landsSum c a r (r.row0 + m) (32 * (r.desc.getD 2 {}).colb + j) (passSum r tile (passRow c r x m) j) u) x) s

theorem passBody_eq (c a : Nat) (r : Run) (s : State) : passBody c a r s =
    bump (arrReg c a 8) ((r.desc.getD 0 {}).e 1) (landsRows c a r (arr (swapsTile c a r s) c a).active (swapsTile c a r s)) := rfl

theorem landsSum_keeps {β : Type} (view : State → β) (ha : ∀ (s : State) (l : Sparse Word), view { s with acc := l } = view s)
    (hw : ∀ (s : State) (a : Nat) (v : Word), view (wr a v s) = view s) (c a : Nat) (r : Run) (row col : Nat) (out : Word × Nat)
    (s : State) : view (landsSum c a r row col out s) = view s := by
  simp only [landsSum]
  split
  · exact ha ..
  · exact (hw ..).trans (ha ..)

theorem landsRows_keeps {β : Type} (view : State → β) (ha : ∀ (s : State) (l : Sparse Word), view { s with acc := l } = view s)
    (hw : ∀ (s : State) (a : Nat) (v : Word), view (wr a v s) = view s) (c a : Nat) (r : Run) (tile : Tile) (s : State) :
    view (landsRows c a r tile s) = view s :=
  iter_keeps view (fun _ s => iter_keeps view (fun _ _ => landsSum_keeps view ha hw ..) _ s) _ s

/-- The sum lands at its accumulator alone. -/
theorem accsMade_landsSum {row col : Nat} {out : Word × Nat} {v : Nat → Nat → Word → Word} (ha : a < 4) (hr : row < 1024)
    (hc : col < 256) (hs : swf zero32 s.acc = true) (hv : ∀ old, v row col old = (passNew r old out).1) :
    AccsMade c a (fun r k => r = row ∧ k = col) v s (landsSum c a r row col out s) := by
  have hset := accsMade_accSet (c := c) (v := v) ha hr hc hs (hv _).symm
  simp only [landsSum]
  split
  · exact hset
  · exact hset.congr rfl rfl rfl rfl

/-- What the rows of a pass make of the accumulators of their block, the activations read from Tarn as it was. -/
def rowsMake (c : Nat) (r : Run) (tile : Tile) (s : State) (row col : Nat) (old : Word) : Word :=
  (passNew r old (passSum r tile (passRow c r s (row - r.row0)) (col - 32 * (r.desc.getD 2 {}).colb))).1

theorem passRow_congr {t : State} (h : t.tarn = s.tarn) (c : Nat) (r : Run) (m : Nat) : passRow c r t m = passRow c r s m := by
  simp only [passRow, readRow, storeRead, tarnRead_congr h]

theorem accsMade_landsRows (ha : a < 4) (hs : swf zero32 s.acc = true)
    (hcol : 32 * (r.desc.getD 2 {}).colb + (r.desc.getD 2 {}).e 0 ≤ 256) (hrow : r.row0 + (r.desc.getD 0 {}).e 1 ≤ 1024) :
    AccsMade c a (inBlock r.row0 ((r.desc.getD 0 {}).e 1) (32 * (r.desc.getD 2 {}).colb) ((r.desc.getD 2 {}).e 0))
      (rowsMake c r tile s) s (landsRows c a r tile s) := by
  refine accsMade_block ha hs fun m hm j hj x u hx hu => accsMade_landsSum ha (by omega) (by omega) hu fun old => ?_
  rw [rowsMake, Nat.add_sub_cancel_left, Nat.add_sub_cancel_left, passRow_congr hx]

/-! ## The command -/

theorem passBody_keeps {β : Type} (view : State → β) (hacc : ∀ (s : State) (l : Sparse Word), view { s with acc := l } = view s)
    (harr : ∀ (s : State) (l : Sparse ArraySt), view { s with arrays := l } = view s)
    (hw : ∀ (s : State) (a : Nat) (v : Word), view (wr a v s) = view s) (c a : Nat) (r : Run) (s : State) :
    view (passBody c a r s) = view s := by
  rw [passBody_eq]
  exact (hw ..).trans ((landsRows_keeps view hacc hw ..).trans (swapsTile_keeps view harr hw ..))

/-- The registers of the array after a pass are those after its swap. -/
theorem arrays_passBody (c a : Nat) (r : Run) (s : State) : (passBody c a r s).arrays = (swapsTile c a r s).arrays := by
  rw [passBody_eq]
  exact landsRows_keeps (·.arrays) (fun _ _ => rfl) (fun _ _ _ => rfl) ..

theorem accsMade_passBody (ha : a < 4) (hs : swf zero32 s.acc = true) (harr : swf (fun _ => {}) s.arrays = true)
    (hcol : 32 * (r.desc.getD 2 {}).colb + (r.desc.getD 2 {}).e 0 ≤ 256) (hrow : r.row0 + (r.desc.getD 0 {}).e 1 ≤ 1024) :
    AccsMade c a (inBlock r.row0 ((r.desc.getD 0 {}).e 1) (32 * (r.desc.getD 2 {}).colb) ((r.desc.getD 2 {}).e 0))
      (rowsMake c r (passTile c a r s) (swapsTile c a r s)) s (passBody c a r s) := by
  have hacc : (swapsTile c a r s).acc = s.acc := swapsTile_keeps (·.acc) (fun _ _ => rfl) (fun _ _ _ => rfl) ..
  have htarn : (swapsTile c a r s).tarn = s.tarn := swapsTile_keeps (·.tarn) (fun _ _ => rfl) (fun _ _ _ => rfl) ..
  rw [passBody_eq, active_swapsTile harr]
  exact (accsMade_landsRows ha (hacc ▸ hs) hcol hrow).congr hacc.symm htarn.symm rfl rfl

/-- Settles O25: the pass's swap and its block of sums, framed by a wait taken and an iteration that ends. -/
theorem mxaPassSums : Obligations.MxaPassSums := by
  unfold Obligations.MxaPassSums
  intro c a r s hc heng hab hline hhead hstart hrun hop hready hsegs x o row0 swaps tile adds hcol hrow
  have htake := onlyRuns_takeMet (unitKey c.val a.val) r r.it s
  have hend := onlyRuns_endIter (unitKey c.val a.val) r.q.seq (passBody c.val a.val r (takeMet (unitKey c.val a.val) r r.it s))
  have harr : swf (fun _ => {}) (takeMet (unitKey c.val a.val) r r.it s).arrays = true := htake.arrays ▸ arrays_of_canonical hc
  have htile : passTile c.val a.val r (takeMet (unitKey c.val a.val) r r.it s) = tile := by
    rw [passTile, arr_congr htake.arrays]
    rfl
  have hmade := (accsMade_passBody (c := c.val) a.isLt (htake.acc ▸ acc_of_canonical hc) harr hcol hrow).congr htake.acc.symm
    htake.tarn.symm hend.acc hend.tarn
  have harrays := fun c' a' => arr_congr (hend.arrays.trans (arrays_passBody c.val a.val r _)) c' a'
  have hxs : (swapsTile c.val a.val r (takeMet (unitKey c.val a.val) r r.it s)).tarn = s.tarn :=
    (swapsTile_keeps (·.tarn) (fun _ _ => rfl) (fun _ _ _ => rfl) ..).trans htake.tarn
  rw [exec_mxaStream, inTurn_eq_of_firstInLine hline, mxaStream_of_passReady heng hab hhead hstart hrun hop hready hsegs]
  refine ⟨_, rfl, hmade.tarn, ?_, ?_, fun hsw => ?_, fun m j hm hj => ?_, fun c' a' row col hr hk hout => ?_⟩
  · exact hend.mere.trans ((passBody_keeps (·.mere) (fun _ _ => rfl) (fun _ _ => rfl) (fun _ _ _ => rfl) ..).trans htake.mere)
  · rw [harrays, active_swapsTile harr, htile]
  · rw [harrays, shadow_swapsTile harr hsw]
  · rw [hmade.made (show row0 + m < 1024 by omega) (show 32 * o.colb + j < 256 by omega) ⟨m, hm, j, hj, rfl, rfl⟩, htile, rowsMake,
      passRow_congr hxs, show row0 + m - r.row0 = m from Nat.add_sub_cancel_left .., Nat.add_sub_cancel_left, passNew,
      passSum_fst]
    rfl
  · exact hmade.outside hr hk hout

end Sys2Proof.Machine
end

section
/-! MATRIX ARRAYS. The sums of 8-bit integer passes are exact, and adding one saturates (R109, R124, R262). -/

namespace Sys2Proof.Machine

/-! ## Words as integers -/

theorem sx_toNat (x : Word) : sx 32 x.toNat = x.toInt := by
  have := x.isLt
  rw [sx, BitVec.toInt_eq_toNat_cond, Nat.mod_eq_of_lt this]
  split <;> split <;> omega

theorem word_ofNat_ux (v : Int) : Word.ofNat (ux 32 v) = BitVec.ofInt 32 v := by
  apply BitVec.eq_of_toNat_eq
  have hlt : (v % ((2 ^ 32 : Nat) : Int)).toNat < 2 ^ 32 := by omega
  rw [BitVec.toNat_ofNat, BitVec.toNat_ofInt, ux, Nat.mod_eq_of_lt hlt]

/-! ## Sums -/

/-- The exact sum of the products of the codes of a row and a column, less the zero point's share (R109, R124). -/
def exactProducts (at_ : Nat) (x codes : List Nat) (csum : Word) (zpen : Bool) (zp : Int) : Int :=
  ((x.zip codes).map fun p => intOf at_ p.1 * intOf 0 p.2).sum - if zpen then zp * csum.toInt else 0

theorem foldl_add_eq_sum {α : Type} (f : α → Int) (l : List α) : l.foldl (fun a p => a + f p) 0 = (l.map f).sum := by
  rw [List.sum_eq_foldl, List.foldl_map]

/-- An integer output is the exact sum kept to 32 bits. -/
theorem columnOut_integer {at_ : Nat} (hat : at_ = 0 ∨ at_ = 1) (x codes scales : List Nat) (csum : Word) (zpen : Bool) (zp : Int) :
    (columnOut 0 0 at_ x codes scales csum zpen zp).1 = BitVec.ofInt 32 (exactProducts at_ x codes csum zpen zp) := by
  have hblock : isBlock 0 = false := rfl
  simp only [columnOut, hblock, hat, if_true, OfNat.zero_ne_ofNat, if_false, Bool.false_eq_true, foldl_add_eq_sum, sx_toNat,
    word_ofNat_ux, exactProducts]
  cases zpen <;> simp

/-- An I32 accumulator that is added to holds the sum, or the I32 limit on its side. -/
theorem toInt_accumulate_i32 (old new : Word) :
    ((accumulate false true old new).1).toInt = max (-2 ^ 31) (min (2 ^ 31 - 1) (old.toInt + new.toInt)) := by
  simp only [accumulate, sx_toNat, word_ofNat_ux, apply_ite Prod.fst, Bool.not_true, Bool.false_eq_true, if_false]
  split_ifs with hlo hhi
  · have : (0x80000000 : Word).toInt = -2 ^ 31 := by decide
    omega
  · have : (0x7FFFFFFF : Word).toInt = 2 ^ 31 - 1 := by decide
    omega
  · rw [BitVec.toInt_ofInt_eq_self (by decide) (by omega) (by omega)]
    omega

/-- Settles O26, for a sum kept to 32 bits and one added to an I32 accumulator. -/
theorem integerSums : Obligations.IntegerSums := by
  unfold Obligations.IntegerSums
  intro at_ x codes scales csum old zpen zp hat exact
  refine ⟨columnOut_integer hat .., fun hlo hhi => ?_⟩
  rw [toInt_accumulate_i32, BitVec.toInt_ofInt_eq_self (by decide) hlo hhi]

end Sys2Proof.Machine
end

section
/-! MATRIX ARRAYS. SHADOW_FILL and STAGED_READ load a weight tile (R116, R117, R121). -/

namespace Sys2Proof.Machine

variable {s t : State} {c a k seq i : Nat} {r : Run} {ecc : EccMap}

theorem exec_shadowFill (c : CoreId) (a : ArrId) (s : State) :
    exec (.shadowFill c a) s = .next (inTurn (unitKey c.val a.val) (shadowFill c.val a.val) s) := rfl

theorem exec_stagedRead (c : CoreId) (a : ArrId) (ecc : EccMap) (s : State) :
    exec (.stagedRead c a ecc) s = .next (inTurn (unitKey c.val a.val) (stagedRead c.val a.val ecc) s) := rfl

/-! ## Registers that an iteration's end counts in -/

theorem csr_takeMet (k : Nat) (r : Run) (i : Nat) (s : State) : (takeMet k r i s).csr = s.csr := by
  rw [takeMet]
  split
  · rfl
  · simp only [updRun, consume]
    split_ifs <;> rfl

theorem csr_retire (k seq : Nat) (s : State) : (retire k seq s).csr = s.csr :=
  retire_keeps (·.csr) (fun _ _ _ => rfl) (fun _ _ => rfl) (fun _ _ => rfl) ..

theorem csr_returns (r : Run) (s : State) : (r.returns s).csr = s.csr := by
  rw [Run.returns]
  split <;> rfl

theorem regsWithin_setsIf (b : Prop) [Decidable b] (k : Nat) (q : QCmd) (s : State) : regsWithin (· = rFlagHold) s (setsIf b k q s) := by
  rw [setsIf, doSet]
  split_ifs
  · exact regsWithin_foldl fun s c _ => regsWithin_addFlag c _ _ k q.seq s
  · exact .of_csr rfl
  · exact .of_csr rfl

theorem regsWithin_complete (k seq : Nat) (s : State) : regsWithin (· = rFlagHold) s (complete k seq s) := by
  rw [complete_eq]
  split
  · exact .of_csr rfl
  · next r _ =>
    have hset : regsWithin (· = rFlagHold) s (setsIf (r.nest.setLv = 0) k r.q (updRun k seq Run.over (r.returns s))) :=
      regsWithin.trans (t := updRun k seq Run.over (r.returns s)) (.of_csr (csr_returns r s)) (regsWithin_setsIf _ k r.q _)
    split
    · exact hset
    · exact hset.trans (.of_csr (csr_retire ..))

/-- The end of an iteration counts adds that are held and nothing else (R57). -/
theorem regsWithin_endIter (k seq : Nat) (s : State) : regsWithin (· = rFlagHold) s (endIter k seq s) := by
  rw [endIter_eq]
  split
  · exact .of_csr rfl
  · have hland := fun (r : Run) => (regsWithin_setsIf (r.nest.setsAt r.it = true) k r.q s).trans
      (u := updRun k seq Run.landed (setsIf (r.nest.setsAt r.it = true) k r.q s)) (.of_csr rfl)
    split
    · exact (hland _).trans (regsWithin_complete k seq _)
    · exact hland _

/-! ## Tiles read from memory -/

theorem readRow_congr (ht : t.tarn = s.tarn) (hm : t.mere = s.mere) (st : Store) (d : Desc) (n : Nest) (i j : Nat) (x : Nat × Nat × Nat) :
    readRow t st d n i j x = readRow s st d n i j x := by
  cases st with
  | tarn c => simp only [readRow, storeRead, tarnRead_congr ht]
  | mere => simp only [readRow, storeRead, mereRead_congr hm]

theorem readTile_congr (ht : t.tarn = s.tarn) (hm : t.mere = s.mere) (c : Nat) (d : Desc) (n : Nest) (i j : Nat) :
    readTile t c d n i j = readTile s c d n i j := by
  simp only [readTile, readRow_congr ht hm]

/-! ## SHADOW_FILL -/

/-- Weight operand of a loader. -/
def Run.weights (r : Run) : Desc := r.desc.getD (wOp r) {}

/-- The tile staged for iteration i of a loader. -/
def stagedFor (c a : Nat) (r : Run) (i : Nat) (s : State) : Option (Nat × Nat × Tile) :=
  (arr s c a).staged.find? fun t => t.1 == r.q.seq && t.2.1 == i

/-- The tile that iteration i of a loader loads: the one staged for it, else the one at its operand. -/
def loadTile (c a : Nat) (r : Run) (i : Nat) (s : State) : Tile :=
  ((stagedFor c a r i s).map fun t => t.2.2).getD (readTile s c r.weights r.nest i (wOp r))

/-- A tile that stands in the shadow still is overwritten, which is counted (R117). -/
def countsOverwrite (c a : Nat) (s : State) : State := if (arr s c a).shadow.isSome then bump (arrReg c a 0x1C) 1 s else s

/-- The tile enters the shadow and leaves the staging buffer. -/
def putsShadow (c a : Nat) (r : Run) (i : Nat) (tile : Tile) (s : State) : State :=
  setArr c a { arr (countsOverwrite c a s) c a with
    shadow := some tile, staged := (arr s c a).staged.filter fun t => !(t.1 == r.q.seq && t.2.1 == i) } (countsOverwrite c a s)

/-- With it the load is counted, and the overflows of its column sums. -/
def fillsShadow (c a : Nat) (r : Run) (i : Nat) (tile : Tile) (s : State) : State :=
  bump (arrReg c a 0x30) (sumOverflows tile) (bump (arrReg c a 0xC) 1 (putsShadow c a r i tile s))

/-- The run has made its load i, and its wait there. -/
def loadMade (k : Nat) (r : Run) (i : Nat) (s : State) : State :=
  updRun k r.q.seq (fun r => { r with aux := i + 1 }) (takeMet k r i s)

/-- An MXA.LOADW retires with its load (R128). -/
def endsLoad (k : Nat) (r : Run) (s : State) : State := if r.q.cmd.opcode = 0x10 then endIter k r.q.seq s else s

theorem shadowFill_of_free (heng : engines s = true) (hab : s.ssq.aborting = false) (hmet : metThrough s r i = true)
    (hrun : ((unitOf s (unitKey c a)).running.find? fun r => !(loadDone r)) = some r) (hnext : nextLoad r = some i)
    (hfree : shadowBusy s (unitKey c a) = false) (htile : r.weights.kind ≠ 2 ∨ (stagedFor c a r i s).isSome)
    (hsegs : segsReady s c (rowSegs r.weights r.nest i (wOp r))) :
    shadowFill c a s = endsLoad (unitKey c a) r (loadMade (unitKey c a) r i (fillsShadow c a r i (loadTile c a r i s) s)) := by
  have hmay : ¬(shadowBusy s (unitKey c a) || !metThrough s r i || r.weights.kind == 2 && (stagedFor c a r i s).isNone) = true := by
    simp only [hfree, hmet, Bool.not_true, Bool.or_self, Bool.false_or, Bool.and_eq_true, beq_iff_eq, Option.isNone_iff_eq_none, not_and]
    rintro hk hnone
    simp [hk, hnone] at htile
  rw [shadowFill, if_neg (by simp [heng, hab])]
  simp only [hrun, hnext]
  refine (if_neg hmay).trans ((if_pos hsegs).trans ?_)
  rw [loadTile]
  cases hst : stagedFor c a r i s <;>
  · rw [stagedFor] at hst
    simp only [hst]
    rfl

theorem countsOverwrite_keeps {β : Type} (view : State → β) (hw : ∀ (s : State) (a : Nat) (v : Word), view (wr a v s) = view s)
    (c a : Nat) (s : State) : view (countsOverwrite c a s) = view s := by
  rw [countsOverwrite]
  split
  · exact hw ..
  · rfl

theorem fillsShadow_keeps {β : Type} (view : State → β) (harr : ∀ (s : State) (l : Sparse ArraySt), view { s with arrays := l } = view s)
    (hw : ∀ (s : State) (a : Nat) (v : Word), view (wr a v s) = view s) (c a : Nat) (r : Run) (i : Nat) (tile : Tile) (s : State) :
    view (fillsShadow c a r i tile s) = view s :=
  (hw ..).trans ((hw ..).trans ((harr ..).trans (countsOverwrite_keeps view hw ..)))

/-- The shadow holds the tile, and the active tile is as it was. -/
theorem arr_fillsShadow {tile : Tile} (hs : swf (fun _ => {}) s.arrays = true) :
    (arr (fillsShadow c a r i tile s) c a).active = (arr s c a).active ∧ (arr (fillsShadow c a r i tile s) c a).shadow = some tile := by
  have hover : (countsOverwrite c a s).arrays = s.arrays := countsOverwrite_keeps (·.arrays) (fun _ _ _ => rfl) ..
  have harr : arr (fillsShadow c a r i tile s) c a = { arr (countsOverwrite c a s) c a with
      shadow := some tile, staged := (arr s c a).staged.filter fun t => !(t.1 == r.q.seq && t.2.1 == i) } :=
    arr_setArr_same (hover ▸ hs)
  rw [harr, arr_congr hover]
  exact ⟨rfl, rfl⟩

theorem regsWithin_putsShadow (tile : Tile) (s : State) : regsWithin (· = arrReg c a 0x1C) s (putsShadow c a r i tile s) := by
  have hover : regsWithin (· = arrReg c a 0x1C) s (countsOverwrite c a s) := by
    rw [countsOverwrite]
    split
    · exact regsWithin_bump rfl
    · exact .of_csr rfl
  exact hover.trans (.of_csr rfl)

theorem arrReg_ne {off off' : Nat} (h : off ≠ off') : arrReg c a off ≠ arrReg c a off' := by
  simp only [arrReg, coreReg]
  omega

/-- The load is counted once. -/
theorem counts_fillsShadow (tile : Tile) (hs : swf resetWord s.csr = true) :
    counts s (fillsShadow c a r i tile s) (arrReg c a 0xC) 1 ∧ swf resetWord (fillsShadow c a r i tile s).csr = true := by
  obtain ⟨hs', hfirst⟩ := regsWithin_putsShadow (c := c) (a := a) (r := r) (i := i) tile s hs
  obtain ⟨hs'', hlast⟩ : _ ∧ registersStay _ (fillsShadow c a r i tile s) (· = arrReg c a 0x30) :=
    regsWithin_bump rfl (swf_csr_bump (a := arrReg c a 0xC) (n := 1) hs')
  have hother : ∀ off, 0xC ≠ off → ¬ arrReg c a 0xC = arrReg c a off := fun _ => arrReg_ne
  have hcount : counts s _ (arrReg c a 0xC) 1 :=
    counts_before (p := (· = arrReg c a 0x1C)) (hother 0x1C (by decide)) hfirst (rd_bump_same hs')
  exact ⟨counts_after (p := (· = arrReg c a 0x30)) (hother 0x30 (by decide)) hlast hcount, hs''⟩

theorem onlyRuns_endsLoad (k : Nat) (r : Run) (i : Nat) (s : State) : OnlyRuns s (endsLoad k r (loadMade k r i s)) :=
  ((onlyRuns_takeMet ..).trans (onlyRuns_updRun ..)).trans (.ite (onlyRuns_endIter ..) (.refl _))

theorem regsWithin_endsLoad (k : Nat) (r : Run) (i : Nat) (s : State) :
    regsWithin (· = rFlagHold) s (endsLoad k r (loadMade k r i s)) := by
  have hmade : regsWithin (· = rFlagHold) s (loadMade k r i s) := .of_csr (csr_takeMet ..)
  rw [endsLoad]
  split
  · exact hmade.trans (regsWithin_endIter k r.q.seq _)
  · exact hmade

/-! ## STAGED_READ -/

/-- Units of Mere that the tile of iteration i lies in. -/
def tileUnits (r : Run) (i : Nat) : List Nat :=
  ((List.range (r.weights.e 1)).flatMap fun col =>
    unitsOf (rowAddr r.weights r.nest i (wOp r) col 0 0) (rowBytes r.weights.dtype (r.weights.e 0))).eraseDups

/-- The tile's units are read: their stacks wake, and what their code finds is noted (R121, R221, R224). -/
def tileRead (ecc : EccMap) (r : Run) (i : Nat) (s : State) : State := noteUnits ecc (tileUnits r i) (wakeUnits (tileUnits r i) s)

/-- A tile as it is staged: every weight zero when a unit read for it is beyond correction (R121). -/
def stagedTile (ecc : EccMap) (us : List Nat) (tile : Tile) : Tile := if anyUe ecc us then zeroed tile else tile

theorem codes_stagedTile (us : List Nat) (tile : Tile) : (stagedTile ecc us tile).codes =
    tile.codes.map fun l => if anyUe ecc us then l.map (fun _ => 0) else l := by
  rw [stagedTile]
  split <;> simp [zeroed]

/-- A tile joins the staging buffer. -/
def joinsStaging (c a : Nat) (r : Run) (i : Nat) (tile : Tile) (s : State) : State :=
  setArr c a { arr s c a with staged := (arr s c a).staged ++ [(r.q.seq, i, tile)] } s

/-- The run notes a read beyond correction. -/
def notesFail (k : Nat) (r : Run) (bad : Bool) (s : State) : State :=
  if bad then updRun k r.q.seq (fun r => { r with fails := r.fails + 1 }) s else s

theorem offRegs_tileRead (ecc : EccMap) (r : Run) (i : Nat) (s : State) : offRegs (tileRead ecc r i s) = offRegs s :=
  (foldl_keeps offRegs (fun s u => offRegs_eccNote _ (u * 256) s) _ _).trans (offRegs_wakeUnits ..)

theorem arrays_stagedRead (ecc : EccMap) (k : Nat) (r : Run) (i : Nat) (s : State) :
    (takeMet k r i (tileRead ecc r i s)).arrays = s.arrays :=
  (onlyRuns_takeMet k r i _).arrays.trans (congrArg State.arrays (offRegs_tileRead ecc r i s) :)

theorem stagedRead_of_room (heng : engines s = true) (hab : s.ssq.aborting = false) (hmet : metThrough s r i = true)
    (hfits : stagingFits (arr s c a) (r.weights.e 1 * rowBytes r.weights.dtype (r.weights.e 0)) = true)
    (hrun : ((unitOf s (unitKey c a)).running.find? fun r => r.weights.kind == 2 && (nextStage (arr s c a) r).isSome) = some r)
    (hnext : nextStage (arr s c a) r = some i) :
    stagedRead c a ecc s = notesFail (unitKey c a) r (anyUe ecc (tileUnits r i))
      (joinsStaging c a r i (stagedTile ecc (tileUnits r i) (readTile s c r.weights r.nest i (wOp r)))
        (takeMet (unitKey c a) r i (tileRead ecc r i s))) := by
  have hoff : offRegs (wakeUnits (tileUnits r i) s) = offRegs s := offRegs_wakeUnits ..
  have hmay : ¬(!metThrough s r i || !stagingFits (arr s c a) (r.weights.e 1 * rowBytes r.weights.dtype (r.weights.e 0))) = true := by
    simp [hmet, hfits]
  rw [joinsStaging, arr_congr (arrays_stagedRead ..), ← readTile_congr (tarn_of_offRegs hoff) (congrArg State.mere hoff :),
    stagedRead, if_neg (by simp [heng, hab])]
  simp only [Run.weights] at hrun
  simp only [hrun, hnext]
  exact if_neg hmay

/-- The staged tile is last in the buffer; the other registers of the array are as they were. -/
theorem arr_joinsStaging {tile : Tile} (hs : swf (fun _ => {}) s.arrays = true) : arr (joinsStaging c a r i tile s) c a =
    { arr s c a with staged := (arr s c a).staged ++ [(r.q.seq, i, tile)] } := arr_setArr_same hs

theorem notesFail_keeps {β : Type} (view : State → β) (h : ∀ (s : State) (k : Nat) (v : UnitSt), view (setUnit k v s) = view s)
    (k : Nat) (r : Run) (bad : Bool) (s : State) : view (notesFail k r bad s) = view s := by
  rw [notesFail]
  split
  · exact h ..
  · rfl

/-- Settles O27, command by command. -/
theorem mxaLoads : Obligations.MxaLoads := by
  unfold Obligations.MxaLoads
  intro c a r i s hc heng hab k ar d hmet hline
  have harr := arrays_of_canonical hc
  refine ⟨fun hrun hnext hfree htile hsegs => ?_, fun ecc hfits hrun hnext => ?_⟩
  · have hruns := onlyRuns_endsLoad k r i (fillsShadow c.val a.val r i (loadTile c.val a.val r i s) s)
    obtain ⟨hactive, hshadow⟩ := arr_fillsShadow (c := c.val) (a := a.val) (r := r) (i := i) (tile := loadTile c.val a.val r i s) harr
    obtain ⟨hcount, hcsr⟩ := counts_fillsShadow (c := c.val) (a := a.val) (r := r) (i := i) (loadTile c.val a.val r i s)
      (csr_of_canonical hc)
    have hreg : arrReg c.val a.val 0xC ≠ rFlagHold := by
      simp only [arrReg, coreReg, rFlagHold]
      omega
    rw [exec_shadowFill, inTurn_eq_of_firstInLine hline, shadowFill_of_free heng hab hmet hrun hnext hfree htile hsegs]
    refine ⟨_, rfl, ?_, ?_, counts_after hreg (regsWithin_endsLoad k r i _ hcsr).2 hcount, hruns.tarn.trans ?_, hruns.mere.trans ?_,
      hruns.acc.trans ?_⟩
    · rw [arr_congr hruns.arrays, hactive]
    · rw [arr_congr hruns.arrays, hshadow]
      rfl
    · exact fillsShadow_keeps (·.tarn) (fun _ _ => rfl) (fun _ _ _ => rfl) ..
    · exact fillsShadow_keeps (·.mere) (fun _ _ => rfl) (fun _ _ _ => rfl) ..
    · exact fillsShadow_keeps (·.acc) (fun _ _ => rfl) (fun _ _ _ => rfl) ..
  · have hoff := offRegs_tileRead ecc r i s
    have htake := onlyRuns_takeMet k r i (tileRead ecc r i s)
    have harrays := arrays_stagedRead ecc k r i s
    have hregs := arr_joinsStaging (c := c.val) (a := a.val) (r := r) (i := i)
      (tile := stagedTile ecc (tileUnits r i) (readTile s c.val r.weights r.nest i (wOp r))) (harrays ▸ harr)
    have hfail : ∀ x, arr (notesFail k r (anyUe ecc (tileUnits r i)) x) c.val a.val = arr x c.val a.val := fun x =>
      notesFail_keeps (fun s => arr s c.val a.val) (fun _ _ _ => rfl) ..
    rw [arr_congr harrays] at hregs
    rw [exec_stagedRead, inTurn_eq_of_firstInLine hline, stagedRead_of_room heng hab hmet hfits hrun hnext]
    refine ⟨_, _, rfl, ?_, ?_, ?_, codes_stagedTile .., ?_, ?_, ?_⟩
    · rw [hfail, hregs]
      rfl
    · rw [hfail, hregs]
    · rw [hfail, hregs]
    · exact (notesFail_keeps (·.tarn) (fun _ _ _ => rfl) ..).trans (htake.tarn.trans (tarn_of_offRegs hoff))
    · exact (notesFail_keeps (·.mere) (fun _ _ _ => rfl) ..).trans (htake.mere.trans (congrArg State.mere hoff :))
    · exact (notesFail_keeps (·.acc) (fun _ _ _ => rfl) ..).trans (htake.acc.trans (congrArg State.acc hoff :))

end Sys2Proof.Machine
end

section
/-! SUPPORT. Scalar pipes (R174, R176): when the instruction that a pipe has come to runs, and what a pipe that goes on, or whose run
ends, leaves alone. -/

namespace Sys2Proof.Machine

variable {s t u : State} {c p opc pc : Nat}

/-! ## The instruction that runs -/

/-- An instruction of the set that a pipe has come to runs, unless it reaches out of range. -/
theorem insReady_of_pipeAt (h : pipeAt s c p opc) (hknown : insKnown opc = true) (hout : insOut s c p (insAt s c p) = false) :
    insReady s c p opc = some (insAt s c p) := by
  obtain ⟨heng, hab, hrun, hopc, hrsv, hbudget, hsegs⟩ := h
  have hbad : insBad s c p (insAt s c p) = false := by
    rw [insBad, decide_eq_false (Nat.not_le.mpr hbudget), hopc, hknown, hrsv]
    rfl
  have hnext : insNext s c p opc = true := by simp [insNext, pipeRuns, heng, hab, hrun, hbad, hout, hopc]
  rw [insReady, hnext, Bool.true_and]
  exact if_pos hsegs

/-- An instruction that is no load, store or branch reaches nowhere. -/
theorem insOut_of_plain {i : Ins} (hopc : i.opc = opc) (haccess : ¬(0x20 ≤ opc ∧ opc ≤ 0x27)) (hbranch : opc < 0x3C) :
    insOut s c p i = false := by
  subst hopc
  simp only [insOut]
  rw [if_neg haccess, if_neg (by omega)]

/-! ## Runs of pipes and their registers -/

theorem pipeOf_setPipe_same {v : PipeRun} (h : swf (fun _ => {}) s.pipes = true) : pipeOf (setPipe c p v s) c p = v := sget_sset_same h

theorem pipeOf_setPipe_other {v : PipeRun} {q : Nat} (h : swf (fun _ => {}) s.pipes = true) (hq : q ≠ p) :
    pipeOf (setPipe c p v s) c q = pipeOf s c q := sget_sset_other h (by omega)

theorem pipeOf_congr (h : t.pipes = s.pipes) (c p : Nat) : pipeOf t c p = pipeOf s c p := by rw [pipeOf, h, pipeOf]

/-- Different registers of different pipes have different places. -/
theorem xReg_setX_apart {p' i j c' : Nat} {v : DWord} (h : swf (fun _ => 0) s.spu = true) (hp : p < 8) (hp' : p' < 8) (hi : i < 32)
    (hj : j < 32) (hne : c' ≠ c ∨ p' ≠ p ∨ j ≠ i) : xReg (setX c p i v s) c' p' j = xReg s c' p' j := by
  rw [xReg, xReg, setX]
  split
  · rfl
  · split
    · rfl
    · exact sget_sset_other h (by omega)

theorem xReg_zero (s : State) (c p : Nat) : xReg s c p 0 = 0 := if_pos rfl

theorem rd_insAt_lt (s : State) (c p : Nat) : (insAt s c p).rd < 32 := Nat.mod_lt _ (by decide)

theorem coreReg_ne_flagHold (c off : Nat) : coreReg c off ≠ rFlagHold := by
  simp only [coreReg, rFlagHold]
  omega

theorem coreReg_ne {off off' : Nat} (h : off ≠ off') : coreReg c off ≠ coreReg c off' := by
  simp only [coreReg]
  omega

/-! ## The end of a run -/

/-- The state but for what running commands and pipes that go on change. -/
def offPipes (s : State) : State := { offRuns s with pipes := [] }

theorem onlyRuns_endRun (c p : Nat) (s : State) : OnlyRuns (setPipe c p {} s) (endRun c p s) :=
  (onlyRuns_updRun ..).trans (onlyRuns_endIter ..)

theorem offPipes_of_onlyRuns (h : OnlyRuns s t) : offPipes t = offPipes s := congrArg (fun x : State => { x with pipes := [] }) h.off

theorem offPipes_endRun (c p : Nat) (s : State) : offPipes (endRun c p s) = offPipes s :=
  (offPipes_of_onlyRuns (onlyRuns_endRun c p s)).trans rfl

theorem regsWithin_endRun (c p : Nat) (s : State) : regsWithin (· = rFlagHold) s (endRun c p s) :=
  regsWithin.trans (.of_csr (t := updRun (spuKey c) (pipeOf s c p).seq (fun r => { r with open_ := false }) (setPipe c p {} s)) rfl)
    (regsWithin_endIter (spuKey c) (pipeOf s c p).seq _)

theorem pipeOf_endRun_same (h : swf (fun _ => {}) s.pipes = true) : pipeOf (endRun c p s) c p = {} := by
  rw [pipeOf_congr (onlyRuns_endRun c p s).pipes, pipeOf_setPipe_same h]

theorem pipeOf_endRun_other {q : Nat} (h : swf (fun _ => {}) s.pipes = true) (hq : q ≠ p) : pipeOf (endRun c p s) c q = pipeOf s c q := by
  rw [pipeOf_congr (onlyRuns_endRun c p s).pipes, pipeOf_setPipe_other h hq]

/-- What a core counted before a run's end stays counted. -/
theorem counts_endRun {off n : Nat} (h : counts s t (coreReg c off) n) (ht : swf resetWord t.csr = true) :
    counts s (endRun c p t) (coreReg c off) n :=
  counts_after (p := (· = rFlagHold)) (coreReg_ne_flagHold c off) (regsWithin_endRun c p t ht).2 h

section
variable (h : offPipes t = offPipes s)
include h

theorem spu_of_offPipes : t.spu = s.spu := (congrArg State.spu h :)
theorem tarn_of_offPipes : t.tarn = s.tarn := (congrArg State.tarn h :)
theorem mere_of_offPipes : t.mere = s.mere := (congrArg State.mere h :)
theorem acc_of_offPipes : t.acc = s.acc := (congrArg State.acc h :)
theorem treg_of_offPipes : t.treg = s.treg := (congrArg State.treg h :)
theorem mask_of_offPipes : t.mask = s.mask := (congrArg State.mask h :)
theorem pend_of_offPipes : t.pend = s.pend := (congrArg State.pend h :)

end

/-! ## Going on -/

/-- The instruction is counted, and the pipe comes to instruction pc. -/
def comesTo (c p pc : Nat) (s : State) : State :=
  setPipe c p { pipeOf s c p with pc := pc, count := (pipeOf s c p).count + 1 } (bump (coreReg c 0xB164) 1 s)

theorem goTo_eq (c p pc : Nat) (s : State) :
    goTo c p pc s = if (pipeOf s c p).nins ≤ pc then endRun c p (comesTo c p pc s) else comesTo c p pc s := rfl

theorem offPipes_goTo (c p pc : Nat) (s : State) : offPipes (goTo c p pc s) = offPipes s := by
  rw [goTo_eq]
  split
  · exact (offPipes_endRun ..).trans rfl
  · rfl

theorem spu_goTo (c p pc : Nat) (s : State) : (goTo c p pc s).spu = s.spu := spu_of_offPipes (offPipes_goTo c p pc s)

theorem tarn_goTo (c p pc : Nat) (s : State) : (goTo c p pc s).tarn = s.tarn := tarn_of_offPipes (offPipes_goTo c p pc s)

/-- The pipe goes on, and its core counts the instruction. -/
theorem pipeGoes_goTo (hcsr : swf resetWord s.csr = true) (hpipes : swf (fun _ => {}) s.pipes = true) :
    pipeGoes c p pc s (goTo c p pc s) := by
  have hoff := offPipes_goTo c p pc s
  have hcame : swf (fun _ => {}) (comesTo c p pc s).pipes = true := swf_sset hpipes
  have hother : ∀ q : PipeId, q.val ≠ p → pipeOf (comesTo c p pc s) c q.val = pipeOf s c q.val := fun q hq =>
    pipeOf_setPipe_other (s := bump (coreReg c 0xB164) 1 s) hpipes hq
  have hcsr' : swf resetWord (bump (coreReg c 0xB164) 1 s).csr = true := swf_csr_bump hcsr
  have hcount : counts s (bump (coreReg c 0xB164) 1 s) (coreReg c 0xB164) 1 := rd_bump_same hcsr
  refine ⟨fun hpc => ?_, fun hpc => ?_, fun q hq => ?_, ?_, mere_of_offPipes hoff, acc_of_offPipes hoff, treg_of_offPipes hoff,
    mask_of_offPipes hoff⟩
  · rw [goTo_eq, if_neg (by omega)]
    exact ⟨pipeOf_setPipe_same (s := bump (coreReg c 0xB164) 1 s) hpipes, rfl⟩
  · rw [goTo_eq, if_pos hpc, pipeOf_endRun_same hcame]
  · rw [goTo_eq]
    split
    · rw [pipeOf_endRun_other hcame hq, hother q hq]
    · exact hother q hq
  · rw [goTo_eq]
    split
    · exact counts_endRun (counts_congr rfl rfl hcount) hcsr'
    · exact counts_congr rfl rfl hcount

/-- The state but for what an instruction may write. -/
def offWritten (s : State) : State := { s with spu := [], tarn := [] }

theorem offWritten_setX (c p i : Nat) (v : DWord) (s : State) : offWritten (setX c p i v s) = offWritten s :=
  setX_keeps offWritten (fun _ _ _ _ _ => rfl) ..

/-- An instruction's write is none of what going on is about. -/
theorem pipeGoes_of_written (h : offWritten u = offWritten s) (hgoes : pipeGoes c p pc u t) : pipeGoes c p pc s t := by
  have hpipe : ∀ q, pipeOf u c q = pipeOf s c q := pipeOf_congr (congrArg State.pipes h :) c
  have hrd : rd u (coreReg c 0xB164) = rd s (coreReg c 0xB164) := (congrArg (fun x : State => rd x (coreReg c 0xB164)) h :)
  have hunits : u.units = s.units := (congrArg State.units h :)
  have hmere : u.mere = s.mere := (congrArg State.mere h :)
  have hacc : u.acc = s.acc := (congrArg State.acc h :)
  have htreg : u.treg = s.treg := (congrArg State.treg h :)
  have hmask : u.mask = s.mask := (congrArg State.mask h :)
  simpa only [pipeGoes, hpipe, hrd, hunits, hmere, hacc, htreg, hmask] using hgoes

/-- After an instruction's write the pipe goes on. -/
theorem pipeGoes_goTo_written (hc : canonical s = true) (h : offWritten u = offWritten s) : pipeGoes c p pc s (goTo c p pc u) := by
  have hcsr : u.csr = s.csr := (congrArg State.csr h :)
  have hpipes : u.pipes = s.pipes := (congrArg State.pipes h :)
  exact pipeGoes_of_written h (pipeGoes_goTo (hcsr ▸ csr_of_canonical hc) (hpipes ▸ pipes_of_canonical hc))

end Sys2Proof.Machine
end

section
/-! VECTOR AND REDUCTION. What the instructions of a scalar pipe do: arithmetic, loads and stores, branches (R174, R176, R177, R178). -/

namespace Sys2Proof.Machine

variable {s : State} {c p opc n : Nat} {i : Instr}

/-! ## Arithmetic -/

theorem toInt_eq_signed (v : DWord) : v.toInt = signed v := by
  have := v.isLt
  rw [signed, sx, BitVec.toInt_eq_toNat_cond, Nat.mod_eq_of_lt this]
  split <;> split <;> omega

/-- Every row of the table of arithmetic instructions. -/
theorem exec_of_pipeResult {c : CoreId} {p : PipeId} {f : DWord → DWord → DWord → DWord → DWord}
    (h : pipeResult i = some (c, p, opc, f)) (s : State) :
    exec i s = .next (alu c.val p.val opc f s) ∧ insKnown opc = true ∧ ¬(0x20 ≤ opc ∧ opc ≤ 0x27) ∧ opc < 0x3C := by
  simp only [pipeResult, toInt_eq_signed, ← ofNat_ux] at h
  split at h <;> simp only [Option.some.injEq, Prod.mk.injEq, reduceCtorEq] at h <;> obtain ⟨rfl, rfl, rfl, rfl⟩ := h <;>
    exact ⟨rfl, by decide, by decide, by decide⟩

theorem alu_of_ready {f : DWord → DWord → DWord → DWord → DWord} {w : Ins} (h : insReady s c p opc = some w) :
    alu c p opc f s = goTo c p ((pipeOf s c p).pc + 1)
      (setX c p w.rd (f (xReg s c p w.rd) (xReg s c p w.ra) (xReg s c p w.rb) w.imm) s) := by
  simp only [alu, h]

/-- Settles O18: the result's write, and the pipe's going on, which touches no register. -/
theorem pipeArithmetic : Obligations.PipeArithmetic := by
  unfold Obligations.PipeArithmetic
  intro i c p opc f s hc hi hat w
  obtain ⟨hexec, hknown, haccess, hbranch⟩ := exec_of_pipeResult hi s
  obtain ⟨-, -, -, hopc, -⟩ := id hat
  have hready := insReady_of_pipeAt hat hknown (insOut_of_plain hopc haccess hbranch)
  have hspu := spu_of_canonical hc
  rw [hexec, alu_of_ready hready]
  refine ⟨_, rfl, fun hrd => ?_, fun c' p' j hne => ?_, xReg_zero .., ?_, pipeGoes_goTo_written hc (offWritten_setX ..)⟩
  · rw [xReg_congr (spu_goTo ..), xReg_setX_same hspu hrd]
  · rw [xReg_congr (spu_goTo ..), xReg_setX_apart hspu p.isLt p'.isLt (rd_insAt_lt ..) j.isLt
      (by simpa only [ne_eq, Fin.ext_iff] using hne)]
  · rw [tarn_goTo, setX_keeps (·.tarn) (fun _ _ _ _ _ => rfl)]

/-! ## Loads and stores -/

/-- Every row of the table of loads and stores. -/
theorem exec_of_pipeAccess {c : CoreId} {p : PipeId} {st : Bool} (h : pipeAccess i = some (c, p, opc, n, st)) (s : State) :
    exec i s = .next (if st then store c.val p.val opc n s else load c.val p.val opc n s) ∧ insKnown opc = true ∧ 0x20 ≤ opc ∧
      opc ≤ 0x27 ∧ n = 2 ^ (opc % 4) := by
  unfold pipeAccess at h
  split at h <;> simp only [Option.some.injEq, Prod.mk.injEq, reduceCtorEq] at h <;> obtain ⟨rfl, rfl, rfl, rfl, rfl⟩ := h <;>
    exact ⟨rfl, by decide, by decide, by decide, by decide⟩

theorem load_of_ready {w : Ins} (h : insReady s c p opc = some w) : load c p opc n s =
    goTo c p ((pipeOf s c p).pc + 1) (setX c p w.rd (BitVec.ofNat 64 (tarnLe s c (insAddr s c p w) n)) s) := by
  simp only [load, h]

theorem store_of_ready {w : Ins} (h : insReady s c p opc = some w) : store c p opc n s =
    goTo c p ((pipeOf s c p).pc + 1) (tarnWrite c (insAddr s c p w) (leBytes n (xReg s c p w.rb).toNat) s) := by
  simp only [store, h]

/-- A load or store inside the run's window is not out of range. -/
theorem insOut_of_window {w : Ins} (hopc : w.opc = opc) (hlo : 0x20 ≤ opc) (hhi : opc ≤ 0x27) (hn : n = 2 ^ (opc % 4))
    (hwinLo : (pipeOf s c p).winLo ≤ insAddr s c p w) (hwinHi : insAddr s c p w + n - 1 ≤ (pipeOf s c p).winHi) :
    insOut s c p w = false := by
  subst hopc
  simp only [insOut]
  rw [if_pos ⟨hlo, hhi⟩, insBytes, ← hn]
  simp only [Bool.or_eq_false_iff, decide_eq_false_iff_not, Nat.not_lt]
  exact ⟨hwinLo, hwinHi⟩

/-- Settles O19: a load writes a register as an arithmetic instruction does, and a store writes its bytes of Tarn. -/
theorem pipeAccesses : Obligations.PipeAccesses := by
  unfold Obligations.PipeAccesses
  intro i c p opc n st s hc hi hat w a hwinLo hwinHi
  obtain ⟨hexec, hknown, hlo, hhi, hn⟩ := exec_of_pipeAccess hi s
  obtain ⟨-, -, -, hopc, -⟩ := id hat
  have hready := insReady_of_pipeAt hat hknown (insOut_of_window hopc hlo hhi hn hwinLo hwinHi)
  have hspu := spu_of_canonical hc
  cases st with
  | false =>
    rw [hexec, if_neg Bool.false_ne_true, load_of_ready hready]
    refine ⟨_, rfl, fun _ => ⟨?_, fun hrd => ?_⟩, nofun, fun c' p' j hne => ?_, pipeGoes_goTo_written hc (offWritten_setX ..)⟩
    · rw [tarn_goTo, setX_keeps (·.tarn) (fun _ _ _ _ _ => rfl)]
    · rw [xReg_congr (spu_goTo ..), xReg_setX_same hspu hrd]
      rfl
    · rw [xReg_congr (spu_goTo ..), xReg_setX_apart hspu p.isLt p'.isLt (rd_insAt_lt ..) j.isLt
      (by simpa only [ne_eq, Fin.ext_iff] using hne)]
  | true =>
    have htarn := tarn_of_canonical hc
    have hlen := length_leBytes n (xReg s c.val p.val w.rb).toNat
    rw [hexec, if_pos rfl, store_of_ready hready]
    refine ⟨_, rfl, nofun, fun _ => ⟨spu_goTo .., ?_, fun b hb => ?_⟩, fun c' p' j _ => ?_,
      pipeGoes_goTo_written hc rfl⟩
    · have hread := tarnRead_tarnWrite (c := c.val) (a := a) (l := leBytes n (xReg s c.val p.val w.rb).toNat) htarn
      rw [hlen] at hread
      exact (tarnRead_congr (tarn_goTo ..) ..).trans hread
    · rw [tarn_goTo]
      exact tarnWrite_outside htarn (by rwa [hlen])
    · exact xReg_congr (spu_goTo ..) ..

/-! ## Branches -/

/-- Every row of the table of branches. -/
theorem exec_of_pipeBranch {c : CoreId} {p : PipeId} {f : DWord → DWord → Bool} (h : pipeBranch i = some (c, p, opc, f)) (s : State) :
    exec i s = .next (branch c.val p.val opc s) ∧ insKnown opc = true ∧ 0x3C ≤ opc ∧
      ∀ w : Ins, w.opc = opc → insTaken s c.val p.val w = f (xReg s c.val p.val w.ra) (xReg s c.val p.val w.rb) := by
  unfold pipeBranch at h
  split at h <;> simp only [Option.some.injEq, Prod.mk.injEq, reduceCtorEq] at h <;> obtain ⟨rfl, rfl, rfl, rfl⟩ := h <;>
    exact ⟨rfl, by decide, by decide, fun w hw => by simp [insTaken, hw, toInt_eq_signed]⟩

theorem branch_of_ready {w : Ins} (h : insReady s c p opc = some w) : branch c p opc s =
    goTo c p (if insTaken s c p w then (insTarget s c p w).toNat else (pipeOf s c p).pc + 1) s := by
  simp only [branch, h]

/-- A branch is out of range only when it is taken, and its target lies outside the program. -/
theorem insOut_of_target {w : Ins} (hopc : w.opc = opc) (hbranch : 0x3C ≤ opc)
    (h : insTaken s c p w = true → 0 ≤ insTarget s c p w ∧ insTarget s c p w < (pipeOf s c p).nins) : insOut s c p w = false := by
  simp only [insOut]
  rw [if_neg (by omega), if_pos (by omega)]
  cases htaken : insTaken s c p w with
  | false => rfl
  | true =>
    obtain ⟨hlo, hhi⟩ := h htaken
    simp [hlo, hhi]

/-- Settles O20: a branch's condition and target, and the pipe's going on. -/
theorem pipeBranches : Obligations.PipeBranches := by
  unfold Obligations.PipeBranches
  intro i c p opc f s hc hi hat w dest taken hdest
  obtain ⟨hexec, hknown, hbranch, htaken⟩ := exec_of_pipeBranch hi s
  obtain ⟨-, -, -, hopc, -⟩ := id hat
  have htarget : insTarget s c.val p.val w = dest := by rw [insTarget, ← toInt_eq_signed]
  have hready := insReady_of_pipeAt hat hknown (insOut_of_target hopc hbranch fun ht => by
    rw [htarget]
    exact hdest ((htaken w hopc).symm.trans ht))
  rw [hexec, branch_of_ready hready, htaken w hopc, htarget]
  exact ⟨_, rfl, spu_goTo .., tarn_goTo .., pipeGoes_goTo_written hc rfl⟩

end Sys2Proof.Machine
end

section
/-! VECTOR AND REDUCTION. How a pipe's run ends: HALT, and the cut-off of a run that may not go on (R176). -/

namespace Sys2Proof.Machine

variable {s t : State} {c p : Nat}

/-! ## HALT -/

theorem exec_halt (c : CoreId) (p : PipeId) (s : State) : exec (.halt c p) s = .next (spuHalt c.val p.val s) := rfl

theorem exec_spuCutoff (c : CoreId) (p : PipeId) (s : State) : exec (.spuCutoff c p) s = .next (spuCutoff c.val p.val s) := rfl

theorem spuHalt_of_ready {w : Ins} (h : insReady s c p 0 = some w) : spuHalt c p s = endRun c p (bump (coreReg c 0xB164) 1 s) := by
  simp only [spuHalt, h]

/-! ## The cut-off -/

/-- What the offending instruction does when it is executed: it is counted, and a load puts 0 into its register (R176). -/
def executed (c p : Nat) (bad : Bool) (i : Ins) (s : State) : State :=
  let s := if bad then s else bump (coreReg c 0xB164) 1 s
  if !bad && decide (0x20 ≤ i.opc) && decide (i.opc ≤ 0x23) then setX c p i.rd 0 s else s

/-- Tag of the command whose run is on the pipe. -/
def pipeTag (s : State) (c p : Nat) : Nat := ((runOf s (spuKey c) (pipeOf s c p).seq).map fun r => r.q.tag).getD 0

/-- The cut-off is counted, the SPU holds its fault, and the command is to run no more. -/
def cutsOff (c seq tag : Nat) (s : State) : State :=
  updRun (spuKey c) seq (fun r => { r with err := true }) (raise (srcOf 0 c 6) 0x14 tag (bump (coreReg c 0xB168) 1 s))

theorem pend_cutsOff (c seq tag : Nat) (s : State) :
    (cutsOff c seq tag s).pend = (raise (srcOf 0 c 6) 0x14 tag (bump (coreReg c 0xB168) 1 s)).pend := rfl

/-- The run is stopped at the instruction that the pipe has come to. -/
def stopsRun (c p : Nat) (s : State) : State :=
  cutsOff c (pipeOf s c p).seq (pipeTag s c p) (executed c p (insBad s c p (insAt s c p)) (insAt s c p) s)

theorem cut_eq (c p : Nat) (s : State) :
    spuCutoff.cut c p (insBad s c p (insAt s c p)) (insAt s c p) s = endRun c p (stopsRun c p s) := rfl

/-- A run that may not go on is cut off. -/
theorem spuCutoff_of_stop (heng : engines s = true) (hab : s.ssq.aborting = false) (hrun : (pipeOf s c p).nins ≠ 0)
    (hsegs : segsReady s c (fetchSegs s c p)) (hstop : insBad s c p (insAt s c p) = true ∨ insOut s c p (insAt s c p) = true) :
    spuCutoff c p s = endRun c p (stopsRun c p s) := by
  have hmay : (pipeRuns s c p && (insBad s c p (insAt s c p) || insOut s c p (insAt s c p))) = true := by
    simp [pipeRuns, heng, hab, hrun, hstop]
  rw [← cut_eq, spuCutoff]
  simp only [hmay, if_true]
  exact if_pos hsegs

theorem executed_keeps {β : Type} (view : State → β) (hw : ∀ (s : State) (a : Nat) (v : Word), view (wr a v s) = view s)
    (hx : ∀ (s : State) (c p i : Nat) (v : DWord), view (spuSet c p i v s) = view s) (c p : Nat) (bad : Bool) (i : Ins) (s : State) :
    view (executed c p bad i s) = view s := by
  have hcount : view (if bad then s else bump (coreReg c 0xB164) 1 s) = view s := by
    split
    · rfl
    · exact hw ..
  rw [executed]
  split
  · exact (setX_keeps view hx ..).trans hcount
  · exact hcount

theorem regsWithin_executed (c p : Nat) (bad : Bool) (i : Ins) (s : State) :
    regsWithin (· = coreReg c 0xB164) s (executed c p bad i s) := by
  have hcount : regsWithin (· = coreReg c 0xB164) s (if bad then s else bump (coreReg c 0xB164) 1 s) := by
    split
    · exact .of_csr rfl
    · exact regsWithin_bump rfl
  rw [executed]
  split
  · exact hcount.trans (.of_csr (setX_keeps (·.csr) (fun _ _ _ _ _ => rfl) ..))
  · exact hcount

theorem stopsRun_keeps {β : Type} (view : State → β) (hw : ∀ (s : State) (a : Nat) (v : Word), view (wr a v s) = view s)
    (hp : ∀ (s : State) (l : List Pend), view { s with pend := l } = view s)
    (hu : ∀ (s : State) (k : Nat) (v : UnitSt), view (setUnit k v s) = view s)
    (hx : ∀ (s : State) (c p i : Nat) (v : DWord), view (spuSet c p i v s) = view s) (c p : Nat) (s : State) :
    view (stopsRun c p s) = view s :=
  (hu ..).trans ((raise_keeps view hp ..).trans ((hw ..).trans (executed_keeps view hw hx ..)))

/-- The cut-off is counted, whether or not the instruction was. -/
theorem counts_stopsRun (c p : Nat) (h : swf resetWord s.csr = true) :
    counts s (stopsRun c p s) (coreReg c 0xB168) 1 ∧ swf resetWord (stopsRun c p s).csr = true := by
  obtain ⟨hs, hstay⟩ := regsWithin_executed c p (insBad s c p (insAt s c p)) (insAt s c p) s h
  have hcsr : (stopsRun c p s).csr =
      (bump (coreReg c 0xB168) 1 (executed c p (insBad s c p (insAt s c p)) (insAt s c p) s)).csr := raise_csr ..
  have hcount := counts_before (p := (· = coreReg c 0xB164)) (coreReg_ne (by decide)) hstay
    (rd_bump_same (a := coreReg c 0xB168) (n := 1) hs)
  exact ⟨counts_congr rfl hcsr hcount, hcsr ▸ swf_csr_bump hs⟩

/-- An error of a cause that its source does not hold joins those asserted, with its detail (R417). -/
theorem pend_raise_of_new {source cause : Nat} (detail : Nat) (h : ¬ asserts s source cause) :
    ∃ e : Pend, (raise source cause detail s).pend = s.pend ++ [e] ∧ e.detail = detail := by
  rw [asserts, Bool.not_eq_true] at h
  simp only [raise, raisePend, h, Bool.false_eq_true, if_false]
  exact ⟨_, rfl, rfl⟩

/-- What the SPU asserts once its run is stopped. -/
theorem asserts_stopsRun (c p : Nat) (s : State) : asserts (stopsRun c p s) (srcOf 0 c 6) 0x14 ∧
    (¬ asserts s (srcOf 0 c 6) 0x14 → ∃ e : Pend, (stopsRun c p s).pend = s.pend ++ [e] ∧ e.detail = pipeTag s c p) := by
  have hx : (bump (coreReg c 0xB168) 1 (executed c p (insBad s c p (insAt s c p)) (insAt s c p) s)).pend = s.pend :=
    executed_keeps (·.pend) (fun _ _ _ => rfl) (fun _ _ _ _ _ => rfl) ..
  have hpend := pend_cutsOff c (pipeOf s c p).seq (pipeTag s c p) (executed c p (insBad s c p (insAt s c p)) (insAt s c p) s)
  refine ⟨asserts_of_pend hpend (asserts_raise ..), fun hnew => ?_⟩
  rw [stopsRun, hpend, ← hx]
  exact pend_raise_of_new (pipeTag s c p) fun h => hnew (asserts_of_pend hx.symm h)

/-- Settles O21: HALT ends the run at once; a cut-off does so with its count and its fault. -/
theorem pipeStops : Obligations.PipeStops := by
  unfold Obligations.PipeStops
  intro c p s hc
  have hcsr := csr_of_canonical hc
  have hpipes := pipes_of_canonical hc
  refine ⟨fun hat => ?_, fun heng hab hrun hsegs hstop => ?_⟩
  · obtain ⟨-, -, -, hopc, -⟩ := id hat
    have hready := insReady_of_pipeAt hat rfl (insOut_of_plain hopc (by decide) (by decide))
    have hoff := offPipes_endRun c.val p.val (bump (coreReg c.val 0xB164) 1 s)
    rw [exec_halt, spuHalt_of_ready hready]
    exact ⟨_, rfl, pipeOf_endRun_same (s := bump (coreReg c.val 0xB164) 1 s) hpipes, spu_of_offPipes hoff, tarn_of_offPipes hoff,
      pend_of_offPipes hoff, counts_endRun (rd_bump_same hcsr) (swf_csr_bump hcsr)⟩
  · have hoff := offPipes_endRun c.val p.val (stopsRun c.val p.val s)
    have hstopped : (stopsRun c.val p.val s).pipes = s.pipes :=
      stopsRun_keeps (·.pipes) (fun _ _ _ => rfl) (fun _ _ => rfl) (fun _ _ _ => rfl) (fun _ _ _ _ _ => rfl) ..
    have htarn : (stopsRun c.val p.val s).tarn = s.tarn :=
      stopsRun_keeps (·.tarn) (fun _ _ _ => rfl) (fun _ _ => rfl) (fun _ _ _ => rfl) (fun _ _ _ _ _ => rfl) ..
    obtain ⟨hcount, hcsr'⟩ := counts_stopsRun c.val p.val hcsr
    obtain ⟨hfault, hdetail⟩ := asserts_stopsRun c.val p.val s
    rw [exec_spuCutoff, spuCutoff_of_stop heng hab hrun hsegs hstop]
    refine ⟨_, rfl, pipeOf_endRun_same (hstopped ▸ hpipes), (tarn_of_offPipes hoff).trans htarn, counts_endRun hcount hcsr',
      asserts_of_pend (pend_of_offPipes hoff) hfault, fun hnew => ?_⟩
    rw [pend_of_offPipes hoff]
    exact hdetail hnew

end Sys2Proof.Machine
end

section
/-! VECTOR AND REDUCTION. VXE.LDPROG and VXE.MMOV move an image between Tarn and a program slot or a mask tile (R154, R158). -/

namespace Sys2Proof.Machine

variable {s t : State} {c k op : Nat} {r : Run}

/-! ## Runs of a store -/

section
variable {α : Type} [DecidableEq α] {d : Nat → α} {l : List (Nat × α)} {vs : List α} {j n : Nat}

theorem sgetMany_ssetMany_same (h : swf d l = true) : sgetMany d k vs.length (ssetMany d k vs l) = vs := by
  apply List.ext_getElem
  · simp [sgetMany]
  · intro i _ hi
    simpa [sgetMany] using sget_ssetMany_inside h (Nat.zero_le _) hi

theorem sgetMany_ssetMany_apart (h : swf d l = true) (hj : j + n ≤ k ∨ k + vs.length ≤ j) :
    sgetMany d j n (ssetMany d k vs l) = sgetMany d j n l := by
  refine List.map_congr_left fun i hi => sget_ssetMany_outside h (Nat.zero_le _) ?_
  have := List.mem_range.mp hi
  omega

end

theorem progs_of_canonical (h : canonical s = true) : swf zero32 s.progs = true := by
  simp only [canonical, storesCanonical, Bool.and_eq_true] at h
  simp only [h]

theorem mask_of_canonical (h : canonical s = true) : swf ones32 s.mask = true := by
  simp only [canonical, storesCanonical, Bool.and_eq_true] at h
  simp only [h]

theorem OnlyRuns.mask (h : OnlyRuns s t) : t.mask = s.mask := (congrArg State.mask h.off :)
theorem OnlyRuns.progs (h : OnlyRuns s t) : t.progs = s.progs := (congrArg State.progs h.off :)

/-! ## Words and their bytes (R85) -/

theorem leNat_leBytes (n v : Nat) : leNat (leBytes n v) = v % 256 ^ n := by
  induction n generalizing v with
  | zero => simp [leBytes, leNat, Nat.mod_one]
  | succ n ih =>
    have hbyte : (Byte.ofNat v).toNat = v % 256 := BitVec.toNat_ofNat v 8
    rw [leBytes, leNat, ih, hbyte, pow_succ', Nat.mod_mul]

theorem length_wordsOf (n : Nat) (l : List Byte) : (wordsOf n l).length = n := by simp [wordsOf]

theorem length_bytesOf (ws : List Word) : (bytesOf ws).length = 4 * ws.length := by
  induction ws with
  | nil => rfl
  | cons w ws ih =>
    have : bytesOf (w :: ws) = leBytes 4 w.toNat ++ bytesOf ws := rfl
    rw [this, List.length_append, length_leBytes, ih, List.length_cons]
    omega

/-- Each word is read from the bytes that it was written as. -/
theorem leAt_bytesOf (ws : List Word) (i : Nat) (hi : i < ws.length) : leAt (bytesOf ws) (4 * i) 4 = ws[i].toNat := by
  induction ws generalizing i with
  | nil => exact absurd hi (Nat.not_lt_zero i)
  | cons w ws ih =>
    have hcons : bytesOf (w :: ws) = leBytes 4 w.toNat ++ bytesOf ws := rfl
    have hlen := length_leBytes 4 w.toNat
    cases i with
    | zero =>
      have hslice : slice 0 4 (bytesOf (w :: ws)) = leBytes 4 w.toNat := by
        simp [slice, hcons, List.take_append_of_le_length (Nat.le_of_eq hlen.symm), hlen, List.take_of_length_le (Nat.le_of_eq hlen)]
      rw [leAt, hslice, leNat_leBytes]
      exact Nat.mod_eq_of_lt w.isLt
    | succ i =>
      have hdrop : (bytesOf (w :: ws)).drop (4 * (i + 1)) = (bytesOf ws).drop (4 * i) := by
        rw [hcons, show 4 * (i + 1) = (leBytes 4 w.toNat).length + 4 * i by omega, List.drop_append]
        simp
      have hnext := ih i (by simpa using hi)
      simp only [leAt, slice] at hnext ⊢
      rw [hdrop, hnext, List.getElem_cons_succ]

/-! ## A bit of a register -/

/-- A bit set reads as set. -/
theorem bitOf_setFld_bit {w : Word} {i : Nat} (hi : i < 32) : bitOf (setFld w i 1 1) i = true := by
  have hval : (setFld w i 1 1).toNat = (w.toNat - 2 ^ i * (w.toNat / 2 ^ i % 2) + 2 ^ i) % 2 ^ 32 := by
    simp [setFld, Nat.shiftRight_eq_div_pow, Nat.shiftLeft_eq, Nat.mul_comm]
  have hquot : (w.toNat - 2 ^ i * (w.toNat / 2 ^ i % 2) + 2 ^ i) / 2 ^ i = w.toNat / 2 ^ i - w.toNat / 2 ^ i % 2 + 1 := by
    rw [Nat.add_div_right _ (Nat.two_pow_pos i), Nat.sub_mul_div]
  rw [bitOf, hval, Nat.testBit_mod_two_pow, Nat.testBit_eq_decide_div_mod_eq, hquot, decide_eq_true hi, Bool.true_and, decide_eq_true_eq]
  omega

theorem fld_lt (w : Word) (lo n : Nat) : fld w lo n < 2 ^ n := Nat.mod_lt _ (Nat.two_pow_pos n)

/-! ## An iteration of the VXE -/

theorem exec_vxeLdprog (c : CoreId) (s : State) : exec (.vxeLdprog c) s =
    .next (inTurn (unitKey c.val 4) (unitEvent (unitKey c.val 4) 0x10 (idle (unitKey c.val 4)) prepLdprog (ldprogBody c.val)) s) := rfl

theorem exec_vxeMmov (c : CoreId) (s : State) : exec (.vxeMmov c) s =
    .next (inTurn (unitKey c.val 4) (unitEvent (unitKey c.val 4) 0x60 (vxeFree (unitKey c.val 4)) prepMmov (mmovBody c.val)) s) := rfl

/-- A unit's event makes the iteration of the run that it goes on with. -/
theorem inTurn_unitEvent_of_goesOn {free : State → Bool} {prep : State → QCmd → Except Nat Prep} {body : Run → State → State}
    (h : goesOn s k op r) : inTurn k (unitEvent k op free prep body) s = endIter k r.q.seq (body r (takeWait k r s)) := by
  obtain ⟨hline, hmay, -, hrun⟩ := h
  obtain ⟨heng, hab, -⟩ := id hmay
  rw [inTurn_eq_of_firstInLine hline, unitEvent, if_neg (by simp [heng, hab]), hrun]
  exact runIter_of_mayIterate hmay

/-- What neither the body of an iteration nor what goes on around it touches stays. -/
theorem iteration_keeps {β : Type} (view : State → β) (hruns : ∀ {s t : State}, OnlyRuns s t → view t = view s) {body : State → State}
    (hbody : ∀ s, view (body s) = view s) (k : Nat) (r : Run) (s : State) :
    view (endIter k r.q.seq (body (takeWait k r s))) = view s :=
  (hruns (onlyRuns_endIter ..)).trans ((hbody _).trans (hruns (onlyRuns_takeWait ..)))

theorem ldprogBody_keeps {β : Type} (view : State → β) (hw : ∀ (s : State) (a : Nat) (v : Word), view (wr a v s) = view s)
    (hp : ∀ (s : State) (l : Sparse Word), view { s with progs := l } = view s) (c : Nat) (r : Run) (s : State) :
    view (ldprogBody c r s) = view s := (hw ..).trans (hp ..)

/-- The image is in its slot, and every other slot is as it was (R154). -/
theorem progOf_ldprogBody (hs : swf zero32 s.progs = true) :
    progOf (ldprogBody c r s) c (fld r.q.cmd.w4 0 6) = wordsOf 64 (tarnRead s c (imageAt (r.desc.getD 0 {}) r.nest r.it) 256) ∧
      ∀ n, n ≠ fld r.q.cmd.w4 0 6 → progOf (ldprogBody c r s) c n = progOf s c n := by
  have hprogs : (ldprogBody c r s).progs = ssetMany zero32 ((c * 64 + fld r.q.cmd.w4 0 6) * 64)
      (wordsOf 64 (tarnRead s c (imageAt (r.desc.getD 0 {}) r.nest r.it) 256)) s.progs := by
    simp only [ldprogBody, setBit, wrF, wr_progs]
  have hlen := length_wordsOf 64 (tarnRead s c (imageAt (r.desc.getD 0 {}) r.nest r.it) 256)
  have hread := sgetMany_ssetMany_same (k := (c * 64 + fld r.q.cmd.w4 0 6) * 64)
    (vs := wordsOf 64 (tarnRead s c (imageAt (r.desc.getD 0 {}) r.nest r.it) 256)) hs
  rw [hlen] at hread
  refine ⟨by rw [progOf, hprogs, hread], fun n hn => ?_⟩
  rw [progOf, hprogs, progOf]
  exact sgetMany_ssetMany_apart hs (by omega)

/-- The slot is marked valid. -/
theorem progValid_ldprogBody (hs : swf resetWord s.csr = true) :
    progValid (ldprogBody c r s) c (fld r.q.cmd.w4 0 6) = true ∧ swf resetWord (ldprogBody c r s).csr = true := by
  have hother : ∀ l, swf resetWord { s with progs := l }.csr = true := fun _ => hs
  rw [progValid, ldprogBody, setBit, wrF]
  refine ⟨?_, swf_csr_wr (hother _)⟩
  rw [rd_wr_same (hother _)]
  exact bitOf_setFld_bit (Nat.mod_lt _ (by decide))

/-- The mask tile holds the image's words; every other is as it was (R158). -/
theorem maskWord_mmovBody (hload : bitOf r.q.cmd.w4 4 = false) (hs : swf ones32 s.mask = true) :
    (∀ i, i < 32 → maskWord (mmovBody c r s) c (fld r.q.cmd.w4 0 4) i =
        Word.ofNat (leAt (tarnRead s c (imageAt (r.desc.getD 0 {}) r.nest r.it) 128) (4 * i) 4)) ∧
      ∀ m i, i < 32 → m ≠ fld r.q.cmd.w4 0 4 → maskWord (mmovBody c r s) c m i = maskWord s c m i := by
  have hmask : (mmovBody c r s).mask = ssetMany ones32 ((c * 16 + fld r.q.cmd.w4 0 4) * 32)
      (wordsOf 32 (tarnRead s c (imageAt (r.desc.getD 0 {}) r.nest r.it) 128)) s.mask := by
    simp only [mmovBody, hload, Bool.false_eq_true, if_false]
  have hlen := length_wordsOf 32 (tarnRead s c (imageAt (r.desc.getD 0 {}) r.nest r.it) 128)
  refine ⟨fun i hi => ?_, fun m i hi hm => ?_⟩
  · have hi' : i < (wordsOf 32 (tarnRead s c (imageAt (r.desc.getD 0 {}) r.nest r.it) 128)).length := hlen.symm ▸ hi
    rw [maskWord, hmask, sget_ssetMany_inside hs (Nat.zero_le _) hi']
    simp [wordsOf]
  · rw [maskWord, hmask, maskWord]
    exact sget_ssetMany_outside hs (Nat.zero_le _) (by omega)

/-- The mask tile's words lie at the operand, and every other byte of Tarn is as it was (R158). -/
theorem tarn_mmovBody (hstore : bitOf r.q.cmd.w4 4 = true) (hs : swf zero8 s.tarn = true) :
    (∀ i, i < 32 → Word.ofNat (leAt (tarnRead (mmovBody c r s) c (imageAt (r.desc.getD 0 {}) r.nest r.it) 128) (4 * i) 4) =
        maskWord s c (fld r.q.cmd.w4 0 4) i) ∧
      ∀ b, b < tarnKey c (imageAt (r.desc.getD 0 {}) r.nest r.it) ∨ tarnKey c (imageAt (r.desc.getD 0 {}) r.nest r.it) + 128 ≤ b →
        sget zero8 b (mmovBody c r s).tarn = sget zero8 b s.tarn := by
  have hlen : (sgetMany ones32 ((c * 16 + fld r.q.cmd.w4 0 4) * 32) 32 s.mask).length = 32 := by simp [sgetMany]
  have hbytes := length_bytesOf (sgetMany ones32 ((c * 16 + fld r.q.cmd.w4 0 4) * 32) 32 s.mask)
  have hbody : mmovBody c r s = tarnWrite c (imageAt (r.desc.getD 0 {}) r.nest r.it)
      (bytesOf (sgetMany ones32 ((c * 16 + fld r.q.cmd.w4 0 4) * 32) 32 s.mask)) s := if_pos hstore
  have hread := tarnRead_tarnWrite (c := c) (a := imageAt (r.desc.getD 0 {}) r.nest r.it)
    (l := bytesOf (sgetMany ones32 ((c * 16 + fld r.q.cmd.w4 0 4) * 32) 32 s.mask)) hs
  rw [hlen] at hbytes
  rw [hbytes] at hread
  refine ⟨fun i hi => ?_, fun b hb => ?_⟩
  · rw [hbody, hread, leAt_bytesOf _ i (hlen.symm ▸ hi)]
    simp [sgetMany, maskWord]
  · rw [hbody]
    exact tarnWrite_outside hs (by omega)

/-- What an iteration's end leaves valid. -/
theorem progValid_endIter (c n seq : Nat) (hs : swf resetWord s.csr = true) : progValid (endIter k seq s) c n = progValid s c n := by
  obtain ⟨-, hstay⟩ := regsWithin_endIter k seq s hs
  rw [progValid, hstay _ (coreReg_ne_flagHold c _), progValid]

theorem mmovBody_keeps {β : Type} (view : State → β) (ht : ∀ (s : State) (l : Sparse Byte), view { s with tarn := l } = view s)
    (hm : ∀ (s : State) (l : Sparse Word), view { s with mask := l } = view s) (c : Nat) (r : Run) (s : State) :
    view (mmovBody c r s) = view s := by
  rw [mmovBody]
  split
  · exact ht ..
  · exact hm ..

/-- Settles O28: each image's move, framed by a wait taken and an iteration that ends. -/
theorem lanePrograms : Obligations.LanePrograms := by
  unfold Obligations.LanePrograms
  intro c r s hc k a
  have htake := onlyRuns_takeWait k r s
  have hread : ∀ n, tarnRead (takeWait k r s) c.val a n = tarnRead s c.val a n := tarnRead_congr htake.tarn c.val a
  have hend : ∀ x, OnlyRuns x (endIter k r.q.seq x) := onlyRuns_endIter k r.q.seq
  have hmaskEnd : ∀ x m i, maskWord (endIter k r.q.seq x) c.val m i = maskWord x c.val m i := fun x _ _ => by
    rw [maskWord, (hend x).mask, maskWord]
  have hmaskTake : ∀ m i, maskWord (takeWait k r s) c.val m i = maskWord s c.val m i := fun _ _ => by
    rw [maskWord, htake.mask, maskWord]
  refine ⟨fun hgo => ?_, fun hgo hload => ?_, fun hgo hstore => ?_⟩
  · obtain ⟨himage, hother⟩ := progOf_ldprogBody (c := c.val) (r := r) (htake.progs ▸ progs_of_canonical hc)
    obtain ⟨hvalid, hcsr⟩ := progValid_ldprogBody (c := c.val) (r := r) (htake.regs (csr_of_canonical hc)).1
    have hprog : ∀ n, progOf (endIter k r.q.seq (ldprogBody c.val r (takeWait k r s))) c.val n =
        progOf (ldprogBody c.val r (takeWait k r s)) c.val n := fun n => by rw [progOf, (hend _).progs, progOf]
    rw [exec_vxeLdprog, inTurn_unitEvent_of_goesOn hgo]
    refine ⟨_, rfl, ?_, ?_, fun n _ hn => ?_, ?_, ?_, ?_, ?_, ?_⟩
    · rw [hprog, himage]
      exact congrArg _ (hread 256)
    · rw [progValid_endIter c.val _ _ hcsr, hvalid]
    · rw [hprog, hother n hn, progOf, htake.progs, progOf]
    · exact iteration_keeps (·.tarn) OnlyRuns.tarn (ldprogBody_keeps (·.tarn) (fun _ _ _ => rfl) (fun _ _ => rfl) c.val r) k r s
    · exact iteration_keeps (·.mere) OnlyRuns.mere (ldprogBody_keeps (·.mere) (fun _ _ _ => rfl) (fun _ _ => rfl) c.val r) k r s
    · exact iteration_keeps (·.acc) OnlyRuns.acc (ldprogBody_keeps (·.acc) (fun _ _ _ => rfl) (fun _ _ => rfl) c.val r) k r s
    · exact iteration_keeps (·.treg) OnlyRuns.treg (ldprogBody_keeps (·.treg) (fun _ _ _ => rfl) (fun _ _ => rfl) c.val r) k r s
    · exact iteration_keeps (·.mask) OnlyRuns.mask (ldprogBody_keeps (·.mask) (fun _ _ _ => rfl) (fun _ _ => rfl) c.val r) k r s
  · obtain ⟨himage, hother⟩ := maskWord_mmovBody (c := c.val) (r := r) hload (htake.mask ▸ mask_of_canonical hc)
    have hbody : (mmovBody c.val r (takeWait k r s)).tarn = (takeWait k r s).tarn := by
      rw [mmovBody, if_neg (ne_true_of_eq_false hload)]
    rw [exec_vxeMmov, inTurn_unitEvent_of_goesOn hgo]
    refine ⟨_, rfl, fun i hi => ?_, fun m i _ hi hm => ?_, (hend _).tarn.trans (hbody.trans htake.tarn), ?_, ?_, ?_⟩
    · rw [hmaskEnd, himage i hi]
      exact congrArg (fun l => Word.ofNat (leAt l (4 * i) 4)) (hread 128)
    · rw [hmaskEnd, hother m i hi hm, hmaskTake]
    · exact iteration_keeps (·.mere) OnlyRuns.mere (mmovBody_keeps (·.mere) (fun _ _ => rfl) (fun _ _ => rfl) c.val r) k r s
    · exact iteration_keeps (·.acc) OnlyRuns.acc (mmovBody_keeps (·.acc) (fun _ _ => rfl) (fun _ _ => rfl) c.val r) k r s
    · exact iteration_keeps (·.treg) OnlyRuns.treg (mmovBody_keeps (·.treg) (fun _ _ => rfl) (fun _ _ => rfl) c.val r) k r s
  · obtain ⟨himage, hother⟩ := tarn_mmovBody (c := c.val) (r := r) hstore (htake.tarn ▸ tarn_of_canonical hc)
    have hbody : (mmovBody c.val r (takeWait k r s)).mask = (takeWait k r s).mask := by
      rw [mmovBody, if_pos hstore, tarnWrite_mask]
    rw [exec_vxeMmov, inTurn_unitEvent_of_goesOn hgo]
    refine ⟨_, rfl, (hend _).mask.trans (hbody.trans htake.mask), fun i hi => ?_, fun b hb => ?_, ?_, ?_, ?_⟩
    · rw [tarnRead_congr (hend _).tarn, ← hmaskTake]
      exact himage i hi
    · rw [(hend _).tarn, ← htake.tarn]
      exact hother b hb
    · exact iteration_keeps (·.mere) OnlyRuns.mere (mmovBody_keeps (·.mere) (fun _ _ => rfl) (fun _ _ => rfl) c.val r) k r s
    · exact iteration_keeps (·.acc) OnlyRuns.acc (mmovBody_keeps (·.acc) (fun _ _ => rfl) (fun _ _ => rfl) c.val r) k r s
    · exact iteration_keeps (·.treg) OnlyRuns.treg (mmovBody_keeps (·.treg) (fun _ _ => rfl) (fun _ _ => rfl) c.val r) k r s

end Sys2Proof.Machine
end

section
/-! SUPPORT. Tile registers and the rows of sources (R137, R145, R151): reads after writes, and what a row of a source turns on. -/

namespace Sys2Proof.Machine

variable {s t : State} {c c' n n' e e' : Nat} {v : Word}

theorem treg_of_canonical (h : canonical s = true) : swf zero32 s.treg = true := by
  simp only [canonical, storesCanonical, Bool.and_eq_true] at h
  simp only [h]

theorem tregAt_tregSet_same (h : swf zero32 s.treg = true) : tregAt (tregSet c n e v s) c n e = v := sget_sset_same h

theorem tregAt_tregSet_other (h : swf zero32 s.treg = true) (he : e < 1024) (he' : e' < 1024) (hne : n' ≠ n ∨ e' ≠ e) :
    tregAt (tregSet c n e v s) c n' e' = tregAt s c n' e' := sget_sset_other h (by omega)

theorem tregAt_congr (h : t.treg = s.treg) (c n e : Nat) : tregAt t c n e = tregAt s c n e := by rw [tregAt, h, tregAt]

/-- A source that lies in no tile register turns on the memories and the accumulators alone. -/
theorem srcRow_congr {d : Desc} (hd : d.kind ≠ 4) (ht : t.tarn = s.tarn) (hm : t.mere = s.mere) (ha : t.acc = s.acc) (c : Nat) (m : Nest)
    (i j astep : Nat) (w : Ext4) (row : Nat × Nat × Nat) : srcRow t c d m i j astep w row = srcRow s c d m i j astep w row := by
  simp only [srcRow, if_neg hd, accAt_congr ha, readRow_congr ht hm]

theorem length_srcRow (s : State) (c : Nat) (d : Desc) (m : Nest) (i j astep : Nat) (w : Ext4) (row : Nat × Nat × Nat) :
    (srcRow s c d m i j astep w row).length = w.1 := by
  simp only [srcRow]
  split_ifs <;> simp

end Sys2Proof.Machine
end

section
/-! VECTOR AND REDUCTION. The reduction of one row of at most 32 elements (R168, R169, R506, R507). -/

namespace Sys2Proof.Machine

variable {s : State} {c op n : Nat} {r : Run} {isInt : Bool} {v : RedVal} {inp : Nat → Nat → Option Word}

/-! ## The pairwise tree -/

section
variable {α : Type} (f : α → α → α)

theorem pairLevel_ne_nil {l : List α} (h : l ≠ []) : pairLevel f l ≠ [] := by
  match l with
  | [] => exact absurd rfl h
  | [a] => simp [pairLevel]
  | a :: b :: l => simp [pairLevel]

theorem pairTree_ne_nil {l : List α} (n : Nat) (h : l ≠ []) : pairTree f n l ≠ [] := by
  induction n generalizing l with
  | zero => exact h
  | succ n ih => exact ih (pairLevel_ne_nil f h)

/-- The tree of some values has a result. -/
theorem treeOf_of_ne_nil {l : List α} (h : l ≠ []) : ∃ x, treeOf f l = some x :=
  ⟨_, List.head?_eq_some_head (pairTree_ne_nil f l.length h)⟩

end

/-! ## The inputs of a row -/

/-- Only ARGMAX takes the index of an input. -/
theorem redLeaf_index (h : op ≠ 3) (i : Int) (v : Word) : redLeaf op isInt i v = redLeaf op isInt 0 v := by
  simp only [redLeaf, if_neg h]

/-- A row of at most 32 elements is one block. -/
theorem redInputs_row (hlo : 0 < n) (hhi : n ≤ 32) (inp : Nat → Nat → Option Word) :
    redInputs (n, 1, 1, 1) false inp 0 = [(List.range n).filterMap fun k => (inp 0 k).map fun v => (k, v)] := by
  have hblocks : (n + 31) / 32 = 1 := by omega
  simp [redInputs, hblocks, Nat.min_eq_right hhi]

theorem filterMap_range_getElem? {α β : Type} (g : Nat → α → β) (l : List α) :
    (List.range l.length).filterMap (fun k => l[k]?.map (g k)) = l.zipIdx.map fun x => g x.2 x.1 := by
  have hall : (List.range l.length).map (fun k => l[k]?.map (g k)) = (l.zipIdx.map fun x => g x.2 x.1).map some :=
    List.ext_getElem (by simp) (by simp +contextual)
  have hsome := congrArg (List.filterMap id) hall
  simpa [List.filterMap_map, Function.comp_def] using hsome

/-- The tree of a row's one block. -/
theorem blocks_row (hop : op ≠ 3) (hlo : 0 < n) (hhi : n ≤ 32) (base : Int) {l : List Word} (hl : l.length = n)
    (hv : treeOf (redCombine op isInt) (l.map fun x => redLeaf op isInt 0 x) = some v) :
    ((redInputs (n, 1, 1, 1) false (fun row k => ([l].getD row [])[k]?) 0).filterMap fun b =>
      treeOf (redCombine op isInt) (b.map fun p => redLeaf op isInt ((p.1 : Int) + base) p.2)) = [v] := by
  have hinputs : ((List.range n).filterMap fun k => (([l].getD 0 [])[k]?).map fun x => (k, x)).map
      (fun p => redLeaf op isInt ((p.1 : Int) + base) p.2) = l.map fun x => redLeaf op isInt 0 x := by
    subst hl
    have hleaf : ((fun p : Nat × Word => redLeaf op isInt ((p.1 : Int) + base) p.2) ∘ fun x : Word × Nat => (x.2, x.1)) =
        (fun x => redLeaf op isInt 0 x) ∘ Prod.fst := funext fun x => redLeaf_index hop ..
    rw [List.getD_cons_zero, filterMap_range_getElem? (fun k x => (k, x)), List.map_map, hleaf]
    rw [← List.map_map (f := Prod.fst) (g := fun x => redLeaf op isInt 0 x), List.zipIdx_map_fst]
  simp only [redInputs_row hlo hhi, List.filterMap_cons, List.filterMap_nil, hinputs, hv]

/-! ## The iteration -/

/-- Saturations of the adds behind a result are counted. -/
def countsSats (c : Nat) (v : RedVal) (s : State) : State := if v.sats = 0 then s else bump (coreReg c 0xB14C) v.sats s

theorem countsSats_keeps {β : Type} (view : State → β) (hw : ∀ (s : State) (a : Nat) (v : Word), view (wr a v s) = view s) (c : Nat)
    (v : RedVal) (s : State) : view (countsSats c v s) = view s := by
  rw [countsSats]
  split
  · rfl
  · exact hw ..

/-- A reduction of one result, by any operation but ARGMAX, puts the value of its one block. -/
theorem redIter_one (hempty : r.empty = false) (hacc : redAcc r.q = false) (hop : redOp r.q ≠ 3)
    (hrem : (redRem (redDir r.q) (r.desc.getD 0 {})).foldl (· * ·) 1 = 1)
    (hblocks : ((redInputs (redExt (r.desc.getD 0 {})) (redDir r.q) inp 0).filterMap fun b =>
      treeOf (redCombine (redOp r.q) isInt) (b.map fun p => redLeaf (redOp r.q) isInt
        ((p.1 : Int) + (sx 32 r.q.cmd.w5.toNat + sx 32 r.q.cmd.w6.toNat * (r.nest.digit r.it 1 : Int))) p.2)) = [v]) :
    redIter c r isInt inp s = redPut c (r.desc.getD 1 {}) r.nest r.it 1 0 v.word
      (countsSats c v (bump (coreReg c 0xB144) (redExt (r.desc.getD 0 {})).blocks s)) := by
  simp only [redIter, hempty, hacc, hop, hrem, hblocks, iter, List.range_one, List.foldl_cons, List.foldl_nil, Bool.false_eq_true,
    if_false, countsSats]

/-- The pairwise tree's value of the row of n elements that a reduction is of (R169). -/
def rowTree (c n : Nat) (r : Run) (s : State) : Option RedVal :=
  treeOf (redCombine (redOp r.q) (isIntDt (r.desc.getD 0 {}).dtype))
    ((srcRow s c (r.desc.getD 0 {}) r.nest r.it 0 0 (n, 1, 1, 1) (0, 0, 0)).map
      fun x => redLeaf (redOp r.q) (isIntDt (r.desc.getD 0 {}).dtype) 0 x)

/-- A row of at most 32 elements from Tarn leaves its tree's value (R168, R169). -/
theorem redBody_row (hempty : r.empty = false) (hacc : redAcc r.q = false) (hdir : redDir r.q = false) (hop : redOp r.q ≠ 3)
    (hkind : (r.desc.getD 0 {}).kind = 1) (hrank : (r.desc.getD 0 {}).rank = 1) (hlo : 0 < n) (hhi : n ≤ 32)
    (hext : redExt (r.desc.getD 0 {}) = (n, 1, 1, 1)) (hv : rowTree c n r s = some v) :
    redBody c r s = redPut c (r.desc.getD 1 {}) r.nest r.it 1 0 v.word
      (countsSats c v (bump (coreReg c 0xB144) (Ext4.blocks (n, 1, 1, 1)) s)) := by
  have hmeets : accMeets c (r.desc.getD 0 {}) r.nest r.it 0 0 (n, 1, 1, 1) s = s := if_pos (by omega)
  have hrem : (redRem (redDir r.q) (r.desc.getD 0 {})).foldl (· * ·) 1 = 1 := by
    simp only [redRem, hdir, hext, hkind, hrank]
    rfl
  have hrows : Ext4.rows (n, 1, 1, 1) = [(0, 0, 0)] := by simp [Ext4.rows]
  simp only [redBody, hempty, hext, hmeets, hrows, Bool.false_eq_true, if_false, List.map_cons, List.map_nil]
  rw [redIter_one hempty hacc hop hrem (by rw [hext, hdir]; exact blocks_row hop hlo hhi _ (length_srcRow ..) hv), hext]

/-- A result in tile registers from register 0 on is there, and every other element is as it was. -/
theorem tregAt_redPut {d : Desc} {m : Nest} {it j : Nat} {x : Word} (hd : d.kind = 4) (hb : d.base + m.offset it j = 0)
    (hs : swf zero32 s.treg = true) : tregAt (redPut c d m it j 0 x s) c 0 0 = x ∧
      ∀ n e, e < 1024 → n ≠ 0 ∨ e ≠ 0 → tregAt (redPut c d m it j 0 x s) c n e = tregAt s c n e := by
  have hput : redPut c d m it j 0 x s = tregSet c 0 0 x s := by simp [redPut, redPlace, tregNo, hd, hb]
  rw [hput]
  exact ⟨tregAt_tregSet_same hs, fun n e he hne => tregAt_tregSet_other hs (by decide) he hne⟩

theorem exec_rduRed (c : CoreId) (s : State) : exec (.rduRed c) s = .next (inTurn (unitKey c.val 5) (rduRed c.val) s) := rfl

/-- An iteration of an untapped reduction. -/
theorem inTurn_rduRed_of_goesOn (h : goesOn s (unitKey c 5) 0x10 r)
    (hrun : firstRun s (unitKey c 5) (fun r => r.q.cmd.opcode == 0x10 && r.skipped == 0) = some r) (htap : redTap r.q = false) :
    inTurn (unitKey c 5) (rduRed c) s = endIter (unitKey c 5) r.q.seq (redBody c r (takeWait (unitKey c 5) r s)) := by
  obtain ⟨hline, hmay, -, -⟩ := h
  obtain ⟨heng, hab, -⟩ := id hmay
  rw [inTurn_eq_of_firstInLine hline, rduRed, if_neg (by simp [heng, hab]), hrun]
  exact (if_neg (ne_true_of_eq_false htap)).trans (runIter_of_mayIterate hmay)

/-- What a reduction's result and its counts leave alone. -/
theorem putsResult_keeps {β : Type} (view : State → β) (hw : ∀ (s : State) (a : Nat) (v : Word), view (wr a v s) = view s)
    (ht : ∀ (s : State) (l : Sparse Word), view { s with treg := l } = view s) {d : Desc} (hd : d.kind = 4) (c : Nat) (m : Nest)
    (it j blocks : Nat) (v : RedVal) (s : State) :
    view (redPut c d m it j 0 v.word (countsSats c v (bump (coreReg c 0xB144) blocks s))) = view s := by
  have hput : ∀ x, view (redPut c d m it j 0 v.word x) = view x := fun x => (congrArg view (if_pos hd)).trans (ht ..)
  rw [hput, countsSats_keeps view hw]
  exact hw ..

/-- A row that is not empty has a tree, and taking a wait leaves it as it is. -/
theorem rowTree_takeWait (hkind : (r.desc.getD 0 {}).kind = 1) (hlo : 0 < n) (k : Nat) :
    ∃ v, rowTree c n r (takeWait k r s) = some v ∧ rowTree c n r s = some v := by
  have htake := onlyRuns_takeWait k r s
  have hrow := srcRow_congr (d := r.desc.getD 0 {}) (by omega) htake.tarn htake.mere htake.acc c r.nest r.it 0 0 (n, 1, 1, 1) (0, 0, 0)
  have hleaves : (srcRow s c (r.desc.getD 0 {}) r.nest r.it 0 0 (n, 1, 1, 1) (0, 0, 0)).map
      (fun x => redLeaf (redOp r.q) (isIntDt (r.desc.getD 0 {}).dtype) 0 x) ≠ [] := by
    rw [← List.length_pos_iff, List.length_map, length_srcRow]
    exact hlo
  obtain ⟨v, hv⟩ := treeOf_of_ne_nil (redCombine (redOp r.q) (isIntDt (r.desc.getD 0 {}).dtype)) hleaves
  exact ⟨v, by rw [rowTree, hrow, hv], hv⟩

/-- Settles O31: the row is one block, and its tree's value is put. -/
theorem reductionOfOne : Obligations.ReductionOfOne := by
  unfold Obligations.ReductionOfOne
  intro c r s hc hgo hrun htap hdir hacc hop _ hempty d o hkind hrank hlo hhi hext hdst hbase
  have htake := onlyRuns_takeWait (unitKey c.val 5) r s
  obtain ⟨v, hv, hv'⟩ := rowTree_takeWait (s := s) (c := c.val) hkind hlo (unitKey c.val 5)
  have hkeep : ∀ {β : Type} (view : State → β), (∀ {s t : State}, OnlyRuns s t → view t = view s) →
      (∀ (s : State) (a : Nat) (v : Word), view (wr a v s) = view s) →
      (∀ (s : State) (l : Sparse Word), view { s with treg := l } = view s) →
      view (endIter (unitKey c.val 5) r.q.seq (redBody c.val r (takeWait (unitKey c.val 5) r s))) = view s :=
    fun view hruns hw ht => (hruns (onlyRuns_endIter ..)).trans ((congrArg view (redBody_row hempty hacc hdir hop hkind hrank hlo hhi
      hext hv)).trans ((putsResult_keeps view hw ht hdst ..).trans (hruns htake)))
  have hcounted : (countsSats c.val v (bump (coreReg c.val 0xB144) (Ext4.blocks (d.e 0, 1, 1, 1))
      (takeWait (unitKey c.val 5) r s))).treg = s.treg := (countsSats_keeps (·.treg) (fun _ _ _ => rfl) ..).trans htake.treg
  obtain ⟨hput, hother⟩ := tregAt_redPut (c := c.val) (x := v.word) hdst hbase (hcounted ▸ treg_of_canonical hc)
  rw [exec_rduRed, inTurn_rduRed_of_goesOn hgo hrun htap]
  refine ⟨_, rfl, hkeep (·.tarn) OnlyRuns.tarn (fun _ _ _ => rfl) fun _ _ => rfl,
    hkeep (·.mere) OnlyRuns.mere (fun _ _ _ => rfl) fun _ _ => rfl,
    hkeep (·.acc) OnlyRuns.acc (fun _ _ _ => rfl) fun _ _ => rfl, ?_, fun n e hne => ?_⟩
  · rw [tregAt_congr (onlyRuns_endIter ..).treg, redBody_row hempty hacc hdir hop hkind hrank hlo hhi hext hv, hput]
    exact (congrArg (Option.map RedVal.word) hv').symm
  · rw [tregAt_congr (onlyRuns_endIter ..).treg, redBody_row hempty hacc hdir hop hkind hrank hlo hhi hext hv, hother _ _ e.isLt hne,
      tregAt_congr hcounted]

end Sys2Proof.Machine
end

section
/-! SUPPORT. The walk of a vector command, block by block (R137, R142): every coordinate lies in one block, at one element of it. -/

namespace Sys2Proof.Machine

variable {w : Ext4} {c0 c0' b j : Nat} {row row' : Nat × Nat × Nat}

/-! ## Numbers in mixed radix -/

theorem digits_of_lt {x y n : Nat} (h : y < n) : (x * n + y) % n = y ∧ (x * n + y) / n = x := by
  rw [Nat.mul_comm, Nat.mul_add_mod, Nat.mod_eq_of_lt h, Nat.mul_add_div (by omega), Nat.div_eq_of_lt h]
  exact ⟨rfl, rfl⟩

theorem mul_add_lt_mul {x y m n : Nat} (hx : x < m) (hy : y < n) : x * n + y < m * n :=
  calc x * n + y < (x + 1) * n := by rw [Nat.succ_mul]; omega
    _ ≤ m * n := Nat.mul_le_mul_right n hx

/-! ## Blocks -/

/-- Coordinate (c0, row) is one of the walk. -/
def inWalk (w : Ext4) (c0 : Nat) (row : Nat × Nat × Nat) : Prop :=
  c0 < w.1 ∧ row.1 < w.2.1 ∧ row.2.1 < w.2.2.1 ∧ row.2.2 < w.2.2.2

/-- Block coordinates of block number b (R142). -/
def blockCoords (w : Ext4) (b : Nat) : Nat × Nat × Nat × Nat :=
  (b % ((w.1 + 31) / 32), b / ((w.1 + 31) / 32) % ((w.2.1 + 31) / 32), b / ((w.1 + 31) / 32) / ((w.2.1 + 31) / 32) % w.2.2.1,
    b / ((w.1 + 31) / 32) / ((w.2.1 + 31) / 32) / w.2.2.1)

theorem blockList_eq (w : Ext4) : w.blockList = (List.range w.blocks).map (blockCoords w) := rfl

/-- Row j of a block. -/
def blockRow (b : Nat × Nat × Nat × Nat) (j : Nat) : Nat × Nat × Nat := (32 * b.2.1 + j, b.2.2.1, b.2.2.2)

/-- Rows of a block. -/
def blockHeight (w : Ext4) (b : Nat × Nat × Nat × Nat) : Nat := min 32 (w.2.1 - 32 * b.2.1)

theorem blockRows_eq (w : Ext4) (b : Nat × Nat × Nat × Nat) : blockRows w b = (List.range (blockHeight w b)).map (blockRow b) := rfl

theorem block_lt_blocks (h : inWalk w c0 row) : (w.block c0 row).1 < w.blocks := by
  obtain ⟨h0, h1, h2, h3⟩ := h
  have hlt := mul_add_lt_mul (mul_add_lt_mul (mul_add_lt_mul h3 h2) (show row.1 / 32 < (w.2.1 + 31) / 32 by omega))
    (show c0 / 32 < (w.1 + 31) / 32 by omega)
  calc (w.block c0 row).1 < w.2.2.2 * w.2.2.1 * ((w.2.1 + 31) / 32) * ((w.1 + 31) / 32) := hlt
    _ = w.blocks := by rw [Ext4.blocks]; ring

theorem blockCoords_block (h : inWalk w c0 row) : blockCoords w (w.block c0 row).1 = (c0 / 32, row.1 / 32, row.2.1, row.2.2) := by
  obtain ⟨h0, h1, h2, h3⟩ := h
  obtain ⟨hmod0, hdiv0⟩ := digits_of_lt (x := (row.2.2 * w.2.2.1 + row.2.1) * ((w.2.1 + 31) / 32) + row.1 / 32)
    (show c0 / 32 < (w.1 + 31) / 32 by omega)
  obtain ⟨hmod1, hdiv1⟩ := digits_of_lt (x := row.2.2 * w.2.2.1 + row.2.1) (show row.1 / 32 < (w.2.1 + 31) / 32 by omega)
  obtain ⟨hmod2, hdiv2⟩ := digits_of_lt (x := row.2.2) h2
  simp only [blockCoords, Ext4.block, hmod0, hdiv0, hmod1, hdiv1, hmod2, hdiv2]

/-- The elements of block number b are those in its rows whose dimension 0 lies in it. -/
theorem block_blockRow (hj : j < 32) (hc : c0 / 32 = (blockCoords w b).1) : (w.block c0 (blockRow (blockCoords w b) j)).1 = b := by
  have hrow : (blockRow (blockCoords w b) j).1 / 32 = (blockCoords w b).2.1 := by
    simp only [blockRow]
    omega
  simp only [Ext4.block, hrow, hc]
  simp only [blockRow, blockCoords, Nat.div_add_mod']

theorem exists_blockRow (h : inWalk w c0 row) (hb : (w.block c0 row).1 = b) :
    c0 / 32 = (blockCoords w b).1 ∧ ∃ j < blockHeight w (blockCoords w b), row = blockRow (blockCoords w b) j := by
  subst hb
  obtain ⟨-, h1, -⟩ := id h
  simp only [blockCoords_block h, blockHeight, blockRow]
  exact ⟨trivial, row.1 % 32, by omega, Prod.ext (by simp only; omega) rfl⟩

/-- A block's row holds coordinates of the walk. -/
theorem inWalk_blockRow (hb : b < w.blocks) (hj : j < blockHeight w (blockCoords w b)) (hc : c0 < w.1) :
    inWalk w c0 (blockRow (blockCoords w b) j) := by
  have hblocks : w.blocks = (w.1 + 31) / 32 * ((w.2.1 + 31) / 32 * (w.2.2.1 * w.2.2.2)) := by rw [Ext4.blocks]; ring
  have h2 : 0 < w.2.2.1 := Nat.pos_of_ne_zero fun h0 => by simp [hblocks, h0] at hb
  have hdiv : b / ((w.1 + 31) / 32) / ((w.2.1 + 31) / 32) / w.2.2.1 < w.2.2.2 :=
    Nat.div_lt_of_lt_mul (Nat.div_lt_of_lt_mul (Nat.div_lt_of_lt_mul (hblocks ▸ hb)))
  simp only [blockHeight] at hj
  exact ⟨hc, by simp only [blockRow]; omega, Nat.mod_lt _ h2, hdiv⟩

/-- Different coordinates have different places. -/
theorem block_inj (h : inWalk w c0 row) (h' : inWalk w c0' row') (he : w.block c0 row = w.block c0' row') : c0 = c0' ∧ row = row' := by
  have hcoords : blockCoords w (w.block c0 row).1 = blockCoords w (w.block c0' row').1 := by rw [he]
  have helem : c0 % 32 + 32 * (row.1 % 32) = c0' % 32 + 32 * (row'.1 % 32) := congrArg Prod.snd he
  simp only [blockCoords_block h, blockCoords_block h', Prod.mk.injEq] at hcoords
  obtain ⟨hc, hr, hr2, hr3⟩ := hcoords
  exact ⟨by omega, Prod.ext (by omega) (Prod.ext hr2 hr3)⟩

theorem block_elem_lt (w : Ext4) (c0 : Nat) (row : Nat × Nat × Nat) : (w.block c0 row).2 < 1024 := by
  simp only [Ext4.block]
  omega

end Sys2Proof.Machine
end

section
/-! SUPPORT. Elements of a lane program's walk (R142, R151, R152, R155): what a write of some of them makes, and what the others' inputs
turn on. -/

namespace Sys2Proof.Machine

variable {s t u : State} {c n : Nat} {w : Ext4} {p : Nat → Nat × Nat × Nat → Prop} {v : Nat → Nat × Nat × Nat → Word → Word}

/-! ## What stays -/

/-- Register a is no scale of core c's slots. -/
def noScale (c a : Nat) : Prop := ∀ slot, a ≠ coreReg c (0xB400 + 8 * slot) ∨ 64 ≤ slot

/-- From `s` to `t` what lanes read beside tile registers has stayed: memories, accumulators, masks, programs, and scales. -/
structure LanesKept (c : Nat) (s t : State) : Prop where
  off : { offRuns t with treg := [], fresh := 0 } = { offRuns s with treg := [], fresh := 0 }
  regs : regsWithin (noScale c) s t

namespace LanesKept

theorem refl (c : Nat) (s : State) : LanesKept c s s := ⟨rfl, .of_csr rfl⟩

theorem trans (h : LanesKept c s t) (h' : LanesKept c t u) : LanesKept c s u := ⟨h'.off.trans h.off, h.regs.trans h'.regs⟩

theorem bump {a m : Nat} (h : noScale c a) : LanesKept c s (Machine.bump a m s) := ⟨rfl, regsWithin_bump h⟩

theorem ite {q : Prop} [Decidable q] (ht : LanesKept c s t) (hu : LanesKept c s u) : LanesKept c s (if q then t else u) := by
  split
  · exact ht
  · exact hu

variable (h : LanesKept c s t)
include h

theorem tarn : t.tarn = s.tarn := (congrArg State.tarn h.off :)
theorem mere : t.mere = s.mere := (congrArg State.mere h.off :)
theorem acc : t.acc = s.acc := (congrArg State.acc h.off :)
theorem mask : t.mask = s.mask := (congrArg State.mask h.off :)
theorem progs : t.progs = s.progs := (congrArg State.progs h.off :)
theorem oa : Machine.oa t = Machine.oa s := (congrArg Machine.oa h.off :)

/-- The scale of a slot in force. -/
theorem scale (hs : swf resetWord s.csr = true) {slot : Nat} (hslot : slot < 64) :
    cfg t (coreReg c (0xB400 + 8 * slot)) = cfg s (coreReg c (0xB400 + 8 * slot)) := by
  have hrun : t.ssq.run = s.ssq.run := (congrArg (fun x : State => x.ssq.run) h.off :)
  have heff : t.eff = s.eff := (congrArg State.eff h.off :)
  obtain ⟨-, hstay⟩ := h.regs hs
  rw [cfg, cfg, hrun, heff, hstay _ fun hno => (hno slot).elim (· rfl) (by omega)]

end LanesKept

theorem noScale_of {off : Nat} (h : ∀ slot < 64, off ≠ 0xB400 + 8 * slot) : noScale c (coreReg c off) := fun slot => by
  by_cases hslot : slot < 64
  · exact .inl (coreReg_ne (h slot hslot))
  · exact .inr (by omega)

theorem lanesKept_countSat {slot : Nat} (hslot : slot < 64) (m : Nat) (s : State) : LanesKept c s (countSat c slot m s) :=
  .ite (.refl c s) (.ite (.bump (noScale_of fun _ _ => by omega)) (((LanesKept.bump (noScale_of fun _ _ => by omega)).trans
    (.bump (noScale_of fun _ _ => by omega))).trans (.bump (noScale_of fun _ _ => by omega))))

theorem lanesKept_accMeets (d : Desc) (m : Nest) (i j astep : Nat) (w : Ext4) (s : State) :
    LanesKept c s (accMeets c d m i j astep w s) :=
  .ite (.refl c s) (.ite (.ite (.refl c s) (.trans (t := drawn s) ⟨rfl, .of_csr rfl⟩ (.bump (noScale_of fun _ _ => by omega)))) (.refl c s))

theorem lanesKept_foldl {α : Type} {f : State → α → State} (h : ∀ s x, LanesKept c s (f s x)) (l : List α) (s : State) :
    LanesKept c s (l.foldl f s) := by
  induction l generalizing s with
  | nil => exact .refl c s
  | cons x r ih => exact (h s x).trans (ih _)

theorem treg_countSat (c slot m : Nat) (s : State) : (countSat c slot m s).treg = s.treg := by
  simp only [countSat]
  split_ifs <;> rfl

theorem treg_accMeets (c : Nat) (d : Desc) (m : Nest) (i j astep : Nat) (w : Ext4) (s : State) :
    (accMeets c d m i j astep w s).treg = s.treg := by
  simp only [accMeets, bumpMeets]
  split_ifs <;> rfl

/-! ## Elements -/

/-- The element of core c's tile registers at a coordinate of a walk, from tile register 0 on. -/
def walkAt (s : State) (c : Nat) (w : Ext4) (c0 : Nat) (row : Nat × Nat × Nat) : Word := tregAt s c (w.block c0 row).1 (w.block c0 row).2

/-- From `s` to `t` each element that a test picks has become `v` of what it was, and every other of the walk, like what lanes
read, has stayed. -/
structure LaneMade (c : Nat) (w : Ext4) (p : Nat → Nat × Nat × Nat → Prop) (v : Nat → Nat × Nat × Nat → Word → Word)
    (s t : State) : Prop where
  inputs : LanesKept c s t
  swf : Machine.swf zero32 t.treg = true
  made : ∀ {c0 row}, inWalk w c0 row → p c0 row → walkAt t c w c0 row = v c0 row (walkAt s c w c0 row)
  kept : ∀ {c0 row}, inWalk w c0 row → ¬ p c0 row → walkAt t c w c0 row = walkAt s c w c0 row

namespace LaneMade

/-- What touches no tile register may come before. -/
theorem after (hk : LanesKept c s t) (ht : t.treg = s.treg) (h : LaneMade c w p v t u) : LaneMade c w p v s u where
  inputs := hk.trans h.inputs
  swf := h.swf
  made hin hp := by rw [h.made hin hp, walkAt, tregAt_congr ht, walkAt]
  kept hin hp := by rw [h.kept hin hp, walkAt, tregAt_congr ht, walkAt]

/-- What touches no tile register may come after. -/
theorem before (h : LaneMade c w p v s t) (hk : LanesKept c t u) (hu : u.treg = t.treg) : LaneMade c w p v s u where
  inputs := h.inputs.trans hk
  swf := hu ▸ h.swf
  made hin hp := by rw [← h.made hin hp, walkAt, tregAt_congr hu, walkAt]
  kept hin hp := by rw [← h.kept hin hp, walkAt, tregAt_congr hu, walkAt]

/-- Elements picked that stay as they are may as well not be picked; only coordinates of the walk matter. -/
theorem narrow {p' : Nat → Nat × Nat × Nat → Prop} {v' : Nat → Nat × Nat × Nat → Word → Word} (h : LaneMade c w p v s t)
    (hp : ∀ {c0 row}, inWalk w c0 row → p' c0 row → p c0 row ∧ ∀ old, v c0 row old = v' c0 row old)
    (hno : ∀ {c0 row}, inWalk w c0 row → ¬ p' c0 row → p c0 row → ∀ old, v c0 row old = old) : LaneMade c w p' v' s t where
  inputs := h.inputs
  swf := h.swf
  made hin hp' := by
    obtain ⟨hp, hv⟩ := hp hin hp'
    rw [h.made hin hp, hv]
  kept {c0 row} hin hp' := by
    by_cases hpick : p c0 row
    · rw [h.made hin hpick, hno hin hp' hpick]
    · exact h.kept hin hpick

theorem congr {p' : Nat → Nat × Nat × Nat → Prop} (h : LaneMade c w p v s t) (hp : ∀ {c0 row}, inWalk w c0 row → (p' c0 row ↔ p c0 row)) :
    LaneMade c w p' v s t :=
  h.narrow (fun hin hp' => ⟨(hp hin).mp hp', fun _ => rfl⟩) fun hin hno hpick => absurd ((hp hin).mpr hpick) hno

end LaneMade

/-- One element is written. -/
theorem laneMade_tregSet {c0 : Nat} {row : Nat × Nat × Nat} {x : Word} (hs : swf zero32 s.treg = true) (hin : inWalk w c0 row)
    (hx : x = v c0 row (walkAt s c w c0 row)) :
    LaneMade c w (fun c0' row' => c0' = c0 ∧ row' = row) v s (tregSet c (w.block c0 row).1 (w.block c0 row).2 x s) where
  inputs := ⟨rfl, .of_csr rfl⟩
  swf := swf_sset hs
  made := by
    rintro _ _ - ⟨rfl, rfl⟩
    rw [walkAt, tregAt_tregSet_same hs, hx]
  kept hin' hne := tregAt_tregSet_other hs (block_elem_lt ..) (block_elem_lt ..) (by
    by_contra heq
    rw [not_or, not_not, not_not] at heq
    exact hne (block_inj hin' hin (Prod.ext heq.1 heq.2)))

/-- An element is left as it is, which is what it is to become. -/
theorem laneMade_self (hs : swf zero32 s.treg = true)
    (hv : ∀ {c0 row}, inWalk w c0 row → p c0 row → v c0 row (walkAt s c w c0 row) = walkAt s c w c0 row) : LaneMade c w p v s s := ⟨.refl c s, hs, fun hin hp => (hv hin hp).symm, fun _ _ => rfl⟩

/-- A run of operations that each make `v` of elements of their own makes it of them all. -/
theorem laneMade_iter {f : Nat → State → State} {p : Nat → Nat → Nat × Nat × Nat → Prop} (hs : swf zero32 s.treg = true)
    (hp : ∀ {i j c0 row}, p i c0 row → p j c0 row → i = j)
    (hf : ∀ i < n, ∀ u, LaneMade c w (fun c0 row => ∃ j < i, p j c0 row) v s u → LaneMade c w (p i) v u (f i u)) :
    LaneMade c w (fun c0 row => ∃ i < n, p i c0 row) v s (iter n f s) := by
  induction n with
  | zero => exact laneMade_self hs fun _ ⟨i, hi, _⟩ => absurd hi (Nat.not_lt_zero i)
  | succ n ih =>
    have hbefore := ih fun i hi => hf i (by omega)
    have hlast := hf n (by omega) _ hbefore
    rw [iter_succ]
    refine ⟨hbefore.inputs.trans hlast.inputs, hlast.swf, ?_, fun hin hno => ?_⟩
    · rintro c0 row hin ⟨i, hi, hpi⟩
      by_cases hlt : i = n
      · subst hlt
        rw [hlast.made hin hpi, hbefore.kept hin fun ⟨j, hj, hpj⟩ => by
          have := hp hpi hpj
          omega]
      · rw [hlast.kept hin fun hpn => hlt (hp hpi hpn), hbefore.made hin ⟨i, by omega, hpi⟩]
    · rw [hlast.kept hin fun hpn => hno ⟨n, by omega, hpn⟩, hbefore.kept hin fun ⟨i, hi, hpi⟩ => hno ⟨i, by omega, hpi⟩]

end Sys2Proof.Machine
end

section
/-! VECTOR AND REDUCTION. An iteration of VXE.LANE writes its program's results to tile registers (R142, R151, R155, R159). -/

namespace Sys2Proof.Machine

variable {s t u : State} {c c0 : Nat} {r : Run} {img : List Word} {w : Ext4} {row : Nat × Nat × Nat} {isInt : Bool}

/-! ## OUT of an element -/

/-- What the program sees of the element at (c0, row) (R151, R152). -/
def laneEnv (s : State) (c : Nat) (r : Run) (img : List Word) (w : Ext4) (row : Nat × Nat × Nat) (c0 : Nat) : LaneEnv :=
  { srcs := (List.range (progNsrc img)).map fun j => (srcRow s c (r.desc.getD j {}) r.nest r.it j (laneAstep r.q) w row).getD c0 0
    consts := [img.getD 1 0, img.getD 2 0, img.getD 3 0, img.getD 4 0, r.q.cmd.w5, r.q.cmd.w6]
    c1 := row.1, c0 := c0, loop1 := r.nest.digit r.it 1 }

/-- The element's lane is masked, by its bit of the mask tile or by the program's predicate (R155). -/
def laneMasked (s : State) (c : Nat) (r : Run) (img : List Word) (e : LaneEnv) : Bool :=
  (laneMen r.q && !maskBit s c (fld r.q.cmd.w4 8 4) (e.c0 % 32 + 32 * (e.c1 % 32)))
    || (bitOf r.q.cmd.w4 12 && (laneRun img e).getD (progPred img) 0 == 0)

/-- OUT of the element at (c0, row), none where its lane is masked (R152, R155). -/
def laneElem (s : State) (c : Nat) (r : Run) (img : List Word) (w : Ext4) (row : Nat × Nat × Nat) (c0 : Nat) : Option Word :=
  let e := laneEnv s c r img w row c0
  if laneMasked s c r img e then none
  else some (if progNops img = 0 then e.srcs.getD 0 0 else (laneRun img e).getD (progOut img) 0)

theorem laneRow_eq (s : State) (c : Nat) (r : Run) (img : List Word) (w : Ext4) (row : Nat × Nat × Nat) (lo n : Nat) :
    laneRow s c r img w row lo n = (List.range n).map fun i => laneElem s c r img w row (lo + i) := by
  have hsrcs : ∀ i, ((List.range (progNsrc img)).map fun j =>
      srcRow s c (r.desc.getD j {}) r.nest r.it j (laneAstep r.q) w row).map (fun l => l.getD (lo + i) 0) =
        (laneEnv s c r img w row (lo + i)).srcs := fun i => List.map_map
  simp only [laneRow]
  refine List.map_congr_left fun i _ => ?_
  rw [hsrcs i]
  rfl

/-- What an iteration's destination is: tile registers from 0 on, and the only operand there. -/
structure LaneDst (r : Run) : Prop where
  nonempty : r.desc ≠ []
  kind : (r.desc.getD (r.desc.length - 1) {}).kind = 4
  base : (r.desc.getD (r.desc.length - 1) {}).base + r.nest.offset r.it (r.desc.length - 1) = 0
  only : ∀ d ∈ r.desc.dropLast, d.kind ≠ 4

/-- An operand in tile registers is the destination. -/
theorem LaneDst.eq_last (h : LaneDst r) {j : Nat} (hj : (r.desc.getD j {}).kind = 4) : j = r.desc.length - 1 := by
  have hpos := List.length_pos_iff.mpr h.nonempty
  by_contra hne
  by_cases hlt : j < r.desc.length
  · have hmem : r.desc.getD j {} ∈ r.desc.dropLast := by
      rw [List.getD_eq_getElem _ _ hlt, ← List.getElem_dropLast (by rw [List.length_dropLast]; omega)]
      exact List.getElem_mem _
    exact h.only _ hmem hj
  · rw [List.getD_eq_default _ _ (by omega)] at hj
    exact absurd hj (by decide)

theorem LaneDst.tregNo (h : LaneDst r) (b : Nat) :
    Machine.tregNo (r.desc.getD (r.desc.length - 1) {}) r.nest r.it (r.desc.length - 1) b = b := by
  rw [Machine.tregNo, h.base]
  exact Nat.zero_add b

/-- An element of a source turns on what lanes read and, at most, on its own place in the tile registers. -/
theorem srcRow_elem_congr (hdst : LaneDst r) (hk : LanesKept c s u) (hat : walkAt u c w c0 row = walkAt s c w c0 row) (hc : c0 < w.1)
    (j astep : Nat) :
    (srcRow u c (r.desc.getD j {}) r.nest r.it j astep w row).getD c0 0 =
      (srcRow s c (r.desc.getD j {}) r.nest r.it j astep w row).getD c0 0 := by
  by_cases hj : (r.desc.getD j {}).kind = 4
  · obtain rfl := hdst.eq_last hj
    have helem : ∀ x : State, (srcRow x c (r.desc.getD (r.desc.length - 1) {}) r.nest r.it (r.desc.length - 1) astep w row).getD c0 0 =
        walkAt x c w c0 row := fun x => by
      rw [srcRow, if_neg (by rw [hdst.kind]; decide), if_pos hdst.kind]
      simp only [hdst.tregNo]
      rw [List.getD_eq_getElem _ _ (by simpa using hc), List.getElem_map, List.getElem_range, walkAt]
    rw [helem, helem, hat]
  · rw [srcRow_congr hj hk.tarn hk.mere hk.acc]

theorem laneElem_congr (hdst : LaneDst r) (hk : LanesKept c s u) (hat : walkAt u c w c0 row = walkAt s c w c0 row) (hc : c0 < w.1) :
    laneElem u c r img w row c0 = laneElem s c r img w row c0 := by
  have henv : laneEnv u c r img w row c0 = laneEnv s c r img w row c0 := by simp only [laneEnv, srcRow_elem_congr hdst hk hat hc]
  have hmasked : laneMasked u c r img = laneMasked s c r img := funext fun e => by simp only [laneMasked, maskBit, maskWord, hk.mask]
  rw [laneElem, henv, hmasked, laneElem]

/-! ## Its code -/

/-- What an element's write is of: its code, none where it keeps its value, and whether it saturated (R155, R159). -/
def laneCode (c : Nat) (r : Run) (isInt : Bool) (s : State) (o : Option Word) : Option Nat × Bool :=
  let q := r.q.cmd
  match o with
  | some v =>
    let x := convOut (r.desc.getD (r.desc.length - 1) {}).dtype isInt (oa s && (r.desc.getD 0 {}).kind == 3)
      (if fld q.w4 16 6 = 0 then none else some (cfg s (coreReg c (0xB400 + 8 * fld q.w4 16 6)))) v
    (some x.1, x.2)
  | none => (if bitOf q.w4 6 || oa s then some 0 else none, false)

theorem laneCode_congr (hs : swf resetWord s.csr = true) (hk : LanesKept c s u) (o : Option Word) :
    laneCode c r isInt u o = laneCode c r isInt s o := by
  simp only [laneCode, hk.oa, hk.scale hs (fld_lt r.q.cmd.w4 16 6)]

/-- The codes of a row of the walk, none but for those of the part from lo on. -/
def rowCodes (w : Ext4) (lo : Nat) (cs : List (Option Nat)) : List (Option Nat) :=
  List.replicate lo none ++ cs ++ List.replicate (w.1 - lo - cs.length) none

theorem rowCodes_getD (w : Ext4) (lo : Nat) (cs : List (Option Nat)) (c0 : Nat) :
    (rowCodes w lo cs).getD c0 none = if lo ≤ c0 then cs.getD (c0 - lo) none else none := by
  have hnone : ∀ (n i : Nat), (List.replicate n (none : Option Nat)).getD i none = none := fun n i => by
    by_cases hi : i < n
    · rw [List.getD_replicate _ hi]
    · exact List.getD_eq_default _ _ (by simpa using hi)
  rw [rowCodes, List.append_assoc]
  split
  · next hlo =>
    rw [List.getD_append_right _ _ _ _ (by simpa using hlo), List.length_replicate]
    by_cases hcs : c0 - lo < cs.length
    · rw [List.getD_append _ _ _ _ hcs]
    · rw [List.getD_append_right _ _ _ _ (by omega), hnone, List.getD_eq_default _ _ (by omega)]
  · next hlo => rw [List.getD_append _ _ _ _ (by rw [List.length_replicate]; omega), hnone]

theorem laneWrite_eq (c : Nat) (r : Run) (isInt : Bool) (w : Ext4) (row : Nat × Nat × Nat) (lo : Nat) (outs : List (Option Word))
    (s : State) : laneWrite c r isInt w row lo outs s =
      countSat c (fld r.q.cmd.w4 16 6) ((outs.map (laneCode c r isInt s)).filter fun p => p.2).length
        (dstRow c (r.desc.getD (r.desc.length - 1) {}) r.nest r.it (r.desc.length - 1) w row
          (rowCodes w lo ((outs.map (laneCode c r isInt s)).map Prod.fst)) s) := by
  simp only [rowCodes, List.length_map]
  rw [laneWrite]
  simp only [List.length_map]
  rfl

/-- What an element becomes, from OUT in state s. -/
def laneNew (c : Nat) (r : Run) (img : List Word) (w : Ext4) (isInt : Bool) (s : State) (c0 : Nat) (row : Nat × Nat × Nat) (old : Word) :
    Word := (laneCode c r isInt s (laneElem s c r img w row c0)).1.elim old Word.ofNat

/-! ## Rows and blocks -/

/-- The element at (c0, row) takes its code, if it has one. -/
def putCode (c : Nat) (w : Ext4) (row : Nat × Nat × Nat) (codes : List (Option Nat)) (c0 : Nat) (s : State) : State :=
  match codes.getD c0 none with
  | some v => tregSet c (w.block c0 row).1 (w.block c0 row).2 (Word.ofNat v) s
  | none => s

theorem dstRow_eq (hdst : LaneDst r) (codes : List (Option Nat)) (s : State) :
    dstRow c (r.desc.getD (r.desc.length - 1) {}) r.nest r.it (r.desc.length - 1) w row codes s = iter w.1 (putCode c w row codes) s := by
  rw [dstRow, if_pos hdst.kind]
  simp only [hdst.tregNo]
  rfl

/-- What an element becomes by its code. -/
def codeNew (codes : List (Option Nat)) (c0 : Nat) (_ : Nat × Nat × Nat) (old : Word) : Word := (codes.getD c0 none).elim old Word.ofNat

theorem laneMade_putCode (codes : List (Option Nat)) (hs : swf zero32 s.treg = true) (hin : inWalk w c0 row) :
    LaneMade c w (fun c0' row' => c0' = c0 ∧ row' = row) (codeNew codes) s (putCode c w row codes c0 s) := by
  rw [putCode]
  cases hcode : codes.getD c0 none with
  | some x => exact laneMade_tregSet hs hin (by rw [codeNew, hcode]; rfl)
  | none =>
    refine laneMade_self hs fun _ hp => ?_
    obtain ⟨rfl, rfl⟩ := hp
    rw [codeNew, hcode]
    rfl

/-- The codes of a row land at their elements. -/
theorem laneMade_dstRow (codes : List (Option Nat)) (hdst : LaneDst r) (hs : swf zero32 s.treg = true)
    (hin : ∀ {c0}, c0 < w.1 → inWalk w c0 row) :
    LaneMade c w (fun _ row' => row' = row) (codeNew codes) s
      (dstRow c (r.desc.getD (r.desc.length - 1) {}) r.nest r.it (r.desc.length - 1) w row codes s) := by
  rw [dstRow_eq hdst]
  exact (laneMade_iter hs (p := fun i c0 row' => c0 = i ∧ row' = row) (fun hi hj => hi.1.symm.trans hj.1)
    fun i hi u hu => laneMade_putCode codes hu.swf (hin hi)).congr
      fun hwalk => ⟨fun hrow => ⟨_, hwalk.1, rfl, hrow⟩, fun ⟨_, _, _, hrow⟩ => hrow⟩

/-- The codes of the elements from lo on in a row of a block. -/
theorem laneRow_codes_getD (lo n i : Nat) :
    (((laneRow u c r img w row lo n).map (laneCode c r isInt s)).map Prod.fst).getD i none =
      if i < n then (laneCode c r isInt s (laneElem u c r img w row (lo + i))).1 else none := by
  rw [laneRow_eq]
  split
  · next hi =>
    rw [List.getD_eq_getElem _ _ (by simpa using hi)]
    simp
  · next hi => exact List.getD_eq_default _ _ (by simpa using hi)

/-- First coordinate of a block's elements along dimension 0, and their number there. -/
def blockLo (b : Nat × Nat × Nat × Nat) : Nat := 32 * b.1
def blockWidth (w : Ext4) (b : Nat × Nat × Nat × Nat) : Nat := min 32 (w.1 - blockLo b)

theorem in_block_iff {b : Nat × Nat × Nat × Nat} (hc : c0 < w.1) : c0 / 32 = b.1 ↔ blockLo b ≤ c0 ∧ c0 - blockLo b < blockWidth w b := by
  simp only [blockLo, blockWidth]
  omega

/-- A row of a block becomes its program's results, from what lanes read as it stood at the block's begin. -/
theorem laneMade_row {b j : Nat} (hdst : LaneDst r) (hcsr : swf resetWord s.csr = true) (hku : LanesKept c s u) (hkt : LanesKept c s t)
    (ht : swf zero32 t.treg = true) (hb : b < w.blocks) (hj : j < blockHeight w (blockCoords w b))
    (hat : ∀ {c0}, c0 < w.1 → c0 / 32 = (blockCoords w b).1 →
      walkAt u c w c0 (blockRow (blockCoords w b) j) = walkAt s c w c0 (blockRow (blockCoords w b) j)) :
    LaneMade c w (fun c0 row => c0 / 32 = (blockCoords w b).1 ∧ row = blockRow (blockCoords w b) j) (laneNew c r img w isInt s) t
      (laneWrite c r isInt w (blockRow (blockCoords w b) j) (blockLo (blockCoords w b))
        (laneRow u c r img w (blockRow (blockCoords w b) j) (blockLo (blockCoords w b)) (blockWidth w (blockCoords w b))) t) := by
  rw [laneWrite_eq]
  refine LaneMade.before ?_ (lanesKept_countSat (fld_lt ..) _ _) (treg_countSat ..)
  refine (laneMade_dstRow _ hdst ht (inWalk_blockRow hb hj)).narrow (fun hwalk hpick => ⟨hpick.2, fun old => ?_⟩)
    fun hwalk hno hrow old => ?_
  · obtain ⟨hin, rfl⟩ := hpick
    obtain ⟨hlo, hhi⟩ := (in_block_iff hwalk.1).mp hin
    rw [codeNew, rowCodes_getD, laneRow_codes_getD, if_pos hlo, if_pos hhi, Nat.add_sub_cancel' hlo, laneCode_congr hcsr hkt,
      laneElem_congr hdst hku (hat hwalk.1 hin) hwalk.1, laneNew]
  · rw [codeNew, rowCodes_getD, laneRow_codes_getD, ← ite_and, if_neg fun h => hno ⟨(in_block_iff hwalk.1).mpr h, hrow⟩]
    rfl

/-- A block's results, all of its sources read before the first is written (R143). -/
def laneBlock (c : Nat) (r : Run) (img : List Word) (w : Ext4) (isInt : Bool) (b : Nat × Nat × Nat × Nat) (s : State) : State :=
  iter (blockHeight w b) (fun j t => laneWrite c r isInt w (blockRow b j) (blockLo b)
    (laneRow s c r img w (blockRow b j) (blockLo b) (blockWidth w b)) t) s

theorem laneMade_block {b : Nat} (hdst : LaneDst r) (hcsr : swf resetWord s.csr = true) (hk : LanesKept c s u)
    (hu : swf zero32 u.treg = true) (hb : b < w.blocks)
    (hat : ∀ {c0 row}, inWalk w c0 row → (w.block c0 row).1 = b → walkAt u c w c0 row = walkAt s c w c0 row) :
    LaneMade c w (fun c0 row => (w.block c0 row).1 = b) (laneNew c r img w isInt s) u
      (laneBlock c r img w isInt (blockCoords w b) u) := by
  have h32 : ∀ {j}, j < blockHeight w (blockCoords w b) → j < 32 := fun hj => Nat.lt_of_lt_of_le hj (Nat.min_le_left ..)
  refine (laneMade_iter hu (p := fun j c0 row => c0 / 32 = (blockCoords w b).1 ∧ row = blockRow (blockCoords w b) j) ?_
    fun j hj t ht => laneMade_row hdst hcsr hk (hk.trans ht.inputs) ht.swf hb hj fun hc hin =>
      hat (inWalk_blockRow hb hj hc) (block_blockRow (h32 hj) hin)).congr fun hin => ⟨fun hblock => ?_, ?_⟩
  · rintro i j c0 row ⟨-, hi⟩ ⟨-, hj⟩
    have := congrArg Prod.fst (hi.symm.trans hj)
    simp only [blockRow] at this
    omega
  · obtain ⟨hc, j, hj, hrow⟩ := exists_blockRow hin hblock
    exact ⟨j, hj, hc, hrow⟩
  · rintro ⟨j, hj, hc, rfl⟩
    exact block_blockRow (h32 hj) hc

/-- Block after block, every element of the walk becomes its program's result. -/
theorem laneMade_walk (hdst : LaneDst r) (hcsr : swf resetWord s.csr = true) (hs : swf zero32 s.treg = true) (hk : LanesKept c s u)
    (hu : u.treg = s.treg) :
    LaneMade c w (fun _ _ => True) (laneNew c r img w isInt s) s
      (iter w.blocks (fun b t => laneBlock c r img w isInt (blockCoords w b) t) u) := by
  refine LaneMade.after hk hu ((laneMade_iter (hu ▸ hs) (p := fun b c0 row => (w.block c0 row).1 = b) (fun hi hj => hi.symm.trans hj)
    fun b hb t ht => laneMade_block hdst hcsr (hk.trans ht.inputs) ht.swf hb fun hin hblock => ?_).congr
      fun hin => ⟨fun _ => ⟨_, block_lt_blocks hin, rfl⟩, fun _ => trivial⟩)
  rw [ht.kept hin fun ⟨j, hj, hblock'⟩ => by omega, walkAt, tregAt_congr hu, walkAt]

/-! ## The iteration -/

/-- What is counted before the first block is read. -/
def laneMeets (c : Nat) (r : Run) (img : List Word) (w : Ext4) (s : State) : State :=
  ((r.desc.take (progNsrc img)).zipIdx).foldl (fun s x => accMeets c x.1 r.nest r.it x.2 (laneAstep r.q) w s)
    (bump (coreReg c 0xB104) w.blocks s)

theorem foldl_fst {α β γ : Type} {f : α × β → γ → α × β} {g : α → γ → α} (h : ∀ p x, (f p x).1 = g p.1 x) (l : List γ) (p : α × β) :
    (l.foldl f p).1 = l.foldl g p.1 := by
  induction l generalizing p with
  | nil => rfl
  | cons x l ih => rw [List.foldl_cons, List.foldl_cons, ih, h]

theorem laneIter_fst (hempty : r.empty = false) (hdst : laneDst r.q = true) : (laneIter c r s).1 =
    iter (walkOf r.desc).blocks (fun b t => laneBlock c r (progOf s c (laneSlot r.q)) (walkOf r.desc)
        (outIsInt (progOf s c (laneSlot r.q)) r.desc) (blockCoords (walkOf r.desc) b) t)
      (laneMeets c r (progOf s c (laneSlot r.q)) (walkOf r.desc) s) := by
  rw [laneIter]
  simp only [hempty, hdst, Bool.false_eq_true, if_false, if_true]
  rw [foldl_fst (g := fun t b => laneBlock c r (progOf s c (laneSlot r.q)) (walkOf r.desc)
    (outIsInt (progOf s c (laneSlot r.q)) r.desc) b t), blockList_eq, List.foldl_map]
  · rfl
  · intro p b
    simp only [blockRows_eq, List.map_map, List.foldl_map]
    rfl

theorem exec_vxeLane (c : CoreId) (s : State) : exec (.vxeLane c) s = .next (inTurn (unitKey c.val 4) (vxeLane c.val) s) := rfl

/-- An iteration of an untapped command. -/
theorem inTurn_vxeLane_of_goesOn (h : goesOn s (unitKey c 4) 0x20 r)
    (hrun : firstRun s (unitKey c 4) (fun r => r.q.cmd.opcode == 0x20 && r.skipped == 0) = some r) (htap : laneTap r.q = false) :
    inTurn (unitKey c 4) (vxeLane c) s =
      endIter (unitKey c 4) r.q.seq (laneIter c r (takeWait (unitKey c 4) r s)).1 := by
  obtain ⟨hline, hmay, -, -⟩ := h
  obtain ⟨heng, hab, -⟩ := id hmay
  rw [inTurn_eq_of_firstInLine hline, vxeLane, if_neg (by simp [heng, hab]), hrun]
  simp only [laneStep, htap, Bool.false_and, Bool.false_eq_true, if_false]
  exact runIter_of_mayIterate hmay

theorem lanesKept_takeWait (k : Nat) (r : Run) (s : State) : LanesKept c s (takeWait k r s) where
  off := congrArg (fun x : State => { x with treg := [], fresh := 0 }) (onlyRuns_takeWait k r s).off
  regs := .of_csr (takeWait_keeps (·.csr) (fun _ _ _ _ => rfl) (fun _ _ _ => rfl) ..)

theorem lanesKept_laneMeets (img : List Word) (w : Ext4) (s : State) : LanesKept c s (laneMeets c r img w s) :=
  (LanesKept.bump (noScale_of fun _ _ => by omega)).trans (lanesKept_foldl (fun _ _ => lanesKept_accMeets ..) _ _)

theorem treg_laneMeets (img : List Word) (w : Ext4) (s : State) : (laneMeets c r img w s).treg = s.treg :=
  foldl_keeps (·.treg) (fun _ _ => treg_accMeets ..) _ (bump (coreReg c 0xB104) w.blocks s)

/-- An element's place in the row of its block. -/
theorem laneRow_getD (hc : c0 < w.1) : (laneRow s c r img w row (32 * (c0 / 32)) (min 32 (w.1 - 32 * (c0 / 32)))).getD (c0 % 32) none =
    laneElem s c r img w row c0 := by
  have hi : c0 % 32 < min 32 (w.1 - 32 * (c0 / 32)) := by omega
  rw [laneRow_eq, List.getD_eq_getElem _ _ (by simpa using hi), List.getElem_map, List.getElem_range, Nat.div_add_mod]

/-- An element of OUT becomes its code, and a masked one keeps its value or becomes zero. -/
theorem laneNew_of_some {v old : Word} (h : laneElem s c r img w row c0 = some v) : laneNew c r img w isInt s c0 row old =
    Word.ofNat (convOut (r.desc.getD (r.desc.length - 1) {}).dtype isInt (oa s && (r.desc.getD 0 {}).kind == 3)
      (if fld r.q.cmd.w4 16 6 = 0 then none else some (cfg s (coreReg c (0xB400 + 8 * fld r.q.cmd.w4 16 6)))) v).1 := by
  rw [laneNew, h]
  rfl

theorem laneNew_of_none {old : Word} (h : laneElem s c r img w row c0 = none) :
    laneNew c r img w isInt s c0 row old = if bitOf r.q.cmd.w4 6 || oa s then 0 else old := by
  rw [laneNew, h, laneCode, apply_ite (fun o : Option Nat => o.elim old Word.ofNat)]
  rfl

/-- Settles O29: the walk's results, framed by a wait taken, what is counted, and an iteration that ends. -/
theorem laneResults : Obligations.LaneResults := by
  unfold Obligations.LaneResults
  intro c r s hc hgo hrun htap hdst hempty honly hne img w d hkind hbase _
  have hlane : LaneDst r := ⟨hne, hkind, hbase, honly⟩
  have htake := onlyRuns_takeWait (unitKey c.val 4) r s
  have hprog : progOf (takeWait (unitKey c.val 4) r s) c.val (laneSlot r.q) = img := by rw [progOf, htake.progs]; rfl
  have hmade := laneMade_walk (c := c.val) (img := img) (w := w) (isInt := outIsInt img r.desc) hlane (csr_of_canonical hc)
    (treg_of_canonical hc) ((lanesKept_takeWait (unitKey c.val 4) r s).trans (lanesKept_laneMeets (r := r) img w _))
    ((treg_laneMeets ..).trans htake.treg)
  have hiter := laneIter_fst (c := c.val) (s := takeWait (unitKey c.val 4) r s) hempty hdst
  rw [hprog] at hiter
  rw [← hiter] at hmade
  have hend := onlyRuns_endIter (unitKey c.val 4) r.q.seq (laneIter c.val r (takeWait (unitKey c.val 4) r s)).1
  rw [exec_vxeLane, inTurn_vxeLane_of_goesOn hgo hrun htap]
  refine ⟨_, rfl, hend.tarn.trans hmade.inputs.tarn, hend.mere.trans hmade.inputs.mere, hend.acc.trans hmade.inputs.acc,
    hend.mask.trans hmade.inputs.mask, hend.progs.trans hmade.inputs.progs, fun row c0 h0 h1 h2 h3 => ?_⟩
  have hvalue := hmade.made ⟨h0, h1, h2, h3⟩ trivial
  rw [tregAt_congr hend.treg, laneRow_getD h0]
  cases helem : laneElem s c.val r img w row c0 with
  | some v => exact hvalue.trans (laneNew_of_some helem)
  | none => exact hvalue.trans (laneNew_of_none helem)

end Sys2Proof.Machine
end

section
/-! SUPPORT. The canonical form of the state's stores (O4): what a branch, a fold, an iteration, a load that may fail, and a write of one
store keep. -/

namespace Sys2Proof.Machine

/-- Values changed key by key, those left out that now equal the unlisted value. -/
theorem swfFrom_filter_map {α β : Type} [DecidableEq α] [DecidableEq β] {d : Nat → α} {v : β} {f : α → β} {b : Nat} {l : List (Nat × α)}
    (h : swfFrom d b l = true) : swfFrom (fun _ => v) b ((l.map fun x => (x.1, f x.2)).filter fun x => x.2 != v) = true := by
  induction l generalizing b with
  | nil => rfl
  | cons e r ih =>
    obtain ⟨j, w⟩ := e
    simp only [swfFrom, Bool.and_eq_true, decide_eq_true_eq] at h
    obtain ⟨⟨hj, -⟩, hr⟩ := h
    by_cases hv : f w = v
    · simpa [hv] using swfFrom_weaken (ih hr) (by omega)
    · simp [hv, swfFrom, hj, ih hr]

theorem swf_filter_map {α β : Type} [DecidableEq α] [DecidableEq β] {d : Nat → α} {v : β} {f : α → β} {l : List (Nat × α)}
    (h : swf d l = true) : swf (fun _ => v) ((l.map fun x => (x.1, f x.2)).filter fun x => x.2 != v) = true :=
  swfFrom_filter_map h

section

variable {s t : State}

theorem canonical_ite {c : Prop} {_ : Decidable c} (hs : canonical s = true) (ht : canonical t = true) :
    canonical (if c then s else t) = true := by
  split
  · exact hs
  · exact ht

theorem canonical_snd_ite {α : Type} {x y : α × State} {c : Prop} {_ : Decidable c} (hs : canonical x.2 = true) (ht : canonical y.2 = true) :
    canonical (if c then x else y).2 = true := by
  split
  · exact hs
  · exact ht

/-- Names the state that a later part of a proof goes on from. -/
theorem canonical_then (hs : canonical s = true) (ht : canonical s = true → canonical t = true) : canonical t = true := ht hs

theorem canonical_foldl {α : Type} {f : State → α → State} (hf : ∀ s x, canonical s = true → canonical (f s x) = true)
    {l : List α} (h : canonical s = true) : canonical (l.foldl f s) = true := by
  induction l generalizing s with
  | nil => exact h
  | cons x r ih => exact ih (hf s x h)

theorem canonical_snd_foldl {α β : Type} {f : β × State → α → β × State} (hf : ∀ p x, canonical p.2 = true → canonical (f p x).2 = true)
    {l : List α} {p : β × State} (h : canonical p.2 = true) : canonical (l.foldl f p).2 = true := by
  induction l generalizing p with
  | nil => exact h
  | cons x r ih => exact ih (hf p x h)

theorem canonical_fst_foldl {α β : Type} {f : State × β → α → State × β} (hf : ∀ p x, canonical p.1 = true → canonical (f p x).1 = true)
    {l : List α} {p : State × β} (h : canonical p.1 = true) : canonical (l.foldl f p).1 = true := by
  induction l generalizing p with
  | nil => exact h
  | cons x r ih => exact ih (hf p x h)

theorem canonical_iter {f : Nat → State → State} (hf : ∀ i s, canonical s = true → canonical (f i s) = true)
    {n : Nat} (h : canonical s = true) : canonical (iter n f s) = true := canonical_foldl (fun s i h => hf i s h) h

/-- A load that passes leaves a canonical state. -/
def OkCanonical (x : Except LoadError State) : Prop := ∀ t, x = .ok t → canonical t = true

theorem okCanonical_bind {α : Type} {x : Except LoadError α} {f : α → Except LoadError State} (hf : ∀ a, OkCanonical (f a)) :
    OkCanonical (x >>= f) := by
  intro t e
  cases x with
  | error _ => cases e
  | ok a => exact hf a t e

theorem okCanonical_bind_state {x : Except LoadError State} {f : State → Except LoadError State} (hx : OkCanonical x)
    (hf : ∀ s, canonical s = true → OkCanonical (f s)) : OkCanonical (x >>= f) := by
  intro t e
  cases x with
  | error _ => cases e
  | ok a => exact hf a (hx a rfl) t e

theorem okCanonical_error {e : LoadError} : OkCanonical (.error e) := fun _ e => nomatch e

theorem okCanonical_ok (h : canonical s = true) : OkCanonical (.ok s) := by
  intro t e
  cases e
  exact h

theorem okCanonical_foldlM {α : Type} {f : State → α → Except LoadError State} (hf : ∀ s x, canonical s = true → OkCanonical (f s x))
    {l : List α} (h : canonical s = true) : OkCanonical (l.foldlM f s) := by
  induction l generalizing s with
  | nil => exact okCanonical_ok h
  | cons x r ih =>
    rw [List.foldlM_cons]
    exact okCanonical_bind_state (hf s x h) fun _ h => ih h

end

section

variable {s : State} (h : canonical s = true)
include h


theorem canonical_with_csr {l} (hl : swf resetWord s.csr = true → swf resetWord l = true) : canonical { s with csr := l } = true := by
  simp only [canonical, memoriesCanonical, storesCanonical, Bool.and_eq_true] at h ⊢
  simp_all only [and_self]

theorem canonical_with_eff {l} (hl : swf resetWord s.eff = true → swf resetWord l = true) : canonical { s with eff := l } = true := by
  simp only [canonical, memoriesCanonical, storesCanonical, Bool.and_eq_true] at h ⊢
  simp_all only [and_self]

theorem canonical_with_latches {l} (hl : swf zero32 s.latches = true → swf zero32 l = true) :
    canonical { s with latches := l } = true := by
  simp only [canonical, memoriesCanonical, storesCanonical, Bool.and_eq_true] at h ⊢
  simp_all only [and_self]

theorem canonical_with_tarn {l} (hl : swf zero8 s.tarn = true → swf zero8 l = true) : canonical { s with tarn := l } = true := by
  simp only [canonical, memoriesCanonical, storesCanonical, Bool.and_eq_true] at h ⊢
  simp_all only [and_self]

theorem canonical_with_treg {l} (hl : swf zero32 s.treg = true → swf zero32 l = true) : canonical { s with treg := l } = true := by
  simp only [canonical, memoriesCanonical, storesCanonical, Bool.and_eq_true] at h ⊢
  simp_all only [and_self]

theorem canonical_with_mask {l} (hl : swf ones32 s.mask = true → swf ones32 l = true) : canonical { s with mask := l } = true := by
  simp only [canonical, memoriesCanonical, storesCanonical, Bool.and_eq_true] at h ⊢
  simp_all only [and_self]

theorem canonical_with_progs {l} (hl : swf zero32 s.progs = true → swf zero32 l = true) : canonical { s with progs := l } = true := by
  simp only [canonical, memoriesCanonical, storesCanonical, Bool.and_eq_true] at h ⊢
  simp_all only [and_self]

theorem canonical_with_spu {l} (hl : swf (fun _ => 0) s.spu = true → swf (fun _ => 0) l = true) :
    canonical { s with spu := l } = true := by
  simp only [canonical, memoriesCanonical, storesCanonical, Bool.and_eq_true] at h ⊢
  simp_all only [and_self]

theorem canonical_with_pipes {l} (hl : swf (fun _ => {}) s.pipes = true → swf (fun _ => {}) l = true) :
    canonical { s with pipes := l } = true := by
  simp only [canonical, memoriesCanonical, storesCanonical, Bool.and_eq_true] at h ⊢
  simp_all only [and_self]

theorem canonical_with_arrays {l} (hl : swf (fun _ => {}) s.arrays = true → swf (fun _ => {}) l = true) :
    canonical { s with arrays := l } = true := by
  simp only [canonical, memoriesCanonical, storesCanonical, Bool.and_eq_true] at h ⊢
  simp_all only [and_self]

theorem canonical_with_flags {l} (hl : swf zero16 s.flags = true → swf zero16 l = true) : canonical { s with flags := l } = true := by
  simp only [canonical, memoriesCanonical, storesCanonical, Bool.and_eq_true] at h ⊢
  simp_all only [and_self]

theorem canonical_with_units {l} (hl : swf (fun _ => {}) s.units = true → swf (fun _ => {}) l = true) :
    canonical { s with units := l } = true := by
  simp only [canonical, memoriesCanonical, storesCanonical, Bool.and_eq_true] at h ⊢
  simp_all only [and_self]

theorem canonical_with_turns {l} (hl : swf (fun _ => 0) s.turns = true → swf (fun _ => 0) l = true) :
    canonical { s with turns := l } = true := by
  simp only [canonical, memoriesCanonical, storesCanonical, Bool.and_eq_true] at h ⊢
  simp_all only [and_self]

theorem canonical_with_stackSt {l} (hl : swf (fun _ => {}) s.stackSt = true → swf (fun _ => {}) l = true) :
    canonical { s with stackSt := l } = true := by
  simp only [canonical, memoriesCanonical, storesCanonical, Bool.and_eq_true] at h ⊢
  simp_all only [and_self]

theorem canonical_with_meshTbl {l} (hl : swf zero8 s.meshTbl = true → swf zero8 l = true) :
    canonical { s with meshTbl := l } = true := by
  simp only [canonical, memoriesCanonical, storesCanonical, Bool.and_eq_true] at h ⊢
  simp_all only [and_self]

theorem canonical_with_meshEff {l} (hl : swf zero8 s.meshEff = true → swf zero8 l = true) :
    canonical { s with meshEff := l } = true := by
  simp only [canonical, memoriesCanonical, storesCanonical, Bool.and_eq_true] at h ⊢
  simp_all only [and_self]

theorem canonical_with_meshHeld {l} (hl : swf (fun _ => 0) s.meshHeld = true → swf (fun _ => 0) l = true) :
    canonical { s with meshHeld := l } = true := by
  simp only [canonical, memoriesCanonical, storesCanonical, Bool.and_eq_true] at h ⊢
  simp_all only [and_self]

theorem canonical_with_meshWait {l} (hl : swf (fun _ => []) s.meshWait = true → swf (fun _ => []) l = true) :
    canonical { s with meshWait := l } = true := by
  simp only [canonical, memoriesCanonical, storesCanonical, Bool.and_eq_true] at h ⊢
  simp_all only [and_self]

theorem canonical_with_meshLast {l} (hl : swf (fun _ => 8) s.meshLast = true → swf (fun _ => 8) l = true) :
    canonical { s with meshLast := l } = true := by
  simp only [canonical, memoriesCanonical, storesCanonical, Bool.and_eq_true] at h ⊢
  simp_all only [and_self]

theorem canonical_with_tarnWait {l} (hl : swf (fun _ => []) s.tarnWait = true → swf (fun _ => []) l = true) :
    canonical { s with tarnWait := l } = true := by
  simp only [canonical, memoriesCanonical, storesCanonical, Bool.and_eq_true] at h ⊢
  simp_all only [and_self]

theorem canonical_with_granted {l} (hl : swf (fun _ => []) s.granted = true → swf (fun _ => []) l = true) :
    canonical { s with granted := l } = true := by
  simp only [canonical, memoriesCanonical, storesCanonical, Bool.and_eq_true] at h ⊢
  simp_all only [and_self]

theorem canonical_with_tasks {l} (hl : swf (fun _ => {}) s.tasks = true → swf (fun _ => {}) l = true) :
    canonical { s with tasks := l } = true := by
  simp only [canonical, memoriesCanonical, storesCanonical, Bool.and_eq_true] at h ⊢
  simp_all only [and_self]

theorem canonical_with_charged {l} (hl : swf (fun _ => 0) s.charged = true → swf (fun _ => 0) l = true) :
    canonical { s with charged := l } = true := by
  simp only [canonical, memoriesCanonical, storesCanonical, Bool.and_eq_true] at h ⊢
  simp_all only [and_self]

theorem canonical_with_refill {l} (hl : swf (fun _ => 0) s.refill = true → swf (fun _ => 0) l = true) :
    canonical { s with refill := l } = true := by
  simp only [canonical, memoriesCanonical, storesCanonical, Bool.and_eq_true] at h ⊢
  simp_all only [and_self]

theorem canonical_with_fired {l} (hl : swf (fun _ => 0) s.fired = true → swf (fun _ => 0) l = true) :
    canonical { s with fired := l } = true := by
  simp only [canonical, memoriesCanonical, storesCanonical, Bool.and_eq_true] at h ⊢
  simp_all only [and_self]

theorem canonical_with_pfcPaused {l} (hl : swf (fun _ => 0) s.pfcPaused = true → swf (fun _ => 0) l = true) :
    canonical { s with pfcPaused := l } = true := by
  simp only [canonical, memoriesCanonical, storesCanonical, Bool.and_eq_true] at h ⊢
  simp_all only [and_self]

theorem canonical_with_flash {l} (hl : swf erased s.flash = true → swf erased l = true) : canonical { s with flash := l } = true := by
  simp only [canonical, memoriesCanonical, storesCanonical, Bool.and_eq_true] at h ⊢
  simp_all only [and_self]

theorem canonical_with_ssq {q} (hv : swf (fun _ => 0) s.ssq.tapV = true → swf (fun _ => 0) q.tapV = true)
    (hr : swf (fun _ => 0) s.ssq.tapR = true → swf (fun _ => 0) q.tapR = true) : canonical { s with ssq := q } = true := by
  simp only [canonical, memoriesCanonical, storesCanonical, Bool.and_eq_true] at h ⊢
  simp_all only [and_self]

theorem canonical_with_ore {o} (ho : swf (fun _ => 0) s.ore.accepted = true → swf (fun _ => 0) o.accepted = true) :
    canonical { s with ore := o } = true := by
  simp only [canonical, memoriesCanonical, storesCanonical, Bool.and_eq_true] at h ⊢
  simp_all only [and_self]

theorem canonical_with_sec {c} (hw : swf (fun _ => {}) s.sec.wkeys = true → swf (fun _ => {}) c.wkeys = true)
    (ho : swf (fun _ => {}) s.sec.okeys = true → swf (fun _ => {}) c.okeys = true) : canonical { s with sec := c } = true := by
  simp only [canonical, memoriesCanonical, storesCanonical, Bool.and_eq_true] at h ⊢
  simp_all only [and_self]

theorem canonical_with_fresh {n} : canonical { s with fresh := n } = true := h

theorem stackSt_of_canonical : swf (fun _ => {}) s.stackSt = true := by
  simp only [canonical, storesCanonical, Bool.and_eq_true] at h
  simp_all only

end

end Sys2Proof.Machine
end
section
/-! SUPPORT. Operations of the state, error correction, the mesh and the time keep every store canonical (O4). -/

namespace Sys2Proof.Machine

variable {s : State} (h : canonical s = true)
include h

theorem canonical_wrF {a lo n v} : canonical (wrF a lo n v s) = true := canonical_wr h

theorem canonical_bump {a n} : canonical (bump a n s) = true := canonical_wr h

theorem canonical_setBit {a i} : canonical (setBit a i s) = true := canonical_wrF h

theorem canonical_wr64 {a v} : canonical (wr64 a v s) = true := canonical_wr (canonical_wr h)

theorem canonical_drawn : canonical (drawn s) = true := h

theorem canonical_freeBytes {n} : canonical (freeBytes n s).2 = true := h

theorem canonical_bumpMeets {a n} : canonical (bumpMeets a n s) = true := by
  unfold bumpMeets
  exact canonical_ite h (canonical_bump (canonical_drawn h))

theorem canonical_randomBits {n} : canonical (randomBits n s).2 = true := canonical_drawn h

theorem canonical_queueTx {p v k} : canonical (queueTx p v k s) = true := canonical_setPort h

theorem canonical_ownPacket {k} : canonical (ownPacket k s) = true := h

theorem canonical_freshPacket {k} : canonical (freshPacket k s) = true := by
  unfold freshPacket
  exact canonical_ite h (canonical_ownPacket h)

theorem canonical_releaseFab : canonical (releaseFab s) = true := by
  unfold releaseFab
  exact canonical_ite h h

theorem canonical_updRun {k seq f} : canonical (updRun k seq f s) = true := canonical_setUnit h

theorem canonical_raisePend {p} : canonical (raisePend p s) = true := by
  unfold raisePend
  exact canonical_ite h h

theorem canonical_raise {source cause detail} : canonical (raise source cause detail s) = true := canonical_raisePend h

theorem canonical_takeTokens {n} : canonical (takeTokens n s) = true := canonical_wr h

theorem canonical_returnTokens {n} : canonical (returnTokens n s) = true := h

theorem canonical_corrected {a} : canonical (corrected a s) = true := by
  unfold corrected
  exact
    have h1 := canonical_setStk (canonical_bump h)
    canonical_ite (canonical_raise h1) h1

theorem canonical_degrade {n} : canonical (degrade n s) = true := canonical_raise (canonical_setBit (canonical_setBit h))

theorem canonical_checkBank {n bank old} : canonical (checkBank n bank old s) = true := by
  unfold checkBank
  exact canonical_ite (canonical_degrade h) h

theorem canonical_noteUe {a} : canonical (noteUe a s) = true := canonical_checkBank (canonical_setStk h)

theorem canonical_uncorrectable {a} : canonical (uncorrectable a s) = true := canonical_raise (canonical_noteUe (canonical_bump h))

theorem canonical_eccNote {e a} : canonical (eccNote e a s) = true := by
  unfold eccNote
  split
  exacts [h, canonical_corrected h, canonical_uncorrectable h]

theorem canonical_noteUnits {m us} : canonical (noteUnits m us s) = true := by
  unfold noteUnits
  exact canonical_foldl (fun _ _ h => canonical_eccNote h) h

theorem canonical_wakeStack {n} : canonical (wakeStack n s) = true := by
  unfold wakeStack
  exact canonical_ite (canonical_bump (canonical_wrF h)) h

theorem canonical_wakeUnits {us} : canonical (wakeUnits us s) = true := by
  unfold wakeUnits
  exact canonical_foldl (fun _ _ h => canonical_wakeStack h) h

theorem canonical_reachMere {m a n} : canonical (reachMere m a n s) = true := canonical_noteUnits (canonical_wakeUnits h)

theorem canonical_countFlits {r n} : canonical (countFlits r n s) = true := canonical_bump h

theorem canonical_meshSend {a b n} : canonical (meshSend a b n s) = true := by
  unfold meshSend
  exact canonical_ite h (canonical_foldl (fun _ _ h => canonical_countFlits h) h)

theorem canonical_meshCast {a ends n} : canonical (meshCast a ends n s) = true := by
  unfold meshCast
  exact canonical_iter (fun _ _ h => canonical_countFlits h) h

theorem canonical_holdFlit {r p v up} : canonical (holdFlit r p v up s) = true := canonical_with_meshHeld h swf_sset

theorem canonical_moveFlit {r p m} : canonical (moveFlit r p m s) = true := by
  unfold moveFlit
  extract_lets s1
  have h1 : canonical s1 = true := canonical_ite (canonical_holdFlit h) h
  split
  exacts [canonical_holdFlit h1, h1]

theorem canonical_meshStarve {r p cyc heads} : canonical (meshStarve r p cyc heads s) = true := by
  unfold meshStarve
  refine canonical_ite h ?_
  extract_lets k l able g left starved missed s1
  have h1 : canonical s1 = true := canonical_bump (canonical_bump (canonical_with_meshWait h swf_sset))
  clear_value s1 g
  cases g with
  | none => exact h1
  | some w => exact canonical_moveFlit (canonical_bump (canonical_with_meshLast h1 swf_sset))

theorem canonical_meshTblDataWrite {v} : canonical (meshTblDataWrite v s) = true := by
  unfold meshTblDataWrite
  refine canonical_ite h ?_
  split
  exacts [h, canonical_wrF (canonical_with_meshTbl h swf_ssetMany)]

theorem canonical_frameBegin : canonical (frameBegin s) = true := by
  unfold frameBegin
  exact canonical_ite (canonical_iter (fun _ _ h => canonical_ite h (canonical_bump h)) h) h

theorem canonical_trainSeams : canonical (trainSeams s) = true := canonical_wr h

theorem canonical_seamDrift {i} : canonical (seamDrift i s) = true := by
  unfold seamDrift
  exact canonical_ite h (canonical_raise (canonical_setBit h))

theorem canonical_clockSlow {c pct cycles} : canonical (clockSlow c pct cycles s) = true := by
  unfold clockSlow
  refine canonical_ite h ?_
  extract_lets p till _ s1 s2 s3
  have h1 : canonical s1 = true := h
  have h2 : canonical s2 = true := canonical_bump (canonical_bump h1)
  have h3 : canonical s3 = true := canonical_ite (canonical_setBit (canonical_bump h2)) h2
  exact canonical_ite (canonical_raise h3) h3

theorem canonical_timeSetLow {v} : canonical (timeSetLow v s) = true := by
  unfold timeSetLow
  exact canonical_ite (canonical_bump h) (canonical_wr h)

theorem canonical_timeSet {high} : canonical (timeSet high s) = true := by
  unfold timeSet
  exact canonical_ite h (canonical_ite (canonical_bump h) (canonical_wr h))

theorem canonical_measured {off} : canonical (measured off s) = true := canonical_wr (canonical_wrF h)

theorem canonical_sendDelayReq : canonical (sendDelayReq s) = true := canonical_send h

theorem canonical_ptpMessage {m} : canonical (ptpMessage m s) = true := by
  unfold ptpMessage
  refine canonical_ite h ?_
  split
  exacts [h, h, h, canonical_sendDelayReq h, canonical_measured h]

theorem canonical_timeExchange {t1 t2 t3 t4} : canonical (timeExchange t1 t2 t3 t4 s) = true := by
  unfold timeExchange
  exact canonical_ite h (canonical_measured h)

theorem canonical_timeLock : canonical (timeLock s) = true := by
  unfold timeLock
  split
  exacts [canonical_ite (canonical_setBit h) h, h]

theorem canonical_timeLockLoss : canonical (timeLockLoss s) = true := by
  unfold timeLockLoss
  refine canonical_ite h ?_
  refine canonical_ite ?_ (canonical_ite (canonical_wrF h) h)
  refine canonical_ite ?_ h
  refine canonical_raise (canonical_bump (canonical_wrF ?_))
  exact h

end Sys2Proof.Machine
end

section
/-! SUPPORT. Flags, starts and ends of commands, operands and reductions keep every store canonical (O4). -/

namespace Sys2Proof.Machine

variable {s : State} (h : canonical s = true)
include h

theorem canonical_addFlag {c f n k seq} : canonical (addFlag c f n k seq s) = true := by
  unfold addFlag
  exact canonical_ite (canonical_setFlag h) (canonical_bump h)

theorem canonical_doSet {k q} : canonical (doSet k q s) = true := by
  unfold doSet
  exact canonical_ite (canonical_foldl (fun _ _ h => canonical_addFlag h) h) h

theorem canonical_consume {c q} : canonical (consume c q s) = true := by
  unfold consume
  exact canonical_ite (canonical_setFlag h) h

theorem canonical_updBundle {b f} : canonical (updBundle b f s) = true := h

theorem canonical_settleBundle {b} : canonical (settleBundle b s) = true := by
  unfold settleBundle
  exact canonical_ite h (canonical_ite h (canonical_returnTokens (canonical_updBundle h)))

theorem canonical_launch {k q r} : canonical (launch k q r s) = true := by
  unfold launch
  exact canonical_settleBundle (canonical_setUnit (canonical_ite (canonical_consume h) h))

theorem canonical_tryStart {k q r cost} : canonical (tryStart k q r cost s) = true := by
  unfold tryStart
  refine canonical_ite h (canonical_ite h (canonical_ite h ?_))
  refine canonical_ite (canonical_ite (canonical_launch h) (canonical_returnTokens (canonical_launch h))) ?_
  exact canonical_ite h (canonical_ite (canonical_launch (canonical_updBundle h)) (canonical_updBundle (canonical_setUnit h)))

theorem canonical_takeWait {k r} : canonical (takeWait k r s) = true := by
  unfold takeWait
  exact canonical_updRun (canonical_ite (canonical_consume h) h)

theorem canonical_retire {k seq} : canonical (retire k seq s) = true := by
  unfold retire
  split
  · exact h
  · exact
      have h1 := canonical_setUnit h
      canonical_ite h1 (canonical_returnTokens h1)

theorem canonical_complete {k seq} : canonical (complete k seq s) = true := by
  unfold complete
  split
  · exact h
  · exact
      have h1 := canonical_updRun (canonical_ite h (canonical_returnTokens h))
      have h2 := canonical_ite (canonical_doSet h1) h1
      canonical_ite h2 (canonical_retire h2)

theorem canonical_endIter {k seq} : canonical (endIter k seq s) = true := by
  unfold endIter
  split
  · exact h
  · exact
      have h1 := canonical_updRun (canonical_ite (canonical_doSet h) h)
      canonical_ite (canonical_complete h1) h1

theorem canonical_startEmpty {k seq} : canonical (startEmpty k seq s) = true := by
  unfold startEmpty
  split
  exacts [canonical_ite (canonical_complete h) h, h]

theorem canonical_startPrep {k q p} : canonical (startPrep k q p s) = true := by
  unfold startPrep
  exact
    have h1 := canonical_tryStart h
    canonical_ite (canonical_startEmpty (canonical_bump h1)) h1

theorem canonical_logSkip {q reason} : canonical (logSkip q reason s) = true := by
  unfold logSkip
  exact
    have h1 := canonical_bump h
    canonical_ite h1 h1

theorem canonical_strictHalt {q} : canonical (strictHalt q s) = true := by
  unfold strictHalt
  refine canonical_raise ?_
  exact h

theorem canonical_markSkip : canonical (markSkip s) = true := h

theorem canonical_storeWrite {st a l} : canonical (storeWrite st a l s) = true := by
  unfold storeWrite
  split
  exacts [canonical_tarnWrite h, canonical_mereWrite h]

theorem canonical_writeRow {st d n i j c v} : canonical (writeRow st d n i j c v s) = true := canonical_storeWrite h

theorem canonical_reachSeg {c g} : canonical (reachSeg c g s) = true := by
  unfold reachSeg
  exact canonical_ite h (canonical_bump (canonical_setSeg h))

theorem canonical_reachSegs {c a n} : canonical (reachSegs c a n s) = true := by
  unfold reachSegs
  exact canonical_foldl (fun _ _ h => canonical_reachSeg h) h

theorem canonical_wakeSeg {c g} : canonical (wakeSeg c g s) = true := by
  unfold wakeSeg
  exact canonical_ite h (canonical_bump (canonical_setSeg h))

theorem canonical_wakeSegs {c a n} : canonical (wakeSegs c a n s) = true := by
  unfold wakeSegs
  exact canonical_foldl (fun _ _ h => canonical_wakeSeg h) h

theorem canonical_withSegs {c l f} (hf : ∀ s, canonical s = true → canonical (f s) = true) : canonical (withSegs c l f s) = true := by
  unfold withSegs
  exact canonical_ite (hf _ h) (canonical_foldl (fun _ _ h => canonical_reachSeg h) h)

theorem canonical_runIter {k r body} (hbody : ∀ s, canonical s = true → canonical (body s) = true) :
    canonical (runIter k r body s) = true := by
  unfold runIter
  exact canonical_ite (canonical_withSegs h fun _ h => canonical_endIter (hbody _ (canonical_takeWait h))) h

theorem canonical_unitEvent {k op free prep body} (hbody : ∀ r s, canonical s = true → canonical (body r s) = true) :
    canonical (unitEvent k op free prep body s) = true := by
  unfold unitEvent
  refine canonical_ite h ?_
  split
  · exact canonical_runIter h fun _ h => hbody _ _ h
  · split
    · exact h
    · refine canonical_ite h ?_
      split
      · exact h
      · extract_lets s1
        have h1 : canonical s1 = true := canonical_startPrep h
        split
        exacts [canonical_runIter h1 fun _ h => hbody _ _ h, h1]

theorem canonical_lateSkip {k seq reason} : canonical (lateSkip k seq reason s) = true := by
  unfold lateSkip
  split
  · exact h
  · exact
      have h1 := canonical_markSkip (canonical_logSkip (canonical_updRun (canonical_ite h (canonical_returnTokens h))))
      canonical_ite (canonical_strictHalt h1) h1

theorem canonical_takeMet {k r i} : canonical (takeMet k r i s) = true := by
  unfold takeMet
  exact canonical_ite h (canonical_updRun (canonical_ite (canonical_consume h) h))

theorem canonical_nopBody {x} : canonical (nopBody x s) = true := h

theorem canonical_accMeets {c d n i j astep w} : canonical (accMeets c d n i j astep w s) = true := by
  unfold accMeets
  exact canonical_ite h (canonical_ite (canonical_bumpMeets h) h)

theorem canonical_countSat {c slot n} : canonical (countSat c slot n s) = true := by
  unfold countSat
  refine canonical_ite h ?_
  exact
    have h1 := canonical_bump h
    canonical_ite h1 (canonical_bump (canonical_bump h1))

theorem canonical_dstRow {c d n i j w row codes} : canonical (dstRow c d n i j w row codes s) = true := by
  unfold dstRow
  refine canonical_ite ?_ (canonical_writeRow h)
  refine canonical_iter (fun _ _ h => ?_) h
  split
  exacts [canonical_tregSet h, h]

theorem canonical_redPut {c d n it j i v} : canonical (redPut c d n it j i v s) = true := by
  unfold redPut
  exact canonical_ite (canonical_tregSet h) (canonical_tarnWrite h)

theorem canonical_redIter {c r isInt inp} : canonical (redIter c r isInt inp s) = true := by
  unfold redIter
  extract_lets op e base dv dx n s1
  have h1 : canonical s1 = true := canonical_bump h
  refine canonical_ite h1 (canonical_iter (fun _ t h => ?_) h1)
  extract_lets blocks old start res
  clear_value res
  cases res with
  | none => exact h
  | some v =>
    have h2 : canonical (if v.sats = 0 then t else bump (coreReg c 0xB14C) v.sats t) = true := canonical_ite h (canonical_bump h)
    exact canonical_ite (canonical_redPut (canonical_redPut h2)) (canonical_redPut h2)

theorem canonical_redBody {c r} : canonical (redBody c r s) = true := by
  unfold redBody
  exact canonical_redIter (canonical_ite h (canonical_accMeets h))

theorem canonical_startRed {k q p} : canonical (startRed k q p s) = true := by
  unfold startRed
  refine canonical_ite ?_ (canonical_startPrep h)
  exact
    have h1 := canonical_tryStart h
    canonical_ite (canonical_bump h1) h1

theorem canonical_redStep {c k r} : canonical (redStep c k r s) = true := by
  unfold redStep
  exact canonical_ite h (canonical_runIter h fun _ h => canonical_redBody h)

theorem canonical_rduRed {c} : canonical (rduRed c s) = true := by
  unfold rduRed
  refine canonical_ite h ?_
  split
  · exact canonical_redStep h
  · split
    · exact h
    · refine canonical_ite h ?_
      split
      · exact h
      · extract_lets s1
        have h1 : canonical s1 = true := canonical_startRed h
        split
        exacts [canonical_redStep h1, h1]

theorem canonical_rduNop {c} : canonical (rduNop c s) = true := canonical_unitEvent h fun _ _ h => canonical_nopBody h

end Sys2Proof.Machine
end

section
/-! SUPPORT. The stack engine, Tarn and the transfer engines keep every store canonical (O4). -/

namespace Sys2Proof.Machine

variable {s : State} (h : canonical s = true)
include h

theorem canonical_settleLse {c seq} : canonical (settleLse c seq s) = true := by
  unfold settleLse
  split
  exacts [h, canonical_ite (canonical_endIter (canonical_updRun h)) h]

theorem canonical_castQueries {c r l} : canonical (castQueries c r l s) = true := by
  unfold castQueries
  exact canonical_ite h (canonical_meshCast h)

theorem canonical_sendSubs {c r} : canonical (sendSubs c r s) = true := by
  unfold sendSubs
  refine canonical_settleLse ?_
  exact canonical_foldl (fun _ _ h => canonical_ite (canonical_updRun (canonical_setStk h)) h) (canonical_castQueries h)

theorem canonical_writePart {c pd row p v} : canonical (writePart c pd row p v s) = true := canonical_tarnWrite h

theorem canonical_beginLse {c r} : canonical (beginLse c r s) = true := by
  unfold beginLse
  extract_lets k s1 attn ops p b long s2
  have h1 : canonical s1 = true := canonical_takeWait h
  have h2 : canonical s2 = true := canonical_bump h1
  refine canonical_ite (canonical_endIter h1) (canonical_sendSubs (canonical_updRun (canonical_ite ?_ h2)))
  exact canonical_foldl (fun _ _ h => canonical_iter (fun _ _ h => canonical_writePart h) h) h2

theorem canonical_lseEvent {c op prep} : canonical (lseEvent c op prep s) = true := by
  unfold lseEvent
  refine canonical_ite h ?_
  extract_lets s1
  have h1 : canonical s1 = true := by
    unfold s1
    split
    · exact h
    · refine canonical_ite h ?_
      split
      exacts [h, canonical_startPrep h]
  split
  · exact canonical_sendSubs h1
  · split
    exacts [canonical_withSegs h1 fun _ h => canonical_beginLse h, h1]

theorem canonical_entryError {st slot} : canonical (entryError st slot s) = true := canonical_raise (canonical_wr h)

theorem canonical_attnEntry {st x p b ecc} : canonical (attnEntry st x p b ecc s) = true := by
  unfold attnEntry
  extract_lets c t slot bad len win lo stripes0 order s1 found misses rows us ue s2 pages qd s3 s4 s5 s6
  have h1 : canonical s1 = true := canonical_ite h (canonical_with_fresh h)
  have h2 : canonical s2 = true := canonical_noteUnits h1
  have h3 : canonical s3 = true :=
    canonical_iter (fun _ _ h => canonical_ite (canonical_tarnWrite (canonical_freeBytes h)) (canonical_writePart h)) h2
  have h6 : canonical s6 = true := canonical_bump (canonical_bump (canonical_bump (canonical_bump (canonical_meshSend h3))))
  exact canonical_ite (canonical_entryError h6) h6

theorem canonical_freePieces {l} : canonical (freePieces l s) = true := by
  unfold freePieces
  exact canonical_foldl (fun _ _ h => canonical_mereWrite (canonical_freeBytes h)) h

theorem canonical_moveEntry {st x p restore b ecc} : canonical (moveEntry st x p restore b ecc s) = true := by
  unfold moveEntry
  extract_lets t slot len _ cold all bad miss mine pt _ misses s1
  have h1 : canonical s1 = true := canonical_bump (canonical_bump (canonical_bump (canonical_noteUnits h)))
  refine canonical_ite (canonical_entryError h1) (canonical_ite h1 ?_)
  refine canonical_then ?_ fun h2 => canonical_ite (canonical_entryError (canonical_updRun (canonical_freePieces h2))) h2
  refine canonical_foldl (fun _ _ h => ?_) (canonical_noteUnits (canonical_wakeStack (canonical_wakeStack h1)))
  refine canonical_iter (fun _ _ h => ?_) h
  exact
    have h3 := canonical_meshSend (canonical_bump h)
    have h4 := canonical_bump (canonical_mereWrite (canonical_snd_ite (canonical_freeBytes h3) h3))
    canonical_ite (canonical_mereWrite (canonical_freeBytes h4)) h4

theorem canonical_subCommand_serveSub {st x rest ecc} : canonical (subCommand.serveSub st x rest ecc s) = true := by
  unfold subCommand.serveSub
  extract_lets sub s1 n restore s2
  have h1 : canonical s1 = true := canonical_setStk (canonical_wakeStack h)
  have h2 : canonical s2 = true := by
    unfold s2
    split
    exacts [h1, canonical_iter (fun _ _ h => canonical_ite (canonical_attnEntry h) (canonical_moveEntry h)) h1]
  exact canonical_settleLse h2

theorem canonical_subCommand {st ecc} : canonical (subCommand st ecc s) = true := by
  unfold subCommand
  refine canonical_ite h ?_
  split
  exacts [h, canonical_ite (canonical_withSegs h fun _ h => canonical_subCommand_serveSub h) h]

theorem canonical_lseNop {c} : canonical (lseNop c s) = true := canonical_lseEvent h

theorem canonical_lseAttn {c} : canonical (lseAttn c s) = true := canonical_lseEvent h

theorem canonical_lseMove {c} : canonical (lseMove c s) = true := canonical_lseEvent h

theorem canonical_owcAdd {c a n up} : canonical (owcAdd c a n up s) = true := by
  unfold owcAdd
  exact canonical_foldl (fun _ _ h => canonical_setSeg h) h

theorem canonical_windowDrop {c} : canonical (windowDrop c s) = true := canonical_raise (canonical_bump h)

theorem canonical_makeArrival {x} : canonical (makeArrival x s) = true := by
  unfold makeArrival
  split
  exacts [canonical_send h, canonical_send (canonical_owcAdd (canonical_tarnWrite h))]

theorem canonical_serveIngress {c} : canonical (serveIngress c s) = true := by
  unfold serveIngress
  refine canonical_foldl (fun _ _ h => ?_) h
  refine canonical_ite h ?_
  refine canonical_ite ?_ (canonical_reachSegs h)
  refine canonical_makeArrival ?_
  exact h

theorem canonical_tarnArrival {c task a acc} : canonical (tarnArrival c task a acc s) = true := by
  unfold tarnArrival
  refine canonical_ite h (canonical_ite (canonical_send (canonical_windowDrop h)) ?_)
  refine canonical_serveIngress ?_
  split
  exacts [h, canonical_owcAdd h]

theorem canonical_countRefused {c lost} : canonical (countRefused c lost s) = true := by
  unfold countRefused
  exact canonical_foldl (fun _ _ h => canonical_bump h) (canonical_bump h)

theorem canonical_tarnStarve {c reqs} : canonical (tarnStarve c reqs s) = true := by
  unfold tarnStarve
  refine canonical_ite h (canonical_bump (canonical_countRefused ?_))
  exact canonical_with_granted (canonical_with_tarnWait h swf_sset) swf_sset

theorem canonical_clearSeg {c g} : canonical (clearSeg c g s) = true := canonical_with_tarn h (swf_sdrop _)

theorem canonical_settleTpwr {c} : canonical (settleTpwr c s) = true := by
  unfold settleTpwr
  exact canonical_foldl (fun _ _ h => canonical_ite (canonical_endIter h) h) h

theorem canonical_segmentStateChange {c g} : canonical (segmentStateChange c g s) = true := by
  unfold segmentStateChange
  extract_lets sg
  split
  · exact h
  · refine canonical_ite h (canonical_ite ?_ (canonical_ite (canonical_setSeg h) h))
    extract_lets s1
    have h1 : canonical s1 = true := canonical_setSeg h
    exact canonical_serveIngress (canonical_settleTpwr (canonical_ite (canonical_clearSeg h1) h1))

theorem canonical_segmentWake {c g} : canonical (segmentWake c g s) = true := by
  unfold segmentWake
  exact canonical_ite h (canonical_serveIngress (canonical_setSeg h))

theorem canonical_settleIters {c e seq fuel} : canonical (settleIters c e seq fuel s) = true := by
  induction fuel generalizing s with
  | zero => exact h
  | succ n ih =>
    unfold settleIters
    extract_lets k
    split
    · exact h
    · refine canonical_ite (canonical_ite h (canonical_complete h)) (canonical_ite h (canonical_ite ?_ (ih (canonical_endIter h))))
      exact canonical_updRun (canonical_ite (canonical_doSet h) h)

theorem canonical_openIter {c e r} : canonical (openIter c e r s) = true := by
  unfold openIter
  refine canonical_settleIters (canonical_updRun (canonical_bump ?_))
  exact canonical_bump (canonical_takeMet (canonical_ite (canonical_setFlag h) h))

theorem canonical_drainStream {c r} : canonical (drainStream c r s) = true := by
  unfold drainStream
  exact
    have h1 := canonical_updRun (canonical_setFlag h)
    canonical_ite (canonical_complete h1) h1

theorem canonical_startChan {k q p} : canonical (startChan k q p s) = true := by
  unfold startChan
  split
  · exact h
  · refine canonical_ite ?_ (canonical_startPrep h)
    exact
      have h1 := canonical_tryStart h
      canonical_ite (canonical_updRun h1) h1

theorem canonical_engineEvent {c e op prep} : canonical (engineEvent c e op prep s) = true := by
  unfold engineEvent
  refine canonical_ite h ?_
  extract_lets s1
  have h1 : canonical s1 = true := by
    unfold s1
    split
    · exact h
    · refine canonical_ite h ?_
      split
      exacts [h, canonical_startChan h]
  split
  · exact canonical_openIter h1
  · split
    exacts [canonical_ite (canonical_drainStream h1) h1, h1]

theorem canonical_fxeTpwr {c} : canonical (fxeTpwr c s) = true := by
  unfold fxeTpwr
  refine canonical_ite h ?_
  split
  · exact h
  · refine canonical_ite h ?_
    split
    · exact h
    · exact
        have h1 := canonical_startChan h
        canonical_ite h1 (canonical_settleTpwr (canonical_foldl (fun _ _ h => canonical_ite h (canonical_setSeg h)) h1))

theorem canonical_meshIssue {c x} : canonical (meshIssue c x s) = true := by
  unfold meshIssue
  split
  exacts [canonical_ite (canonical_ite h (canonical_meshSend h)) (canonical_meshSend h), h]

theorem canonical_meshLand {c x} : canonical (meshLand c x s) = true := by
  unfold meshLand
  split
  exacts [canonical_ite (canonical_ite h (canonical_meshSend h)) (canonical_meshSend h), h]

theorem canonical_transferIssue {c e ch} : canonical (transferIssue c e ch s) = true := by
  unfold transferIssue
  extract_lets k
  refine canonical_ite h ?_
  split
  · exact h
  · split
    · exact h
    · refine canonical_ite h ?_
      extract_lets s1 s2 x s3 s4
      have h2 : canonical s2 = true := canonical_updRun (canonical_with_turns h swf_sset)
      have h3 : canonical s3 = true := canonical_ite h2 h2
      have h4 : canonical s4 = true := by
        unfold s4
        split
        exacts [canonical_owcAdd h3, h3]
      exact canonical_meshIssue (canonical_setOutst h4)

theorem canonical_xferDone {c e x fails conseq} : canonical (xferDone c e x fails conseq s) = true := by
  unfold xferDone
  extract_lets k s1 s2 base s3
  have h1 : canonical s1 = true := canonical_setOutst h
  have h2 : canonical s2 = true := by
    unfold s2
    split
    exacts [canonical_owcAdd h1, h1]
  have h3 : canonical s3 = true := canonical_bump (canonical_bump h2)
  exact canonical_settleIters (canonical_ite (canonical_raisePend (canonical_bump (canonical_updRun h3))) h3)

theorem canonical_landLocal {c e x ecc} : canonical (landLocal c e x ecc s) = true := by
  unfold landLocal
  extract_lets s1 srcBad dropSrc data0 data s2
  have h1 : canonical s1 = true := by
    unfold s1
    split
    exacts [canonical_noteUnits (canonical_wakeUnits h), h]
  have h2 : canonical s2 = true := by
    unfold s2
    split
    exacts [canonical_ite (canonical_windowDrop h1) h1, h1]
  split
  · exact canonical_ite (canonical_xferDone (canonical_windowDrop h2)) (canonical_xferDone (canonical_tarnWrite h2))
  · exact canonical_xferDone (canonical_mereWrite (canonical_bump (canonical_noteUnits (canonical_wakeUnits h2))))
  · exact h2

theorem canonical_transferLand {c e n ecc} : canonical (transferLand c e n ecc s) = true := by
  unfold transferLand
  refine canonical_ite h ?_
  split
  · exact h
  · refine canonical_ite h ?_
    exact canonical_ite (canonical_landLocal (canonical_meshLand h)) (canonical_foldl (fun _ _ h => canonical_reachSegs h) h)

theorem canonical_fxeNop {c} : canonical (fxeNop c s) = true := canonical_engineEvent h

theorem canonical_fxeFetch {c} : canonical (fxeFetch c s) = true := canonical_engineEvent h

theorem canonical_fxeStream {c} : canonical (fxeStream c s) = true := canonical_engineEvent h

theorem canonical_fxeGather {c} : canonical (fxeGather c s) = true := canonical_engineEvent h

theorem canonical_sxeNop {c} : canonical (sxeNop c s) = true := canonical_engineEvent h

theorem canonical_sxeStore {c} : canonical (sxeStore c s) = true := canonical_engineEvent h

theorem canonical_sxeScatter {c} : canonical (sxeScatter c s) = true := canonical_engineEvent h

theorem canonical_sxeScadd {c} : canonical (sxeScadd c s) = true := canonical_engineEvent h

end Sys2Proof.Machine
end

section
/-! SUPPORT. The ring keeps every store canonical (O4). -/

namespace Sys2Proof.Machine

variable {s : State} (h : canonical s = true)
include h

theorem canonical_setLane {b f} : canonical (setLane b f s) = true := h

theorem canonical_sendCtl {b kind revno n} : canonical (sendCtl b kind revno n s) = true := canonical_queueTx h

theorem canonical_sendData {b revno q l} : canonical (sendData b revno q l s) = true := by
  unfold sendData
  exact canonical_foldl (fun _ _ h => canonical_queueTx h) h

theorem canonical_occupy {p v n up} : canonical (occupy p v n up s) = true := canonical_setPort h

theorem canonical_takeRing {p kind revno n} : canonical (takeRing p kind revno n s) = true := by
  unfold takeRing
  refine canonical_foldl (fun _ _ h => ?_) h
  refine canonical_occupy ?_
  exact h

theorem canonical_stale : canonical (stale s) = true := canonical_bump h

theorem canonical_setSlots {b f} : canonical (setSlots b f s) = true := canonical_setLane h

theorem canonical_freeSlots {b} : canonical (freeSlots b s) = true := by
  unfold freeSlots
  exact canonical_foldl (fun _ _ h => canonical_sendCtl h) (canonical_setSlots h)

theorem canonical_updSlot {j f} : canonical (updSlot j f s) = true := by
  unfold updSlot
  exact canonical_foldl (fun _ _ h => canonical_ite (canonical_freeSlots (canonical_setSlots h)) h) h

theorem canonical_takeSeq {b q} : canonical (takeSeq b q s) = true := canonical_setLane h

theorem canonical_oreOpen {fill m revno} : canonical (oreOpen fill m revno s) = true := by
  unfold oreOpen
  exact canonical_foldl (fun _ _ h => canonical_sendCtl h) (canonical_with_ore h fun _ => swf_nil _)

theorem canonical_beginRev {q} : canonical (beginRev q s) = true := canonical_oreOpen (canonical_wr h)

theorem canonical_settleTokens : canonical (settleTokens s) = true := by
  unfold settleTokens
  split
  exacts [h, canonical_ite (canonical_updRun (canonical_returnTokens h)) h]

theorem canonical_settleRev : canonical (settleRev s) = true := by
  unfold settleRev
  extract_lets s1
  have h1 : canonical s1 = true := canonical_settleTokens h
  split
  · exact h1
  · exact canonical_ite (canonical_complete (canonical_with_ore h1 fun _ => swf_nil _)) h1

theorem canonical_endRev {cause} : canonical (endRev cause s) = true := by
  unfold endRev
  refine canonical_then ?_ fun h1 => canonical_settleRev (canonical_ite (canonical_bump h1) h1)
  refine canonical_raisePend ?_
  exact h

theorem canonical_oreAbort : canonical (oreAbort s) = true := by
  unfold oreAbort
  exact canonical_ite (canonical_with_ore h fun _ => swf_nil _) h

theorem canonical_oreRev : canonical (oreRev s) = true := by
  unfold oreRev
  refine canonical_ite h ?_
  split
  · exact h
  · refine canonical_ite h ?_
    split
    · exact h
    · exact
        have h1 := canonical_startPrep h
        canonical_ite (canonical_beginRev h1) h1

theorem canonical_oreNop : canonical (oreNop s) = true := canonical_unitEvent h fun _ _ h => canonical_nopBody h

theorem canonical_sendShard {b q l} : canonical (sendShard b q l s) = true := by
  unfold sendShard
  refine canonical_setLane (canonical_sendData ?_)
  exact h

theorem canonical_injectSlice {b j ecc} : canonical (injectSlice b j ecc s) = true := by
  unfold injectSlice
  extract_lets m d a l inWin s1
  have h1 : canonical s1 = true := canonical_reachMere h
  refine canonical_ite (canonical_endRev (canonical_bump h1)) ?_
  exact canonical_settleRev (canonical_bump (canonical_sendShard (canonical_setSlots h1)))

theorem canonical_injectFill {b} : canonical (injectFill b s) = true := by
  unfold injectFill
  split
  · exact h
  · refine canonical_sendShard (canonical_setSlots ?_)
    exact h

theorem canonical_shardInject {b ecc} : canonical (shardInject b ecc s) = true := by
  unfold shardInject
  exact canonical_ite h (canonical_ite (canonical_injectFill h) (canonical_ite h (canonical_injectSlice h)))

theorem canonical_shardForward {b} : canonical (shardForward b s) = true := by
  unfold shardForward
  refine canonical_ite h ?_
  refine canonical_ite ?_ ?_
  · split
    exacts [h, canonical_sendShard (canonical_updSlot h)]
  · refine canonical_ite h ?_
    split
    exacts [h, canonical_ite h (canonical_settleRev (canonical_bump (canonical_sendShard (canonical_updSlot h))))]

theorem canonical_settleFill : canonical (settleFill s) = true := by
  unfold settleFill
  exact canonical_ite (canonical_wrF h) h

theorem canonical_noteTarn {m} : canonical (noteTarn m s) = true := h

theorem canonical_keepShard {l} : canonical (keepShard l s) = true := by
  unfold keepShard
  extract_lets m s1
  have h1 : canonical s1 = true := canonical_bump h
  refine canonical_ite ?_ ?_
  · split
    exacts [h1, canonical_ite (canonical_wrF (canonical_mereWrite (canonical_wakeUnits h))) h1]
  · refine canonical_ite ?_ ?_
    · exact canonical_ite (canonical_wrF (canonical_noteTarn (canonical_tarnWrite (canonical_wakeSegs h)))) h1
    · split
      exacts [h1, canonical_ite (canonical_wrF (canonical_mereWrite (canonical_wakeUnits h))) h1]

theorem canonical_seedShard {l} : canonical (seedShard l s) = true := by
  unfold seedShard
  exact canonical_ite (canonical_bump h) (canonical_ite (canonical_keepShard h) (canonical_ite (canonical_bump h) h))

theorem canonical_seedBytes {data} : canonical (seedBytes data s) = true := by
  unfold seedBytes
  refine canonical_ite h ?_
  extract_lets r _ s1
  have h1 : canonical s1 = true := h
  have h2 := canonical_foldl (l := r.1) (fun _ l h => canonical_seedShard (l := l) h) h1
  exact canonical_settleFill (canonical_ite h2 h2)

theorem canonical_fill {v} : canonical (fill v s) = true := by
  unfold fill
  refine canonical_ite h (canonical_ite (canonical_ite h (canonical_settleFill h)) (canonical_ite h ?_))
  exact
    have h1 := canonical_wr h
    canonical_ite h1 (canonical_oreOpen h1)

theorem canonical_askAgain {b q d} : canonical (askAgain b q d s) = true := by
  unfold askAgain
  refine canonical_ite (canonical_sendCtl (canonical_bump (canonical_setLane h))) ?_
  exact canonical_freshPacket (canonical_bump (canonical_setLane h))

theorem canonical_fillVerified {b q l} : canonical (fillVerified b q l s) = true := by
  unfold fillVerified
  extract_lets j s1
  have h1 : canonical s1 = true := canonical_sendCtl (canonical_takeSeq h)
  refine canonical_ite (canonical_settleFill (canonical_sendCtl (canonical_setSlots (canonical_bump h1)))) ?_
  exact canonical_ite (canonical_settleFill (canonical_sendCtl (canonical_setSlots (canonical_keepShard h1)))) (canonical_setSlots h1)

theorem canonical_revVerified {b q l} : canonical (revVerified b q l s) = true := by
  unfold revVerified
  extract_lets j js s1
  have h1 : canonical s1 = true := canonical_sendCtl (canonical_bump (canonical_takeSeq h))
  refine canonical_ite ?_ (canonical_setSlots h1)
  refine canonical_settleRev (canonical_sendCtl (canonical_bump (canonical_setSlots ?_)))
  exact h1

theorem canonical_shardArrival_placeShard {p revno q l} : canonical (shardArrival.placeShard p revno q l s) = true := by
  unfold shardArrival.placeShard
  split
  · exact canonical_stale h
  next b _ =>
  extract_lets ln j held key hold d
  have hh : canonical (hold s) = true := canonical_ite h (canonical_setSlots h)
  refine canonical_ite (canonical_stale h) (canonical_ite (canonical_stale h) (canonical_ite (canonical_ite ?_ ?_) ?_))
  · exact canonical_fillVerified hh
  · exact canonical_askAgain (canonical_bump hh)
  · exact canonical_ite (canonical_revVerified hh) (canonical_ite
      (canonical_settleRev (canonical_sendCtl (canonical_bump (canonical_takeSeq (by exact h)))))
      (canonical_askAgain (canonical_bump hh)))

theorem canonical_shardArrival {p revno q l} : canonical (shardArrival p revno q l s) = true := by
  unfold shardArrival
  exact canonical_ite h (canonical_shardArrival_placeShard (canonical_takeRing h))

theorem canonical_takeSpring {q} : canonical (takeSpring q s) = true := h

theorem canonical_springFetch {b l} : canonical (springFetch b l s) = true := by
  unfold springFetch
  refine canonical_ite h ?_
  extract_lets
  split
  · extract_lets s1
    have h1 : canonical s1 = true := canonical_takeSpring h
    refine canonical_ite (canonical_ite (canonical_fillVerified h1) ?_)
      (canonical_ite (canonical_revVerified h1) (canonical_endRev (canonical_bump h1)))
    exact canonical_settleFill (canonical_sendCtl (canonical_raise (canonical_bump (canonical_takeSeq (canonical_setSlots h1)))))
  · exact h

theorem canonical_ctlPacket {p kind n revno f} (hf : ∀ b s, canonical s = true → canonical (f b s) = true) :
    canonical (ctlPacket p kind n revno f s) = true := by
  unfold ctlPacket
  refine canonical_ite h ?_
  extract_lets s1
  have h1 : canonical s1 = true := canonical_takeRing h
  split
  exacts [canonical_stale h1, canonical_ite (hf _ _ h1) (canonical_stale h1)]

theorem canonical_grant {p revno n} : canonical (grant p revno n s) = true := by
  unfold grant
  refine canonical_ite h ?_
  extract_lets s1
  have h1 : canonical s1 = true := canonical_takeRing h
  split
  · exact canonical_stale h1
  · refine canonical_ite (canonical_ite h1 (canonical_setLane h1)) ?_
    refine canonical_ite ?_ (canonical_stale h1)
    exact h1

theorem canonical_ringCredit {p revno} : canonical (ringCredit p revno s) = true :=
  canonical_ctlPacket h fun _ _ h => canonical_setLane h

theorem canonical_ringAck {p revno q} : canonical (ringAck p revno q s) = true :=
  canonical_ctlPacket h fun _ _ h => canonical_settleFill (canonical_settleRev (canonical_updSlot h))

theorem canonical_resend {p revno q} : canonical (resend p revno q s) = true := by
  unfold resend
  refine canonical_ctlPacket h fun _ _ h => ?_
  split
  exacts [canonical_ite (canonical_sendData h) h, h]

theorem canonical_snakeFlits {n} : canonical (snakeFlits n s) = true := by
  unfold snakeFlits
  exact canonical_foldl (fun _ _ h => canonical_countFlits h) h

theorem canonical_snakeTile : canonical (snakeTile s) = true := by
  unfold snakeTile
  refine canonical_ite h ?_
  extract_lets t
  split
  · exact h
  · refine canonical_ite h (canonical_settleRev (canonical_updSlot (canonical_snakeFlits (canonical_bump ?_))))
    exact h

theorem canonical_missRecord {t} : canonical (missRecord s t).2 = true := canonical_freeBytes h

theorem canonical_landTile {c t r words} : canonical (landTile c t r words s) = true := by
  unfold landTile
  exact canonical_addFlag (canonical_with_ore (canonical_tarnWrite (canonical_wakeSegs h)) swf_sset)

theorem canonical_tileAccept {c} : canonical (tileAccept c s) = true := by
  unfold tileAccept
  refine canonical_ite h ?_
  split
  · exact h
  · refine canonical_ite h ?_
    refine canonical_ite ?_ ?_
    · refine canonical_settleRev (canonical_landTile ?_)
      exact canonical_ite (canonical_setFlag (canonical_missRecord h)) (canonical_missRecord h)
    · split
      · exact h
      · refine canonical_ite h ?_
        extract_lets a _ s1
        have h1 : canonical s1 = true := by
          exact canonical_landTile (canonical_tarnWrite (canonical_wakeSegs (canonical_ite (canonical_setFlag h) h)))
        refine canonical_settleRev ?_
        refine canonical_ite ?_ h1
        exact h1

theorem canonical_shardTimeout {b} : canonical (shardTimeout b s) = true := by
  unfold shardTimeout
  exact canonical_ite h (canonical_endRev h)

theorem canonical_modelActivate {m v} : canonical (modelActivate m v s) = true := by
  unfold modelActivate
  refine canonical_ite h ?_
  refine canonical_ite ?_ (canonical_wr (canonical_wr h))
  exact
    have h1 := canonical_wr h
    canonical_ite (canonical_settleFill h1) h1

theorem canonical_modelWrite {m} : canonical (modelWrite m s) = true := canonical_wr (canonical_wrF h)

theorem canonical_revnoWrite {v} : canonical (revnoWrite v s) = true := by
  unfold revnoWrite
  exact canonical_ite h (canonical_wr h)

end Sys2Proof.Machine
end

section
/-! SUPPORT. The fabric keeps every store canonical (O4). -/

namespace Sys2Proof.Machine

variable {s : State} (h : canonical s = true)
include h

theorem canonical_updPort {p f} : canonical (updPort p f s) = true := canonical_setPort h

theorem canonical_portDown {p cause} : canonical (portDown p cause s) = true := canonical_setPort (canonical_bump h)

theorem canonical_dropPort {p cause} : canonical (dropPort p cause s) = true := by
  unfold dropPort
  exact canonical_ite h (canonical_portDown h)

theorem canonical_allDown : canonical (allDown s) = true := by
  unfold allDown
  exact canonical_iter (fun _ _ h => canonical_dropPort h) h

theorem canonical_linkSignal {p} : canonical (linkSignal p s) = true := by
  unfold linkSignal
  exact canonical_ite h (canonical_ite (canonical_updPort h) (canonical_ite (canonical_updPort h) h))

theorem canonical_portDisabled {p} : canonical (portDisabled p s) = true := by
  unfold portDisabled
  exact canonical_ite h (canonical_dropPort (canonical_wrF h))

theorem canonical_exchange {p m} : canonical (exchange p m s).2 = true := by
  unfold exchange
  exact canonical_send (canonical_randomBits (canonical_randomBits (canonical_randomBits h)))

theorem canonical_peerFails {p} : canonical (peerFails p s) = true := canonical_raise (canonical_portDown h)

theorem canonical_authHandshake {p m} : canonical (authHandshake p m s) = true := by
  unfold authHandshake
  refine canonical_ite h ?_
  have h1 := canonical_exchange (p := p) (m := m) h
  split
  · next e => rw [e] at h1; exact canonical_peerFails h1
  · next e => rw [e] at h1; exact canonical_updPort h1

theorem canonical_rekey {p m} : canonical (rekey p m s) = true := by
  unfold rekey
  refine canonical_ite h ?_
  have h1 := canonical_exchange (p := p) (m := m) h
  split
  · next e => rw [e] at h1; exact canonical_peerFails h1
  · next e => rw [e] at h1; exact canonical_updPort h1

theorem canonical_sendBlock {p seq idle payload} : canonical (sendBlock p seq idle payload s) = true := by
  unfold sendBlock
  exact canonical_send (canonical_setPort (canonical_ite (canonical_bump h) h))

theorem canonical_dirty : canonical (dirty s) = true := canonical_setBit h

theorem canonical_resendAll {p} : canonical (resendAll p s) = true := by
  unfold resendAll
  exact canonical_foldl (fun _ _ h => canonical_sendBlock h) (canonical_updPort (canonical_ite (canonical_dirty h) h))

theorem canonical_setNak {p} : canonical (setNak p s) = true := canonical_updPort h

theorem canonical_readHeader {p m} : canonical (readHeader p m s) = true := by
  unfold readHeader
  exact canonical_setPort (canonical_ite (canonical_dirty h) h)

theorem canonical_acceptPayload {p payload} : canonical (acceptPayload p payload s) = true := by
  unfold acceptPayload
  refine canonical_foldl (fun _ _ h => ?_) (canonical_updPort (canonical_ite (canonical_dirty h) h))
  refine canonical_occupy (canonical_bump ?_)
  exact h

theorem canonical_tagFail {p} : canonical (tagFail p s) = true := by
  unfold tagFail
  exact
    have h1 := canonical_updPort (canonical_bump h)
    canonical_ite (canonical_raise (canonical_portDown h1)) (canonical_setNak h1)

theorem canonical_linkBlock {p fec block} : canonical (linkBlock p fec block s) = true := by
  unfold linkBlock
  refine canonical_ite h ?_
  extract_lets s1
  have h1 : canonical s1 = true := canonical_bump (canonical_bump h)
  refine canonical_ite (canonical_setNak (canonical_updPort h1)) ?_
  split
  · exact canonical_tagFail h1
  · extract_lets s2
    have h2 : canonical s2 = true := canonical_updPort h1
    split
    · exact canonical_tagFail h2
    · refine canonical_then ?_ fun h3 => canonical_ite h3 (canonical_acceptPayload (canonical_updPort h3))
      exact canonical_readHeader h2

theorem canonical_nakRepeat {p} : canonical (nakRepeat p s) = true := by
  unfold nakRepeat
  exact canonical_ite (canonical_setNak h) h

theorem canonical_replay {p} : canonical (replay p s) = true := by
  unfold replay
  exact canonical_ite (canonical_resendAll h) h

theorem canonical_retrain {p c e} : canonical (retrain p c e s) = true := by
  unfold retrain
  refine canonical_ite h ?_
  extract_lets s1
  have h1 : canonical s1 = true := canonical_bump h
  split
  · exact canonical_resendAll (canonical_setPort h1)
  · exact canonical_ite (canonical_updPort (canonical_raisePend (canonical_portDown h1))) (canonical_setPort h1)

theorem canonical_beginPackets {p n} : canonical (beginPackets p n s) = true := by
  induction n generalizing s with
  | zero => exact h
  | succ n ih =>
    unfold beginPackets
    extract_lets t
    refine canonical_ite h ?_
    split
    exacts [h, ih (canonical_bump (canonical_setPort h))]

theorem canonical_packetSend {p} : canonical (packetSend p s) = true := by
  unfold packetSend
  refine canonical_ite h ?_
  exact
    have h1 := canonical_ite h (canonical_beginPackets h)
    canonical_ite (canonical_sendBlock h1) (canonical_sendBlock (canonical_setPort (canonical_ite (canonical_dirty h1) h1)))

theorem canonical_inboxed {k} : canonical (inboxed k s) = true := h

theorem canonical_dropPacket {p reg status k} : canonical (dropPacket p reg status k s) = true := by
  unfold dropPacket
  exact
    have h1 := canonical_raise (canonical_bump h)
    canonical_ite h1 (canonical_ite (canonical_inboxed h1) (canonical_ownPacket h1))

theorem canonical_deliver {k} : canonical (deliver k s) = true := by
  unfold deliver
  extract_lets u s1
  have h1 : canonical s1 = true := canonical_ite h (canonical_ownPacket h)
  refine canonical_ite (canonical_ite (canonical_ownPacket h) h) (canonical_ite (canonical_ite (canonical_inboxed h) h1) ?_)
  refine canonical_ite (canonical_ite (canonical_inboxed h) h1) ?_
  refine canonical_ite (canonical_ite (canonical_inboxed h) (canonical_ite h h)) ?_
  exact canonical_ite (canonical_ite h h1) (canonical_ite (canonical_ite h h1) h)

theorem canonical_routeTo {p k t} (e : routeTo p k s = some t) : canonical t = true := by
  unfold routeTo at e
  extract_lets b hops d e1 up sum out k1 at e
  split at e
  · split at e
    · cases e
    · cases e
      exact canonical_deliver (canonical_ite (canonical_meshSend h) h)
  · split at e
    · cases e
      exact canonical_ite (canonical_ownPacket h) h
    · split at e
      · cases e
        exact canonical_dropPacket h
      · split at e
        · cases e
          exact canonical_dropPacket h
        · split at e
          · cases e
          · cases e
            exact canonical_queueTx (canonical_meshSend h)

theorem canonical_packetRoute {k} : canonical (packetRoute k s) = true := by
  unfold packetRoute
  refine canonical_ite h ?_
  extract_lets p
  have h0 : canonical { s with transit := dropFirst (fun x => x.2 == k) s.transit } = true := h
  split
  · exact h
  · next e =>
    have h1 := canonical_routeTo h0 e
    exact canonical_ite (canonical_occupy h1) h1

theorem canonical_switch : canonical (switch s) = true := by
  unfold switch
  exact canonical_ite h (canonical_ite (canonical_wrF h) (canonical_bump h))

theorem canonical_fabSelfWrite {v} : canonical (fabSelfWrite v s) = true := by
  unfold fabSelfWrite
  exact canonical_ite h (canonical_wr (canonical_flashWrite h))

theorem canonical_remoteRefuse {k} : canonical (remoteRefuse k s) = true := by
  unfold remoteRefuse
  exact
    have h1 := canonical_bump h
    canonical_ite (canonical_windowDrop h1) h1

theorem canonical_taken {k} : canonical (taken k s) = true := h

theorem canonical_sendAck {ack} : canonical (sendAck ack s) = true := by
  unfold sendAck
  refine canonical_ownPacket ?_
  exact h

theorem canonical_finishRemote {k status} : canonical (finishRemote k status s) = true := by
  unfold finishRemote
  refine canonical_ite ?_ ?_
  · refine canonical_ite h ?_
    exact h
  · extract_lets s1
    have h1 : canonical s1 = true := h
    refine canonical_ite ?_ (canonical_sendAck h1)
    refine canonical_ite (canonical_sendAck (canonical_setFlag h1)) ?_
    refine canonical_addFlag ?_
    exact h1

theorem canonical_sendHeldAck {n} : canonical (sendHeldAck n s) = true := by
  unfold sendHeldAck
  split
  · refine canonical_sendAck ?_
    exact h
  · exact h

theorem canonical_whenDue {k n f} (hf : ∀ s, canonical s = true → canonical (f s) = true) : canonical (whenDue k n f s) = true := by
  unfold whenDue
  exact canonical_ite h (canonical_withSegs h hf)

theorem canonical_putRemote {k ecc out add} : canonical (putRemote k ecc out add s).2 = true := by
  unfold putRemote
  exact canonical_snd_ite (canonical_mereWrite (canonical_noteUnits (canonical_wakeUnits h))) (canonical_tarnWrite h)

theorem canonical_makeWrite {k ecc} : canonical (makeWrite k ecc s) = true := by
  unfold makeWrite
  extract_lets s1
  have h1 : canonical s1 = true := canonical_taken h
  refine canonical_ite (canonical_finishRemote h1) ?_
  exact canonical_ite (canonical_finishRemote (canonical_remoteRefuse h1)) (canonical_finishRemote (canonical_putRemote h1))

theorem canonical_remoteWrite {k ecc} : canonical (remoteWrite k ecc s) = true := by
  unfold remoteWrite
  exact canonical_ite (canonical_whenDue h fun _ h => canonical_makeWrite h) h

theorem canonical_openRegions {k n} : canonical (openRegions k n s) = true := h

theorem canonical_makeAdd {k ecc} : canonical (makeAdd k ecc s) = true := by
  unfold makeAdd
  extract_lets n s1
  have h1 : canonical s1 = true := canonical_taken h
  refine canonical_ite (canonical_finishRemote h1) (canonical_ite (canonical_finishRemote (canonical_remoteRefuse h1)) ?_)
  refine canonical_ite (canonical_finishRemote (canonical_bump h1)) ?_
  exact canonical_finishRemote (canonical_putRemote (canonical_ite (canonical_openRegions h1) h1))

theorem canonical_remoteAdd {k ecc} : canonical (remoteAdd k ecc s) = true := by
  unfold remoteAdd
  exact canonical_ite (canonical_whenDue h fun _ h => canonical_makeAdd h) h

theorem canonical_answerWith {k status l} : canonical (answerWith k status l s) = true := by
  unfold answerWith
  exact canonical_foldl (fun _ _ h => canonical_ownPacket h) h

theorem canonical_answerSpring {k ecc} : canonical (answerSpring k ecc s) = true := by
  unfold answerSpring
  exact canonical_ite (canonical_answerWith (canonical_reachMere h)) (canonical_answerWith (canonical_bump h))

theorem canonical_makeRead {k ecc} : canonical (makeRead k ecc s) = true := by
  unfold makeRead
  extract_lets s1
  have h1 : canonical s1 = true := canonical_taken h
  refine canonical_ite (canonical_answerSpring h1) (canonical_ite (canonical_answerWith h1) ?_)
  refine canonical_ite (canonical_answerWith (canonical_remoteRefuse h1)) ?_
  exact canonical_ite (canonical_answerWith (canonical_reachMere h1)) (canonical_answerWith h1)

theorem canonical_remoteRead {k ecc} : canonical (remoteRead k ecc s) = true := by
  unfold remoteRead
  exact canonical_ite (canonical_whenDue h fun _ h => canonical_makeRead h) h

theorem canonical_restTag {x} : canonical (restTag x s) = true := h

theorem canonical_remoteFails {c e x conseq} : canonical (remoteFails c e x conseq s) = true := by
  unfold remoteFails
  refine canonical_xferDone (canonical_restTag ?_)
  split
  exacts [canonical_tarnWrite (canonical_wakeSegs h), canonical_mereWrite h, h]

theorem canonical_transferData {k} : canonical (transferData k s) = true := by
  unfold transferData
  refine canonical_ite h (canonical_ite (canonical_ite h (canonical_taken h)) ?_)
  split
  · exact canonical_bump (canonical_taken h)
  · next x _ =>
    extract_lets c s1 n l s2 y s3
    have h1 : canonical s1 = true := canonical_taken h
    have h2 : canonical s2 = true := by
      unfold s2
      split
      exacts [canonical_tarnWrite (canonical_wakeSegs h1), canonical_mereWrite h1, h1]
    have h3 : canonical s3 = true := canonical_setOutst h2
    refine canonical_ite (canonical_bump h1) (canonical_ite (canonical_remoteFails h1) (canonical_ite ?_ h3))
    exact canonical_ite (canonical_xferDone (canonical_restTag h3)) (canonical_xferDone h3)

theorem canonical_transferAck {k} : canonical (transferAck k s) = true := by
  unfold transferAck
  refine canonical_ite h (canonical_ite (canonical_taken h) ?_)
  split
  · exact canonical_bump (canonical_taken h)
  · exact
      have h1 := canonical_taken h
      canonical_ite (canonical_bump h1) (canonical_ite (canonical_xferDone (canonical_bump h1)) (canonical_remoteFails h1))

theorem canonical_transferTimeout {c e n} : canonical (transferTimeout c e n s) = true := by
  unfold transferTimeout
  refine canonical_ite h ?_
  split
  exacts [h, canonical_ite h (canonical_remoteFails h)]

theorem canonical_sendMgmt {dest task data} : canonical (sendMgmt dest task data s) = true := canonical_freshPacket h

theorem canonical_exchangeTime {t1 t2 t3 t4} : canonical (exchangeTime t1 t2 t3 t4 s) = true := by
  unfold exchangeTime
  refine canonical_ite h ?_
  refine canonical_timeExchange (canonical_queueTx ?_)
  exact h

end Sys2Proof.Machine
end

section
/-! SUPPORT. The units' events keep every store canonical (O4). -/

namespace Sys2Proof.Machine

variable {s : State} (h : canonical s = true)
include h

theorem canonical_shadowFill {c a} : canonical (shadowFill c a s) = true := by
  unfold shadowFill
  refine canonical_ite h ?_
  split
  · exact h
  · split
    · exact h
    · refine canonical_ite h ?_
      refine canonical_withSegs h fun _ h => ?_
      refine canonical_then ?_ fun h1 => canonical_ite (canonical_endIter h1) h1
      refine canonical_updRun (canonical_takeMet ?_)
      exact canonical_bump (canonical_bump (canonical_setArr (canonical_ite (canonical_bump h) h)))

theorem canonical_stagedRead {c a ecc} : canonical (stagedRead c a ecc s) = true := by
  unfold stagedRead
  refine canonical_ite h ?_
  split
  · exact h
  · split
    · exact h
    · refine canonical_ite h ?_
      exact
        have h1 := canonical_setArr (canonical_takeMet (canonical_noteUnits (canonical_wakeUnits h)))
        canonical_ite (canonical_updRun h1) h1

theorem canonical_startStream {k q p} : canonical (startStream k q p s) = true := by
  unfold startStream
  split
  · exact canonical_startPrep h
  · extract_lets s1
    have h1 : canonical s1 = true := canonical_tryStart h
    refine canonical_ite ?_ h1
    exact
      have h2 := canonical_updRun (canonical_updRun h1)
      canonical_startEmpty (canonical_bump (canonical_ite (canonical_returnTokens h2) h2))

theorem canonical_passBody {c a r} : canonical (passBody c a r s) = true := by
  unfold passBody
  refine canonical_bump ?_
  refine canonical_iter (fun _ _ h => ?_) ?_
  · refine canonical_iter (fun _ _ h => ?_) h
    exact
      have h1 := canonical_accSet h
      canonical_ite h1 (canonical_bump h1)
  · exact canonical_ite (canonical_setArr (canonical_ite (canonical_bump h) h)) (canonical_ite (canonical_bump h) h)

theorem canonical_mxaStream_pass {k c a} : canonical (mxaStream.pass k c a s) = true := by
  unfold mxaStream.pass
  split
  · exact h
  · exact canonical_ite h (canonical_withSegs h fun _ h => canonical_endIter (canonical_passBody (canonical_takeMet h)))

theorem canonical_mxaStream {c a} : canonical (mxaStream c a s) = true := by
  unfold mxaStream
  extract_lets k s1
  refine canonical_ite h ?_
  have h1 : canonical s1 = true := by
    unfold s1
    split
    · exact h
    · refine canonical_ite h ?_
      split
      exacts [h, canonical_startStream h]
  split
  exacts [canonical_ite h1 (canonical_mxaStream_pass h1), canonical_mxaStream_pass h1]

theorem canonical_zaccBody {c a r} : canonical (zaccBody c a r s) = true := by
  unfold zaccBody
  exact canonical_ite h (canonical_iter (fun _ _ h => canonical_iter (fun _ _ h => canonical_accSet h) h) h)

theorem canonical_mxaZacc {c a} : canonical (mxaZacc c a s) = true := by
  unfold mxaZacc
  refine canonical_ite h ?_
  extract_lets s1
  have h1 : canonical s1 = true := by
    unfold s1
    split
    · exact h
    · refine canonical_ite h ?_
      split
      exacts [h, canonical_startPrep h]
  split
  exacts [h1, canonical_ite (canonical_runIter h1 fun _ h => canonical_zaccBody h) h1]

theorem canonical_mxaLoadw {c a} : canonical (mxaLoadw c a s) = true := by
  unfold mxaLoadw
  refine canonical_ite h ?_
  split
  · exact h
  · refine canonical_ite h ?_
    split
    exacts [h, canonical_startPrep h]

theorem canonical_mxaNop {c a} : canonical (mxaNop c a s) = true := canonical_unitEvent h fun _ _ h => canonical_nopBody h

theorem canonical_setX {c p r v} : canonical (setX c p r v s) = true := by
  unfold setX
  exact canonical_ite h (canonical_spuSet h)

theorem canonical_beginRun {c r} : canonical (beginRun c r s) = true := by
  unfold beginRun
  refine canonical_ite (canonical_endIter (canonical_takeWait h)) ?_
  exact canonical_updRun (canonical_setX (canonical_setX (canonical_setPipe (canonical_takeWait h))))

theorem canonical_spuRun {c} : canonical (spuRun c s) = true := by
  unfold spuRun
  refine canonical_ite h ?_
  split
  · exact canonical_beginRun h
  · split
    · exact h
    · refine canonical_ite h ?_
      split
      · exact h
      · extract_lets s1
        have h1 : canonical s1 = true := canonical_startPrep h
        split
        exacts [canonical_ite (canonical_beginRun h1) h1, h1]

theorem canonical_rdregRead {i} : canonical (rdregRead i s).2 = true := by
  unfold rdregRead
  have hl {k v} : canonical { s with latches := sset zero32 k v s.latches } = true := canonical_with_latches h swf_sset
  exact canonical_snd_ite h (canonical_snd_ite h (canonical_snd_ite h (canonical_snd_ite h (canonical_snd_ite h (canonical_snd_ite h
    (canonical_snd_ite hl (canonical_snd_ite hl h)))))))

theorem canonical_rdregBody {c r} : canonical (rdregBody c r s) = true := canonical_setX (canonical_rdregRead h)

theorem canonical_spuRdreg {c} : canonical (spuRdreg c s) = true := canonical_unitEvent h fun _ _ h => canonical_rdregBody h

theorem canonical_spuNop {c} : canonical (spuNop c s) = true := canonical_unitEvent h fun _ _ h => canonical_nopBody h

theorem canonical_endRun {c p} : canonical (endRun c p s) = true := canonical_endIter (canonical_updRun (canonical_setPipe h))

theorem canonical_insWake {c p opc} : canonical (insWake c p opc s) = true := by
  unfold insWake
  exact canonical_ite (canonical_foldl (fun _ _ h => canonical_reachSeg h) h) h

theorem canonical_goTo {c p pc} : canonical (goTo c p pc s) = true := by
  unfold goTo
  exact
    have h1 := canonical_setPipe (canonical_bump h)
    canonical_ite (canonical_endRun h1) h1

theorem canonical_alu {c p opc f} : canonical (alu c p opc f s) = true := by
  unfold alu
  split
  exacts [canonical_insWake h, canonical_goTo (canonical_setX h)]

theorem canonical_load {c p opc n} : canonical (load c p opc n s) = true := by
  unfold load
  split
  exacts [canonical_insWake h, canonical_goTo (canonical_setX h)]

theorem canonical_store {c p opc n} : canonical (store c p opc n s) = true := by
  unfold store
  split
  exacts [canonical_insWake h, canonical_goTo (canonical_tarnWrite h)]

theorem canonical_branch {c p opc} : canonical (branch c p opc s) = true := by
  unfold branch
  split
  exacts [canonical_insWake h, canonical_goTo h]

theorem canonical_spuCutoff_cut {c p bad i} : canonical (spuCutoff.cut c p bad i s) = true := by
  unfold spuCutoff.cut
  exact
    have h1 := canonical_ite h (canonical_bump h)
    canonical_endRun (canonical_updRun (canonical_raise (canonical_bump (canonical_ite (canonical_setX h1) h1))))

theorem canonical_spuCutoff {c p} : canonical (spuCutoff c p s) = true := by
  unfold spuCutoff
  exact canonical_ite (canonical_withSegs h fun _ h => canonical_spuCutoff_cut h) h

theorem canonical_spuHalt {c p} : canonical (spuHalt c p s) = true := by
  unfold spuHalt
  split
  exacts [canonical_insWake h, canonical_endRun (canonical_bump h)]

theorem canonical_ldprogBody {c r} : canonical (ldprogBody c r s) = true :=
  canonical_setBit (canonical_with_progs h swf_ssetMany)

theorem canonical_mmovBody {c r} : canonical (mmovBody c r s) = true := by
  unfold mmovBody
  exact canonical_ite (canonical_tarnWrite h) (canonical_with_mask h swf_ssetMany)

theorem canonical_laneWrite {c r isInt w row lo outs} : canonical (laneWrite c r isInt w row lo outs s) = true :=
  canonical_countSat (canonical_dstRow h)

theorem canonical_laneIter {c r} : canonical (laneIter c r s).1 = true := by
  unfold laneIter
  extract_lets img w isInt s1 srcs
  have h1 : canonical s1 = true := canonical_bump h
  split
  · exact h1
  · refine canonical_fst_foldl (fun p _ hp => ?_) (canonical_foldl (fun _ _ h => canonical_accMeets h) h1)
    exact canonical_ite (canonical_foldl (fun _ _ h => canonical_laneWrite h) hp) hp

theorem canonical_loseTap {c no} : canonical (loseTap c no s) = true := canonical_with_ssq h id swf_sset

theorem canonical_pairUp {lane red} : canonical (pairUp lane red s) = true := by
  unfold pairUp
  exact
    have h1 := canonical_ite h (canonical_loseTap (canonical_lateSkip h))
    canonical_ite (canonical_complete h1) h1

theorem canonical_startLane {k q p} : canonical (startLane k q p s) = true := by
  unfold startLane
  refine canonical_ite (canonical_startPrep h) ?_
  split
  · exact h
  · exact
      have h1 := canonical_startPrep h
      canonical_ite (canonical_pairUp h1) h1

theorem canonical_takeIfMet {k r} : canonical (takeIfMet k r s) = true := by
  unfold takeIfMet
  exact canonical_ite (canonical_takeWait h) h

theorem canonical_pairWaits {k kr r red} : canonical (pairWaits k kr r red s) = true := by
  unfold pairWaits
  exact canonical_ite (canonical_takeIfMet (canonical_takeIfMet h)) (canonical_takeIfMet (canonical_takeIfMet h))

theorem canonical_laneStep {c k r} : canonical (laneStep c k r s) = true := by
  unfold laneStep
  split
  · exact canonical_runIter h fun _ h => canonical_laneIter h
  · extract_lets kr s1
    have h1 : canonical s1 = true := canonical_pairWaits h
    refine canonical_ite ?_ h1
    exact canonical_withSegs h1 fun _ h => canonical_endIter (canonical_endIter (canonical_redIter (canonical_laneIter h)))

theorem canonical_vxeLane {c} : canonical (vxeLane c s) = true := by
  unfold vxeLane
  refine canonical_ite h ?_
  split
  · exact canonical_laneStep h
  · split
    · exact h
    · refine canonical_ite h ?_
      split
      · exact h
      · extract_lets s1
        have h1 : canonical s1 = true := canonical_startLane h
        split
        exacts [canonical_laneStep h1, h1]

theorem canonical_transBody {c r} : canonical (transBody c r s) = true := by
  unfold transBody
  extract_lets src dst w trunc s1
  have h1 : canonical s1 = true := canonical_bump h
  refine canonical_ite h1 ?_
  refine canonical_foldl (fun _ _ h => ?_) (canonical_accMeets h1)
  refine canonical_iter (fun _ _ h => ?_) h
  exact
    have h2 := canonical_countSat h
    canonical_ite (canonical_iter (fun _ _ h => canonical_tregSet h) h2) (canonical_dstRow h2)

theorem canonical_qconvBody {c r} : canonical (qconvBody c r s) = true := by
  unfold qconvBody
  extract_lets src dst g w s1 vals whole s2 s3
  have h1 : canonical s1 = true := canonical_bump h
  have h2 : canonical s2 = true := canonical_accMeets (canonical_accMeets h1)
  have h3 : canonical s3 = true := canonical_ite (canonical_redPut h2) h2
  refine canonical_ite h1 (canonical_foldl (fun _ _ h => ?_) h3)
  exact canonical_ite (canonical_countSat (canonical_writeRow h))
    (canonical_countSat (canonical_writeRow (canonical_ite (canonical_redPut h) h)))

theorem canonical_pmergeBody {c r} : canonical (pmergeBody c r s) = true := by
  unfold pmergeBody
  refine canonical_ite h ?_
  refine canonical_iter (fun _ _ h => ?_) h
  exact
    have h1 := canonical_countSat (canonical_writeRow (canonical_ite (canonical_bump h) h))
    canonical_ite (canonical_redPut h1) h1

theorem canonical_vxeNop {c} : canonical (vxeNop c s) = true := canonical_unitEvent h fun _ _ h => canonical_nopBody h

theorem canonical_vxeLdprog {c} : canonical (vxeLdprog c s) = true := canonical_unitEvent h fun _ _ h => canonical_ldprogBody h

theorem canonical_vxeQconv {c} : canonical (vxeQconv c s) = true := canonical_unitEvent h fun _ _ h => canonical_qconvBody h

theorem canonical_vxePmerge {c} : canonical (vxePmerge c s) = true := canonical_unitEvent h fun _ _ h => canonical_pmergeBody h

theorem canonical_vxeTrans {c} : canonical (vxeTrans c s) = true := canonical_unitEvent h fun _ _ h => canonical_transBody h

theorem canonical_vxeMmov {c} : canonical (vxeMmov c s) = true := canonical_unitEvent h fun _ _ h => canonical_mmovBody h

end Sys2Proof.Machine
end

section
/-! SUPPORT. The stream sequencer keeps every store canonical (O4). -/

namespace Sys2Proof.Machine

variable {s : State} (h : canonical s = true)
include h

theorem canonical_zeroFlags : canonical (zeroFlags s) = true := canonical_with_flags h (swf_sdrop _)

theorem canonical_checkLedgers : canonical (checkLedgers s) = true := by
  unfold checkLedgers
  exact canonical_bump (canonical_foldl (fun _ _ h => canonical_raise (canonical_bump (canonical_setBit h))) h)

theorem canonical_endBatch {result} : canonical (endBatch result s) = true := by
  unfold endBatch
  split
  · exact h
  · refine canonical_ite h ?_
    refine canonical_then ?_ fun h1 => canonical_ite (canonical_sendMgmt h1) h1
    exact h

theorem canonical_unloadTask {t} : canonical (unloadTask t s) = true :=
  canonical_wrF (canonical_wr (canonical_wrF (canonical_with_tasks h swf_sset)))

theorem canonical_lateUnload : canonical (lateUnload s) = true := by
  unfold lateUnload
  exact canonical_ite (canonical_unloadTask h) h

theorem canonical_endStep {result} : canonical (endStep result s) = true := by
  unfold endStep
  refine canonical_lateUnload (canonical_endBatch (canonical_checkLedgers ?_))
  exact h

theorem canonical_stepResets : canonical (stepResets s) = true := canonical_zeroFlags h

theorem canonical_zeroSteps {c} : canonical (zeroSteps c s) = true := by
  unfold zeroSteps
  exact canonical_iter (fun _ _ h => canonical_wr h) h

theorem canonical_zeroAllSteps : canonical (zeroAllSteps s) = true := by
  unfold zeroAllSteps
  exact canonical_foldl (fun _ _ h => canonical_zeroSteps h) h

theorem canonical_endDown : canonical (endDown s) = true := by
  unfold endDown
  split
  exacts [h, h]

theorem canonical_beginStep : canonical (beginStep s) = true := by
  unfold beginStep
  extract_lets t s1 s2 s3 s4 entry
  have h2 : canonical s2 = true := canonical_zeroAllSteps (canonical_stepResets (canonical_endDown h))
  have h3 : canonical s3 = true := by
    unfold s3
    simp only [canonical, memoriesCanonical, storesCanonical, Bool.and_eq_true] at h2 ⊢
    split <;> simp_all only [swf_nil, and_self]
  have h4 : canonical s4 = true := canonical_wrF (canonical_wrF h3)
  clear_value s4
  refine canonical_frameBegin ?_
  simp only [canonical, memoriesCanonical, storesCanonical, Bool.and_eq_true] at h4 ⊢
  simp_all only [swf_filter, swf_nil, and_self]

theorem canonical_startStep : canonical (startStep s) = true := by
  unfold startStep
  extract_lets t _ s1
  have h1 : canonical s1 = true := h
  refine canonical_ite (canonical_raise (canonical_endStep (canonical_zeroAllSteps (canonical_stepResets h1)))) ?_
  exact canonical_ite (canonical_with_ssq (canonical_with_eff h1 fun _ => csr_of_canonical h1) id id) (canonical_beginStep h1)

theorem canonical_privRefuse {rq} : canonical (privRefuse rq s) = true := by
  unfold privRefuse
  split
  exacts [canonical_ite (canonical_bump h) h, h]

theorem canonical_go {rq strict} : canonical (go rq strict s) = true := by
  unfold go
  refine canonical_ite h (canonical_ite (canonical_privRefuse h) ?_)
  exact
    have h1 := canonical_wrF h
    canonical_ite h1 (canonical_startStep h1)

theorem canonical_stepBeginAfterSettle : canonical (stepBeginAfterSettle s) = true := by
  unfold stepBeginAfterSettle
  refine canonical_ite h ?_
  exact
    have h1 := h
    canonical_ite (canonical_beginStep h1) h1

theorem canonical_abortStep {result} : canonical (abortStep result s) = true := by
  unfold abortStep
  refine canonical_ite h (canonical_ite (canonical_endStep (canonical_zeroFlags h)) (canonical_oreAbort ?_))
  have hu := swf_filter_map (v := ({} : UnitSt)) (f := fun u => { queue := [], running := u.running.map fun r =>
    { r with todo := [], unsent := [], err := true } }) (units_of_canonical h)
  have hk := swf_filter_map (v := ({} : StackSt)) (f := fun x => { x with subs := [] }) (stackSt_of_canonical h)
  simp only [canonical, memoriesCanonical, storesCanonical, Bool.and_eq_true] at h ⊢
  simp_all only [swf_nil, and_self]

theorem canonical_abort : canonical (abort s) = true := by
  unfold abort
  exact canonical_ite (canonical_abortStep h) h

theorem canonical_streamFault {tag} : canonical (streamFault tag s) = true := canonical_abortStep (canonical_raise h)

theorem canonical_joinTokens {lead tokens} : canonical (joinTokens lead tokens s) = true := canonical_updBundle h

theorem canonical_reachStream {ecc off n} : canonical (reachStream ecc off n s) = true := canonical_reachMere h

theorem canonical_bundleFetch {ecc} : canonical (bundleFetch ecc s) = true := by
  unfold bundleFetch
  refine canonical_ite h (canonical_ite (canonical_streamFault h) (canonical_ite (canonical_streamFault h) ?_))
  refine canonical_ite h ?_
  exact
    have h1 := canonical_reachStream h
    canonical_ite (canonical_streamFault h1) (canonical_ite h1 (canonical_joinTokens h1))

theorem canonical_numberTap {n c} : canonical (numberTap n c s).2 = true := by
  by_cases hu : c.unit = 4
  · simp only [numberTap, hu, if_true]
    exact canonical_snd_ite h (canonical_with_ssq h swf_sset id)
  · simp only [numberTap, hu, if_false]
    exact canonical_snd_ite h (canonical_with_ssq h id swf_sset)

theorem canonical_dispatch : canonical (dispatch s) = true := by
  unfold dispatch
  refine canonical_ite h ?_
  split
  · exact h
  · refine canonical_ite h ?_
    extract_lets q s1
    have h1 : canonical s1 = true := canonical_updBundle h
    split
    · exact h1
    · refine canonical_foldl (fun _ _ h => ?_) h1
      refine canonical_setUnit ?_
      exact canonical_numberTap h

theorem canonical_bundleIssue : canonical (bundleIssue s) = true := by
  unfold bundleIssue
  refine canonical_ite h ?_
  split
  · exact h
  · refine canonical_ite h ?_
    exact
      have h1 := canonical_updBundle h
      canonical_ite h1 h1

theorem canonical_tokenGrant : canonical (tokenGrant s) = true := by
  unfold tokenGrant
  refine canonical_ite h ?_
  split
  · exact h
  · next r rest _ =>
    have h1 : canonical { s with pgv := { s.pgv with reqs := rest } } = true := h
    refine canonical_ite h (canonical_ite ?_ ?_)
    · split
      exacts [canonical_ite h1 (canonical_setUnit (canonical_takeTokens h1)), h1]
    · exact canonical_settleBundle (canonical_updBundle (canonical_takeTokens (canonical_ite (canonical_bump h1) h1)))

theorem canonical_loseTaps {q} : canonical (loseTaps q s) = true := by
  unfold loseTaps
  refine canonical_ite h (canonical_ite (canonical_loseTap h) ?_)
  extract_lets _ s1
  have h1 : canonical s1 = true := canonical_with_ssq h swf_sset id
  split
  · next red _ =>
    have h2 : canonical (loseTap q.core q.tapNo (lateSkip (unitKey q.core 5) red.q.seq 0x04 s1)) = true :=
      canonical_loseTap (canonical_lateSkip h1)
    exact canonical_ite (canonical_complete h2) h2
  · exact h1

theorem canonical_skipStep {k r} : canonical (skipStep k r s) = true := by
  unfold skipStep
  refine canonical_ite (canonical_drainStream h) (canonical_ite h (canonical_ite h ?_))
  exact
    have h1 := canonical_takeWait h
    have h2 := canonical_ite (canonical_setFlag h1) h1
    canonical_ite (canonical_drainStream (canonical_updRun (canonical_ite (canonical_doSet h2) h2))) (canonical_endIter h2)

theorem canonical_startSkip {k q reason} : canonical (startSkip k q reason s) = true := by
  unfold startSkip
  extract_lets n s1 s2 ch s3 s4
  have h1 : canonical s1 = true := canonical_markSkip (canonical_logSkip h)
  have h4 : canonical s4 = true := canonical_loseTaps (canonical_launch (canonical_ite h1 (canonical_returnTokens h1)))
  refine canonical_ite h (canonical_ite (canonical_strictHalt h1) ?_)
  split
  exacts [canonical_ite (canonical_complete h4) (canonical_skipStep h4), h4]

theorem canonical_with_holds {l} : canonical { s with ssq := { s.ssq with holds := l } } = true := h
theorem canonical_runHold {q adds n} : canonical (runHold q adds n s) = true := by
  unfold runHold
  extract_lets cs ts s1 s2 _ s3
  have h1 : canonical s1 = true := canonical_foldl (fun _ _ h => canonical_consume h) h
  have h2 : canonical s2 = true := canonical_ite (canonical_foldl (fun _ _ h => canonical_addFlag h) h1) h1
  have h3 : canonical s3 = true := canonical_settleBundle (canonical_with_holds h2)
  exact canonical_ite h3 h3

theorem canonical_skipHold {q} : canonical (skipHold q s) = true := by
  unfold skipHold
  refine canonical_ite h ?_
  exact
    have h1 := canonical_markSkip (canonical_logSkip h)
    canonical_ite (canonical_strictHalt h1) (canonical_runHold h1)

theorem canonical_skippedCommand {c u} : canonical (skippedCommand c u s) = true := by
  unfold skippedCommand
  refine canonical_ite h (canonical_ite ?_ ?_)
  · split
    exacts [canonical_skipHold h, h]
  · extract_lets k
    split
    · exact canonical_skipStep h
    · split
      · exact h
      · refine canonical_ite h ?_
        split
        exacts [h, canonical_startSkip h]

theorem canonical_syncSet {n} : canonical (syncSet n s) = true := by
  unfold syncSet
  split
  exacts [canonical_runHold h, h]

theorem canonical_syncWait {n} : canonical (syncWait n s) = true := by
  unfold syncWait
  split
  exacts [canonical_runHold h, h]

theorem canonical_flagAddHeld {c f} : canonical (flagAddHeld c f s) = true := by
  unfold flagAddHeld
  refine canonical_ite h ?_
  split
  · exact h
  · extract_lets s1
    have h1 : canonical s1 = true := canonical_setFlag (by exact h)
    refine canonical_ite (canonical_sendHeldAck h1) (canonical_ite h1 ?_)
    refine canonical_ite ?_ ?_
    · exact h1
    · split
      exacts [canonical_ite (canonical_retire h1) h1, h1]

theorem canonical_countHazards : canonical (countHazards s) = true := by
  unfold countHazards
  refine canonical_foldl (fun _ _ h => ?_) h
  split
  · refine canonical_ite h ?_
    split
    exacts [canonical_bump (canonical_setUnit h), h]
  · exact h

theorem canonical_countWaits {c} : canonical (countWaits c s) = true := by
  unfold countWaits
  refine canonical_iter (fun _ _ h => ?_) ?_
  · refine canonical_ite ?_ ?_
    · exact canonical_bump (canonical_ite (canonical_bump (canonical_ite (canonical_bump h) h)) (canonical_ite (canonical_bump h) h))
    · exact canonical_ite (canonical_bump (canonical_ite (canonical_bump h) h)) (canonical_ite (canonical_bump h) h)
  · exact canonical_ite (canonical_bump (canonical_ite (canonical_bump h) h)) (canonical_ite (canonical_bump h) h)

theorem canonical_countTicks : canonical (countTicks s) = true := by
  unfold countTicks
  extract_lets _ s1
  have h1 : canonical s1 = true := by
    refine canonical_foldl (fun _ _ h => canonical_bump (canonical_ite h (canonical_bump h))) ?_
    exact canonical_ite (canonical_foldl (fun _ _ h => canonical_countWaits h) h) h
  refine canonical_ite h1 ?_
  split
  · exact canonical_ite (canonical_bump h1) h1
  · split
    · exact h1
    · split
      exacts [canonical_ite (canonical_bump h1) h1, h1]

theorem canonical_issueTimeAdvance : canonical (issueTimeAdvance s) = true := by
  unfold issueTimeAdvance
  extract_lets s1 s2 frozen l _ s3 _ s4 c
  have h1 : canonical s1 = true := h
  have h2 : canonical s2 = true := canonical_countTicks h1
  have h4 : canonical s4 = true := canonical_countHazards h2
  have hf {x} (hx : canonical x = true) : canonical (frozen x) = true := hx
  clear_value s2 s4
  refine canonical_ite h1 (canonical_ite h2 (canonical_ite (hf h2) (canonical_ite (canonical_frameBegin ?_) (hf ?_))))
  · exact h2
  · exact canonical_ite h4 (canonical_bump h4)

theorem canonical_deadlockWalk : canonical (deadlockWalk s) = true := by
  unfold deadlockWalk
  refine canonical_ite h ?_
  refine canonical_ite ?_ ?_
  · refine canonical_abortStep (canonical_raise (canonical_bump ?_))
    exact h
  · exact h

theorem canonical_overrun : canonical (overrun s) = true := by
  unfold overrun
  exact canonical_ite h (canonical_abortStep (canonical_raise h))

theorem canonical_adaptSlot {c k} : canonical (adaptSlot c k s) = true := by
  unfold adaptSlot
  exact canonical_ite h (canonical_ite (canonical_bump h) (canonical_bump (canonical_wr (canonical_ite (canonical_wr h) h))))

theorem canonical_adapt : canonical (adapt s) = true := by
  unfold adapt
  exact canonical_foldl (fun _ _ h => canonical_iter (fun _ _ h => canonical_adaptSlot h) h) h

theorem canonical_losePlace {l n} : canonical (losePlace l n s) = true := by
  unfold losePlace
  split
  exacts [canonical_tarnWrite (canonical_freeBytes h), canonical_mereWrite (canonical_freeBytes h), h]

theorem canonical_freeWord : canonical (freeWord s).2 = true := canonical_freeBytes h

theorem canonical_loseOperand {r i j} : canonical (loseOperand r i j s) = true := by
  unfold loseOperand
  refine canonical_ite ?_ ?_
  · exact canonical_iter (fun _ _ h => canonical_iter (fun _ _ h => canonical_accSet (canonical_freeWord h)) h) h
  · refine canonical_ite (canonical_iter (fun _ _ h => canonical_tregSet (canonical_freeWord h)) h) ?_
    exact canonical_foldl (fun _ _ h => canonical_losePlace h) h

theorem canonical_loseIter {r i} : canonical (loseIter r i s) = true := by
  unfold loseIter
  extract_lets q c js s1
  have h1 : canonical s1 = true := canonical_foldl (fun _ _ h => canonical_loseOperand h) h
  refine canonical_ite (canonical_foldl (fun _ _ h => canonical_losePlace h) h1) (canonical_ite (canonical_freePieces h1) ?_)
  refine canonical_ite (canonical_iter (fun _ _ h => canonical_with_progs (canonical_freeWord h) swf_sset) h1) ?_
  exact canonical_ite (canonical_iter (fun _ _ h => canonical_maskSet (canonical_freeWord h)) h1) h1

theorem canonical_loseOutputs : canonical (loseOutputs s) = true := by
  unfold loseOutputs
  exact canonical_foldl (fun _ _ h => canonical_iter (fun _ _ h => canonical_loseIter h) h) h

theorem canonical_stepEnd : canonical (stepEnd s) = true := by
  unfold stepEnd
  extract_lets s1 n s2 result
  have h1 : canonical s1 = true := canonical_loseOutputs (canonical_ite h (canonical_returnTokens h))
  have h2 : canonical s2 = true := canonical_zeroFlags (canonical_bump h)
  clear_value s1
  refine canonical_ite h (canonical_ite (canonical_ite h (canonical_endStep (canonical_zeroFlags ?_)))
    (canonical_ite h (canonical_endStep (canonical_ite (canonical_adapt h2) h2))))
  exact canonical_with_units h1 fun _ => swf_nil _

end Sys2Proof.Machine
end

section
/-! SUPPORT. The host transport, sessions and serving keep every store canonical (O4). -/

namespace Sys2Proof.Machine

variable {s : State} (h : canonical s = true)
include h

theorem canonical_updQp {q f} : canonical (updQp q f s) = true := canonical_setQp h

theorem canonical_addWrap {a n} : canonical (addWrap a n s) = true := canonical_wr h

theorem canonical_emit {q dest bytes} : canonical (emit q dest bytes s) = true := by
  unfold emit
  split
  exacts [canonical_send (canonical_bump h), h]

theorem canonical_transmit {q dest x} : canonical (transmit q dest x s) = true := canonical_emit (canonical_wrF (canonical_setQp h))

theorem canonical_flushOut {n q} : canonical (flushOut n q s) = true := by
  induction n generalizing s with
  | zero => exact h
  | succ n ih =>
    unfold flushOut
    split
    exacts [h, canonical_ite (ih (canonical_transmit (canonical_updQp h))) h]

theorem canonical_pump {n q} : canonical (pump n q s) = true := by
  induction n generalizing s with
  | zero => exact h
  | succ n ih =>
    unfold pump
    extract_lets s1 l s2
    have h1 : canonical s1 = true := canonical_flushOut h
    exact canonical_ite h1 (ih (canonical_transmit (canonical_wrF (canonical_updQp h1))))

theorem canonical_pumpQp {q} : canonical (pumpQp q s) = true := canonical_pump h

theorem canonical_sendItem {q x} : canonical (sendItem q x s) = true := by
  unfold sendItem
  exact canonical_ite h (canonical_pumpQp (canonical_updQp h))

theorem canonical_fireVec {t v detail} : canonical (fireVec t v detail s) = true := by
  unfold fireVec
  refine canonical_ite h (canonical_ite (canonical_with_fired h swf_sset) (canonical_sendItem (canonical_setBit ?_)))
  exact canonical_with_fired h swf_sset

theorem canonical_vecPendClear {t high v same} : canonical (vecPendClear t high v same s) = true := by
  unfold vecPendClear
  exact canonical_ite h (canonical_wr h)

theorem canonical_queueCompletion {c} : canonical (queueCompletion c s) = true := by
  unfold queueCompletion
  exact
    have h1 := canonical_updQp (canonical_bump h)
    canonical_pumpQp (canonical_ite (canonical_fireVec h1) h1)

theorem canonical_clearSess {k} : canonical (clearSess k s) = true := canonical_setSess h

theorem canonical_settleSent {q m} : canonical (settleSent q m s) = true := by
  unfold settleSent
  extract_lets n s1
  have h1 : canonical s1 = true := canonical_ite h (canonical_wrF (canonical_addWrap h))
  split
  exacts [h1, canonical_ite (canonical_fireVec (canonical_clearSess h1)) h1]

theorem canonical_coverApsn {q apsn} : canonical (coverApsn q apsn s) = true := by
  unfold coverApsn
  exact canonical_ite h (canonical_foldl (fun _ _ h => canonical_settleSent h) (canonical_setQp h))

theorem canonical_resendSent {q} : canonical (resendSent q s) = true := by
  unfold resendSent
  exact canonical_ite h (canonical_foldl (fun _ _ h => canonical_emit (canonical_bump h)) (canonical_updQp h))

theorem canonical_epochAck {m} : canonical (epochAck m s) = true := by
  unfold epochAck
  exact canonical_ite (canonical_transmit (canonical_updQp h)) h

theorem canonical_dropMsg {m j} : canonical (dropMsg m j s) = true := by
  unfold dropMsg
  split
  · exact canonical_bump h
  · exact canonical_bump (canonical_bump h)
  · exact
      have h1 := canonical_bump h
      canonical_ite (canonical_epochAck h1) h1
  · exact canonical_bump h
  · exact h

theorem canonical_answer {q nak} : canonical (answer q nak s) = true := canonical_sendItem h

theorem canonical_receive {ty m can f} (hcan : ∀ q m d s, canonical s = true → canonical (can q m d s).2 = true)
    (hf : ∀ q m d s, canonical s = true → canonical (f q m d s) = true) :
    canonical (receive ty m can f s) = true := by
  unfold receive
  refine canonical_ite h ?_
  split
  · refine canonical_ite h ?_
    extract_lets q s1
    have h1 : canonical s1 = true := canonical_bump h
    refine canonical_ite h1 (canonical_ite (canonical_answer h1) (canonical_ite (canonical_answer (hcan _ _ _ _ h1)) ?_))
    exact
      have h2 := canonical_coverApsn (canonical_wrF (canonical_updQp h1))
      have h3 := canonical_pumpQp (hf _ _ _ _ (canonical_ite (canonical_resendSent h2) h2))
      canonical_ite h3 (canonical_answer h3)
  · exact canonical_dropMsg (canonical_bump h)

theorem canonical_takes {x x1 x2} : canonical (takes x x1 x2 s).2 = true := h

theorem canonical_ack {m} : canonical (ack m s) = true := canonical_receive h (fun _ _ _ _ h => canonical_takes h) fun _ _ _ _ h => h

theorem canonical_credit {m} : canonical (credit m s) = true :=
  canonical_receive h (fun _ _ _ _ h => canonical_takes h) fun _ _ _ _ h => canonical_wrF h

theorem canonical_loadMsg {m} : canonical (loadMsg m s) = true :=
  canonical_receive h (fun _ _ _ _ h => h) fun _ _ _ _ h => canonical_seedBytes h

theorem canonical_spillin {m} : canonical (spillin m s) = true :=
  canonical_receive h (fun _ _ _ _ h => h) fun _ _ _ _ h => canonical_updQp h

theorem canonical_submitFits {q m d} : canonical (submitFits q m d s).2 = true := by
  unfold submitFits
  exact canonical_snd_ite h (canonical_snd_ite (canonical_bump h) h)

theorem canonical_passEntries {q} : canonical (passEntries q s) = true := by
  unfold passEntries
  split
  exacts [h, canonical_updQp h]

theorem canonical_acceptEntries {q l} : canonical (acceptEntries q l s) = true := by
  unfold acceptEntries
  refine canonical_wrF (canonical_wrF (canonical_addWrap (canonical_updQp ?_)))
  exact h

theorem canonical_takeSubmit {q m d} : canonical (takeSubmit q m d s) = true := by
  unfold takeSubmit
  refine canonical_then ?_ fun h1 => canonical_ite h1 (canonical_passEntries h1)
  exact canonical_updQp (canonical_ite h (canonical_acceptEntries (canonical_passEntries h)))

theorem canonical_submit {m} : canonical (submit m s) = true :=
  canonical_receive h (fun _ _ _ _ h => canonical_submitFits h) fun _ _ _ _ h => canonical_takeSubmit h

theorem canonical_popEntry {q} : canonical (popEntry q s) = true := canonical_wrF (canonical_updQp h)

theorem canonical_ohtResend {q} : canonical (ohtResend q s) = true := by
  unfold ohtResend
  exact canonical_ite h (canonical_pumpQp (canonical_ite h (canonical_resendSent h)))

theorem canonical_ohtDead {q} : canonical (ohtDead q s) = true := by
  unfold ohtDead
  exact canonical_ite h (canonical_wrF h)

theorem canonical_arpRequest {target sender mac} : canonical (arpRequest target sender mac s) = true := by
  unfold arpRequest
  exact canonical_ite (canonical_send h) h

theorem canonical_neighbourSolicitation {target sender mac} : canonical (neighbourSolicitation target sender mac s) = true := by
  unfold neighbourSolicitation
  exact canonical_ite (canonical_send h) h

theorem canonical_echoRequest {sender payload} : canonical (echoRequest sender payload s) = true := by
  unfold echoRequest
  exact canonical_ite (canonical_send h) h

theorem canonical_pfcFrame {prio quanta} : canonical (pfcFrame prio quanta s) = true := by
  unfold pfcFrame
  exact canonical_ite (canonical_with_pfcPaused h swf_sset) h

theorem canonical_droppedFrame {why} : canonical (droppedFrame why s) = true := by
  unfold droppedFrame
  refine canonical_ite h ?_
  split
  · split
    exacts [h, canonical_dropMsg (canonical_bump h)]
  · exact canonical_bump h

theorem canonical_leaveOff {q} : canonical (leaveOff q s) = true := by
  unfold leaveOff
  exact canonical_addWrap (canonical_setQp (canonical_foldl (fun _ _ h => canonical_wr h) h))

theorem canonical_leaveError {q} : canonical (leaveError q s) = true :=
  canonical_addWrap (canonical_wr (canonical_wr (canonical_setQp (canonical_passEntries h))))

theorem canonical_goOff {q} : canonical (goOff q s) = true := canonical_wrF (canonical_setQp h)

theorem canonical_qpStateWrite {q v} : canonical (qpStateWrite q v s) = true := by
  unfold qpStateWrite
  refine canonical_ite h ?_
  refine canonical_ite (canonical_ite (canonical_wr h) (canonical_ite h (canonical_wr (canonical_leaveOff h)))) ?_
  refine canonical_ite (canonical_ite (canonical_goOff h) (canonical_updQp h)) ?_
  exact
    have h1 := canonical_updQp h
    canonical_ite (canonical_pumpQp (canonical_wrF (canonical_leaveError h1))) (canonical_wrF h1)

theorem canonical_qpOff {q} : canonical (qpOff q s) = true := by
  unfold qpOff
  exact canonical_ite (canonical_goOff h) h

theorem canonical_allocTo {fuel k n t} (e : allocTo fuel k n s = some t) : canonical t = true := by
  induction fuel generalizing s with
  | zero => exact Option.some.inj e ▸ h
  | succ fuel ih =>
    unfold allocTo at e
    extract_lets x st at e
    split at e
    · exact Option.some.inj e ▸ h
    · split at e
      · cases e
      · split at e
        · cases e
        · exact ih (canonical_mereWrite (canonical_setSess (canonical_wakeStack h))) e

theorem canonical_allocFor {k len t} (e : allocFor k len s = some t) : canonical t = true := canonical_allocTo h e

theorem canonical_releaseFrames {k} : canonical (releaseFrames k s) = true := by
  unfold releaseFrames
  extract_lets x
  split
  · exact canonical_setSess h
  · exact canonical_setSess (canonical_iter (fun _ _ h => canonical_mereWrite (canonical_wakeStack h)) h)

theorem canonical_freeSess {k} : canonical (freeSess k s) = true := canonical_clearSess (canonical_releaseFrames h)

theorem canonical_startSpill {k} : canonical (startSpill k s) = true := by
  unfold startSpill
  extract_lets x s1
  have h1 : canonical s1 = true := canonical_bump (canonical_setSess h)
  split
  exacts [canonical_sendItem h1, canonical_iter (fun _ _ h => canonical_sendItem h) (canonical_wakeStack h1)]

theorem canonical_expire {stat k} : canonical (expire stat k s) = true := by
  unfold expire
  exact
    have h1 := canonical_fireVec (canonical_bump h)
    canonical_ite (canonical_startSpill h1) (canonical_clearSess h1)

theorem canonical_makeRoom {fuel f p n} : canonical (makeRoom fuel f p n s).2 = true := by
  induction fuel generalizing s with
  | zero => exact h
  | succ fuel ih =>
    unfold makeRoom
    split
    · exact h
    · split
      exacts [h, ih (canonical_expire h)]

theorem canonical_startPark {k} : canonical (startPark k s).2 = true := by
  unfold startPark
  extract_lets x
  split
  · exact h
  · next p _ =>
    have h1 := canonical_makeRoom (fuel := s.sessions.length) (f := x.fmt) (p := p) (n := imageSize p x.pos) h
    split
    · next e => rw [e] at h1; exact h1
    · next e => rw [e] at h1; exact canonical_setSess h1

theorem canonical_moveRows {restore k p} : canonical (moveRows restore k p s) = true := by
  unfold moveRows
  refine canonical_iter (fun _ _ h => ?_) h
  split
  · exact h
  · refine canonical_iter (fun _ _ h => ?_) (canonical_wakeStack (canonical_wakeStack h))
    extract_lets a im src s1
    have h1 : canonical s1 = true := canonical_bump (canonical_meshSend h)
    refine canonical_ite ?_ (canonical_mereWrite h1)
    exact
      have h2 := canonical_mereWrite h1
      canonical_ite (canonical_mereWrite (canonical_freeBytes h2)) h2

theorem canonical_updReq {acc f} : canonical (updReq acc f s) = true := h

theorem canonical_releaseUnits {r} : canonical (releaseUnits r s) = true := canonical_wr (canonical_wr (canonical_updReq h))

theorem canonical_unbind {r} : canonical (unbind r s) = true := by
  unfold unbind
  refine canonical_ite (canonical_ite (canonical_setSess h) (canonical_freeSess h)) ?_
  exact canonical_ite (canonical_ite h (canonical_freeSess h)) h

theorem canonical_endRequest {acc status segmask} : canonical (endRequest acc status segmask s) = true := by
  unfold endRequest
  split
  · exact h
  · refine canonical_queueCompletion (canonical_unbind ?_)
    exact canonical_releaseUnits h

theorem canonical_failAll {detail} : canonical (failAll detail s) = true := by
  unfold failAll
  exact canonical_foldl (fun _ _ h => canonical_fireVec h) (canonical_foldl (fun _ _ h => canonical_endRequest h) h)

theorem canonical_hotIdlePark {k} : canonical (hotIdlePark k s) = true := by
  unfold hotIdlePark
  exact canonical_ite h (canonical_ite (canonical_startPark h) h)

theorem canonical_sessionExpiry {k} : canonical (sessionExpiry k s) = true := by
  unfold sessionExpiry
  exact canonical_ite h (canonical_expire h)

theorem canonical_sessionMoveDone {k ok} : canonical (sessionMoveDone k ok s) = true := by
  unfold sessionMoveDone
  refine canonical_ite h ?_
  split
  · exact h
  · next p _ =>
    refine canonical_ite (canonical_ite (canonical_setSess h) ?_) (canonical_ite ?_ ?_)
    · exact canonical_fireVec (canonical_bump (canonical_bump (canonical_setSess (canonical_releaseFrames (canonical_moveRows h)))))
    · have h1 : canonical (setSess k { sess (releaseFrames k s) k with st := 4 } (releaseFrames k s)) = true :=
        canonical_setSess (canonical_releaseFrames h)
      extract_lets
      split
      exacts [canonical_ite (canonical_endRequest h1) h1, h1]
    · have h1 : canonical (bump (statReg (sess s k).tenant 13) (imageSize p (sess s k).pos / 256)
          (bump (statReg (sess s k).tenant 9) 1 (moveRows true k p s))) = true :=
        canonical_bump (canonical_bump (canonical_moveRows h))
      extract_lets
      split
      exacts [canonical_updReq (canonical_setSess h1), canonical_setSess h1]

theorem canonical_finish {q e status flags session pos} : canonical (finish q e status flags session pos s) = true :=
  canonical_queueCompletion h

theorem canonical_failEntry {q e status} : canonical (failEntry q e status s) = true := canonical_finish h

theorem canonical_readEntry {q p f} (hf : ∀ e s, canonical s = true → canonical (f e s) = true) : canonical (readEntry q p f s) = true := by
  unfold readEntry
  refine canonical_ite h ?_
  split
  · exact h
  · refine canonical_ite h ?_
    exact
      have h1 := canonical_popEntry h
      canonical_ite (canonical_failEntry h1) (hf _ _ h1)

theorem canonical_with_requests {l} : canonical { s with requests := l } = true := h
theorem canonical_bind {q e t m k} : canonical (bind q e t m k s) = true := canonical_with_requests (canonical_setSess h)

theorem canonical_newSession {t m k} : canonical (newSession t m k s) = true := canonical_setSess (canonical_freeBytes h)

theorem canonical_generateOn {q e} : canonical (generateOn q e s) = true := by
  unfold generateOn
  refine canonical_ite (canonical_failEntry h) (canonical_ite (canonical_failEntry h) ?_)
  refine canonical_ite (canonical_failEntry h) ?_
  refine canonical_ite ?_ ?_
  · split
    exacts [canonical_failEntry h, canonical_ite (canonical_failEntry h) (canonical_bind (canonical_newSession h))]
  · refine canonical_ite (canonical_failEntry h) ?_
    exact canonical_ite (canonical_failEntry h) (canonical_ite (canonical_failEntry h) (canonical_bind h))

theorem canonical_generate {q} : canonical (generate q s) = true := canonical_readEntry h fun _ _ h => canonical_generateOn h

theorem canonical_cancelOn {q e} : canonical (cancelOn q e s) = true := by
  unfold cancelOn
  split
  exacts [canonical_finish (canonical_ite h (canonical_ite (canonical_updReq h) (canonical_endRequest h))), canonical_failEntry h]

theorem canonical_cancel {q} : canonical (cancel q s) = true := canonical_readEntry h fun _ _ h => canonical_cancelOn h

theorem canonical_parkOn {q e} : canonical (parkOn q e s) = true := by
  unfold parkOn
  refine canonical_ite (canonical_failEntry h) (canonical_ite (canonical_failEntry h) ?_)
  refine canonical_ite ?_ (canonical_finish h)
  refine canonical_ite (canonical_finish (canonical_startPark (canonical_setSess h))) ?_
  exact canonical_failEntry (canonical_startPark (canonical_setSess h))

theorem canonical_park {q} : canonical (park q s) = true := canonical_readEntry h fun _ _ h => canonical_parkOn h

theorem canonical_closeOn {q e} : canonical (closeOn q e s) = true := by
  unfold closeOn
  exact canonical_ite (canonical_failEntry h) (canonical_ite (canonical_failEntry h) (canonical_finish (canonical_freeSess h)))

theorem canonical_close {q} : canonical (close q s) = true := canonical_readEntry h fun _ _ h => canonical_closeOn h

theorem canonical_spillinOn {q e} : canonical (spillinOn q e s) = true := by
  unfold spillinOn
  extract_lets t m c l s1 pos img
  have h1 : canonical s1 = true := canonical_updQp h
  refine canonical_ite (canonical_failEntry h1) (canonical_ite (canonical_failEntry h1) ?_)
  split
  · exact canonical_failEntry h1
  refine canonical_ite (canonical_failEntry h1) (canonical_ite (canonical_failEntry h1) ?_)
  split
  · exact canonical_failEntry h1
  next p _ _ _ _ =>
  have hr : canonical (makeRoom s1.sessions.length c.fmt p img.length s1).2 = true := canonical_makeRoom h1
  split
  · next er =>
    rw [er] at hr
    exact canonical_failEntry hr
  · next er =>
    rw [er] at hr
    exact canonical_finish (canonical_setSess (canonical_mereWrite (canonical_wakeStack hr)))

theorem canonical_spillinRequest {q} : canonical (spillinRequest q s) = true := canonical_readEntry h fun _ _ h => canonical_spillinOn h

theorem canonical_reserve {t n} : canonical (reserve t n s) = true := by
  unfold reserve
  exact
    have h1 := canonical_wr (canonical_wr h)
    canonical_ite (canonical_fireVec h1) h1

theorem canonical_admitReq {r st cost len} : canonical (admitReq r st cost len s).2 = true := by
  unfold admitReq
  refine canonical_snd_ite (canonical_ite (canonical_endRequest h) (canonical_bump h)) ?_
  split
  · exact h
  · next e => exact canonical_updReq (canonical_reserve (canonical_allocFor h e))

theorem canonical_admitCold {r} : canonical (admitCold r s) = true := by
  unfold admitCold
  extract_lets x
  refine canonical_ite h ?_
  split
  · exact h
  · next e => exact canonical_updReq (canonical_setSess (canonical_allocFor h e))

omit h in
theorem canonical_takeDecode {lim a r} (h : canonical a.2 = true) : canonical (takeDecode lim a r).2 = true := by
  unfold takeDecode
  exact canonical_snd_ite h (canonical_snd_ite (canonical_endRequest h) (canonical_snd_ite h (canonical_admitReq h)))

omit h in
theorem canonical_takePrefill {i a r} (h : canonical a.2 = true) : canonical (takePrefill i a r).2 = true := by
  unfold takePrefill
  exact canonical_snd_ite h (canonical_admitReq h)

theorem canonical_writeBatch {t i l} : canonical (writeBatch t i l s) = true := by
  unfold writeBatch
  exact canonical_foldl (fun _ _ h => canonical_tarnWrite (canonical_wakeSegs h)) (canonical_freeBytes h)

theorem canonical_startTask {t entry} : canonical (startTask t entry s) = true := canonical_startStep (canonical_wr (canonical_wrF h))

theorem canonical_with_batch {b n} : canonical { s with batch := b, stepNo := n } = true := h
theorem canonical_buildStep {t k i ring} : canonical (buildStep t k i ring s) = true := by
  unfold buildStep
  extract_lets s1 d p s2 l kind s3 s4
  have h1 : canonical s1 = true := canonical_foldl (fun _ _ h => canonical_admitCold h) h
  have hd : canonical d.2 = true := canonical_snd_foldl (fun _ _ h => canonical_takeDecode h) h1
  have h2 : canonical s2 = true := canonical_snd_foldl (fun _ _ h => canonical_takePrefill h) hd
  have h3 : canonical s3 = true := canonical_writeBatch h2
  exact canonical_ite h2 (canonical_ite h (canonical_startTask (canonical_with_batch h3)))

theorem canonical_stepBuild {t} : canonical (stepBuild t s) = true := by
  unfold stepBuild
  refine canonical_ite h ?_
  refine canonical_ite ?_ (canonical_ite h (canonical_buildStep h))
  refine canonical_startTask ?_
  exact h

theorem canonical_ringStepStart {t} : canonical (ringStepStart t s) = true := by
  unfold ringStepStart
  exact canonical_ite h (canonical_buildStep (canonical_revnoWrite h))

theorem canonical_segmentResult {seg step ok} : canonical (segmentResult seg step ok s) = true := by
  unfold segmentResult
  split
  exacts [h, canonical_ite h h]

theorem canonical_sampled : canonical (sampled s).2 = true := canonical_freeBytes h

theorem canonical_charge {acc} : canonical (charge acc s) = true := by
  unfold charge
  exact canonical_updReq (canonical_with_charged (canonical_wr (canonical_bump h)) swf_sset)

theorem canonical_deliverToken {acc tok} : canonical (deliverToken acc tok s) = true := by
  unfold deliverToken
  exact
    have h1 := canonical_bump (canonical_updReq h)
    canonical_ite (canonical_sendItem h1) h1

theorem canonical_afterCommit {acc done mask next} : canonical (afterCommit acc done mask next s) = true := by
  unfold afterCommit
  exact canonical_ite (canonical_endRequest h) (canonical_ite (canonical_endRequest h) (canonical_updReq h))

theorem canonical_loseRows {k n} : canonical (loseRows k n s) = true := by
  unfold loseRows
  extract_lets x
  split
  · exact h
  · refine canonical_iter (fun _ _ h => ?_) h
    extract_lets g
    split
    exacts [h, canonical_iter (fun _ _ h => canonical_mereWrite (canonical_freeBytes h)) h]

theorem canonical_failReq {b acc} : canonical (failReq b s acc) = true := by
  unfold failReq
  refine canonical_ite h ?_
  extract_lets r s1
  have h1 : canonical s1 = true := canonical_releaseUnits (canonical_loseRows h)
  refine canonical_ite (canonical_endRequest h1) (canonical_ite (canonical_fireVec (canonical_endRequest h1)) ?_)
  refine canonical_ite (canonical_updReq (canonical_bump (canonical_updReq h1))) ?_
  exact canonical_ite (canonical_updReq (canonical_bump (canonical_updReq h1))) (canonical_fireVec (canonical_endRequest h1))

theorem canonical_commitDecode {b acc} : canonical (commitDecode b s acc) = true := by
  unfold commitDecode
  refine canonical_ite h (canonical_ite (canonical_failReq h) ?_)
  exact canonical_afterCommit (canonical_deliverToken (canonical_setSess (canonical_sampled (canonical_charge h))))

theorem canonical_commitPrefill {b x} : canonical (commitPrefill b s x) = true := by
  unfold commitPrefill
  refine canonical_ite h (canonical_ite (canonical_failReq h) ?_)
  extract_lets r k s1 _ s2 t _ s3 s4
  have h2 : canonical s2 = true := canonical_updReq (canonical_setSess (canonical_bump (canonical_charge h)))
  have h3 : canonical s3 = true := canonical_setSess (canonical_sampled h2)
  exact canonical_ite (canonical_afterCommit h2) (canonical_ite (canonical_afterCommit h3)
    (canonical_afterCommit (canonical_deliverToken h3)))

theorem canonical_commitAll {b} : canonical (commitAll b s) = true := by
  have h1 := canonical_foldl (f := commitDecode b) (fun _ _ h => canonical_commitDecode h) (l := b.decode) h
  exact canonical_foldl (f := commitPrefill b) (fun _ _ h => canonical_commitPrefill h) (l := b.prefill) h1

theorem canonical_failStep {b} : canonical (failStep b s) = true :=
  canonical_foldl (f := failReq b) (fun _ _ h => canonical_failReq h) (l := b.members) h

theorem canonical_stepCommit : canonical (stepCommit s) = true := by
  unfold stepCommit
  split
  exacts [h, canonical_ite h (canonical_ite (canonical_failStep h) (canonical_ite (canonical_commitAll h) h))]

theorem canonical_commitTimeout : canonical (commitTimeout s) = true := by
  unfold commitTimeout
  split
  · exact h
  · split
    exacts [h, canonical_ite h (canonical_failStep h)]

theorem canonical_latchStat {a} : canonical (latchStat a s) = true := canonical_wr (canonical_wr h)

theorem canonical_tenantBoundary {t} : canonical (tenantBoundary t s) = true := by
  unfold tenantBoundary
  extract_lets s1 res r before low s2
  have h1 : canonical s1 = true := canonical_iter (fun _ _ h => canonical_latchStat h) h
  clear_value s1
  have hc : canonical { s1 with charged := sset (fun _ => 0) t 0 s1.charged } = true := canonical_with_charged h1 swf_sset
  have h2 : canonical s2 = true := canonical_wr (canonical_with_refill hc swf_sset)
  exact canonical_ite (canonical_fireVec h2) h2

theorem canonical_accountingBoundary : canonical (accountingBoundary s) = true := by
  unfold accountingBoundary
  refine canonical_ite h ?_
  have h1 : canonical (latchStat 0x1010004 (addWrap 0x1010000 1 { s with acctP := acctPeriod s, acctAt := timeCounter s })) = true :=
    canonical_latchStat (canonical_addWrap (by exact h))
  exact canonical_iter (fun _ _ h => canonical_fireVec h) (canonical_iter (fun _ _ h => canonical_tenantBoundary h) h1)

end Sys2Proof.Machine
end

section
/-! SUPPORT. The loader, faults and recovery keep every store canonical (O4). -/

namespace Sys2Proof.Machine

variable {s : State} (h : canonical s = true)
include h

theorem canonical_placeSect {l c x b} : canonical (placeSect l c x b s) = true := by
  unfold placeSect
  refine canonical_ite ?_ ?_
  · exact
      have h1 := canonical_tarnWrite (canonical_wakeSegs h)
      canonical_ite (canonical_wr (canonical_wr h1)) (canonical_ite (canonical_wr (canonical_wr h1)) h1)
  · refine canonical_ite ?_ h
    exact
      have h2 := canonical_mereWrite (canonical_wakeUnits h)
      canonical_ite (canonical_wr (canonical_wr64 h2)) h2

theorem canonical_timetable {fuel n b} : canonical (timetable fuel n b s) = true := by
  induction fuel generalizing s b with
  | zero => exact h
  | succ fuel ih =>
    unfold timetable
    exact canonical_ite h (ih (canonical_ite (canonical_with_meshTbl h swf_ssetMany) h))

theorem canonical_placeTimetable {b} : canonical (placeTimetable b s) = true := by
  unfold placeTimetable
  exact canonical_timetable (canonical_wr (canonical_with_meshTbl h fun _ => swf_nil _))

theorem canonical_placeScales {l scales b} : canonical (placeScales l scales b s) = true := by
  unfold placeScales
  refine canonical_iter (fun _ _ h => ?_) h
  extract_lets k w p w'
  split
  exacts [h, canonical_foldl (fun _ _ h => canonical_wr (canonical_wr h)) h]

theorem okCanonical_placeAll {l progs scales} : OkCanonical (placeAll l progs scales s) := by
  refine okCanonical_foldlM (fun s1 x h1 => ?_) h
  split
  · exact okCanonical_ok h1
  · refine okCanonical_foldlM (fun s2 c h2 => ?_) h1
    split
    exacts [okCanonical_ok (canonical_placeSect h2), okCanonical_error]

theorem okCanonical_loadImage {t tn src fmtMap modMap segMap} : OkCanonical (loadImage t tn src fmtMap modMap segMap s) := by
  unfold loadImage
  refine okCanonical_bind fun _ => ?_
  extract_lets n img l slots rest
  have hslots : ∀ r, OkCanonical (slots r) := by
    intro _
    unfold slots
    clear_value l
    refine okCanonical_bind fun _ => ?_
    split
    · extract_lets place
      have hplace : ∀ r, OkCanonical (place r) := by
        intro _
        unfold place
        refine okCanonical_bind fun tt => okCanonical_bind fun sc => okCanonical_bind fun _ => okCanonical_bind fun _ =>
          okCanonical_bind_state (okCanonical_placeAll h) fun s1 h1 => ?_
        extract_lets s2 s3
        have h2 : canonical s2 = true := canonical_placeScales h1
        have h3 : canonical s3 = true := canonical_ite (canonical_placeTimetable h2) h2
        clear_value s3
        refine okCanonical_ok (canonical_wr ?_)
        exact canonical_with_tasks h3 swf_sset
      clear_value place
      split
      exacts [okCanonical_bind hplace, okCanonical_bind hplace]
    · exact okCanonical_error
  clear_value slots
  have hrest : ∀ r, OkCanonical (rest r) := by
    intro _
    unfold rest
    refine okCanonical_bind fun _ => okCanonical_bind fun _ => okCanonical_bind fun _ => okCanonical_bind fun _ =>
      okCanonical_bind fun _ => ?_
    split
    exacts [okCanonical_bind hslots, okCanonical_bind hslots]
  clear_value rest
  refine okCanonical_bind fun _ => okCanonical_bind fun _ => ?_
  split
  exacts [okCanonical_bind hrest, okCanonical_bind hrest]

theorem canonical_loadStatus {result t detail} : canonical (loadStatus result t detail s) = true := canonical_wr h

theorem canonical_readImage {tn src ecc} : canonical (readImage tn src ecc s) = true := by
  unfold readImage
  exact canonical_ite (canonical_reachMere h) h

theorem canonical_runLoad {t src fmtMap modMap segMap ecc} : canonical (runLoad t src fmtMap modMap segMap ecc s) = true := by
  unfold runLoad
  extract_lets s1
  have h1 : canonical s1 = true := canonical_wrF (canonical_with_tasks h swf_sset)
  split
  · extract_lets s2
    have h2 : canonical s2 = true := canonical_readImage h1
    split
    · next e => exact canonical_loadStatus (okCanonical_loadImage h2 _ e)
    · exact canonical_loadStatus h2
  · exact canonical_loadStatus h1

theorem canonical_ldrCtl {v} : canonical (ldrCtl v s) = true := canonical_wr h

theorem canonical_goLoad {ecc} : canonical (goLoad ecc s) = true := by
  unfold goLoad
  exact canonical_ite (canonical_loadStatus (canonical_wrF h)) (canonical_ite (canonical_wrF h) (canonical_runLoad (canonical_wrF h)))

theorem canonical_ldrLoad {v ecc} : canonical (ldrLoad v ecc s) = true := by
  unfold ldrLoad
  exact canonical_ite h (canonical_ite (canonical_ite h (canonical_goLoad h)) (canonical_goLoad (canonical_ldrCtl h)))

theorem canonical_ldrUnload {v} : canonical (ldrUnload v s) = true := by
  unfold ldrUnload
  refine canonical_ite h ?_
  exact
    have h1 := canonical_ldrCtl h
    canonical_ite (canonical_wrF h1) (canonical_unloadTask h1)

theorem canonical_updRecov {f} : canonical (updRecov f s) = true := h

theorem canonical_logWrite {c ws} : canonical (logWrite c ws s) = true := by
  unfold logWrite
  refine canonical_ite (canonical_bump h) ?_
  exact canonical_wr (canonical_foldl (fun _ _ h => canonical_wr h) (canonical_ite (canonical_bump (canonical_wr h)) h))

theorem canonical_ringWrite {ws} : canonical (ringWrite ws s) = true := canonical_updRecov (canonical_flashWrite h)

theorem canonical_ringCopy : canonical (ringCopy s) = true := by
  unfold ringCopy
  exact canonical_iter (fun _ _ h => canonical_ite h (canonical_logWrite h)) h

theorem canonical_logTailWrite {v} : canonical (logTailWrite v s) = true := by
  unfold logTailWrite
  exact canonical_ite h (canonical_wr h)

theorem canonical_fenceAll : canonical (fenceAll s) = true := by
  unfold fenceAll
  exact canonical_foldl (fun _ _ h => canonical_updQp h) h

theorem canonical_setFcl {st phase} : canonical (setFcl st phase s) = true := canonical_wrF h

theorem canonical_enterHold : canonical (enterHold s) = true :=
  canonical_failAll (canonical_fenceAll (canonical_allDown (canonical_abortStep (canonical_setFcl h))))

theorem canonical_enterFatal {source} : canonical (enterFatal source s) = true := by
  unfold enterFatal
  exact
    have h1 := canonical_fenceAll (canonical_allDown (canonical_setFcl (canonical_updRecov h)))
    canonical_ite (canonical_updRecov h1) (canonical_failAll h1)

theorem canonical_beginRecovery : canonical (beginRecovery s) = true :=
  canonical_fenceAll (canonical_abortStep (canonical_bump (canonical_setFcl (canonical_updRecov h))))

theorem canonical_restartRecovery : canonical (restartRecovery s) = true := canonical_bump (canonical_setFcl (canonical_updRecov h))

theorem canonical_partReaction : canonical (partReaction s) = true := by
  unfold partReaction
  refine canonical_ite (canonical_ite (canonical_enterHold (canonical_updRecov h)) (canonical_beginRecovery h)) ?_
  refine canonical_ite ?_ h
  exact canonical_ite (canonical_updRecov h) (canonical_ite (canonical_enterHold (canonical_updRecov h)) (canonical_restartRecovery h))

theorem canonical_noteBatch {p} : canonical (noteBatch p s) = true := by
  unfold noteBatch
  split
  exacts [h, canonical_ite h h]

theorem canonical_noteNamed {p} : canonical (noteNamed p s) = true := by
  unfold noteNamed
  exact canonical_ite (canonical_updRecov h) h

theorem canonical_react {p} : canonical (react p s) = true := by
  unfold react
  split
  · exact canonical_bump h
  · exact canonical_ite (canonical_bump h) (canonical_fireVec (canonical_noteBatch (canonical_bump h)))
  · exact canonical_noteNamed (canonical_partReaction (canonical_bump h))
  · exact canonical_enterFatal h

theorem canonical_faultRecord : canonical (faultRecord s) = true := by
  unfold faultRecord
  refine canonical_ite h ?_
  split
  · exact h
  · refine canonical_then ?_ fun h1 => canonical_react (canonical_ite (canonical_ringWrite h1) h1)
    refine canonical_logWrite ?_
    exact h

theorem canonical_brokenWire {source} : canonical (brokenWire source s) = true := by
  unfold brokenWire
  exact canonical_ite h (canonical_raisePend (canonical_setBit (canonical_updRecov h)))

theorem canonical_measureCore {c} : canonical (measureCore c s) = true := by
  unfold measureCore
  extract_lets m w old s1
  have h1 : canonical s1 = true := by
    refine canonical_iter (fun _ _ h => ?_) h
    refine canonical_then ?_ fun h2 => canonical_ite (canonical_wr h2) h2
    exact canonical_wr h
  split
  · exact canonical_raise h1
  · refine canonical_ite h1 ?_
    refine canonical_then ?_ fun h3 => canonical_ite (canonical_raise (canonical_setBit h3)) h3
    exact canonical_wr h1

theorem canonical_measureAll : canonical (measureAll s) = true := by
  unfold measureAll
  exact canonical_foldl (fun _ _ h => canonical_measureCore h) (canonical_updRecov h)

theorem canonical_ageingMeasure : canonical (ageingMeasure s) = true := by
  unfold ageingMeasure
  exact canonical_ite h (canonical_measureAll (canonical_updRecov h))

theorem canonical_loseWrites : canonical (loseWrites s) = true := by
  unfold loseWrites
  refine canonical_foldl (fun _ _ h => ?_) h
  split
  exacts [canonical_mereWrite (canonical_freeBytes h), h]

theorem canonical_resetUnits {held} : canonical (resetUnits held s) = true := by
  unfold resetUnits
  extract_lets s1
  have h1 : canonical s1 = true := canonical_loseWrites h
  clear_value s1
  have hg := swf_filter_map (v := ({} : Seg)) (f := fun g => { g with owc := 0 })
    (swf_filter (fun x => held.contains (x.1 / 32)) (segs_of_canonical h1))
  have hk := swf_filter_map (v := ({} : StackSt)) (f := fun x => { x with subs := [], carryV := 0, carryL := 0 })
    (stackSt_of_canonical h1)
  simp only [canonical, memoriesCanonical, storesCanonical, Bool.and_eq_true] at h1 ⊢
  simp_all only [swf_filter, swf_nil, and_self]

theorem canonical_clearKept {l} : canonical (clearKept l s) = true := by
  unfold clearKept
  exact canonical_foldl (fun _ _ h => canonical_modelWrite h) h

theorem canonical_holdPorts : canonical (holdPorts s) = true := by
  unfold holdPorts
  exact canonical_foldl (fun _ _ h => canonical_setBit (canonical_updPort (canonical_dropPort (canonical_wrF h)))) h

theorem canonical_removeCores {l} : canonical (removeCores l s) = true := by
  unfold removeCores
  exact canonical_ite h (canonical_setBit (canonical_wr (canonical_flashWrite h)))

theorem canonical_recoveryReset : canonical (recoveryReset s) = true := by
  unfold recoveryReset
  refine canonical_ite h ?_
  extract_lets kept lost held _ s1
  have h1 : canonical s1 = true := by
    refine canonical_holdPorts (canonical_measureAll (canonical_trainSeams (canonical_wrF (canonical_clearKept (canonical_resetUnits ?_)))))
    exact canonical_lateUnload (canonical_endBatch (canonical_allDown (canonical_setFcl h)))
  exact canonical_ite (canonical_enterHold h1) (canonical_setFcl (canonical_updRecov (canonical_removeCores h1)))

theorem canonical_reloadTask {t i} : canonical (reloadTask t i s) = true := by
  unfold reloadTask
  exact
    have h1 := canonical_runLoad h
    canonical_ite h1 (canonical_fireVec (canonical_foldl (fun _ _ h => canonical_endRequest h) h1))

theorem canonical_recoveryRestore : canonical (recoveryRestore s) = true := by
  unfold recoveryRestore
  exact canonical_ite h (canonical_updRecov (canonical_foldl (fun _ _ h => canonical_reloadTask h) h))

theorem canonical_recoveryLeave : canonical (recoveryLeave s) = true := by
  unfold recoveryLeave
  refine canonical_ite h ?_
  extract_lets s1
  have h1 : canonical s1 = true := canonical_checkLedgers (canonical_setFcl h)
  refine canonical_ite ?_ h1
  exact
    have h2 := canonical_wr (canonical_setFcl h1)
    canonical_ite (canonical_endDown h2) h2

theorem canonical_recover : canonical (recover s) = true := by
  unfold recover
  exact canonical_ite (canonical_raise h) h

theorem canonical_release : canonical (release s) = true := by
  unfold release
  exact canonical_ite h (canonical_bump (canonical_setFcl (canonical_updRecov h)))

theorem canonical_injectWord {source cause mode} : canonical (injectWord source cause mode s) = true := canonical_wr h

theorem canonical_injectRaise {source cause} : canonical (injectRaise source cause s) = true := by
  unfold injectRaise
  refine canonical_ite h ?_
  exact
    have h1 := canonical_injectWord h
    canonical_ite (canonical_raisePend h1) h1

theorem canonical_holdRails {mode source} : canonical (holdRails mode source s) = true := by
  unfold holdRails
  refine canonical_ite h ?_
  exact
    have h1 := canonical_injectWord h
    canonical_ite (canonical_updRecov h1) h1

theorem canonical_injectRailsHigh {source} : canonical (injectRailsHigh source s) = true := canonical_holdRails h

theorem canonical_injectRailsLow {source} : canonical (injectRailsLow source s) = true := canonical_holdRails h

theorem canonical_injectBitFlip {source} : canonical (injectBitFlip source s) = true := by
  unfold injectBitFlip
  refine canonical_ite h ?_
  exact
    have h1 := canonical_injectWord h
    canonical_ite (canonical_bump h1) h1

theorem canonical_injectRelease : canonical (injectRelease s) = true := by
  unfold injectRelease
  exact canonical_ite h (canonical_updRecov (canonical_injectWord h))

end Sys2Proof.Machine
end

section
/-! SUPPORT. Security, the module, the stacks and the control space keep every store canonical (O4). -/

namespace Sys2Proof.Machine

variable {s : State} (h : canonical s = true)
include h

theorem canonical_updSec {f} (hw : (f s.sec).wkeys = s.sec.wkeys) (ho : (f s.sec).okeys = s.sec.okeys) :
    canonical (updSec f s) = true :=
  canonical_with_sec h (fun hs => hw ▸ hs) (fun hs => ho ▸ hs)

theorem canonical_bufReach {ecc b n} : canonical (bufReach ecc b n s) = true := by
  unfold bufReach
  split
  exacts [canonical_reachMere h, h]

theorem canonical_bufWrite {ecc b l} : canonical (bufWrite ecc b l s) = true := by
  unfold bufWrite
  split
  exacts [canonical_mereWrite (canonical_noteUnits (canonical_wakeUnits h)), canonical_iter (fun _ _ h => canonical_wr h) h]

theorem canonical_mailbox {op rq v f} (hf : ∀ b s, canonical s = true → canonical (f b s).2 = true) :
    canonical (mailbox op rq v f s) = true := by
  unfold mailbox
  refine canonical_ite h (canonical_ite (canonical_privRefuse h) ?_)
  extract_lets s1 r
  have h1 : canonical s1 = true := canonical_wr h
  have hr : canonical r.2 = true := by
    unfold r
    split
    exacts [h1, hf _ _ h1]
  exact canonical_wrF hr

theorem canonical_reportOn {ecc b} : canonical (reportOn ecc b s).2 = true := by
  unfold reportOn
  exact canonical_snd_ite h (canonical_bufWrite (canonical_randomBits (canonical_bufReach h)))

theorem canonical_certOn {ecc b} : canonical (certOn ecc b s).2 = true := by
  unfold certOn
  exact canonical_snd_ite h (canonical_bufWrite h)

theorem canonical_zeroRestarts {k} : canonical (zeroRestarts k s) = true := canonical_with_csr h (swf_filter _)

theorem canonical_placeKey {l key} : canonical (placeKey l key s).2 = true := by
  unfold placeKey
  refine canonical_snd_ite (canonical_snd_ite h ?_) (canonical_snd_ite h (canonical_zeroRestarts ?_))
  · split
    exacts [h, canonical_with_sec h swf_sset id]
  · exact canonical_with_sec h id swf_sset

theorem canonical_keyInstallOn {ecc b} : canonical (keyInstallOn ecc b s).2 = true := by
  unfold keyInstallOn
  refine canonical_then ?_ fun h1 => canonical_snd_ite h1 (canonical_snd_ite h1 (by split; exacts [canonical_bump h1, canonical_placeKey h1]))
  exact canonical_bufReach h

theorem canonical_keyDeleteOn {b} : canonical (keyDeleteOn b s).2 = true := by
  unfold keyDeleteOn
  exact canonical_snd_ite (canonical_snd_ite (canonical_with_sec h id swf_sset) h) (canonical_snd_ite (canonical_with_sec h swf_sset id) h)

theorem canonical_trustWriteOn {ecc b} : canonical (trustWriteOn ecc b s).2 = true := by
  unfold trustWriteOn
  have h1 : canonical (bufReach ecc b b.len s) = true := canonical_bufReach h
  exact canonical_snd_ite h1 (canonical_updSec h1 rfl rfl)

theorem canonical_ownerSetOn {rq ecc b} : canonical (ownerSetOn rq ecc b s).2 = true := by
  unfold ownerSetOn
  extract_lets s1 l
  have h1 : canonical s1 = true := canonical_bufReach h
  refine canonical_snd_ite h1 (canonical_snd_ite h1 ?_)
  split
  exacts [canonical_bump h1, canonical_updSec h1 rfl rfl]

theorem canonical_ownerClearOn {b} : canonical (ownerClearOn b s).2 = true := canonical_updSec h rfl rfl

theorem canonical_fwUpdateOn {ecc b} : canonical (fwUpdateOn ecc b s).2 = true := by
  unfold fwUpdateOn
  extract_lets s1 l
  have h1 : canonical s1 = true := canonical_bufReach h
  split
  exacts [h1, canonical_setBit (canonical_flashWrite h1)]

theorem canonical_svnCommitOn {b} : canonical (svnCommitOn b s).2 = true := by
  unfold svnCommitOn
  exact canonical_snd_ite h (canonical_snd_ite h (canonical_wrF (canonical_updSec h rfl rfl)))

theorem canonical_report {rq v ecc} : canonical (report rq v ecc s) = true := canonical_mailbox h fun _ _ h => canonical_reportOn h

theorem canonical_cert {rq v ecc} : canonical (cert rq v ecc s) = true := canonical_mailbox h fun _ _ h => canonical_certOn h

theorem canonical_keyInstall {rq v ecc} : canonical (keyInstall rq v ecc s) = true :=
  canonical_mailbox h fun _ _ h => canonical_keyInstallOn h

theorem canonical_keyDelete {rq v} : canonical (keyDelete rq v s) = true := canonical_mailbox h fun _ _ h => canonical_keyDeleteOn h

theorem canonical_trustWrite {rq v ecc} : canonical (trustWrite rq v ecc s) = true :=
  canonical_mailbox h fun _ _ h => canonical_trustWriteOn h

theorem canonical_ownerSet {rq v ecc} : canonical (ownerSet rq v ecc s) = true :=
  canonical_mailbox h fun _ _ h => canonical_ownerSetOn h

theorem canonical_ownerClear {rq v} : canonical (ownerClear rq v s) = true := canonical_mailbox h fun _ _ h => canonical_ownerClearOn h

theorem canonical_fwUpdate {rq v ecc} : canonical (fwUpdate rq v ecc s) = true :=
  canonical_mailbox h fun _ _ h => canonical_fwUpdateOn h

theorem canonical_svnCommit {rq v} : canonical (svnCommit rq v s) = true := canonical_mailbox h fun _ _ h => canonical_svnCommitOn h

theorem canonical_updMod {f} : canonical (updMod f s) = true := h

theorem canonical_coldReset : canonical (coldReset s) = true := by
  have hk := swf_filter_map (v := ({} : StackSt)) (f := fun x => { remaps := x.remaps, spared := x.spared }) (stackSt_of_canonical h)
  have hc : swf resetWord (s.csr.filter fun e => e.1 == rMaskFused) = true := swf_filter _ (csr_of_canonical h)
  have hr : canonical State.reset = true := by decide
  simp only [coldReset, canonical, memoriesCanonical, storesCanonical, Bool.and_eq_true] at h hr ⊢
  simp_all only [swf_nil, and_self]

theorem canonical_railsUp : canonical (railsUp s) = true := canonical_updMod (canonical_coldReset h)

theorem canonical_railsDown {f} : canonical (railsDown f s) = true := canonical_updMod (canonical_coldReset h)

theorem canonical_powerOn : canonical (powerOn s) = true := by
  unfold powerOn
  exact canonical_ite h (canonical_railsUp h)

theorem canonical_powerDown : canonical (powerDown s) = true := by
  unfold powerDown
  exact canonical_ite (canonical_updMod h) (canonical_railsDown (canonical_ite (canonical_failAll h) h))

theorem canonical_holdReset : canonical (holdReset s) = true := canonical_updMod (canonical_coldReset h)

theorem canonical_leaveReset : canonical (leaveReset s) = true := canonical_updMod (canonical_coldReset h)

theorem canonical_resetAssert : canonical (resetAssert s) = true := by
  unfold resetAssert
  exact canonical_ite (canonical_updMod (canonical_holdReset h)) h

theorem canonical_resetRelease : canonical (resetRelease s) = true := by
  unfold resetRelease
  refine canonical_ite h ?_
  exact
    have h1 := canonical_updMod h
    canonical_ite h1 (canonical_leaveReset h1)

omit h in
theorem wkeys_takeOwner {c} : (takeOwner c).wkeys = c.wkeys := by
  unfold takeOwner
  extract_lets c1
  have hc : c1.wkeys = c.wkeys := by unfold c1; split <;> rfl
  split
  exacts [hc, hc]
omit h in
theorem okeys_takeOwner {c} : (takeOwner c).okeys = c.okeys := by
  unfold takeOwner
  extract_lets c1
  have hc : c1.okeys = c.okeys := by unfold c1; split <;> rfl
  split
  exacts [hc, hc]
theorem canonical_bootCount : canonical (bootCount s) = true := by
  unfold bootCount
  extract_lets n s1 b
  have hs : canonical (updSec (fun c => { takeOwner c with bootCnt := n }) s) = true :=
    canonical_updSec h wkeys_takeOwner okeys_takeOwner
  have h1 : canonical s1 = true := canonical_updMod hs
  exact canonical_flashWrite (canonical_wr (canonical_wr (canonical_wrF h1)))

theorem canonical_applyRemaps : canonical (applyRemaps s) = true := by
  unfold applyRemaps
  exact canonical_iter (fun _ _ h => canonical_wr h) h

theorem canonical_loadSelf : canonical (loadSelf s) = true := by
  unfold loadSelf
  exact canonical_ite h (canonical_wr h)

theorem canonical_loadMac : canonical (loadMac s) = true := canonical_wr (canonical_wr h)

theorem canonical_loadMask : canonical (loadMask s) = true := canonical_wr h

theorem canonical_loadRecords : canonical (loadRecords s) = true := by
  unfold loadRecords
  exact
    have h1 := canonical_ringCopy h
    canonical_ite (canonical_updRecov (canonical_setBit h1)) h1

theorem canonical_startWeast {i} : canonical (startWeast i s) = true := by
  unfold startWeast
  have h1 : canonical (randomBits 384 s).2 = true := canonical_randomBits h
  refine canonical_updMod (canonical_trainSeams (canonical_loadRecords (canonical_loadMac (canonical_loadSelf
    (canonical_applyRemaps (canonical_loadMask (canonical_wr ?_)))))))
  exact canonical_with_sec h1 (fun _ => swf_nil _) fun _ => by simp [swf, swfFrom]

theorem canonical_boot : canonical (boot s) = true := by
  unfold boot
  refine canonical_ite h ?_
  extract_lets s1
  have h1 : canonical s1 = true := canonical_bootCount h
  split
  exacts [canonical_setBit (canonical_updMod (canonical_updSec h1 rfl rfl)), canonical_startWeast h1]

theorem canonical_ready : canonical (ready s) = true := by
  unfold ready
  exact canonical_ite (canonical_updMod h) h

theorem canonical_vinFault {mv us} : canonical (vinFault mv us s) = true := by
  unfold vinFault
  exact
    have h1 := canonical_updMod h
    canonical_ite (canonical_raise h1) h1

theorem canonical_railsOff {mv} : canonical (railsOff mv s) = true := by
  unfold railsOff
  exact
    have h1 := canonical_updMod h
    canonical_ite (canonical_railsDown h1) h1

theorem canonical_vinRestart {mv} : canonical (vinRestart mv s) = true := by
  unfold vinRestart
  exact
    have h1 := canonical_updMod h
    canonical_ite (canonical_railsUp h1) h1

theorem canonical_sampleRegs {v} : canonical (sampleRegs v s) = true := by
  unfold sampleRegs
  refine canonical_iter (fun _ _ h => canonical_wrF (canonical_wr h)) ?_
  refine canonical_iter (fun _ _ h => canonical_wr h) ?_
  refine canonical_wr64 (canonical_updMod (canonical_wr (canonical_wr (canonical_wr (canonical_wr (canonical_wr ?_))))))
  exact canonical_wr (canonical_wr (canonical_wr (canonical_bump (canonical_wrF h))))

theorem canonical_sensorSample {v} : canonical (sensorSample v s) = true := by
  unfold sensorSample
  extract_lets s1
  have h1 : canonical s1 = true := canonical_updMod h
  refine canonical_ite h1 ?_
  exact
    have h2 := canonical_sampleRegs h1
    have h3 := canonical_ite (canonical_updMod h2) h2
    canonical_ite (canonical_raise (canonical_updMod h3)) h3

theorem canonical_thermalShutdown {hotSpot} : canonical (thermalShutdown hotSpot s) = true := by
  unfold thermalShutdown
  split
  exacts [h, canonical_ite (canonical_railsDown h) h]

theorem canonical_flashPort {f} (hf : ∀ s, canonical s = true → canonical (f s) = true) : canonical (flashPort f s) = true := by
  unfold flashPort
  exact canonical_ite h (hf _ (canonical_updMod h))

theorem canonical_writeEnable : canonical (writeEnable s) = true := canonical_flashPort h fun _ h => canonical_updMod h

theorem canonical_statusRead : canonical (statusRead s) = true := canonical_flashPort h fun _ h => canonical_updMod h

theorem canonical_spiRead {addr len} : canonical (spiRead addr len s) = true :=
  canonical_flashPort h fun _ h => canonical_updMod (canonical_with_fresh h)

theorem canonical_programByte {a b} : canonical (programByte a b s) = true := canonical_flashWrite h

theorem canonical_pageProgram {addr data} : canonical (pageProgram addr data s) = true := by
  unfold pageProgram
  refine canonical_flashPort h fun _ h => ?_
  refine canonical_ite h ?_
  exact
    have h1 := canonical_updMod h
    canonical_ite h1 (canonical_foldl (fun _ _ h => canonical_programByte h) h1)

theorem canonical_sectorErase {addr} : canonical (sectorErase addr s) = true :=
  canonical_flashPort h fun _ h => canonical_ite h (canonical_ite (canonical_updMod h) (canonical_with_flash (canonical_updMod h) (swf_sdrop _)))

theorem canonical_jtagSelect {n} : canonical (jtagSelect n s) = true := by
  unfold jtagSelect
  exact
    have h1 := canonical_updMod h
    canonical_ite (canonical_leaveReset h1) h1

theorem canonical_bypass {tdi} : canonical (bypass tdi s) = true := by
  unfold bypass
  exact canonical_ite h (canonical_jtagSelect (canonical_updMod h))

theorem canonical_idcode : canonical (idcode s) = true := by
  unfold idcode
  exact canonical_ite h (canonical_jtagSelect (canonical_updMod h))

theorem canonical_samplePreload {p} : canonical (samplePreload p s) = true := by
  unfold samplePreload
  refine canonical_ite h ?_
  split
  exacts [canonical_jtagSelect (canonical_updMod h), canonical_jtagSelect (canonical_drawn (canonical_updMod h))]

theorem canonical_extest {enter} : canonical (extest enter s) = true := by
  unfold extest
  exact canonical_ite h (canonical_ite (canonical_updMod (canonical_holdReset h)) (canonical_ite (canonical_jtagSelect h) h))

theorem canonical_copyWindow {n} : canonical (copyWindow n s) = true := by
  unfold copyWindow
  refine canonical_ite h ?_
  exact
    have h1 := canonical_setStk h
    canonical_ite (canonical_wrF (canonical_wrF h1)) h1

theorem canonical_stackPortWindow {n dv dl meets} : canonical (stackPortWindow n dv dl meets s) = true := by
  unfold stackPortWindow
  exact canonical_ite h (canonical_copyWindow (canonical_bump (canonical_bump (canonical_bump (canonical_setStk h)))))

theorem canonical_bankRefresh {n bank delays ecc} : canonical (bankRefresh n bank delays ecc s) = true := by
  unfold bankRefresh
  refine canonical_ite h ?_
  exact
    have h1 := canonical_bump (canonical_bump h)
    canonical_ite (canonical_eccNote (canonical_setStk h1)) h1

theorem canonical_rowerrTableClear : canonical (rowerrTableClear s) = true := by
  unfold rowerrTableClear
  exact canonical_iter (fun _ _ h => canonical_setStk h) h

theorem canonical_selfrefEnter {n} : canonical (selfrefEnter n s) = true := by
  unfold selfrefEnter
  exact canonical_ite h (canonical_wrF h)

theorem canonical_stackWake {n} : canonical (stackWake n s) = true := by
  unfold stackWake
  exact canonical_ite (canonical_wakeStack h) h

theorem canonical_flashRemap {n bank row mode} : canonical (flashRemap n bank row mode s) = true := by
  unfold flashRemap
  exact canonical_ite (canonical_flashWrite h) h

theorem canonical_copyRow {ecc us} : canonical (copyRow ecc us s) = true := by
  unfold copyRow
  exact canonical_foldl (fun _ _ h => canonical_ite (canonical_mereWrite (canonical_freeBytes h)) h) (canonical_noteUnits h)

theorem canonical_remapRow {n bank row ecc} : canonical (remapRow n bank row ecc s) = true := by
  unfold remapRow
  refine canonical_ite h ?_
  refine canonical_checkBank (canonical_wr (canonical_wrF ?_))
  exact canonical_setStk (canonical_flashRemap (canonical_copyRow (canonical_wakeStack h)))

theorem canonical_spareBank {n bank} : canonical (spareBank n bank s) = true := by
  unfold spareBank
  refine canonical_ite h ?_
  exact canonical_foldl (fun _ _ h => canonical_degrade h) (canonical_wr (canonical_setBit (canonical_setStk (canonical_wakeStack h))))

theorem canonical_bankChangeover {n} : canonical (bankChangeover n s) = true := by
  unfold bankChangeover
  split
  exacts [h, canonical_ite h (canonical_wrF (canonical_setStk (canonical_flashRemap h)))]

theorem canonical_countUnassigned : canonical (countUnassigned s) = true := canonical_bump h

theorem canonical_readReg {rq a} : canonical (readReg rq a s).2 = true := by
  unfold readReg
  split
  · exact canonical_with_latches h swf_sset
  · exact canonical_snd_ite h (canonical_ite h (canonical_wr h))

theorem canonical_denied : canonical (denied s) = true := canonical_raise h

theorem canonical_ctlRead {rq a} : canonical (ctlRead rq a s).2 = true := by
  unfold ctlRead
  refine canonical_snd_ite (canonical_denied (canonical_ite h (canonical_countUnassigned h))) ?_
  exact canonical_snd_ite (canonical_countUnassigned h) (canonical_snd_ite (canonical_freeBytes h) (canonical_readReg h))

theorem canonical_plainWriteWith {same a v} : canonical (plainWriteWith same a v s) = true := by
  unfold plainWriteWith
  split
  exacts [h, canonical_wr h]

theorem canonical_plainWrite {a v} : canonical (plainWrite a v s) = true := canonical_plainWriteWith h

theorem canonical_writeSsqCtl {rq v} : canonical (writeSsqCtl rq v s) = true := by
  unfold writeSsqCtl
  exact
    have h1 := canonical_ite (canonical_abort h) h
    canonical_ite (canonical_go h1) (canonical_wrF h1)

theorem canonical_writeFclCtl {v} : canonical (writeFclCtl v s) = true := by
  unfold writeFclCtl
  exact
    have h1 := canonical_ite (canonical_release h) h
    canonical_ite (canonical_recover h1) h1

theorem canonical_writeInject {v} : canonical (writeInject v s) = true := by
  unfold writeInject
  refine canonical_ite h ?_
  extract_lets s1
  have h1 : canonical s1 = true := canonical_plainWrite h
  refine canonical_ite (canonical_injectRelease h1) (canonical_ite h1 (canonical_ite (canonical_injectRaise h1) ?_))
  refine canonical_ite (canonical_injectRailsHigh h1) ?_
  exact canonical_ite (canonical_injectRailsLow h1) (canonical_ite (canonical_injectBitFlip h1) h1)

theorem canonical_writeMbox {rq v} : canonical (writeMbox rq v s) = true := by
  unfold writeMbox
  refine canonical_ite (canonical_plainWrite h) ?_
  split
  · exact canonical_report h
  · exact canonical_cert h
  · exact canonical_keyInstall h
  · exact canonical_keyDelete h
  · exact canonical_trustWrite h
  · exact canonical_ownerSet h
  · exact canonical_ownerClear h
  · exact canonical_fwUpdate h
  · exact canonical_svnCommit h
  · exact canonical_plainWrite h

theorem canonical_writeStack {n off v} : canonical (writeStack n off v s) = true := by
  unfold writeStack
  refine canonical_ite ?_ ?_
  · exact
      have h1 := canonical_wrF h
      canonical_ite (canonical_selfrefEnter h1) (canonical_wrF h1)
  · refine canonical_ite ?_ (canonical_plainWrite h)
    refine canonical_ite h ?_
    exact
      have h2 := canonical_plainWrite h
      canonical_ite h2 (canonical_ite (canonical_remapRow h2) (canonical_ite (canonical_spareBank h2) h2))

theorem canonical_writePort {p off v} : canonical (writePort p off v s) = true := by
  unfold writePort
  exact canonical_ite (canonical_plainWrite h) (canonical_ite (canonical_portDisabled h) (canonical_updPort (canonical_plainWrite h)))

theorem canonical_writeFab {a v} : canonical (writeFab a v s) = true := by
  unfold writeFab
  refine canonical_ite (canonical_fabSelfWrite h) (canonical_ite (canonical_releaseFab (canonical_plainWrite h)) ?_)
  refine canonical_ite (canonical_ite (canonical_switch h) h) (canonical_ite (canonical_ite h (canonical_plainWrite h)) ?_)
  refine canonical_ite (canonical_revnoWrite h) (canonical_ite (canonical_fill h) ?_)
  refine canonical_ite ?_ (canonical_plainWrite h)
  exact canonical_ite (canonical_modelActivate h) (canonical_ite h (canonical_modelWrite (canonical_plainWrite h)))

theorem canonical_writeLoader {a v} : canonical (writeLoader a v s) = true := by
  unfold writeLoader
  refine canonical_ite h (canonical_ite (canonical_plainWrite h) ?_)
  exact canonical_ite (canonical_ldrCtl h) (canonical_ite (canonical_ldrUnload h) (canonical_ldrLoad h))

theorem canonical_writeTenant {t w v same} : canonical (writeTenant t w v same s).2 = true := by
  unfold writeTenant
  refine canonical_then ?_ fun h1 => canonical_snd_ite (canonical_vecPendClear h) (canonical_snd_ite (canonical_vecPendClear h)
    (canonical_snd_ite h (canonical_snd_ite (canonical_snd_ite h1 h) (canonical_snd_ite (canonical_snd_ite h h1) h1))))
  exact canonical_plainWrite h

theorem canonical_writeContext {q w v} : canonical (writeContext q w v s).2 = true := by
  unfold writeContext
  exact canonical_snd_ite (canonical_qpStateWrite h) (canonical_snd_ite (canonical_plainWrite h) h)

theorem canonical_writeReg {rq a v same} : canonical (writeReg rq a v same s).2 = true := by
  unfold writeReg
  refine canonical_snd_ite h (canonical_snd_ite (canonical_writeSsqCtl h) (canonical_snd_ite (canonical_timeSetLow h) ?_))
  refine canonical_snd_ite (canonical_timeSet h) (canonical_snd_ite (canonical_meshTblDataWrite h) ?_)
  refine canonical_snd_ite (canonical_writeFclCtl h) (canonical_snd_ite (canonical_logTailWrite h) ?_)
  refine canonical_snd_ite (canonical_writeInject h) (canonical_snd_ite (canonical_writeMbox h) ?_)
  refine canonical_snd_ite (canonical_plainWrite h) (canonical_snd_ite (canonical_writeStack h) ?_)
  refine canonical_snd_ite (canonical_writePort h) (canonical_snd_ite (canonical_writeFab h) ?_)
  refine canonical_snd_ite (canonical_writeLoader h) ?_
  exact canonical_snd_ite (canonical_writeContext h) (canonical_snd_ite (canonical_writeTenant h) (canonical_plainWriteWith h))

theorem canonical_ctlWrite {rq a v same} : canonical (ctlWrite rq a v same s).2 = true := by
  unfold ctlWrite
  exact
    have h1 := canonical_ite h (canonical_countUnassigned h)
    canonical_snd_ite (canonical_privRefuse h1) (canonical_snd_ite h1 (canonical_writeReg h))

theorem canonical_registerWrite {rq a v same} : canonical (registerWrite rq a v same s) = true := by
  unfold registerWrite
  exact canonical_ite (canonical_ctlWrite h) h

omit h in
theorem canonical_answerRead {r} (h : canonical r.2 = true) : canonical (answerRead r) = true := h

theorem canonical_readClear {rq a} : canonical (readClear rq a s) = true := by
  unfold readClear
  exact canonical_ite (canonical_answerRead (canonical_readReg h)) h

theorem canonical_latchedRead {rq a} : canonical (latchedRead rq a s) = true := by
  unfold latchedRead
  exact canonical_ite (canonical_answerRead (canonical_readReg h)) h

theorem canonical_unassignedAccess {rq a w} : canonical (unassignedAccess rq a w s) = true := by
  unfold unassignedAccess
  refine canonical_ite h ?_
  split
  exacts [canonical_answerRead (canonical_ctlRead h), canonical_ctlWrite h]

theorem canonical_securityReadDenied {rq a} : canonical (securityReadDenied rq a s) = true := by
  unfold securityReadDenied
  exact canonical_ite (canonical_answerRead (canonical_ctlRead h)) h

theorem canonical_configRecord {q l} : canonical (configRecord q l s).2 = true := by
  unfold configRecord
  exact canonical_snd_ite (canonical_ctlRead h) (canonical_snd_ite (canonical_ctlWrite h) h)

theorem canonical_configOn {q m d} : canonical (configOn q m d s) = true := by
  unfold configOn
  extract_lets r
  have hr : canonical r.2 = true := by
    unfold r
    refine canonical_snd_foldl (fun p i h => ?_) h
    exact canonical_configRecord h
  exact canonical_ite (canonical_bump h) (canonical_sendItem hr)

theorem canonical_config {m} : canonical (config m s) = true :=
  canonical_receive h (fun _ _ _ _ h => h) fun _ _ _ _ h => canonical_configOn h

theorem canonical_inTurn {k ev} (hev : ∀ s, canonical s = true → canonical (ev s) = true) : canonical (inTurn k ev s) = true := by
  unfold inTurn
  exact canonical_ite (hev _ h) h

end Sys2Proof.Machine
end

section
/-! PROOF. Every step keeps every store in its canonical form (R181, R214, R494). -/

namespace Sys2Proof.Machine

/-- Each command, run in a canonical state, leaves one. -/
theorem canonical_exec {s : State} (h : canonical s = true) :
    ∀ c : Instr, ∃ t, exec c s = .next t ∧ canonical t = true
  | .go _ _ => ⟨_, rfl, canonical_go h⟩
  | .stepBeginAfterSettle => ⟨_, rfl, canonical_stepBeginAfterSettle h⟩
  | .abort => ⟨_, rfl, canonical_abort h⟩
  | .bundleFetch _ => ⟨_, rfl, canonical_bundleFetch h⟩
  | .dispatch => ⟨_, rfl, canonical_dispatch h⟩
  | .bundleIssue => ⟨_, rfl, canonical_bundleIssue h⟩
  | .tokenGrant => ⟨_, rfl, canonical_tokenGrant h⟩
  | .issueTimeAdvance => ⟨_, rfl, canonical_issueTimeAdvance h⟩
  | .skippedCommand _ _ => ⟨_, rfl, canonical_inTurn h fun _ h => canonical_skippedCommand h⟩
  | .flagAddHeld _ _ => ⟨_, rfl, canonical_flagAddHeld h⟩
  | .deadlockWalk => ⟨_, rfl, canonical_deadlockWalk h⟩
  | .overrun => ⟨_, rfl, canonical_overrun h⟩
  | .stepEnd => ⟨_, rfl, canonical_stepEnd h⟩
  | .syncSet _ => ⟨_, rfl, canonical_inTurn h fun _ h => canonical_syncSet h⟩
  | .syncWait _ => ⟨_, rfl, canonical_inTurn h fun _ h => canonical_syncWait h⟩
  | .mxaNop _ _ => ⟨_, rfl, canonical_inTurn h fun _ h => canonical_mxaNop h⟩
  | .mxaLoadw _ _ => ⟨_, rfl, canonical_inTurn h fun _ h => canonical_mxaLoadw h⟩
  | .mxaStream _ _ => ⟨_, rfl, canonical_inTurn h fun _ h => canonical_mxaStream h⟩
  | .mxaZacc _ _ => ⟨_, rfl, canonical_inTurn h fun _ h => canonical_mxaZacc h⟩
  | .shadowFill _ _ => ⟨_, rfl, canonical_inTurn h fun _ h => canonical_shadowFill h⟩
  | .stagedRead _ _ _ => ⟨_, rfl, canonical_inTurn h fun _ h => canonical_stagedRead h⟩
  | .vxeNop _ => ⟨_, rfl, canonical_inTurn h fun _ h => canonical_vxeNop h⟩
  | .vxeLdprog _ => ⟨_, rfl, canonical_inTurn h fun _ h => canonical_vxeLdprog h⟩
  | .vxeLane _ => ⟨_, rfl, canonical_inTurn h fun _ h => canonical_vxeLane h⟩
  | .vxeQconv _ => ⟨_, rfl, canonical_inTurn h fun _ h => canonical_vxeQconv h⟩
  | .vxePmerge _ => ⟨_, rfl, canonical_inTurn h fun _ h => canonical_vxePmerge h⟩
  | .vxeTrans _ => ⟨_, rfl, canonical_inTurn h fun _ h => canonical_vxeTrans h⟩
  | .vxeMmov _ => ⟨_, rfl, canonical_inTurn h fun _ h => canonical_vxeMmov h⟩
  | .rduNop _ => ⟨_, rfl, canonical_inTurn h fun _ h => canonical_rduNop h⟩
  | .rduRed _ => ⟨_, rfl, canonical_inTurn h fun _ h => canonical_rduRed h⟩
  | .spuNop _ => ⟨_, rfl, canonical_inTurn h fun _ h => canonical_spuNop h⟩
  | .spuRun _ => ⟨_, rfl, canonical_inTurn h fun _ h => canonical_spuRun h⟩
  | .spuRdreg _ => ⟨_, rfl, canonical_inTurn h fun _ h => canonical_spuRdreg h⟩
  | .spuCutoff _ _ => ⟨_, rfl, canonical_spuCutoff h⟩
  | .halt _ _ => ⟨_, rfl, canonical_spuHalt h⟩
  | .li _ _ | .lui _ _ | .add _ _ | .sub _ _ | .mul _ _ | .addi _ _ | .and _ _ | .or _ _ | .xor _ _ | .shl _ _ | .shr _ _
  | .sar _ _ | .min _ _ | .max _ _ | .slt _ _ | .sltu _ _ | .sel _ _ | .fadd _ _ | .fmul _ _ | .flt _ _ | .i2f _ _ | .f2i _ _
  | .fexp2 _ _ | .flog2 _ _ | .rand _ _ => ⟨_, rfl, canonical_alu h⟩
  | .ld1 _ _ | .ld2 _ _ | .ld4 _ _ | .ld8 _ _ => ⟨_, rfl, canonical_load h⟩
  | .st1 _ _ | .st2 _ _ | .st4 _ _ | .st8 _ _ => ⟨_, rfl, canonical_store h⟩
  | .blt _ _ | .beq _ _ | .bne _ _ | .j _ _ => ⟨_, rfl, canonical_branch h⟩
  | .fxeNop _ => ⟨_, rfl, canonical_inTurn h fun _ h => canonical_fxeNop h⟩
  | .fxeFetch _ => ⟨_, rfl, canonical_inTurn h fun _ h => canonical_fxeFetch h⟩
  | .fxeStream _ => ⟨_, rfl, canonical_inTurn h fun _ h => canonical_fxeStream h⟩
  | .fxeGather _ => ⟨_, rfl, canonical_inTurn h fun _ h => canonical_fxeGather h⟩
  | .fxeTpwr _ => ⟨_, rfl, canonical_inTurn h fun _ h => canonical_fxeTpwr h⟩
  | .sxeNop _ => ⟨_, rfl, canonical_inTurn h fun _ h => canonical_sxeNop h⟩
  | .sxeStore _ => ⟨_, rfl, canonical_inTurn h fun _ h => canonical_sxeStore h⟩
  | .sxeScatter _ => ⟨_, rfl, canonical_inTurn h fun _ h => canonical_sxeScatter h⟩
  | .sxeScadd _ => ⟨_, rfl, canonical_inTurn h fun _ h => canonical_sxeScadd h⟩
  | .transferIssue _ _ _ => ⟨_, rfl, canonical_transferIssue h⟩
  | .transferLand _ _ _ _ => ⟨_, rfl, canonical_transferLand h⟩
  | .tarnArrival _ _ _ _ => ⟨_, rfl, canonical_tarnArrival h⟩
  | .tarnStarve _ _ _ => ⟨_, rfl, canonical_tarnStarve h⟩
  | .segmentStateChange _ _ => ⟨_, rfl, canonical_segmentStateChange h⟩
  | .segmentWake _ _ => ⟨_, rfl, canonical_segmentWake h⟩
  | .lseNop _ => ⟨_, rfl, canonical_inTurn h fun _ h => canonical_lseNop h⟩
  | .lseAttn _ => ⟨_, rfl, canonical_inTurn h fun _ h => canonical_lseAttn h⟩
  | .lseMove _ => ⟨_, rfl, canonical_inTurn h fun _ h => canonical_lseMove h⟩
  | .subCommand _ _ => ⟨_, rfl, canonical_subCommand h⟩
  | .stackPortWindow _ _ _ _ => ⟨_, rfl, canonical_stackPortWindow h⟩
  | .bankRefresh _ _ _ _ => ⟨_, rfl, canonical_bankRefresh h⟩
  | .rowerrTableClear => ⟨_, rfl, canonical_rowerrTableClear h⟩
  | .selfrefEnter _ => ⟨_, rfl, canonical_selfrefEnter h⟩
  | .stackWake _ => ⟨_, rfl, canonical_stackWake h⟩
  | .remapRow _ _ _ _ => ⟨_, rfl, canonical_remapRow h⟩
  | .spareBank _ _ => ⟨_, rfl, canonical_spareBank h⟩
  | .bankChangeover _ => ⟨_, rfl, canonical_bankChangeover h⟩
  | .oreNop => ⟨_, rfl, canonical_inTurn h fun _ h => canonical_oreNop h⟩
  | .oreRev => ⟨_, rfl, canonical_inTurn h fun _ h => canonical_oreRev h⟩
  | .grant _ _ _ => ⟨_, rfl, canonical_grant h⟩
  | .shardArrival _ _ _ _ => ⟨_, rfl, canonical_shardArrival h⟩
  | .ringCredit _ _ => ⟨_, rfl, canonical_ringCredit h⟩
  | .ringAck _ _ _ => ⟨_, rfl, canonical_ringAck h⟩
  | .resend _ _ _ => ⟨_, rfl, canonical_resend h⟩
  | .springFetch _ _ => ⟨_, rfl, canonical_springFetch h⟩
  | .shardInject _ _ => ⟨_, rfl, canonical_shardInject h⟩
  | .shardForward _ => ⟨_, rfl, canonical_shardForward h⟩
  | .snakeTile => ⟨_, rfl, canonical_snakeTile h⟩
  | .tileAccept _ => ⟨_, rfl, canonical_tileAccept h⟩
  | .shardTimeout _ => ⟨_, rfl, canonical_shardTimeout h⟩
  | .fill _ => ⟨_, rfl, canonical_fill h⟩
  | .modelActivate _ _ => ⟨_, rfl, canonical_modelActivate h⟩
  | .revnoWrite _ => ⟨_, rfl, canonical_revnoWrite h⟩
  | .meshStarve _ _ _ _ => ⟨_, rfl, canonical_meshStarve h⟩
  | .meshTblDataWrite _ => ⟨_, rfl, canonical_meshTblDataWrite h⟩
  | .seamDrift _ => ⟨_, rfl, canonical_seamDrift h⟩
  | .clockSlow _ _ _ => ⟨_, rfl, canonical_clockSlow h⟩
  | .timeSet _ => ⟨_, rfl, canonical_timeSet h⟩
  | .ptpMessage _ => ⟨_, rfl, canonical_ptpMessage h⟩
  | .timeExchange _ _ _ _ => ⟨_, rfl, canonical_exchangeTime h⟩
  | .timeLock => ⟨_, rfl, canonical_timeLock h⟩
  | .timeLockLoss => ⟨_, rfl, canonical_timeLockLoss h⟩
  | .linkSignal _ => ⟨_, rfl, canonical_linkSignal h⟩
  | .authHandshake _ _ => ⟨_, rfl, canonical_authHandshake h⟩
  | .linkBlock _ _ _ => ⟨_, rfl, canonical_linkBlock h⟩
  | .nakRepeat _ => ⟨_, rfl, canonical_nakRepeat h⟩
  | .replay _ => ⟨_, rfl, canonical_replay h⟩
  | .retrain _ _ _ => ⟨_, rfl, canonical_retrain h⟩
  | .rekey _ _ => ⟨_, rfl, canonical_rekey h⟩
  | .packetSend _ => ⟨_, rfl, canonical_packetSend h⟩
  | .packetRoute _ => ⟨_, rfl, canonical_packetRoute h⟩
  | .remoteWrite _ _ => ⟨_, rfl, canonical_remoteWrite h⟩
  | .remoteRead _ _ => ⟨_, rfl, canonical_remoteRead h⟩
  | .remoteAdd _ _ => ⟨_, rfl, canonical_remoteAdd h⟩
  | .transferData _ => ⟨_, rfl, canonical_transferData h⟩
  | .transferAck _ => ⟨_, rfl, canonical_transferAck h⟩
  | .transferTimeout _ _ _ => ⟨_, rfl, canonical_transferTimeout h⟩
  | .switch => ⟨_, rfl, canonical_switch h⟩
  | .fabSelfWrite _ => ⟨_, rfl, canonical_fabSelfWrite h⟩
  | .submit _ => ⟨_, rfl, canonical_submit h⟩
  | .ack _ => ⟨_, rfl, canonical_ack h⟩
  | .credit _ => ⟨_, rfl, canonical_credit h⟩
  | .config _ => ⟨_, rfl, canonical_config h⟩
  | .load _ => ⟨_, rfl, canonical_loadMsg h⟩
  | .spillin _ => ⟨_, rfl, canonical_spillin h⟩
  | .ohtResend _ => ⟨_, rfl, canonical_ohtResend h⟩
  | .ohtDead _ => ⟨_, rfl, canonical_ohtDead h⟩
  | .arpRequest _ _ _ => ⟨_, rfl, canonical_arpRequest h⟩
  | .neighbourSolicitation _ _ _ => ⟨_, rfl, canonical_neighbourSolicitation h⟩
  | .echoRequest _ _ => ⟨_, rfl, canonical_echoRequest h⟩
  | .pfcFrame _ _ => ⟨_, rfl, canonical_pfcFrame h⟩
  | .generate _ => ⟨_, rfl, canonical_generate h⟩
  | .cancel _ => ⟨_, rfl, canonical_cancel h⟩
  | .park _ => ⟨_, rfl, canonical_park h⟩
  | .close _ => ⟨_, rfl, canonical_close h⟩
  | .spillinRequest _ => ⟨_, rfl, canonical_spillinRequest h⟩
  | .stepBuild _ => ⟨_, rfl, canonical_stepBuild h⟩
  | .ringStepStart _ => ⟨_, rfl, canonical_ringStepStart h⟩
  | .segmentResult _ _ _ => ⟨_, rfl, canonical_segmentResult h⟩
  | .stepCommit => ⟨_, rfl, canonical_stepCommit h⟩
  | .commitTimeout => ⟨_, rfl, canonical_commitTimeout h⟩
  | .accountingBoundary => ⟨_, rfl, canonical_accountingBoundary h⟩
  | .hotIdlePark _ => ⟨_, rfl, canonical_hotIdlePark h⟩
  | .sessionExpiry _ => ⟨_, rfl, canonical_sessionExpiry h⟩
  | .sessionMoveDone _ _ => ⟨_, rfl, canonical_sessionMoveDone h⟩
  | .vecPendClear _ _ _ _ => ⟨_, rfl, canonical_vecPendClear h⟩
  | .qpStateWrite _ _ => ⟨_, rfl, canonical_qpStateWrite h⟩
  | .qpOff _ => ⟨_, rfl, canonical_qpOff h⟩
  | .ldrLoad _ _ => ⟨_, rfl, canonical_ldrLoad h⟩
  | .ldrUnload _ => ⟨_, rfl, canonical_ldrUnload h⟩
  | .faultRecord => ⟨_, rfl, canonical_faultRecord h⟩
  | .brokenWire _ => ⟨_, rfl, canonical_brokenWire h⟩
  | .recoveryReset => ⟨_, rfl, canonical_recoveryReset h⟩
  | .recoveryRestore => ⟨_, rfl, canonical_recoveryRestore h⟩
  | .recoveryLeave => ⟨_, rfl, canonical_recoveryLeave h⟩
  | .recover => ⟨_, rfl, canonical_recover h⟩
  | .release => ⟨_, rfl, canonical_release h⟩
  | .logTailWrite _ => ⟨_, rfl, canonical_logTailWrite h⟩
  | .ageingMeasure => ⟨_, rfl, canonical_ageingMeasure h⟩
  | .injectRaise _ _ => ⟨_, rfl, canonical_injectRaise h⟩
  | .injectRailsHigh _ => ⟨_, rfl, canonical_injectRailsHigh h⟩
  | .injectRailsLow _ => ⟨_, rfl, canonical_injectRailsLow h⟩
  | .injectBitFlip _ => ⟨_, rfl, canonical_injectBitFlip h⟩
  | .injectRelease => ⟨_, rfl, canonical_injectRelease h⟩
  | .report _ _ _ => ⟨_, rfl, canonical_report h⟩
  | .cert _ _ _ => ⟨_, rfl, canonical_cert h⟩
  | .keyInstall _ _ _ => ⟨_, rfl, canonical_keyInstall h⟩
  | .keyDelete _ _ => ⟨_, rfl, canonical_keyDelete h⟩
  | .trustWrite _ _ _ => ⟨_, rfl, canonical_trustWrite h⟩
  | .ownerSet _ _ _ => ⟨_, rfl, canonical_ownerSet h⟩
  | .ownerClear _ _ => ⟨_, rfl, canonical_ownerClear h⟩
  | .fwUpdate _ _ _ => ⟨_, rfl, canonical_fwUpdate h⟩
  | .svnCommit _ _ => ⟨_, rfl, canonical_svnCommit h⟩
  | .powerOn => ⟨_, rfl, canonical_powerOn h⟩
  | .boot => ⟨_, rfl, canonical_boot h⟩
  | .ready => ⟨_, rfl, canonical_ready h⟩
  | .powerDown => ⟨_, rfl, canonical_powerDown h⟩
  | .resetAssert => ⟨_, rfl, canonical_resetAssert h⟩
  | .resetRelease => ⟨_, rfl, canonical_resetRelease h⟩
  | .vinFault _ _ => ⟨_, rfl, canonical_vinFault h⟩
  | .railsOff _ => ⟨_, rfl, canonical_railsOff h⟩
  | .vinRestart _ => ⟨_, rfl, canonical_vinRestart h⟩
  | .sensorSample _ => ⟨_, rfl, canonical_sensorSample h⟩
  | .thermalShutdown _ => ⟨_, rfl, canonical_thermalShutdown h⟩
  | .writeEnable => ⟨_, rfl, canonical_writeEnable h⟩
  | .statusRead => ⟨_, rfl, canonical_statusRead h⟩
  | .read _ _ => ⟨_, rfl, canonical_spiRead h⟩
  | .pageProgram _ _ => ⟨_, rfl, canonical_pageProgram h⟩
  | .sectorErase _ => ⟨_, rfl, canonical_sectorErase h⟩
  | .bypass _ => ⟨_, rfl, canonical_bypass h⟩
  | .idcode => ⟨_, rfl, canonical_idcode h⟩
  | .samplePreload _ => ⟨_, rfl, canonical_samplePreload h⟩
  | .extest _ => ⟨_, rfl, canonical_extest h⟩
  | .registerWrite _ _ _ _ => ⟨_, rfl, canonical_registerWrite h⟩
  | .readClear _ _ => ⟨_, rfl, canonical_readClear h⟩
  | .latchedRead _ _ => ⟨_, rfl, canonical_latchedRead h⟩
  | .unassignedAccess _ _ _ => ⟨_, rfl, canonical_unassignedAccess h⟩
  | .securityReadDenied _ _ => ⟨_, rfl, canonical_securityReadDenied h⟩
  | .droppedFrame _ => ⟨_, rfl, canonical_droppedFrame h⟩
  | .portDisabled _ => ⟨_, rfl, canonical_portDisabled h⟩

/-- Settles O4: the front command keeps the stores canonical, and taking it off the queue touches none of them. -/
theorem stepKeepsCanonical : Obligations.StepKeepsCanonical := by
  unfold Obligations.StepKeepsCanonical
  intro s t h e
  unfold step at e
  split at e
  · cases e
    exact h
  · next c rest _ =>
    have h1 : canonical { s with pending := rest } = true := h
    obtain ⟨u, hu, hc⟩ := canonical_exec h1 c
    cases hu.symm.trans e
    exact hc

end Sys2Proof.Machine
end

section
/-! TRANSFER_ISSUE. Whose turn it is (R198), and what the issue of a transfer within the part leaves (R196, R197). -/

namespace Sys2Proof.Machine

variable {s t : State} {c e : Nat} {r : Run} {x : Xfer} {rest : List Xfer}

theorem turns_of_canonical (h : canonical s = true) : swf (fun _ => 0) s.turns = true := by
  simp only [canonical, storesCanonical, Bool.and_eq_true] at h
  simp only [h]

/-! ## The turn -/

/-- Where the turns of an engine stand: one past the command that issued last. -/
def turnAt (s : State) (c e : Nat) : Nat := sget (fun _ => 0) (c * 2 + e) s.turns

/-- The commands of an engine that can issue, in the order in which they started. -/
def issuers (s : State) (c e : Nat) : List Run := (unitOf s (unitKey c (engUnit e))).running.filter (mayIssue s c e)

theorem turnRun_eq (s : State) (c e : Nat) :
    turnRun s c e = ((issuers s c e).find? fun y => decide (turnAt s c e ≤ y.q.seq)).or (issuers s c e).head? := by
  rw [turnRun, issuers, turnAt]
  split
  · next h => rw [h, Option.some_or]
  · next h => rw [h, Option.none_or]

theorem mayIssue_of_turnRun (h : turnRun s c e = some r) : mayIssue s c e r = true := by
  have hmem : r ∈ issuers s c e := by
    rw [turnRun_eq, Option.or_eq_some_iff] at h
    obtain hfind | ⟨-, hhead⟩ := h
    · exact List.mem_of_find?_eq_some hfind
    · exact List.mem_of_mem_head? hhead
  exact (List.mem_filter.mp hmem).2

/-- Where some command that can issue comes after the one that issued last, the turn is such a command's. -/
theorem turnAt_le_of_turnRun (h : turnRun s c e = some r)
    (hlater : ∃ y ∈ (unitOf s (unitKey c (engUnit e))).running, mayIssue s c e y = true ∧ turnAt s c e ≤ y.q.seq) :
    turnAt s c e ≤ r.q.seq := by
  obtain ⟨y, hy, hmay, hle⟩ := hlater
  rw [turnRun_eq, Option.or_eq_some_iff] at h
  obtain hfind | ⟨hnone, -⟩ := h
  · simpa using List.find?_some hfind
  · exact absurd (decide_eq_true hle) (List.find?_eq_none.mp hnone y (List.mem_filter.mpr ⟨hy, hmay⟩))

/-! ## What issuing counts -/

/-- The state but for what the issue of a transfer counts in: the control space, and the writes outstanding at segments of Tarn. -/
def offIssue (s : State) : State := { s with csr := [], segs := [] }

section
variable (h : offIssue t = offIssue s)
include h

theorem outst_of_offIssue : t.outst = s.outst := (congrArg State.outst h :)
theorem units_of_offIssue : t.units = s.units := (congrArg State.units h :)
theorem turns_of_offIssue : t.turns = s.turns := (congrArg State.turns h :)
theorem tarn_of_offIssue : t.tarn = s.tarn := (congrArg State.tarn h :)
theorem mere_of_offIssue : t.mere = s.mere := (congrArg State.mere h :)
theorem transit_of_offIssue : t.transit = s.transit := (congrArg State.transit h :)

end

theorem offIssue_owcAdd (d a n : Nat) (up : Bool) (s : State) : offIssue (owcAdd d a n up s) = offIssue s :=
  owcAdd_keeps offIssue (fun _ _ _ _ => rfl) ..

theorem offIssue_meshSend (a b : MeshEnd) (n : Nat) (s : State) : offIssue (meshSend a b n s) = offIssue s := by
  rw [meshSend]
  split
  · rfl
  · refine foldl_keeps offIssue (fun s h => ?_) _ s
    rfl

theorem offIssue_meshIssue (c : Nat) (x : Xfer) (s : State) : offIssue (meshIssue c x s) = offIssue s := by
  rw [meshIssue]
  split
  · split_ifs
    exacts [rfl, offIssue_meshSend .., offIssue_meshSend ..]
  · rfl

/-- What is outstanding does not turn on what issuing counts in. -/
theorem offIssue_setOutst_congr (h : offIssue t = offIssue s) :
    offIssue (setOutst c e (outstOf t c e ++ [x]) t) = offIssue (setOutst c e (outstOf s c e ++ [x]) s) :=
  congrArg (fun u => setOutst c e (outstOf u c e ++ [x]) u) h

/-! ## The issue -/

/-- The turn is taken, and the command has one transfer less to issue. -/
def takesTurn (c e : Nat) (r : Run) (rest : List Xfer) (s : State) : State :=
  updRun (unitKey c (engUnit e)) r.q.seq (fun y => { y with todo := rest })
    { s with turns := sset (fun _ => 0) (c * 2 + e) (r.q.seq + 1) s.turns }

section
variable (heng : engines s = true) (hab : s.ssq.aborting = false) (hroom : (outstOf s c e).length < 512)
  (hturn : turnRun s c e = some r) (htodo : r.todo = x :: rest)
include heng hab hroom hturn htodo

theorem transferIssue_of_other_turn {ch : Nat} (hch : r.chan ≠ ch) : transferIssue c e ch s = s := by
  rw [transferIssue, if_neg (by simp [heng, hab, hroom]), hturn]
  simp only [htodo, if_pos hch]

/-- A transfer within the part becomes outstanding as its command takes its turn; all else is counting. -/
theorem offIssue_transferIssue (hlocal : x.remote = false) :
    offIssue (transferIssue c e r.chan s) = offIssue (setOutst c e (outstOf s c e ++ [x]) (takesTurn c e r rest s)) := by
  rw [transferIssue, if_neg (by simp [heng, hab, hroom]), hturn]
  simp only [htodo, ne_eq, not_true_eq_false, if_false, hlocal, Bool.false_eq_true]
  rw [offIssue_meshIssue]
  refine offIssue_setOutst_congr (s := takesTurn c e r rest s) ?_
  split
  exacts [offIssue_owcAdd .., rfl]

end

/-- Settles O33: the turn is found among the commands that can issue, and an issue changes the engine's lists and its turn alone,
but for counting. -/
theorem transfersIssue : Obligations.TransfersIssue := by
  unfold Obligations.TransfersIssue
  intro c e ch r x rest s hc heng hab hroom hturn htodo
  refine ⟨fun hch => ?_, fun hch hlocal => ?_, mayIssue_of_turnRun hturn, turnAt_le_of_turnRun hturn⟩
  · exact congrArg Host.Outcome.next (transferIssue_of_other_turn heng hab hroom hturn htodo hch)
  · have hissue := offIssue_transferIssue heng hab hroom hturn htodo hlocal
    rw [hch] at hissue
    refine ⟨_, rfl, ?_, ?_, (tarn_of_offIssue hissue :), (mere_of_offIssue hissue :), (transit_of_offIssue hissue :), ?_⟩
    · rw [outstOf_congr (outst_of_offIssue hissue)]
      exact outstOf_setOutst_same (s := takesTurn c.val (engNo e) r rest s) (outst_of_canonical (s := s) hc)
    · rw [unitOf_congr (units_of_offIssue hissue)]
      exact congrArg UnitSt.running (unitOf_setUnit_same (units_of_canonical hc))
    · rw [turns_of_offIssue hissue]
      exact sget_sset_same (turns_of_canonical hc)

end Sys2Proof.Machine
end

section
/-! TARN. One core cycle at the banks of a core where nothing was waiting (R184, R185). -/

namespace Sys2Proof.Machine

variable {s t : State} {c b : Nat} {w : TarnWait} {q r : TarnReq} {asks : List TarnWait}

/-! ## Counters -/

/-- A counter that grows by nothing shows what it showed. -/
theorem rd_bump_zero {a x : Nat} (h : swf resetWord s.csr = true) : rd (bump a 0 s) x = rd s x := by
  by_cases hx : x = a
  · subst hx
    apply BitVec.eq_of_toNat_eq
    have := (rd s x).isLt
    rw [rd_bump_same h]
    omega
  · exact rd_bump_other h hx

theorem countRefused_nil (c : Nat) (s : State) : countRefused c [] s = bump (coreReg c 0xC000) 0 s := rfl

theorem countRefused_keeps {β : Type} (view : State → β) (h : ∀ a n s, view (bump a n s) = view s) (c : Nat)
    (lost : List TarnWait) (s : State) : view (countRefused c lost s) = view s := (foldl_keeps view (fun _ _ => h ..) _ _).trans (h ..)

/-- The counters of a port's unit are not TARN_CONFLICT. -/
theorem ne_of_mem_portStall {p a : Nat} (h : a ∈ portStall c p) : a ≠ coreReg c 0xC000 := by
  simp only [portStall] at h
  split_ifs at h <;> simp only [List.mem_singleton, List.not_mem_nil] at h
  all_goals simp only [h, coreReg]; omega

/-- A cycle in which requests were refused is counted once in TARN_CONFLICT, however it counts meetings (R185). -/
theorem counts_conflict {lost : List TarnWait} {n : Nat} (h : swf resetWord s.csr = true) (hlost : lost ≠ []) :
    counts s (bump (coreReg c 0xC004) n (countRefused c lost s)) (coreReg c 0xC000) 1 := by
  have hempty : lost.isEmpty = false := by simpa using hlost
  have hstalls : regsWithin (· ≠ coreReg c 0xC000) (bump (coreReg c 0xC000) 1 s) (countRefused c lost s) := by
    rw [countRefused, hempty]
    refine regsWithin_foldl fun s a ha => regsWithin_bump ?_
    obtain ⟨x, -, hx⟩ := List.mem_flatMap.mp (List.mem_eraseDups.mp ha)
    exact ne_of_mem_portStall hx
  have hmeets : coreReg c 0xC004 ≠ coreReg c 0xC000 := by simp [coreReg]
  obtain ⟨-, hstay⟩ := hstalls.trans (regsWithin_bump hmeets) (swf_csr_bump h)
  exact counts_after (by simp) hstay (rd_bump_same h)

/-! ## Grants -/

theorem portLimit_pos {p : Nat} (h : p < 17) : 0 < portLimit p := by
  revert h p
  decide

/-- Requests of different ports all ask. -/
theorem asking_single (h : w.req.port < 17) : asking [w] = [w] := by simp [asking, portLimit_pos h]

theorem asking_pair {v : TarnWait} (hw : w.req.port < 17) (hv : v.req.port < 17) (hne : v.req.port ≠ w.req.port) :
    asking [v, w] = [v, w] := by
  simp [asking, portLimit_pos hw, portLimit_pos hv, hne]

/-- Where all requests are at one bank, the one that the bank grants is the only one granted. -/
theorem grants_of_bank (hbank : ∀ x ∈ asks, x.req.bank = b) (hb : b < 64) (hw : bankGrant asks = some w) :
    (List.range 64).filterMap (fun b => bankGrant (asks.filter fun x => x.req.bank == b)) = [w] := by
  have hgrant : ∀ n, bankGrant (asks.filter fun x => x.req.bank == n) = if n == b then some w else none := fun n => by
    by_cases hn : n = b
    · rw [List.filter_eq_self.mpr fun x hx => by simp [hbank x hx, hn], hw]
      simp [hn]
    · rw [List.filter_eq_nil_iff.mpr fun x hx => by simp [hbank x hx, Ne.symm hn]]
      simp [hn, bankGrant, tarnFirst]
  have hone : (List.range 64).filter (fun n => n == b) = [b] := by
    rw [List.filter_beq, List.count_eq_one_of_mem List.nodup_range (List.mem_range.mpr hb)]
    rfl
  calc (List.range 64).filterMap (fun b => bankGrant (asks.filter fun x => x.req.bank == b))
      = ((List.range 64).filter fun n => n == b).filterMap fun _ => some w := by
        rw [List.filterMap_filter]
        exact List.filterMap_congr fun n _ => hgrant n
    _ = [w] := by rw [hone]; rfl

theorem bankGrant_single (w : TarnWait) : bankGrant [w] = some w := by
  have hfirst : tarnFirst [w] = some w := rfl
  rw [bankGrant, hfirst]
  simp only
  split
  · next h => simp [h, tarnFirst]
  · rfl

/-- Of two requests that are new in a cycle, at different rows of a bank, that of the earlier port is granted. -/
theorem bankGrant_pair (hline : r.line ≠ q.line) (hport : q.port < r.port) :
    bankGrant [{ req := r }, { req := q }] = some { req := q } := by
  have hfirst : tarnFirst [{ req := r }, { req := q }] = some { req := q } := by
    simp [tarnFirst, tarnAhead, tarnStarved, hport]
  rw [bankGrant, hfirst]
  simp only
  split
  · next h => simp [h, hline, tarnFirst]
  · rfl

/-! ## A cycle -/

theorem foldl_erase_self (l : List TarnWait) : l.foldl (fun l w => l.erase w) l = [] := by
  induction l with
  | nil => rfl
  | cons x r ih => rw [List.foldl_cons, List.erase_cons_head, ih]

/-- The banks of a core have granted some requests, and others wait. -/
def setBanks (c : Nat) (won : List TarnReq) (wait : List TarnWait) (s : State) : State :=
  { s with tarnWait := sset (fun _ => []) c wait s.tarnWait, granted := sset (fun _ => []) c won s.granted }

/-- Where every request asks and all are at one bank, with no two at one row, one is granted, and the others wait. -/
theorem tarnStarve_of_bank {reqs : List TarnReq} (heng : engines s = true) (hlive : live s c = true)
    (hidle : sget (fun _ => []) c s.tarnWait = []) (hasks : (reqs.map fun r => ({ req := r } : TarnWait)) = asks)
    (hall : asking asks = asks) (hbank : ∀ x ∈ asks, x.req.bank = b) (hb : b < 64) (hw : bankGrant asks = some w)
    (hmeets : rowMeets asks = 0) :
    tarnStarve c reqs s = bump (coreReg c 0xC004) 0 (countRefused c (asks.erase w)
      (setBanks c [w.req] ((asks.erase w).map fun x => { x with refused := x.refused + 1 }) s)) := by
  rw [tarnStarve, if_neg (by simp [heng, hlive])]
  simp only [hidle, hasks, List.nil_append, hall, grants_of_bank hbank hb hw, hmeets, foldl_erase_self, List.foldl_cons,
    List.foldl_nil, List.map_cons, List.map_nil, List.append_nil]
  rfl

theorem tarnWait_of_canonical (h : canonical s = true) : swf (fun _ => []) s.tarnWait = true := by
  simp only [canonical, storesCanonical, Bool.and_eq_true] at h
  simp only [h]

theorem granted_of_canonical (h : canonical s = true) : swf (fun _ => []) s.granted = true := by
  simp only [canonical, storesCanonical, Bool.and_eq_true] at h
  simp only [h]

/-- A request alone is granted, and nothing is counted. -/
theorem tarnStarve_alone (heng : engines s = true) (hlive : live s c = true) (hidle : sget (fun _ => []) c s.tarnWait = [])
    (hport : q.port < 17) (hb : q.bank < 64) :
    tarnStarve c [q] s = bump (coreReg c 0xC004) 0 (bump (coreReg c 0xC000) 0 (setBanks c [q] [] s)) := by
  have h := tarnStarve_of_bank (reqs := [q]) (asks := [{ req := q }]) (w := { req := q }) heng hlive hidle rfl (asking_single hport)
    (by simp) hb (bankGrant_single _) rfl
  simpa only [List.erase_cons_head, List.map_nil, countRefused_nil] using h

/-- Of two requests at one bank and at different rows, that of the later port waits. -/
theorem tarnStarve_pair (heng : engines s = true) (hlive : live s c = true) (hidle : sget (fun _ => []) c s.tarnWait = [])
    (hbank : r.bank = q.bank) (hb : q.bank < 64) (hline : r.line ≠ q.line) (hport : q.port < r.port) (hr : r.port < 17) :
    tarnStarve c [r, q] s = bump (coreReg c 0xC004) 0 (countRefused c [{ req := r }]
      (setBanks c [q] [{ req := r, refused := 1 }] s)) := by
  have hne : ({ req := r } : TarnWait) ≠ { req := q } := fun h => hline (congrArg (fun x : TarnWait => x.req.line) h)
  have h := tarnStarve_of_bank (reqs := [r, q]) (asks := [{ req := r }, { req := q }]) (w := { req := q }) heng hlive hidle rfl
    (asking_pair (w := { req := q }) (Nat.lt_trans hport hr) hr (Nat.ne_of_gt hport)) (by simp [hbank]) hb (bankGrant_pair hline hport)
    (by simp [rowMeets, Ne.symm hline])
  simpa [List.erase_cons, hne] using h

end Sys2Proof.Machine
end

section
/-! TARN. Segments asked for another state, changing, and woken (R192–R195), and one core cycle at the banks. -/

namespace Sys2Proof.Machine

variable {s t : State} {c g v : Nat} {k : Nat} {q : QCmd} {p : Prep}

theorem OnlyRuns.segs (h : OnlyRuns s t) : t.segs = s.segs := (congrArg State.segs h.off :)
theorem OnlyRuns.ingress (h : OnlyRuns s t) : t.ingress = s.ingress := (congrArg State.ingress h.off :)

theorem segOf_congr (h : t.segs = s.segs) (c g : Nat) : segOf t c g = segOf s c g := by rw [segOf, h, segOf]

/-- An ingress at which nothing waits serves nothing. -/
theorem serveIngress_of_none (h : ∀ x ∈ s.ingress, x.core ≠ c) : serveIngress c s = s :=
  foldl_eq_self fun x hx => if_pos (h x hx)

theorem onlyRuns_settleTpwr (c : Nat) (s : State) : OnlyRuns s (settleTpwr c s) :=
  onlyRuns_foldl (fun _ _ => .ite (onlyRuns_endIter ..) (.refl _)) _ s

/-! ## A change and a wake -/

/-- A segment that has reached state v. -/
def Seg.at (x : Seg) (v : Nat) : Seg := { x with st := v, target := none, changing := false }

/-- A segment reaches state v, and loses its bytes if it goes off. -/
def reachesSeg (c g v : Nat) (s : State) : State :=
  if v = 2 then clearSeg c g (setSeg c g ((segOf s c g).at v) s) else setSeg c g ((segOf s c g).at v) s

theorem segmentStateChange_of_begins (heng : engines s = true) (hlive : live s c = true) (ht : (segOf s c g).target = some v)
    (hst : (segOf s c g).st ≠ v) (hch : (segOf s c g).changing = false) (hwk : (segOf s c g).waking = false)
    (hw : v = 0 ∨ (segOf s c g).owc = 0) :
    segmentStateChange c g s = setSeg c g { segOf s c g with changing := true } s := by
  simp only [segmentStateChange, ht]
  rw [if_neg (by simp [heng, hlive, hwk]), if_neg (by simp [hch, hst]), if_pos hw]

theorem segmentStateChange_of_changing (heng : engines s = true) (hlive : live s c = true) (hin : ∀ x ∈ s.ingress, x.core ≠ c)
    (ht : (segOf s c g).target = some v) (hch : (segOf s c g).changing = true) (hwk : (segOf s c g).waking = false) :
    segmentStateChange c g s = settleTpwr c (reachesSeg c g v s) := by
  have hing : (settleTpwr c (reachesSeg c g v s)).ingress = s.ingress := by
    rw [(onlyRuns_settleTpwr ..).ingress, reachesSeg]
    split <;> rfl
  simp only [segmentStateChange, ht]
  rw [if_neg (by simp [heng, hlive, hwk]), if_pos (by simp [hch])]
  simp only [hch, and_true]
  exact serveIngress_of_none fun x hx => hin x (hing ▸ hx)

theorem segOf_reachesSeg (h : swf (fun _ => {}) s.segs = true) : segOf (reachesSeg c g v s) c g = (segOf s c g).at v := by
  rw [reachesSeg]
  split
  · exact segOf_setSeg_same h
  · exact segOf_setSeg_same h

/-- The bytes of a segment that goes off read zero, and no other byte changes (R192). -/
theorem sget_reachesSeg (h : swf zero8 s.tarn = true) (k : Nat) : sget zero8 k (reachesSeg c g v s).tarn =
    if v = 2 ∧ tarnKey c (g * 2 ^ 22) ≤ k ∧ k < tarnKey c (g * 2 ^ 22) + 2 ^ 22 then 0 else sget zero8 k s.tarn := by
  rw [reachesSeg]
  split
  · next hv =>
    have h1 : swf zero8 (setSeg c g ((segOf s c g).at v) s).tarn = true := h
    rw [clearSeg, sget_sdrop h1]
    simp [hv, zero8]
  · next hv => simp [hv]

theorem segmentWake_of_waking (heng : engines s = true) (hlive : live s c = true) (hin : ∀ x ∈ s.ingress, x.core ≠ c)
    (hwk : (segOf s c g).waking = true) :
    segmentWake c g s = setSeg c g { segOf s c g with st := 0, waking := false } s := by
  simp only [segmentWake]
  rw [if_neg (by simp [heng, hlive, hwk])]
  exact serveIngress_of_none hin

/-! ## FXE.TPWR -/

/-- A segment asked for state v, unless it is in it. -/
def Seg.asked (v : Nat) (x : Seg) : Seg := if x.st = v then x else { x with target := some v }

/-- A core's segment is asked for state v, unless it is in it. -/
def asksSeg (c v : Nat) (s : State) (g : Nat) : State :=
  if (segOf s c g).st = v then s else setSeg c g { segOf s c g with target := some v } s

theorem actsOnSeg_asksSeg (c v : Nat) : ActsOnSeg c (Seg.asked v) (asksSeg c v) := by
  intro s g h
  rw [asksSeg, Seg.asked]
  split
  · exact ⟨h, rfl, fun _ _ => rfl⟩
  · exact ⟨swf_sset h, segOf_setSeg_same h, fun _ hg => segOf_setSeg_other h hg⟩

theorem asksSeg_keeps {β : Type} (view : State → β) (h : ∀ s c g v, view (setSeg c g v s) = view s) (c v : Nat) (l : List Nat)
    (s : State) : view (l.foldl (asksSeg c v) s) = view s :=
  foldl_keeps view (fun s g => by
    rw [asksSeg]
    split
    · rfl
    · exact h ..) l s

theorem nodup_tpwrSegs (q : QCmd) : (tpwrSegs q).Nodup := List.nodup_range.map fun i j h => by omega

/-- A command with an iteration, that owes no flag add at another part, has started on the first channel. -/
theorem startChan_of_total (hc : canonical s = true) (h : mayStartAs s k q p) (howes : owesRsen (onChan0 p.run) = false)
    (htotal : p.run.total ≠ 0) : started (startChan k q p s) k q.seq = true ∧ offRuns (startChan k q p s) = offRuns s := by
  have hl := launches_tryStart (r := onChan0 p.run) h rfl rfl
  obtain ⟨q', hrun⟩ := runOf_of_launches hl (units_of_canonical hc) (running_of_mayStart h)
  have hrun' : runOf (bump (coreReg q.core 0xA090) p.clamps (tryStart k q (onChan0 p.run) p.cost s)) k q.seq =
      some (startedRun q' { onChan0 p.run with tokens := p.cost }) := hrun
  have heq : startChan k q p s = bump (coreReg q.core 0xA090) p.clamps (tryStart k q (onChan0 p.run) p.cost s) := by
    rw [startChan_of_idle (running_of_mayStart h), if_neg (by simp [howes]), startPrep, started, hrun, Option.isSome_some, if_pos rfl,
      startEmpty, hrun']
    exact if_neg htotal
  rw [heq]
  exact ⟨by rw [started, hrun', Option.isSome_some], hl.left.off⟩

/-- FXE.TPWR's judgement makes one iteration and claims the segments that it names. -/
theorem run_prepTpwr (h : prepTpwr s q = .ok p) : p.run.q = q ∧ p.run.total = 1 := by
  obtain ⟨_, h⟩ := of_bind_ok h
  obtain ⟨_, h⟩ := of_bind_ok h
  obtain ⟨_, h⟩ := of_bind_ok h
  cases h
  exact ⟨rfl, rfl⟩

theorem fxeTpwr_of_mayStart (hc : canonical s = true) (h : mayStartAs s (unitKey c 7) q p) (hu : q.cmd.unit = 7)
    (hop : q.cmd.opcode = 0x40) (hprep : prepTpwr s q = .ok p) :
    offRuns (startChan (unitKey c 7) q p s) = offRuns s ∧ fxeTpwr c s =
      settleTpwr c ((tpwrSegs q).foldl (asksSeg c (fld q.cmd.w4 10 2)) (startChan (unitKey c 7) q p s)) := by
  obtain ⟨hq, htotal⟩ := run_prepTpwr hprep
  have howes : owesRsen (onChan0 p.run) = false := by simp [owesRsen, onChan0, hq, hu]
  obtain ⟨hstarted, hoff⟩ := startChan_of_total hc h howes (by simp [htotal])
  refine ⟨hoff, ?_⟩
  rw [fxeTpwr, if_neg (not_stopped_of_mayStart h), headIs_of_mayStart h hop]
  simp only [chanFree_of_idle (running_of_mayStart h), hprep, hstarted, Bool.not_true, Bool.false_eq_true, if_false]
  rfl

/-! ## The statement, part by part -/

/-- A segment that reaches its state, with the bytes that are lost by it. -/
theorem segment_reaches {c : CoreId} {g : Fin 24} (hc : canonical s = true) (heng : engines s = true) (hlive : live s c.val = true)
    (hin : ∀ x ∈ s.ingress, x.core ≠ c.val) (ht : (segOf s c.val g.val).target = some v)
    (hch : (segOf s c.val g.val).changing = true) (hwk : (segOf s c.val g.val).waking = false) :
    ∃ t, exec (.segmentStateChange c g) s = .next t ∧ segOf t c.val g.val = (segOf s c.val g.val).at v
      ∧ (∀ a, a < 2 ^ 27 → tarnByte t c.val a = if v = 2 ∧ a / 2 ^ 22 = g.val then 0 else tarnByte s c.val a)
      ∧ ∀ (c' : CoreId) (a : Nat), c' ≠ c → a < 2 ^ 27 → tarnByte t c'.val a = tarnByte s c'.val a := by
  have hstep := segmentStateChange_of_changing heng hlive hin ht hch hwk
  have hsettle := onlyRuns_settleTpwr c.val (reachesSeg c.val g.val v s)
  have hbyte : ∀ c' a, tarnByte (segmentStateChange c.val g.val s) c' a = _ := fun c' a => by
    rw [hstep, tarnByte, hsettle.tarn, sget_reachesSeg (tarn_of_canonical hc)]
  refine ⟨_, rfl, ?_, fun a ha => ?_, fun c' a hc' ha => ?_⟩
  · rw [hstep, segOf_congr hsettle.segs, segOf_reachesSeg (segs_of_canonical hc)]
  · have hg := g.isLt
    rw [hbyte, tarnByte]
    exact if_congr (and_congr_right' (by simp only [tarnKey]; omega)) rfl rfl
  · have hne : c'.val ≠ c.val := fun h => hc' (Fin.ext h)
    have hg := g.isLt
    rw [hbyte, tarnByte, if_neg]
    simp only [tarnKey]
    omega

/-- FXE.TPWR asks the segments that it names. -/
theorem tpwr_asks {c : CoreId} (hc : canonical s = true) (hu : q.cmd.unit = 7) (hop : q.cmd.opcode = 0x40)
    (h : mayStartAs s (unitKey c.val 7) q p) (hline : firstInLine s (unitKey c.val 7)) :
    ∃ t, exec (.fxeTpwr c) s = .next t ∧ t.tarn = s.tarn ∧ t.mere = s.mere ∧
      ∀ i ∈ tpwrSegs q, segOf t c.val i = (segOf s c.val i).asked (fld q.cmd.w4 10 2) := by
  have hprep : prepTpwr s q = .ok p := prep_of_judge h fun hr => by simp [judge, hr, hu, hop]
  obtain ⟨hstart, hstep⟩ := fxeTpwr_of_mayStart hc h hu hop hprep
  have hsegs : (startChan (unitKey c.val 7) q p s).segs = s.segs := (congrArg State.segs hstart :)
  have hsettle := onlyRuns_settleTpwr c.val
    ((tpwrSegs q).foldl (asksSeg c.val (fld q.cmd.w4 10 2)) (startChan (unitKey c.val 7) q p s))
  refine ⟨_, congrArg Host.Outcome.next (inTurn_eq_of_firstInLine hline (fxeTpwr c.val)), ?_, ?_, fun i hi => ?_⟩
  · rw [hstep, hsettle.tarn, asksSeg_keeps (·.tarn) fun _ _ _ _ => rfl]
    exact (congrArg State.tarn hstart :)
  · rw [hstep, hsettle.mere, asksSeg_keeps (·.mere) fun _ _ _ _ => rfl]
    exact (congrArg State.mere hstart :)
  · rw [hstep, segOf_congr hsettle.segs, ((actsOnSeg_asksSeg c.val _).foldl (nodup_tpwrSegs q) (hsegs ▸ segs_of_canonical hc)).2,
      if_pos hi, segOf_congr hsegs]

/-- A core cycle in which one request is new. -/
theorem request_alone {c : CoreId} {q : TarnReq} (hc : canonical s = true) (heng : engines s = true) (hlive : live s c.val = true)
    (hidle : sget (fun _ => []) c.val s.tarnWait = []) (hport : q.port < 17) (hb : q.bank < 64) :
    ∃ t, exec (.tarnStarve c q []) s = .next t ∧ sget (fun _ => []) c.val t.granted = [q]
      ∧ sget (fun _ => []) c.val t.tarnWait = [] ∧ registersStay s t (fun _ => False) ∧ memoriesStay s t := by
  refine ⟨_, congrArg Host.Outcome.next (tarnStarve_alone heng hlive hidle hport hb), sget_sset_same (granted_of_canonical hc),
    sget_sset_same (tarnWait_of_canonical hc), fun a _ => ?_, rfl, rfl, rfl⟩
  have hcsr : swf resetWord (setBanks c.val [q] [] s).csr = true := csr_of_canonical (s := s) hc
  exact (rd_bump_zero (swf_csr_bump hcsr)).trans (rd_bump_zero hcsr)

/-- A core cycle in which two requests at different rows of a bank are new. -/
theorem request_waits {c : CoreId} {q r : TarnReq} (hc : canonical s = true) (heng : engines s = true) (hlive : live s c.val = true)
    (hidle : sget (fun _ => []) c.val s.tarnWait = []) (hb : q.bank < 64) (hbank : r.bank = q.bank) (hline : r.line ≠ q.line)
    (hport : q.port < r.port) (hr : r.port < 17) :
    ∃ t, exec (.tarnStarve c r [q]) s = .next t ∧ sget (fun _ => []) c.val t.granted = [q]
      ∧ sget (fun _ => []) c.val t.tarnWait = [{ req := r, refused := 1 }] ∧ counts s t (coreReg c.val 0xC000) 1
      ∧ memoriesStay s t := by
  have hkeep {β : Type} (view : State → β) (h : ∀ a n s, view (bump a n s) = view s) (x : State) :
      view (bump (coreReg c.val 0xC004) 0 (countRefused c.val [{ req := r }] x)) = view x :=
    (h ..).trans (countRefused_keeps view h ..)
  refine ⟨_, congrArg Host.Outcome.next (tarnStarve_pair heng hlive hidle hbank hb hline hport hr), ?_, ?_, ?_,
    hkeep (·.tarn) (fun _ _ _ => rfl) _, hkeep (·.mere) (fun _ _ _ => rfl) _, hkeep (·.flash) (fun _ _ _ => rfl) _⟩
  · rw [hkeep (·.granted) fun _ _ _ => rfl]
    exact sget_sset_same (granted_of_canonical hc)
  · rw [hkeep (·.tarnWait) fun _ _ _ => rfl]
    exact sget_sset_same (tarnWait_of_canonical hc)
  · exact counts_conflict (s := setBanks c.val [q] [{ req := r, refused := 1 }] s) (csr_of_canonical (s := s) hc) (by simp)

/-- Settles O37, part by part: each command acts on the segments or the banks that it names, and what waits goes on without them. -/
theorem segmentsChange : Obligations.SegmentsChange := by
  unfold Obligations.SegmentsChange
  intro c g v s hc heng hlive hin
  refine ⟨fun ht hst hch hwk hw => ?_, fun ht hch hwk => segment_reaches hc heng hlive hin ht hch hwk, fun hwk => ?_,
    fun q p _ hu hop h hline => ?_, fun hidle q hport hb => ⟨request_alone hc heng hlive hidle hport hb,
      fun r hbank hline hlt hr => request_waits hc heng hlive hidle hb hbank hline hlt hr⟩⟩
  · exact congrArg Host.Outcome.next (segmentStateChange_of_begins heng hlive ht hst hch hwk hw)
  · exact ⟨_, congrArg Host.Outcome.next (segmentWake_of_waking heng hlive hin hwk), segOf_setSeg_same (segs_of_canonical hc),
      rfl, rfl⟩
  · obtain ⟨t, ht, htarn, hmere, hsegs⟩ := tpwr_asks hc hu hop h hline
    refine ⟨t, ht, htarn, hmere, fun i hi => ?_⟩
    have hseg := hsegs i hi
    rw [Seg.asked] at hseg
    split
    · next hst => rwa [if_pos hst] at hseg
    · next hst => rwa [if_neg hst] at hseg

end Sys2Proof.Machine
end

section
/-! SUPPORT. Fields of words and of registers: what a write of one leaves of the field and of the other bits. -/

namespace Sys2Proof.Machine

variable {s t : State}

/-! ## Fields of a word -/

/-- A word with a field replaced, as a number: the field, what stands below it and what stands above it. -/
theorem toNat_setFld {w : Word} {lo n v : Nat} (h : lo + n ≤ 32) :
    (setFld w lo n v).toNat = 2 ^ lo * (2 ^ n * (w.toNat / 2 ^ lo / 2 ^ n) + v % 2 ^ n) + w.toNat % 2 ^ lo := by
  have hlow := Nat.div_add_mod w.toNat (2 ^ lo)
  have hhigh := Nat.div_add_mod (w.toNat / 2 ^ lo) (2 ^ n)
  have hv := Nat.mod_lt v (Nat.two_pow_pos n)
  have hf := Nat.mod_lt (w.toNat / 2 ^ lo) (Nat.two_pow_pos n)
  have hr := Nat.mod_lt w.toNat (Nat.two_pow_pos lo)
  have hw := w.isLt
  have hval : w.toNat = 2 ^ lo * (2 ^ n * (w.toNat / 2 ^ lo / 2 ^ n)) + 2 ^ lo * (w.toNat / 2 ^ lo % 2 ^ n) + w.toNat % 2 ^ lo := by
    rw [← Nat.mul_add, hhigh, hlow]
  have hbound : 2 ^ lo * (2 ^ n * (w.toNat / 2 ^ lo / 2 ^ n) + v % 2 ^ n) + w.toNat % 2 ^ lo < 2 ^ 32 := by
    have hpow : 2 ^ 32 = 2 ^ lo * (2 ^ n * 2 ^ (32 - lo - n)) := by
      rw [← pow_add, ← pow_add]
      congr 1
      omega
    have hquot : w.toNat / 2 ^ lo / 2 ^ n < 2 ^ (32 - lo - n) := by
      rw [Nat.div_lt_iff_lt_mul (Nat.two_pow_pos n), Nat.div_lt_iff_lt_mul (Nat.two_pow_pos lo), ← pow_add, ← pow_add]
      rwa [show 32 - lo - n + n + lo = 32 by omega]
    have hin : 2 ^ n * (w.toNat / 2 ^ lo / 2 ^ n) + v % 2 ^ n + 1 ≤ 2 ^ n * 2 ^ (32 - lo - n) := by
      calc 2 ^ n * (w.toNat / 2 ^ lo / 2 ^ n) + v % 2 ^ n + 1 ≤ 2 ^ n * (w.toNat / 2 ^ lo / 2 ^ n) + 2 ^ n := by omega
        _ = 2 ^ n * (w.toNat / 2 ^ lo / 2 ^ n + 1) := by ring
        _ ≤ _ := Nat.mul_le_mul_left _ hquot
    calc _ < 2 ^ lo * (2 ^ n * (w.toNat / 2 ^ lo / 2 ^ n) + v % 2 ^ n + 1) := by rw [Nat.mul_add _ _ 1]; omega
      _ ≤ 2 ^ 32 := hpow ▸ Nat.mul_le_mul_left _ hin
  rw [setFld, Word.ofNat, BitVec.toNat_ofNat, Nat.shiftRight_eq_div_pow, Nat.shiftLeft_eq, Nat.shiftLeft_eq,
    Nat.mul_comm _ (2 ^ lo), Nat.mul_comm _ (2 ^ lo), Nat.mul_add]
  rw [Nat.mul_add] at hbound
  rw [show w.toNat - 2 ^ lo * (w.toNat / 2 ^ lo % 2 ^ n) + 2 ^ lo * (v % 2 ^ n) =
    2 ^ lo * (2 ^ n * (w.toNat / 2 ^ lo / 2 ^ n)) + 2 ^ lo * (v % 2 ^ n) + w.toNat % 2 ^ lo by omega]
  exact Nat.mod_eq_of_lt hbound

/-- The field reads as written. -/
theorem fld_setFld {w : Word} {lo n v : Nat} (h : lo + n ≤ 32) : fld (setFld w lo n v) lo n = v % 2 ^ n := by
  rw [fld, toNat_setFld h, Nat.shiftRight_eq_div_pow, Nat.mul_add_div (Nat.two_pow_pos lo),
    Nat.div_eq_of_lt (Nat.mod_lt _ (Nat.two_pow_pos lo)), Nat.add_zero, Nat.mul_add_mod, Nat.mod_mod]

/-- Each bit of the field reads as written, each other bit as before. -/
theorem bitOf_setFld {w : Word} {lo n v i : Nat} (h : lo + n ≤ 32) :
    bitOf (setFld w lo n v) i = if lo ≤ i ∧ i < lo + n then v.testBit (i - lo) else bitOf w i := by
  have hr := Nat.mod_lt w.toNat (Nat.two_pow_pos lo)
  have hv := Nat.mod_lt v (Nat.two_pow_pos n)
  rw [bitOf, toNat_setFld h, Nat.testBit_two_pow_mul_add _ hr, Nat.testBit_two_pow_mul_add _ hv, bitOf]
  split
  · next hi =>
    rw [if_neg (by omega), Nat.testBit_mod_two_pow, decide_eq_true hi, Bool.true_and]
  · next hi =>
    split
    · next hj =>
      rw [if_pos (by omega), Nat.testBit_mod_two_pow, decide_eq_true hj, Bool.true_and]
    · next hj =>
      rw [if_neg (by omega), Nat.testBit_div_two_pow, Nat.testBit_div_two_pow]
      congr 1
      omega

/-! ## Fields of a register -/

section
variable {a lo n v i : Nat} (hs : swf resetWord s.csr = true) (h : lo + n ≤ 32)
include hs h

/-- A field of a register reads as written. -/
theorem rdF_wrF_same : rdF (wrF a lo n v s) a lo n = v % 2 ^ n := by
  rw [rdF, wrF, rd_wr_same hs, fld_setFld h]

/-- So does each bit of it. -/
theorem bitOf_rd_wrF (hi : lo ≤ i ∧ i < lo + n) : bitOf (rd (wrF a lo n v s) a) i = v.testBit (i - lo) := by
  rw [wrF, rd_wr_same hs, bitOf_setFld h, if_pos hi]

/-- The register's other bits read as before. -/
theorem bitOf_rd_wrF_other (hi : ¬ (lo ≤ i ∧ i < lo + n)) : bitOf (rd (wrF a lo n v s) a) i = bitOf (rd s a) i := by
  rw [wrF, rd_wr_same hs, bitOf_setFld h, if_neg hi]

end

end Sys2Proof.Machine
end

section
/-! PROGRAM IMAGES. What a load and an unload leave (R288, R401, R403, R405). -/

namespace Sys2Proof.Machine

variable {s t u : State} {p : Nat → Prop}

theorem exec_ldrLoad (v : Word) (ecc : EccMap) (s : State) : exec (.ldrLoad v ecc) s = .next (ldrLoad v ecc s) := rfl
theorem exec_ldrUnload (v : Word) (s : State) : exec (.ldrUnload v) s = .next (ldrUnload v s) := rfl

/-! ## Registers that the loader does not write -/

theorem tasks_of_canonical (h : canonical s = true) : swf (fun _ => {}) s.tasks = true := by
  simp only [canonical, storesCanonical, Bool.and_eq_true] at h
  simp only [h]

/-- Slots on a path are owned as before where the tables and the period in force are as before. -/
theorem pathOwned_congr (hm : t.meshEff = s.meshEff) (hp : cfg t 0x12004 = cfg s 0x12004) (a b : MeshEnd) (v : Option Nat) :
    pathOwned t a b v = pathOwned s a b v := by
  unfold pathOwned slotFor schedPeriod
  rw [hm, hp]

/-- Whether the timetable governs is a matter of the step and of the registers of the mesh's mode. -/
theorem timetabled_congr (hssq : t.ssq = s.ssq) (hd : rd t rDetStatus = rd s rDetStatus) (hc : cfg t 0x12000 = cfg s 0x12000) :
    timetabled t = timetabled s := by
  simp only [timetabled, meshScheduled, repro, hssq, hd, hc]

/-- A register in force is as before where the step, what it holds, and the register are. -/
theorem cfg_congr {a : Nat} (hssq : t.ssq = s.ssq) (heff : t.eff = s.eff) (h : rd t a = rd s a) : cfg t a = cfg s a := by
  rw [cfg, cfg, hssq, heff, h]

theorem weastFree_congr (hssq : t.ssq = s.ssq) (heff : t.eff = s.eff) (hm : t.meshEff = s.meshEff)
    (hr : ∀ a ∈ [rDetStatus, 0x12000, 0x12004], rd t a = rd s a) : weastFree t = weastFree s := by
  have hcfg : ∀ a ∈ [rDetStatus, 0x12000, 0x12004], cfg t a = cfg s a := fun a ha => cfg_congr hssq heff (hr a ha)
  have htime : timetabled t = timetabled s := timetabled_congr hssq (hr _ (by simp)) (hcfg _ (by simp))
  have hpath := pathOwned_congr hm (hcfg 0x12004 (by simp))
  simp only [weastFree, weastReaches, htime, hpath]

theorem tenCfg_congr {n w : Nat} (hssq : t.ssq = s.ssq) (heff : t.eff = s.eff) (h : rd t (tenReg n w) = rd s (tenReg n w)) :
    tenCfg t n w = tenCfg s n w := by
  unfold tenCfg tenantRuns
  rw [hssq, heff, h]

theorem tenantsOf_congr (hssq : t.ssq = s.ssq) (heff : t.eff = s.eff) (h : ∀ n w, rd t (tenReg n w) = rd s (tenReg n w)) (k : Nat) :
    tenantsOf t k = tenantsOf s k := by
  refine List.filter_congr fun n _ => ?_
  rw [tenCfg_congr hssq heff (h _ _), tenCfg_congr hssq heff (h _ _)]

/-! ## The operation that LDR_CTL takes -/

/-- LDR_CTL has taken OP and TASK, and GO is 0 again. -/
def gone (v : Word) (s : State) : State := wrF rLdrCtl 0 1 0 (ldrCtl v s)

/-- Task k is not loaded and holds no slots. -/
def cleared (k : Nat) (s : State) : State := wrF (rCompat + 4 * k) 1 1 0 { s with tasks := sset (fun _ => {}) k {} s.tasks }

theorem task_lt (v : Word) : fld v 2 6 < 64 := Nat.mod_lt _ (by decide)

theorem fld_ldrCtl (v : Word) : fld (Word.ofNat (v.toNat &&& 0xFE)) 2 6 = fld v 2 6 := by
  have hmask : (0xFE : Nat) = 2 ^ 8 - 1 - 1 := by decide
  apply Nat.eq_of_testBit_eq
  intro i
  have hconst : i < 6 → Nat.testBit 254 (2 + i) = true := by
    intro hi
    interval_cases i <;> decide
  simp only [fld, Word.ofNat, BitVec.toNat_ofNat, Nat.testBit_mod_two_pow, Nat.testBit_shiftRight, Nat.testBit_and]
  by_cases hi : i < 6
  · simp [hi, hconst hi, show 2 + i < 32 by omega]
  · simp [hi]

section
variable {v : Word} (hc : swf resetWord s.csr = true)
include hc

theorem rdF_task_ldrCtl : rdF (ldrCtl v s) rLdrCtl 2 6 = fld v 2 6 := by
  rw [rdF, ldrCtl, rd_wr_same hc, fld_ldrCtl]

theorem rd_ldrCtl {a : Nat} (ha : a ≠ rLdrCtl) : rd (ldrCtl v s) a = rd s a := rd_wr_other hc ha

end

theorem regsWithin_ldrCtl (v : Word) : regsWithin (· = rLdrCtl) s (ldrCtl v s) := regsWithin_wr rfl
theorem regsWithin_gone (v : Word) : regsWithin (· = rLdrCtl) s (gone v s) := (regsWithin_ldrCtl v).trans (regsWithin_wr rfl)
theorem regsWithin_cleared (k : Nat) : regsWithin (· = rCompat + 4 * k) s (cleared k s) :=
  regsWithin.trans (t := { s with tasks := _ }) (.of_csr rfl) (regsWithin_wr rfl)

/-- GO reads 0. -/
theorem go_gone (v : Word) (hc : swf resetWord s.csr = true) : bitOf (rd (gone v s) rLdrCtl) 0 = false :=
  bitOf_rd_wrF (s := ldrCtl v s) (swf_csr_wr hc) (by decide) (by decide)

theorem taskLoaded_cleared {k : Nat} (hc : swf resetWord s.csr = true) : taskLoaded (cleared k s) k = false :=
  bitOf_rd_wrF (s := { s with tasks := _ }) hc (by decide) (by decide)

theorem taskImg_cleared {k : Nat} (ht : swf (fun _ => {}) s.tasks = true) : taskImg (cleared k s) k = {} := sget_sset_same ht

/-- A load that no operation of the loader keeps back, on the branch that it takes. -/
theorem ldrLoad_eq {v : Word} (hc : swf resetWord s.csr = true) (heng : engines s = true) (hop : fld v 0 2 = 1)
    (hgo : bitOf (rd s rLdrCtl) 0 = false) : ldrLoad v [] s =
      if s.ssq.run && s.ssq.task == fld v 2 6 then loadStatus 8 (fld v 2 6) 0 (gone v s)
      else if !(weastFree s) then wrF rLdrCtl 0 1 1 (ldrCtl v s)
      else runLoad (fld v 2 6) (rd64 s 0x500208) (rd s 0x500218).toNat (rd s 0x50021C).toNat (rd64 s 0x500210) [] (gone v s) := by
  have hrd : ∀ a, a ≠ rLdrCtl → rd (ldrCtl v s) a = rd s a := fun _ ha => rd_ldrCtl hc ha
  have hfree : weastFree (ldrCtl v s) = weastFree s :=
    weastFree_congr rfl rfl rfl fun a ha => hrd a (by rintro rfl; revert ha; decide)
  have hssq : (ldrCtl v s).ssq = s.ssq := rfl
  have hrd64 : ∀ a, rLdrCtl < a → rd64 (ldrCtl v s) a = rd64 s a := fun a ha => by
    rw [rd64, rd64, hrd a (by omega), hrd (a + 4) (by omega)]
  rw [ldrLoad, if_neg (by simp [heng, hop]), if_neg (by simp [hgo]), goLoad, rdF_task_ldrCtl hc, hfree, hssq]
  simp only [hrd64 0x500208 (by decide), hrd64 0x500210 (by decide), hrd 0x500218 (by decide), hrd 0x50021C (by decide), gone]

/-- The end of a load: the state that its image's checks give when they pass, or their result and detail. -/
def loadEnds (k : Nat) (s : State) : Except LoadError State → State
  | .ok u => loadStatus 0 k 0 u
  | .error (.fail r d) => loadStatus r k d s

/-- The load of a task of exactly one tenant ends as its image's checks say. -/
theorem runLoad_of_tenant {k n : Nat} (h : tenantsOf (cleared k s) k = [n]) (src fmtMap modMap segMap : Nat) (ecc : EccMap) :
    runLoad k src fmtMap modMap segMap ecc s =
      loadEnds k (readImage n src ecc (cleared k s)) (loadImage k n src fmtMap modMap segMap (readImage n src ecc (cleared k s))) := by
  rw [cleared] at h ⊢
  rw [runLoad]
  simp only [h]
  generalize loadImage k n src fmtMap modMap segMap _ = x
  cases x with
  | ok u => rfl
  | error e => rfl

/-- That of another ends with result 9. -/
theorem runLoad_of_no_tenant {k : Nat} (h : (tenantsOf (cleared k s) k).length ≠ 1) (src fmtMap modMap segMap : Nat) (ecc : EccMap) :
    runLoad k src fmtMap modMap segMap ecc s = loadStatus 9 k 0 (cleared k s) := by
  rw [cleared] at h ⊢
  rw [runLoad]
  split
  · next n hn => exact absurd (congrArg List.length hn) h
  · rfl

/-! ## Placing an image -/

/-- From s to t sections have been placed: every task's image and LDR_CTL are as they were. -/
structure Placed (s t : State) : Prop where
  tasks : t.tasks = s.tasks
  regs : regsWithin (· ≠ rLdrCtl) s t

namespace Placed

theorem refl (s : State) : Placed s s := ⟨rfl, .of_csr rfl⟩

theorem trans (h : Placed s t) (h' : Placed t u) : Placed s u := ⟨h'.tasks.trans h.tasks, h.regs.trans h'.regs⟩

theorem ite {q : Prop} [Decidable q] (ht : Placed s t) (hu : Placed s u) : Placed s (if q then t else u) := by
  split
  · exact ht
  · exact hu

theorem wr {a : Nat} {v : Word} (ha : a ≠ rLdrCtl) (h : Placed s t) : Placed s (Machine.wr a v t) :=
  h.trans ⟨rfl, regsWithin_wr ha⟩

theorem foldl {α : Type} {f : State → α → State} (hf : ∀ s x, Placed s (f s x)) (l : List α) (s : State) : Placed s (l.foldl f s) := by
  induction l generalizing s with
  | nil => exact .refl s
  | cons x r ih => exact (hf s x).trans (ih _)

theorem iter {f : Nat → State → State} (hf : ∀ i s, Placed s (f i s)) (n : Nat) (s : State) : Placed s (iter n f s) :=
  foldl (fun s i => hf i s) _ s

end Placed

/-- No register of a core at an offset other than 0x200 is LDR_CTL. -/
theorem coreReg_ne_ldrCtl (c : Nat) {off : Nat} (h : off % 2 ^ 16 ≠ 0x200) : coreReg c off ≠ rLdrCtl := by
  simp only [coreReg, rLdrCtl]
  omega

theorem placed_wakeSegs (c a n : Nat) (s : State) : Placed s (wakeSegs c a n s) := by
  refine .foldl (fun s g => ?_) _ s
  rw [wakeSeg]
  exact .ite (.refl s) ⟨rfl, regsWithin_bump (s := setSeg c g _ s) (coreReg_ne_ldrCtl c (by decide))⟩

theorem placed_wakeUnits (us : List Nat) (s : State) : Placed s (wakeUnits us s) := by
  refine ⟨(congrArg State.tasks (offRegs_wakeUnits us s) :), (regsWithin_wakeUnits us s).mono fun a ha => ?_⟩
  simp only [stackWord, rLdrCtl] at ha ⊢
  omega

theorem placed_placeSect (l : Load) (c : Nat) (x : Sect) (b : List Byte) (s : State) : Placed s (placeSect l c x b s) := by
  have hcore : ∀ off, off % 2 ^ 16 ≠ 0x200 → coreReg c off ≠ rLdrCtl := fun _ => coreReg_ne_ldrCtl c
  have htarn : ∀ a, Placed s (tarnWrite c a b (wakeSegs c a b.length s)) := fun a =>
    (placed_wakeSegs c a b.length s).trans ⟨rfl, .of_csr rfl⟩
  have hmere : ∀ a, Placed s (mereWrite a b (wakeUnits (unitsOf a b.length) s)) := fun a =>
    (placed_wakeUnits _ s).trans ⟨rfl, .of_csr rfl⟩
  rw [placeSect]
  refine .ite ?_ (.ite ?_ (.refl s))
  · refine .ite (.wr (hcore _ (by decide)) (.wr (hcore _ (by decide)) (htarn _)))
      (.ite (.wr (hcore _ (by decide)) (.wr (hcore _ (by decide)) (htarn _))) (htarn _))
  · refine .ite (.wr ?_ (.wr ?_ (.wr ?_ (hmere _)))) (hmere _)
    all_goals simp only [rLdrCtl]; omega

theorem placed_timetable (fuel n : Nat) (b : List Byte) (s : State) : Placed s (timetable fuel n b s) := by
  induction fuel generalizing b s with
  | zero => exact .refl s
  | succ fuel ih =>
    rw [timetable]
    refine .ite (.refl s) (Placed.trans ?_ (ih _ _))
    exact .ite ⟨rfl, .of_csr rfl⟩ (.refl s)

theorem placed_placeTimetable (b : List Byte) (s : State) : Placed s (placeTimetable b s) := by
  rw [placeTimetable]
  have hper : Placed s (wr 0x12004 (Word.ofNat (leAt b 0 4 % 2048)) { s with meshTbl := [] }) := .wr (by decide) ⟨rfl, .of_csr rfl⟩
  exact hper.trans (placed_timetable ..)

/-- Slots lie in the range that they are taken from. -/
theorem lt_of_mem_freeSlots' {n lo hi k : Nat} {used l : List Nat} (h : freeSlots' n lo hi used = some l) (hk : k ∈ l) : k < hi := by
  simp only [freeSlots', Option.ite_none_right_eq_some, Option.some.injEq] at h
  obtain ⟨-, rfl⟩ := h
  obtain ⟨i, hi, rfl⟩ := List.mem_map.mp (List.mem_of_mem_filter (List.mem_of_mem_take hk))
  have := List.mem_range.mp hi
  omega

theorem placed_placeScales (l : Load) {scales : List Nat} (hs : ∀ n ∈ scales, n < 64) (b : List Byte) (s : State) :
    Placed s (placeScales l scales b s) := by
  unfold placeScales
  refine .iter (fun _ s => ?_) _ s
  extract_lets k w p w'
  split
  · exact .refl s
  · next n hn =>
    have hlt : n < 64 := by
      split at hn
      · cases hn
      · exact hs n (List.mem_of_getElem? hn)
    exact .foldl (fun s c => .wr (coreReg_ne_ldrCtl c (by omega)) (.wr (coreReg_ne_ldrCtl c (by omega)) (.refl s))) _ s

/-! ## Checks that pass -/

/-- What holds of the state that a load leaves, where its checks pass. -/
def OnOk (P : State → Prop) (x : Except LoadError State) : Prop := ∀ t, x = .ok t → P t

section
variable {P : State → Prop}

theorem onOk_error {e : LoadError} : OnOk P (.error e) := fun _ e => nomatch e

theorem onOk_ok (h : P s) : OnOk P (.ok s) := by
  intro t e
  cases e
  exact h

/-- After a check comes what holds once it passes. -/
theorem onOk_bind {α : Type} {x : Except LoadError α} {f : α → Except LoadError State} (hf : ∀ a, OnOk P (f a)) : OnOk P (x >>= f) := by
  cases x with
  | error _ => exact onOk_error
  | ok a => exact hf a

theorem onOk_bind_state {Q : State → Prop} {x : Except LoadError State} {f : State → Except LoadError State} (hx : OnOk Q x)
    (hf : ∀ t, Q t → OnOk P (f t)) : OnOk P (x >>= f) := by
  cases x with
  | error _ => exact onOk_error
  | ok a => exact hf a (hx a rfl)

end

theorem onOk_foldlM {α : Type} {f : State → α → Except LoadError State} (hf : ∀ s x, OnOk (Placed s) (f s x)) (l : List α) (s : State) :
    OnOk (Placed s) (l.foldlM f s) := by
  induction l generalizing s with
  | nil => exact onOk_ok (.refl s)
  | cons x r ih =>
    rw [List.foldlM_cons]
    exact onOk_bind_state (hf s x) fun t ht u hu => ht.trans (ih t u hu)

theorem placed_placeAll (l : Load) (progs scales : List Nat) (s : State) : OnOk (Placed s) (placeAll l progs scales s) := by
  refine onOk_foldlM (fun s1 x => ?_) _ s
  split
  · exact onOk_ok (.refl s1)
  · refine onOk_foldlM (fun s2 c => ?_) _ s1
    split
    exacts [onOk_ok (placed_placeSect ..), onOk_error]

/-- From s to t an image from src of tenant tn has been loaded as task k. -/
def LoadedAs (k tn src : Nat) (s t : State) : Prop :=
  ∃ (w : State) (i : TaskImg) (flags : Nat), Placed s w ∧ i.tenant = tn ∧ i.src = src ∧
    t = wr (rCompat + 4 * k) (Word.ofNat (2 + flags % 2))
      { w with tasks := sset (fun _ => {}) k i w.tasks, time := { w.time with loadedOnce := true } }

theorem loadedAs_loadImage (k tn src fmtMap modMap segMap : Nat) (s : State) :
    OnOk (LoadedAs k tn src s) (loadImage k tn src fmtMap modMap segMap s) := by
  unfold loadImage
  refine onOk_bind fun _ => ?_
  extract_lets n img l slots rest
  have hslots : ∀ r, OnOk (LoadedAs k tn src s) (slots r) := by
    intro _
    unfold slots
    clear_value l
    refine onOk_bind fun _ => ?_
    split
    · next progs scales _ hscales =>
      extract_lets place
      have hplace : ∀ r, OnOk (LoadedAs k tn src s) (place r) := by
        intro _
        unfold place
        refine onOk_bind fun tt => onOk_bind fun sc => onOk_bind fun _ => onOk_bind fun _ =>
          onOk_bind_state (placed_placeAll _ _ _ _) fun s1 h1 => ?_
        extract_lets s2 s3
        have h2 : Placed s s2 := h1.trans (placed_placeScales _ (fun _ => lt_of_mem_freeSlots' hscales) _ _)
        have h3 : Placed s s3 := .ite (h2.trans (placed_placeTimetable ..)) h2
        clear_value s3
        exact onOk_ok ⟨s3, _, _, h3, rfl, rfl, rfl⟩
      clear_value place
      split
      exacts [onOk_bind hplace, onOk_bind hplace]
    · exact onOk_error
  clear_value slots
  have hrest : ∀ r, OnOk (LoadedAs k tn src s) (rest r) := by
    intro _
    unfold rest
    refine onOk_bind fun _ => onOk_bind fun _ => onOk_bind fun _ => onOk_bind fun _ => onOk_bind fun _ => ?_
    split
    exacts [onOk_bind hslots, onOk_bind hslots]
  clear_value rest
  refine onOk_bind fun _ => onOk_bind fun _ => ?_
  split
  exacts [onOk_bind hrest, onOk_bind hrest]

/-! ## The image is read -/

theorem tasks_of_offRegs (h : offRegs t = offRegs s) : t.tasks = s.tasks := (congrArg State.tasks h :)

/-- Registers that the wake of a stack changes (R221). -/
def wakeWord (a : Nat) : Prop := ∃ n : StackId, a = stkReg n.val 4 ∨ a = stkReg n.val 0x24

theorem regsWithin_wakeStack (n : Nat) (s : State) : regsWithin wakeWord s (wakeStack n s) := by
  rw [wakeStack]
  split
  · next h => exact (regsWithin_wr ⟨⟨n, h.1⟩, .inl rfl⟩).trans (regsWithin_bump ⟨⟨n, h.1⟩, .inr rfl⟩)
  · exact .of_csr rfl

/-- Reading an image whose units are clean wakes stacks and does no more (R221, R224). -/
theorem readImage_clean (n src : Nat) (s : State) :
    offRegs (readImage n src [] s) = offRegs s ∧ regsWithin wakeWord s (readImage n src [] s) := by
  rw [readImage]
  split
  · rw [reachMere_nil]
    exact ⟨offRegs_wakeUnits .., regsWithin_foldl fun s m _ => regsWithin_wakeStack m s⟩
  · exact ⟨rfl, .of_csr rfl⟩

/-! ## What LDR_STATUS says -/

theorem rd_loadStatus {result k detail : Nat} (hc : swf resetWord s.csr = true) :
    rd (loadStatus result k detail s) rLdrStatus = Word.ofNat (result + k * 2 ^ 4 + detail % 2 ^ 16 * 2 ^ 16) := rd_wr_same hc

theorem regsWithin_loadStatus (result k detail : Nat) : regsWithin (· = rLdrStatus) s (loadStatus result k detail s) := regsWithin_wr rfl

theorem rd_of_regsWithin {a : Nat} (h : regsWithin p s t) (hs : swf resetWord s.csr = true) (ha : ¬ p a) : rd t a = rd s a :=
  (h hs).2 a ha

theorem taskLoaded_congr {k : Nat} (h : rd t (rCompat + 4 * k) = rd s (rCompat + 4 * k)) : taskLoaded t k = taskLoaded s k := by
  rw [taskLoaded, taskLoaded, h]

/-- The words that an operation of the loader on task k may change but for those of a placed image. -/
def loaderWord (k a : Nat) : Prop := a = rLdrStatus ∨ a = rLdrCtl ∨ a = rCompat + 4 * k

/-- LOADED of a task is no register of the loader. -/
theorem compat_ne {k : Nat} (hk : k < 64) : rCompat + 4 * k ≠ rLdrStatus ∧ rCompat + 4 * k ≠ rLdrCtl := by
  simp only [rCompat, rLdrStatus, rLdrCtl]
  omega

theorem regsWithin_cleared_gone (v : Word) (k : Nat) : regsWithin (loaderWord k) s (cleared k (gone v s)) :=
  ((regsWithin_gone v).mono fun _ h => .inr (.inl h)).trans ((regsWithin_cleared k).mono fun _ h => .inr (.inr h))

section
variable {v : Word} (hc : canonical s = true)
include hc

theorem tenantsOf_cleared_gone (k : Nat) (hk : k < 64) : tenantsOf (cleared k (gone v s)) k = tenantsOf s k := by
  refine tenantsOf_congr (s := s) (t := cleared k (gone v s)) rfl rfl (fun n w => ?_) k
  refine rd_of_regsWithin (regsWithin_cleared_gone v k) (csr_of_canonical hc) ?_
  simp only [loaderWord, tenReg, rLdrStatus, rLdrCtl, rCompat]
  omega

theorem canonical_gone : canonical (gone v s) = true := canonical_wrF (canonical_ldrCtl hc)

theorem canonical_cleared_gone (k : Nat) : canonical (cleared k (gone v s)) = true :=
  canonical_wrF (canonical_with_tasks (canonical_gone hc) swf_sset)

theorem go_cleared_gone {k : Nat} (hk : k < 64) : bitOf (rd (cleared k (gone v s)) rLdrCtl) 0 = false := by
  rw [rd_of_regsWithin (regsWithin_cleared k) (csr_of_canonical (canonical_gone hc)) (compat_ne hk).2.symm]
  exact go_gone v (csr_of_canonical hc)

/-! ## The clauses of O54 -/

section
variable (heng : engines s = true) (hgo : bitOf (rd s rLdrCtl) 0 = false) (hop : fld v 0 2 = 1)
include heng hgo hop

theorem ldrLoad_of_running (hrun : s.ssq.run = true ∧ s.ssq.task = fld v 2 6) :
    ldrLoad v [] s = loadStatus 8 (fld v 2 6) 0 (gone v s) := by
  rw [ldrLoad_eq (csr_of_canonical hc) heng hop hgo, if_pos (by simp [hrun])]

theorem ldrLoad_of_not_running (hrun : s.ssq.run = false ∨ s.ssq.task ≠ fld v 2 6) :
    ldrLoad v [] s =
      if !(weastFree s) then wrF rLdrCtl 0 1 1 (ldrCtl v s)
      else runLoad (fld v 2 6) (rd64 s 0x500208) (rd s 0x500218).toNat (rd s 0x50021C).toNat (rd64 s 0x500210) [] (gone v s) := by
  rw [ldrLoad_eq (csr_of_canonical hc) heng hop hgo, if_neg]
  simpa [imp_iff_not_or] using hrun

end

/-- A load whose checks fail has unloaded its task, and of registers only the loader's and those of woken stacks have changed. -/
theorem loadStatus_readImage {k n src r d : Nat} (hk : k < 64)
    (ht : t = loadStatus r k d (readImage n src [] (cleared k (gone v s)))) :
    bitOf (rd t rLdrCtl) 0 = false ∧ taskLoaded t k = false ∧ taskImg t k = {} ∧
      regsWithin (fun a => loaderWord k a ∨ wakeWord a) s t ∧ memoriesStay s t ∧
      rd t rLdrStatus = Word.ofNat (r + k * 2 ^ 4 + d % 2 ^ 16 * 2 ^ 16) := by
  have hcl := canonical_cleared_gone (v := v) hc k
  have hrd := canonical_readImage hcl (tn := n) (src := src) (ecc := [])
  obtain ⟨hoff, hwake⟩ := readImage_clean n src (cleared k (gone v s))
  have hst : regsWithin (fun a => a = rLdrStatus ∨ wakeWord a) (cleared k (gone v s)) t :=
    ht ▸ (hwake.mono fun _ => .inr).trans ((regsWithin_loadStatus r k d).mono fun _ => .inl)
  have hne : ∀ a, a < 0x200000 ∨ a = rLdrCtl → a ≠ rLdrStatus → ¬ (a = rLdrStatus ∨ wakeWord a) := by
    rintro a ha hne (h | ⟨m, h⟩)
    · exact hne h
    · simp only [stkReg, rLdrCtl] at h ha
      omega
  have hcompat : rd t (rCompat + 4 * k) = rd (cleared k (gone v s)) (rCompat + 4 * k) :=
    rd_of_regsWithin hst (csr_of_canonical hcl) (hne _ (.inl (by simp only [rCompat]; omega)) (compat_ne hk).1)
  have hctl : rd t rLdrCtl = rd (cleared k (gone v s)) rLdrCtl :=
    rd_of_regsWithin hst (csr_of_canonical hcl) (hne _ (.inr rfl) (by decide))
  have htasks : t.tasks = (cleared k (gone v s)).tasks := by
    rw [ht, loadStatus, wr_tasks, tasks_of_offRegs hoff]
  refine ⟨hctl ▸ go_cleared_gone hc hk, ?_, ?_, ?_, ?_, ?_⟩
  · rw [taskLoaded_congr hcompat, taskLoaded_cleared (csr_of_canonical (canonical_gone hc))]
  · rw [taskImg, htasks]
    exact taskImg_cleared (tasks_of_canonical (canonical_gone hc))
  · refine ((regsWithin_cleared_gone v k).mono fun _ => .inl).trans (hst.mono fun a ha => ?_)
    exact ha.imp .inl id
  · exact ht ▸ ⟨(congrArg State.tarn hoff :), (congrArg State.mere hoff :), (congrArg State.flash hoff :)⟩
  · rw [ht, rd_loadStatus (csr_of_canonical hrd)]

/-- A load whose checks pass has loaded its task, and the image of every other is as it was. -/
theorem loadStatus_loadedAs {k n src : Nat} (hk : k < 64) {w : State}
    (hw : LoadedAs k n src (readImage n src [] (cleared k (gone v s))) w) (ht : t = loadStatus 0 k 0 w) :
    bitOf (rd t rLdrCtl) 0 = false ∧ taskLoaded t k = true ∧ rd t rLdrStatus = Word.ofNat (k * 2 ^ 4) ∧
      (taskImg t k).tenant = n ∧ (taskImg t k).src = src ∧ ∀ k', k' ≠ k → taskImg t k' = taskImg s k' := by
  have hcl := canonical_cleared_gone (v := v) hc k
  have hrd := canonical_readImage hcl (tn := n) (src := src) (ecc := [])
  obtain ⟨hoff, hwake⟩ := readImage_clean n src (cleared k (gone v s))
  obtain ⟨w', i, flags, hplaced, htn, hsrc, hwr⟩ := hw
  have htasks' : w'.tasks = sset (fun _ => {}) k {} s.tasks := hplaced.tasks.trans (tasks_of_offRegs hoff)
  have hswf' : swf resetWord w'.csr = true := (hplaced.regs (csr_of_canonical hrd)).1
  have hswf : swf resetWord w.csr = true := hwr ▸ swf_csr_wr hswf'
  have htasks : t.tasks = sset (fun _ => {}) k i (sset (fun _ => {}) k {} s.tasks) := by
    rw [ht, hwr, ← htasks']
    rfl
  have hcs := tasks_of_canonical hc
  have himg : taskImg t k = i := by
    rw [taskImg, htasks, sget_sset_same (swf_sset hcs)]
  have hw' : ∀ a, a ≠ rCompat + 4 * k → rd w a = rd w' a := fun a ha => by
    rw [hwr]
    exact rd_wr_other hswf' ha
  have hst : ∀ a, a ≠ rLdrStatus → rd t a = rd w a := fun a ha => by
    rw [ht]
    exact rd_wr_other hswf ha
  refine ⟨?_, ?_, ?_, himg ▸ htn, himg ▸ hsrc, fun k' hk' => ?_⟩
  · rw [hst _ (by decide), hw' _ (compat_ne hk).2.symm, rd_of_regsWithin hplaced.regs (csr_of_canonical hrd) (by simp),
      rd_of_regsWithin hwake (csr_of_canonical hcl)]
    · exact go_cleared_gone hc hk
    · rintro ⟨m, h⟩
      simp only [stkReg, rLdrCtl] at h
      omega
  · have hword : rd w (rCompat + 4 * k) = Word.ofNat (2 + flags % 2) := by
      rw [hwr]
      exact rd_wr_same hswf'
    rw [taskLoaded, hst _ (compat_ne hk).1, hword]
    obtain h | h := Nat.mod_two_eq_zero_or_one flags <;> rw [h] <;> decide
  · rw [ht, rd_loadStatus hswf]
    simp
  · rw [taskImg, htasks, sget_sset_other (swf_sset hcs) hk', sget_sset_other hcs hk', taskImg]

/-- An unload at once. -/
theorem unloadTask_ldrCtl {k : Nat} (hk : k < 64) (ht : t = unloadTask k (ldrCtl v s)) :
    taskLoaded t k = false ∧ taskImg t k = {} ∧ regsWithin (loaderWord k) s t ∧ memoriesStay s t ∧ bitOf (rd t rLdrCtl) 0 = false := by
  have hswf : swf resetWord (cleared k (ldrCtl v s)).csr = true := swf_csr_wr (swf_csr_wr (csr_of_canonical hc))
  have hunload : t = wrF rLdrCtl 0 1 0 (wr rLdrStatus (Word.ofNat (k * 2 ^ 4)) (cleared k (ldrCtl v s))) := ht
  have hlast : regsWithin (fun a => a = rLdrStatus ∨ a = rLdrCtl) (cleared k (ldrCtl v s)) t :=
    hunload ▸ (regsWithin_wr (.inl rfl)).trans (regsWithin_wr (.inr rfl))
  have hcompat : rd t (rCompat + 4 * k) = rd (cleared k (ldrCtl v s)) (rCompat + 4 * k) :=
    rd_of_regsWithin hlast hswf (not_or.mpr (compat_ne hk))
  refine ⟨?_, ?_, ?_, hunload ▸ ⟨rfl, rfl, rfl⟩, ?_⟩
  · rw [taskLoaded_congr hcompat, taskLoaded_cleared (csr_of_canonical (canonical_ldrCtl hc))]
  · rw [hunload]
    exact taskImg_cleared (tasks_of_canonical (canonical_ldrCtl hc))
  · refine .trans (.trans ((regsWithin_ldrCtl v).mono fun _ h => .inr (.inl h)) ((regsWithin_cleared k).mono fun _ h => .inr (.inr h)))
      (hlast.mono fun _ h => h.imp id .inl)
  · rw [hunload]
    exact bitOf_rd_wrF (swf_csr_wr hswf) (by decide) (by decide)

end

/-- Settles O54: a load ends as its task's state and its image's checks say, and an unload clears its task or waits. -/
theorem loads : Obligations.Loads := by
  intro v s hc heng hgo k go s' only woken
  have hk : k < 64 := task_lt v
  have hcsr := csr_of_canonical hc
  have hgone := canonical_gone (v := v) hc
  have hwait : regsWithin (· = rLdrCtl) s (wrF rLdrCtl 0 1 1 (ldrCtl v s)) := (regsWithin_ldrCtl v).trans (regsWithin_wr rfl)
  have hwaits : bitOf (rd (wrF rLdrCtl 0 1 1 (ldrCtl v s)) rLdrCtl) 0 = true :=
    bitOf_rd_wrF (csr_of_canonical (canonical_ldrCtl hc)) (by decide) (by decide)
  refine ⟨fun hop hrun => ?_, fun hop hrun hfree => ?_, fun hop hrun hfree => ⟨fun hno => ?_, fun n hn => ?_⟩, fun hop hrun => ?_,
    fun hop hrun => ?_⟩
  · refine ⟨_, exec_ldrLoad v [] s, ?_⟩
    rw [ldrLoad_of_running hc heng hgo hop hrun]
    have hreg : regsWithin (fun a => a = rLdrStatus ∨ a = rLdrCtl) s (loadStatus 8 k 0 (gone v s)) :=
      ((regsWithin_gone v).mono fun _ => .inr).trans ((regsWithin_loadStatus 8 k 0).mono fun _ => .inl)
    refine ⟨?_, rfl, (hreg hcsr).2, rfl, rfl, rfl⟩
    rw [rd_loadStatus (csr_of_canonical hgone)]
    simp [k]
  · refine ⟨_, exec_ldrLoad v [] s, ?_⟩
    rw [ldrLoad_of_not_running hc heng hgo hop hrun, if_pos (by simp [hfree])]
    exact ⟨rfl, hwaits, (hwait hcsr).2, rfl, rfl, rfl⟩
  · have hcl := canonical_cleared_gone (v := v) hc k
    refine ⟨_, exec_ldrLoad v [] s, ?_⟩
    rw [ldrLoad_of_not_running hc heng hgo hop hrun, if_neg (by simp [hfree]),
      runLoad_of_no_tenant (by rwa [tenantsOf_cleared_gone hc _ hk])]
    have hreg := (regsWithin_cleared_gone v k (s := s)).trans ((regsWithin_loadStatus 9 k 0).mono fun _ => .inl)
    refine ⟨?_, ?_, (hreg hcsr).2, rfl, rfl, rfl⟩
    · rw [rd_loadStatus (csr_of_canonical hcl)]
      simp [k]
    · rw [taskLoaded_congr (rd_of_regsWithin (regsWithin_loadStatus 9 k 0) (csr_of_canonical hcl) (compat_ne hk).1),
        taskLoaded_cleared (csr_of_canonical hgone)]
  · have hs' : s' = cleared k (gone v s) := rfl
    refine ⟨_, exec_ldrLoad v [] s, ?_⟩
    rw [ldrLoad_of_not_running hc heng hgo hop hrun, if_neg (by simp [hfree]),
      runLoad_of_tenant (n := n) (by rw [tenantsOf_cleared_gone hc _ hk, hn]), hs']
    have hok := loadedAs_loadImage k n (rd64 s 0x500208) (rd s 0x500218).toNat (rd s 0x50021C).toNat (rd64 s 0x500210)
      (readImage n (rd64 s 0x500208) [] (cleared k (gone v s)))
    generalize loadImage k n (rd64 s 0x500208) (rd s 0x500218).toNat (rd s 0x50021C).toNat (rd64 s 0x500210)
      (readImage n (rd64 s 0x500208) [] (cleared k (gone v s))) = x at hok
    cases x with
    | ok w => exact loadStatus_loadedAs hc hk (hok w rfl) rfl
    | error e =>
      obtain ⟨r, d⟩ := e
      obtain ⟨hctl, hload, himg, hreg, hmem, hst⟩ := loadStatus_readImage (v := v) hc hk (n := n) (src := rd64 s 0x500208) (r := r) (d := d) rfl
      refine ⟨hctl, hload, himg, fun a ha => (hreg hcsr).2 a fun h => ha ?_, hmem, hst⟩
      obtain (h | h | h) | h := h
      exacts [.inl h, .inr (.inl h), .inr (.inr (.inl h)), .inr (.inr (.inr h))]
  · refine ⟨_, exec_ldrUnload v s, ?_⟩
    rw [ldrUnload, if_neg (by simp [heng, hop, hgo]), if_neg (by simpa [ldrCtl, imp_iff_not_or] using hrun)]
    obtain ⟨hload, himg, hreg, hmem, hctl⟩ := unloadTask_ldrCtl (v := v) hc hk rfl
    exact ⟨hload, himg, (hreg hcsr).2, hmem, hctl⟩
  · refine ⟨_, exec_ldrUnload v s, ?_⟩
    rw [ldrUnload, if_neg (by simp [heng, hop, hgo]), if_pos (by simpa [ldrCtl] using hrun)]
    exact ⟨rfl, hwaits, (hwait hcsr).2, rfl, rfl, rfl⟩

end Sys2Proof.Machine
end

section
/-! SUPPORT. The state of stacks: reads after writes, and what errors noted, wakes, repairs and degradation leave alone (R221, R224–R229). -/

namespace Sys2Proof.Machine

variable {s t u : State} {p : Nat → Prop}

/-! ## One stack -/

theorem stk_setStk_same {n : Nat} {v : StackSt} (h : canonical s = true) : stk (setStk n v s) n = v :=
  sget_sset_same (stackSt_of_canonical h)

theorem stk_setStk_other {n m : Nat} {v : StackSt} (h : canonical s = true) (hm : m ≠ n) : stk (setStk n v s) m = stk s m :=
  sget_sset_other (stackSt_of_canonical h) hm

theorem stk_congr (h : t.stackSt = s.stackSt) (n : Nat) : stk t n = stk s n := by rw [stk, h, stk]

@[simp] theorem stk_wr (a : Nat) (v : Word) (s : State) (n : Nat) : stk (wr a v s) n = stk s n := rfl

@[simp] theorem stk_wrF (a lo w v : Nat) (s : State) (n : Nat) : stk (wrF a lo w v s) n = stk s n := rfl

theorem flash_of_canonical (h : canonical s = true) : swf erased s.flash = true := by
  simp only [canonical, memoriesCanonical, Bool.and_eq_true] at h
  simp only [h]

/-- Registers of two stacks, or two of one, have addresses of their own. -/
theorem stkReg_ne {n m i j : Nat} (hi : i < 0x4000) (hj : j < 0x4000) (h : i ≠ j) : stkReg n i ≠ stkReg m j := by
  simp only [stkReg]
  omega

theorem memoriesStay_of_offRegs (h : offRegs t = offRegs s) : memoriesStay s t :=
  ⟨(congrArg State.tarn h :), (congrArg State.mere h :), (congrArg State.flash h :)⟩

/-- A counter that has not changed yet shows its growth. -/
theorem counts_bump {a n : Nat} (hs : swf resetWord t.csr = true) (h : rd t a = rd s a) : counts s (bump a n t) a n := by
  rw [counts, rd_bump_same hs, h]

@[simp] theorem wakeStack_stackSt (n : Nat) (s : State) : (wakeStack n s).stackSt = s.stackSt := by
  rw [wakeStack]
  split <;> rfl

@[simp] theorem raise_stackSt (source cause detail : Nat) (s : State) : (raise source cause detail s).stackSt = s.stackSt :=
  raise_keeps (·.stackSt) (fun _ _ => rfl) ..

@[simp] theorem offRegs_setStk (n : Nat) (v : StackSt) (s : State) : offRegs (setStk n v s) = offRegs s := rfl

@[simp] theorem offRegs_setBit (a i : Nat) (s : State) : offRegs (setBit a i s) = offRegs s := rfl

/-! ## Degradation (R229) -/

@[simp] theorem offRegs_degrade (n : Nat) (s : State) : offRegs (degrade n s) = offRegs s := by simp [degrade]

@[simp] theorem degrade_stackSt (n : Nat) (s : State) : (degrade n s).stackSt = s.stackSt := by simp [degrade, setBit, wrF]

/-- The words in which a stack's degradation shows. -/
def degradeWord (n a : Nat) : Prop := a = stkReg n 0 ∨ a = 0x20044

theorem degrade_csr (n : Nat) (s : State) : (degrade n s).csr = (setBit 0x20044 2 (setBit (stkReg n 0) 2 s)).csr := raise_csr ..

theorem regsWithin_degrade (n : Nat) (s : State) : regsWithin (degradeWord n) s (degrade n s) :=
  .trans ((regsWithin_wr (.inl rfl)).trans (regsWithin_wr (.inr rfl))) (.of_csr (degrade_csr n s))

theorem checkBank_cases (n bank : Nat) (old : StackSt) (s : State) : checkBank n bank old s = degrade n s ∨ checkBank n bank old s = s := by
  simp only [checkBank]
  split
  · exact .inl rfl
  · exact .inr rfl

@[simp] theorem checkBank_stackSt (n bank : Nat) (old : StackSt) (s : State) : (checkBank n bank old s).stackSt = s.stackSt := by
  obtain h | h := checkBank_cases n bank old s <;> rw [h]
  exact degrade_stackSt n s

theorem regsWithin_checkBank (n bank : Nat) (old : StackSt) (s : State) : regsWithin (degradeWord n) s (checkBank n bank old s) := by
  obtain h | h := checkBank_cases n bank old s <;> rw [h]
  · exact regsWithin_degrade n s
  · exact .of_csr rfl

/-! ## Entries of the remap table (R227, R228) -/

/-- Entries that a stack has in the remap table. -/
def StackSt.entries (x : StackSt) : Nat := x.remaps.length + if x.spared.isSome then 1 else 0

theorem remapEntries_eq (s : State) : remapEntries s = (s.stackSt.map fun x => x.2.entries).sum := rfl

/-- A sum over a store of what is 0 where nothing is listed stays while the key written keeps its share. -/
theorem sum_map_sset {α : Type} [DecidableEq α] {d : Nat → α} {f : α → Nat} (hf : ∀ k, f (d k) = 0) {k : Nat} {v : α}
    {l : List (Nat × α)} (h : f v = f (sget d k l)) : ((sset d k v l).map fun x => f x.2).sum = (l.map fun x => f x.2).sum := by
  have hd : v = d k → f v = 0 := fun e => e ▸ hf k
  induction l with
  | nil =>
    have hv : f v = 0 := h.trans (hf k)
    rw [sset]
    split <;> simp [hv]
  | cons e r ih =>
    obtain ⟨j, w⟩ := e
    rw [sget] at h
    rw [sset]
    split_ifs at h ⊢ with hj hv hlt hv'
    · simp [← h, hd hv]
    · simp [h]
    · rfl
    · simp [h.trans (hf k)]
    · simp [ih h]

/-- Writing a stack's state keeps the number of entries while it keeps the stack's own. -/
theorem remapEntries_setStk {n : Nat} {v : StackSt} (h : v.entries = (stk s n).entries) :
    remapEntries (setStk n v s) = remapEntries s :=
  sum_map_sset (d := fun _ => ({} : StackSt)) (f := StackSt.entries) (l := s.stackSt) (fun _ => rfl) h

theorem remapEntries_congr (h : t.stackSt = s.stackSt) : remapEntries t = remapEntries s := by rw [remapEntries, h, remapEntries]

/-! ## Errors noted (R224–R226) -/

/-- A stack but for its tables of errors. -/
def StackSt.offErrors (x : StackSt) : StackSt := { x with rowErr := [], ueRows := [] }

theorem StackSt.entries_of_offErrors {x y : StackSt} (h : x.offErrors = y.offErrors) : x.entries = y.entries := by
  have hr : x.remaps = y.remaps := (congrArg StackSt.remaps h :)
  have hs : x.spared = y.spared := (congrArg StackSt.spared h :)
  rw [StackSt.entries, StackSt.entries, hr, hs]

/-- The words in which errors are counted and a stack's degradation shows. -/
def noteWord (a : Nat) : Prop := (∃ n, a = stkReg n 0x10 ∨ a = stkReg n 0x14 ∨ a = stkReg n 0) ∨ a = 0x20044

theorem noteWord_of_degradeWord {n a : Nat} (h : degradeWord n a) : noteWord a := h.imp (fun h => ⟨n, .inr (.inr h)⟩) id

/-- From s to t errors of Mere units have been noted: the tables of errors and what counts and asserts them have changed, and no more. -/
structure Noted (s t : State) : Prop where
  canon : canonical s = true → canonical t = true
  off : offRegs t = offRegs s
  regs : regsWithin noteWord s t
  repairs : canonical s = true → ∀ n, (stk t n).offErrors = (stk s n).offErrors
  remaps : remapEntries t = remapEntries s

theorem Noted.refl (s : State) : Noted s s := ⟨id, rfl, .of_csr rfl, fun _ _ => rfl, rfl⟩

theorem Noted.trans (h : Noted s t) (h' : Noted t u) : Noted s u :=
  ⟨h'.canon ∘ h.canon, h'.off.trans h.off, h.regs.trans h'.regs,
    fun hc n => (h'.repairs (h.canon hc) n).trans (h.repairs hc n), h'.remaps.trans h.remaps⟩

/-- A stack's tables of errors change. -/
theorem noted_setStk {n : Nat} {v : StackSt} (hv : v.offErrors = (stk s n).offErrors) : Noted s (setStk n v s) where
  canon hc := canonical_setStk hc
  off := rfl
  regs := .of_csr rfl
  repairs hc m := by
    by_cases hm : m = n
    · rw [hm, stk_setStk_same hc, hv]
    · rw [stk_setStk_other hc hm]
  remaps := remapEntries_setStk (StackSt.entries_of_offErrors hv)

theorem noted_bump {a n : Nat} (ha : noteWord a) (s : State) : Noted s (bump a n s) :=
  ⟨fun hc => canonical_bump hc, rfl, regsWithin_bump ha, fun _ _ => rfl, rfl⟩

theorem noted_raise (source cause detail : Nat) (s : State) : Noted s (raise source cause detail s) :=
  ⟨fun hc => canonical_raise hc, offRegs_raise .., .of_csr (raise_csr ..), fun _ _ => by rw [stk_congr (raise_stackSt ..)],
    remapEntries_congr (raise_stackSt ..)⟩

theorem noted_checkBank (n bank : Nat) (old : StackSt) (s : State) : Noted s (checkBank n bank old s) :=
  ⟨fun hc => canonical_checkBank hc, offRegs_checkBank .., (regsWithin_checkBank n bank old s).mono fun _ => noteWord_of_degradeWord,
    fun _ _ => by rw [stk_congr (checkBank_stackSt ..)], remapEntries_congr (checkBank_stackSt ..)⟩

theorem noted_corrected (a : Nat) (s : State) : Noted s (corrected a s) := by
  have hset : ∀ l, Noted s (setStk (stackNo a) { stk s (stackNo a) with rowErr := l } (bump (stkReg (stackNo a) 0x10) 1 s)) := fun l =>
    .trans (noted_bump (.inl ⟨_, .inl rfl⟩) s) (noted_setStk rfl)
  simp only [corrected]
  split
  · exact (hset _).trans (noted_raise ..)
  · exact hset _

theorem noted_noteUe (a : Nat) (s : State) : Noted s (noteUe a s) := by
  have hset : ∀ l r, Noted s (setStk (stackNo a) { stk s (stackNo a) with rowErr := l, ueRows := r } s) := fun l r => noted_setStk rfl
  simp only [noteUe]
  exact (hset _ _).trans (noted_checkBank ..)

theorem noted_uncorrectable (a : Nat) (s : State) : Noted s (uncorrectable a s) :=
  .trans (.trans (noted_bump (.inl ⟨_, .inr (.inl rfl)⟩) s) (noted_noteUe ..)) (noted_raise ..)

theorem noted_eccNote (e : Ecc) (a : Nat) (s : State) : Noted s (eccNote e a s) := by
  cases e
  exacts [.refl s, noted_corrected .., noted_uncorrectable ..]

theorem noted_noteUnits (m : EccMap) (us : List Nat) (s : State) : Noted s (noteUnits m us s) := by
  rw [noteUnits]
  induction us generalizing s with
  | nil => exact .refl s
  | cons u r ih => exact (noted_eccNote ..).trans (ih _)

end Sys2Proof.Machine
end

section
/-! MERE. The stacks' commands (R215, R219–R222, R225–R229, R491): port windows, refresh and scrub, self-refresh, and repair. -/

namespace Sys2Proof.Machine

variable {s t u : State} {p : Nat → Prop}

theorem exec_stackPortWindow (n : StackId) (dv dl m : Nat) (s : State) :
    exec (.stackPortWindow n dv dl m) s = .next (stackPortWindow n.val dv dl m s) := rfl
theorem exec_bankRefresh (n : StackId) (b : Fin 512) (l : List Nat) (e : UnitErr) (s : State) :
    exec (.bankRefresh n b l e) s = .next (bankRefresh n.val b.val l e s) := rfl
theorem exec_rowerrTableClear (s : State) : exec .rowerrTableClear s = .next (rowerrTableClear s) := rfl
theorem exec_selfrefEnter (n : StackId) (s : State) : exec (.selfrefEnter n) s = .next (selfrefEnter n.val s) := rfl
theorem exec_stackWake (n : StackId) (s : State) : exec (.stackWake n) s = .next (stackWake n.val s) := rfl
theorem exec_remapRow (n : StackId) (b : Fin 512) (row : Nat) (m : EccMap) (s : State) :
    exec (.remapRow n b row m) s = .next (remapRow n.val b.val row m s) := rfl
theorem exec_spareBank (n : StackId) (b : Fin 512) (s : State) : exec (.spareBank n b) s = .next (spareBank n.val b.val s) := rfl
theorem exec_bankChangeover (n : StackId) (s : State) : exec (.bankChangeover n) s = .next (bankChangeover n.val s) := rfl

/-! ## Port windows (R215, R228) -/

/-- A stack whose bank copy has taken 8 units on. -/
def StackSt.copied (x : StackSt) : StackSt := { x with copyLeft := x.copyLeft - 8 }

/-- A bank copy moves on by one window. -/
theorem copyWindow_of_runs {n : Nat} (h : copyRuns (stk s n) = true) : copyWindow n s =
    if (stk s n).copyLeft ≤ 8 then
      wrF (stkReg n 0x30) 31 1 0 (wrF (stkReg n 0) 1 1 0 (setStk n (stk s n).copied s))
    else setStk n (stk s n).copied s := by
  simp only [copyWindow, h, StackSt.copied]
  rfl

theorem copyWindow_of_idle {n : Nat} (h : copyRuns (stk s n) = false) : copyWindow n s = s := by
  simp [copyWindow, h]

/-- The words in which a bank copy shows. -/
def copyWord (n a : Nat) : Prop := a = stkReg n 0 ∨ a = stkReg n 0x30

/-- A window leaves of its stack all but the units still to copy. -/
theorem copyWindow_keeps (n : Nat) (hs : canonical s = true) :
    offRegs (copyWindow n s) = offRegs s ∧ regsWithin (copyWord n) s (copyWindow n s) ∧
      (stk (copyWindow n s) n).carryV = (stk s n).carryV ∧ (stk (copyWindow n s) n).carryL = (stk s n).carryL := by
  cases h : copyRuns (stk s n) with
  | false =>
    rw [copyWindow_of_idle h]
    exact ⟨rfl, .of_csr rfl, rfl, rfl⟩
  | true =>
    have hset : ∀ v : StackSt, regsWithin (copyWord n) s (setStk n v s) := fun v => .of_csr rfl
    have hstk : stk (setStk n (stk s n).copied s) n = (stk s n).copied := stk_setStk_same hs
    rw [copyWindow_of_runs h]
    split
    · refine ⟨rfl, (hset _).trans ((regsWithin_wr (.inl rfl)).trans (regsWithin_wr (.inr rfl))), ?_, ?_⟩ <;>
        rw [stk_wrF, stk_wrF, hstk, StackSt.copied]
    · exact ⟨rfl, hset _, by rw [hstk, StackSt.copied], by rw [hstk, StackSt.copied]⟩

/-- With the copy's last units SPARING and GO return to 0. -/
theorem copyWindow_ends {n : Nat} (hs : canonical s = true) (h : copyRuns (stk s n) = true) :
    (stk (copyWindow n s) n).copyLeft = (stk s n).copyLeft - 8 ∧
      ((stk s n).copyLeft ≤ 8 → bitOf (rd (copyWindow n s) (stkReg n 0)) 1 = false ∧
        bitOf (rd (copyWindow n s) (stkReg n 0x30)) 31 = false) := by
  have hset : canonical (setStk n (stk s n).copied s) = true := canonical_setStk hs
  have hstk : stk (setStk n (stk s n).copied s) n = (stk s n).copied := stk_setStk_same hs
  obtain ⟨u, hu⟩ : ∃ u, u = setStk n (stk s n).copied s := ⟨_, rfl⟩
  rw [copyWindow_of_runs h, ← hu]
  rw [← hu] at hstk hset
  split
  · refine ⟨by rw [stk_wrF, stk_wrF, hstk, StackSt.copied], fun _ => ⟨?_, ?_⟩⟩
    · rw [wrF, rd_wr_other (csr_of_canonical (canonical_wrF hset)) (stkReg_ne (by decide) (by decide) (by decide))]
      exact bitOf_rd_wrF (csr_of_canonical hset) (by decide) (by decide)
    · exact bitOf_rd_wrF (csr_of_canonical (canonical_wrF hset)) (by decide) (by decide)
  · next hle => exact ⟨by rw [hstk, StackSt.copied], fun h8 => absurd h8 hle⟩

/-- Vertical units that a window grants: at least the port's minimum, and more while Loess leaves room (R215). -/
def grantsV (cap least v l : Nat) : Nat := min v (min 125 (max least (cap - l)))

/-- Loess units that it grants: what is left. -/
def grantsL (cap least v l : Nat) : Nat := min l (cap - grantsV cap least v l)

/-- What a window grants is counted, and the rest is kept. -/
def granted (n gv gl m : Nat) (st : StackSt) (s : State) : State :=
  bump (stkReg n 0x20) (min m gv) (bump (stkReg n 0x2C) gl (bump (stkReg n 0x28) gv (setStk n st s)))

theorem stackPortWindow_eq {n dv dl m : Nat} (hp : powered s = true) :
    let v := (stk s n).carryV + dv
    let l := (stk s n).carryL + dl
    let cap := if copyRuns (stk s n) then 242 else 250
    let least := fld (cfg s (stkReg n 8)) 0 7
    let gv := grantsV cap least v l
    let gl := grantsL cap least v l
    stackPortWindow n dv dl m s = copyWindow n (granted n gv gl m { stk s n with carryV := v - gv, carryL := l - gl } s) := by
  intro v l cap least gv gl
  rw [stackPortWindow, if_neg (by simp [hp])]
  rfl

theorem counts_granted {n gv gl m : Nat} (st : StackSt) (hs : canonical s = true) (ht : t = granted n gv gl m st s) :
    counts s t (stkReg n 0x28) gv ∧ counts s t (stkReg n 0x2C) gl ∧ counts s t (stkReg n 0x20) (min m gv) := by
  have h0 : swf resetWord (setStk n st s).csr = true := csr_of_canonical (canonical_setStk hs)
  have h1 := swf_csr_bump (a := stkReg n 0x28) (n := gv) h0
  have h2 := swf_csr_bump (a := stkReg n 0x2C) (n := gl) h1
  have hne : ∀ {i j}, i < 0x4000 → j < 0x4000 → i ≠ j → stkReg n i ≠ stkReg n j := fun hi hj => stkReg_ne hi hj
  rw [ht, granted]
  refine ⟨?_, ?_, ?_⟩
  · rw [counts, rd_bump_other h2 (hne (by decide) (by decide) (by decide)), rd_bump_other h1 (hne (by decide) (by decide) (by decide))]
    exact counts_bump h0 rfl
  · rw [counts, rd_bump_other h2 (hne (by decide) (by decide) (by decide))]
    exact counts_bump h1 (rd_bump_other h0 (hne (by decide) (by decide) (by decide)))
  · refine counts_bump h2 ?_
    rw [rd_bump_other h1 (hne (by decide) (by decide) (by decide)), rd_bump_other h0 (hne (by decide) (by decide) (by decide))]
    rfl

/-- The clause of STACK_PORT_WINDOW. -/
theorem stackPortWindow_serves {n : StackId} {dv dl m : Nat} (hs : canonical s = true) (hp : powered s = true) :
    let st := stk s n.val
    let r := stkReg n.val
    let v := st.carryV + dv
    let l := st.carryL + dl
    let cap := if copyRuns st then 242 else 250
    ∃ (gv gl : Nat) (t : State), exec (.stackPortWindow n dv dl m) s = .next t ∧ gv ≤ v ∧ gv ≤ 125 ∧ gl ≤ l ∧ gv + gl ≤ cap
      ∧ (v ≤ 125 → v + l ≤ cap → gv = v ∧ gl = l) ∧ (v ≤ fld (cfg s (r 8)) 0 7 → v ≤ 125 → gv = v)
      ∧ (stk t n.val).carryV = v - gv ∧ (stk t n.val).carryL = l - gl
      ∧ counts s t (r 0x28) gv ∧ counts s t (r 0x2C) gl ∧ counts s t (r 0x20) (min m gv)
      ∧ (copyRuns st = true → (stk t n.val).copyLeft = st.copyLeft - 8
          ∧ (st.copyLeft ≤ 8 → bitOf (rd t (r 0)) 1 = false ∧ bitOf (rd t (r 0x30)) 31 = false)) ∧ memoriesStay s t := by
  intro st r v l cap
  have hcap : 125 ≤ cap := by
    simp only [cap]
    split <;> decide
  obtain ⟨gv, hgv⟩ : ∃ gv, gv = grantsV cap (fld (cfg s (r 8)) 0 7) v l := ⟨_, rfl⟩
  obtain ⟨gl, hgl⟩ : ∃ gl, gl = grantsL cap (fld (cfg s (r 8)) 0 7) v l := ⟨_, rfl⟩
  obtain ⟨g, hg⟩ : ∃ g, g = granted n.val gv gl m { st with carryV := v - gv, carryL := l - gl } s := ⟨_, rfl⟩
  have hwin : exec (.stackPortWindow n dv dl m) s = .next (copyWindow n.val g) := by
    rw [exec_stackPortWindow, stackPortWindow_eq hp, hg, hgv, hgl]
  have hgc : canonical g = true := hg ▸ canonical_bump (canonical_bump (canonical_bump (canonical_setStk hs)))
  have hgs : stk g n.val = { st with carryV := v - gv, carryL := l - gl } := by
    rw [hg]
    exact stk_setStk_same hs
  have hruns : copyRuns (stk g n.val) = copyRuns st := by rw [hgs, copyRuns, copyRuns]
  obtain ⟨hoff, hreg, hcv, hcl⟩ := copyWindow_keeps n.val hgc
  obtain ⟨hc28, hc2C, hc20⟩ := counts_granted _ hs hg
  have hstay := (hreg (csr_of_canonical hgc)).2
  have hne : ∀ off, off < 0x4000 → off ≠ 0 → off ≠ 0x30 → ¬ copyWord n.val (stkReg n.val off) := fun off hlt h0 h30 h =>
    h.elim (stkReg_ne hlt (by decide) h0) (stkReg_ne hlt (by decide) h30)
  have hbound : gv ≤ v ∧ gv ≤ 125 ∧ gl ≤ l ∧ gv + gl ≤ cap ∧ (v ≤ 125 → v + l ≤ cap → gv = v ∧ gl = l) ∧
      (v ≤ fld (cfg s (r 8)) 0 7 → v ≤ 125 → gv = v) := by
    rw [grantsL, ← hgv] at hgl
    rw [grantsV] at hgv
    omega
  obtain ⟨h1, h2, h3, h4, h5, h6⟩ := hbound
  refine ⟨gv, gl, _, hwin, h1, h2, h3, h4, h5, h6, by rw [hcv, hgs], by rw [hcl, hgs],
    counts_after (hne _ (by decide) (by decide) (by decide)) hstay hc28, counts_after (hne _ (by decide) (by decide) (by decide)) hstay hc2C,
    counts_after (hne _ (by decide) (by decide) (by decide)) hstay hc20, fun hrun => ?_, memoriesStay_of_offRegs ?_⟩
  · have hend := copyWindow_ends hgc (hruns.trans hrun)
    rwa [hgs] at hend
  · rw [hoff, hg]
    rfl

/-! ## Refresh and scrub (R218–R220, R226) -/

theorem stackNo_bankUnit {n b : Nat} (hb : b < 512) (u : Nat) : stackNo (bankUnit n b u) = n := by
  simp only [stackNo, bankUnit]
  omega

theorem corrected_csr (a : Nat) (s : State) : (corrected a s).csr = (bump (stkReg (stackNo a) 0x10) 1 s).csr := by
  simp only [corrected]
  split
  · rw [raise_csr]
    rfl
  · rfl

/-- A unit corrected is counted; one beyond correction is counted and asserted. -/
theorem counts_eccNote {n a : Nat} (hs : canonical s = true) (ha : stackNo a = n) :
    counts s (eccNote .corrected a s) (stkReg n 0x10) 1 ∧
      counts s (eccNote .uncorrectable a s) (stkReg n 0x14) 1 ∧ asserts (eccNote .uncorrectable a s) (srcOf 1 n 0) 0x17 := by
  subst ha
  refine ⟨counts_congr rfl (corrected_csr a s) (counts_bump (csr_of_canonical hs) rfl), ?_, asserts_raise _ _ _⟩
  have hbump : counts s (bump (stkReg (stackNo a) 0x14) 1 s) (stkReg (stackNo a) 0x14) 1 := counts_bump (csr_of_canonical hs) rfl
  have hnote : regsWithin (degradeWord (stackNo a)) (bump (stkReg (stackNo a) 0x14) 1 s)
      (eccNote .uncorrectable a s) := by
    have hset : ∀ v, regsWithin (degradeWord (stackNo a)) (bump (stkReg (stackNo a) 0x14) 1 s)
        (setStk (stackNo a) v (bump (stkReg (stackNo a) 0x14) 1 s)) := fun v => .of_csr rfl
    refine .trans ?_ (.of_csr (raise_csr ..))
    simp only [noteUe]
    exact (hset _).trans (regsWithin_checkBank _ _ _ _)
  refine counts_after ?_ (hnote (csr_of_canonical (canonical_bump hs))).2 hbump
  simp only [degradeWord, stkReg]
  omega

/-- A counter's growth is a matter of what it showed before. -/
theorem counts_from {a n : Nat} (h : rd t a = rd s a) (hc : counts t u a n) : counts s u a n := by
  rwa [counts, ← h]

/-- A refresh has delayed accesses. -/
def delayed (n : Nat) (l : List Nat) (s : State) : State :=
  bump (stkReg n 0x1C) ((l.map fun d => min d 400).sum) (bump (stkReg n 0x18) l.length s)

/-- The scrub of a bank goes on to its next unit. -/
def StackSt.scrubbed (x : StackSt) (b : Nat) : StackSt :=
  { x with scrubAt := sset (fun _ => 0) b ((sget (fun _ => 0) b x.scrubAt + 1) % 2 ^ 20) x.scrubAt }

theorem StackSt.scrubAt_of_offErrors {x y : StackSt} (h : x.offErrors = y.offErrors) : x.scrubAt = y.scrubAt :=
  (congrArg StackSt.scrubAt h :)

theorem bankRefresh_eq {n b : Nat} {l : List Nat} {e : UnitErr} (hp : powered s = true) : bankRefresh n b l e s =
    if bitOf (cfg (delayed n l s) (stkReg n 4)) 1 then
      eccNote (eccOf e) (bankUnit n b (sget (fun _ => 0) b (stk s n).scrubAt)) (setStk n ((stk s n).scrubbed b) (delayed n l s))
    else delayed n l s := by
  rw [bankRefresh, if_neg (by simp [hp])]
  rfl

theorem offRegs_delayed (n : Nat) (l : List Nat) (s : State) : offRegs (delayed n l s) = offRegs s := rfl

theorem counts_delayed {n : Nat} {l : List Nat} (hs : canonical s = true) :
    counts s (delayed n l s) (stkReg n 0x18) l.length ∧
      counts s (delayed n l s) (stkReg n 0x1C) ((l.map fun d => min d 400).sum) := by
  have h1 : swf resetWord (bump (stkReg n 0x18) l.length s).csr = true := swf_csr_bump (csr_of_canonical hs)
  rw [delayed]
  constructor
  · rw [counts, rd_bump_other h1 (stkReg_ne (by decide) (by decide) (by decide))]
    exact counts_bump (csr_of_canonical hs) rfl
  · exact counts_bump h1 (rd_bump_other (csr_of_canonical hs) (stkReg_ne (by decide) (by decide) (by decide)))

/-- A register of a stack at another offset is none in which noted errors show. -/
theorem not_noteWord {n off : Nat} (hlt : off < 0x4000) (h : off ≠ 0 ∧ off ≠ 0x10 ∧ off ≠ 0x14) : ¬ noteWord (stkReg n off) := by
  obtain ⟨h0, h10, h14⟩ := h
  rintro (⟨m, h | h | h⟩ | h)
  · exact stkReg_ne hlt (by decide) h10 h
  · exact stkReg_ne hlt (by decide) h14 h
  · exact stkReg_ne hlt (by decide) h0 h
  · simp only [stkReg] at h
    omega

/-- The clause of BANK_REFRESH. -/
theorem bankRefresh_serves {n : StackId} {b : Fin 512} (l : List Nat) (e : UnitErr) (hs : canonical s = true) (hp : powered s = true) :
    let st := stk s n.val
    let r := stkReg n.val
    ∃ t, exec (.bankRefresh n b l e) s = .next t ∧ counts s t (r 0x18) l.length
      ∧ counts s t (r 0x1C) ((l.map fun d => min d 400).sum) ∧ memoriesStay s t
      ∧ (bitOf (cfg s (r 4)) 1 = false → t.stackSt = s.stackSt)
      ∧ (bitOf (cfg s (r 4)) 1 = true →
        (stk t n.val).scrubAt = sset (fun _ => 0) b.val ((sget (fun _ => 0) b.val st.scrubAt + 1) % 2 ^ 20) st.scrubAt
        ∧ (eccOf e = .corrected → counts s t (r 0x10) 1)
        ∧ (eccOf e = .uncorrectable → counts s t (r 0x14) 1 ∧ asserts t (srcOf 1 n.val 0) 0x17)) := by
  intro st r
  have hd : canonical (delayed n.val l s) = true := canonical_bump (canonical_bump hs)
  obtain ⟨h18, h1C⟩ := counts_delayed (n := n.val) (l := l) hs
  have hrd : ∀ off, off < 0x4000 → off ≠ 0x18 → off ≠ 0x1C → rd (delayed n.val l s) (r off) = rd s (r off) := fun off hlt h h' => by
    rw [delayed, rd_bump_other (swf_csr_bump (csr_of_canonical hs)) (stkReg_ne hlt (by decide) h'),
      rd_bump_other (csr_of_canonical hs) (stkReg_ne hlt (by decide) h)]
  have hcfg : cfg (delayed n.val l s) (r 4) = cfg s (r 4) := cfg_congr rfl rfl (hrd 4 (by decide) (by decide) (by decide))
  rw [exec_bankRefresh, bankRefresh_eq hp, hcfg]
  cases hscrub : bitOf (cfg s (r 4)) 1 with
  | false =>
    rw [if_neg Bool.false_ne_true]
    exact ⟨_, rfl, h18, h1C, ⟨rfl, rfl, rfl⟩, fun _ => rfl, nofun⟩
  | true =>
    rw [if_pos rfl]
    have hset : canonical (setStk n.val (st.scrubbed b.val) (delayed n.val l s)) = true := canonical_setStk hd
    have hset_rd : ∀ off, off < 0x4000 → off ≠ 0x18 → off ≠ 0x1C →
        rd (setStk n.val (st.scrubbed b.val) (delayed n.val l s)) (r off) = rd s (r off) := hrd
    have hnote := noted_eccNote (eccOf e) (bankUnit n.val b.val (sget (fun _ => 0) b.val st.scrubAt))
      (setStk n.val (st.scrubbed b.val) (delayed n.val l s))
    have hstay := (hnote.regs (csr_of_canonical hset)).2
    have hne : ∀ off, off < 0x4000 → off ≠ 0 ∧ off ≠ 0x10 ∧ off ≠ 0x14 → ¬ noteWord (r off) := fun off hlt h => not_noteWord hlt h
    have hstk : stk (setStk n.val (st.scrubbed b.val) (delayed n.val l s)) n.val = st.scrubbed b.val := stk_setStk_same hd
    have hscrubbed := hnote.repairs hset n.val
    rw [hstk] at hscrubbed
    obtain ⟨hcor, hunc, has⟩ := counts_eccNote hset (stackNo_bankUnit b.isLt (n := n.val) (sget (fun _ => 0) b.val st.scrubAt))
    refine ⟨_, rfl, counts_after (hne _ (by decide) (by decide)) hstay h18, counts_after (hne _ (by decide) (by decide)) hstay h1C,
      memoriesStay_of_offRegs (hnote.off.trans (offRegs_delayed n.val l s)), nofun,
      fun _ => ⟨StackSt.scrubAt_of_offErrors hscrubbed, fun he => ?_, fun he => ?_⟩⟩
    · rw [he]
      exact counts_from (hset_rd _ (by decide) (by decide) (by decide)) hcor
    · rw [he]
      exact ⟨counts_from (hset_rd _ (by decide) (by decide) (by decide)) hunc, has⟩

/-! ## The row-error table and self-refresh (R221, R225) -/

/-- A stack with an empty row-error table. -/
def StackSt.rowsClear (x : StackSt) : StackSt := { x with rowErr := [] }

theorem stk_iter_rowsClear (k : Nat) (hs : canonical s = true) (m : Nat) :
    stk (iter k (fun n s => setStk n (stk s n).rowsClear s) s) m = if m < k then (stk s m).rowsClear else stk s m := by
  induction k with
  | zero => rfl
  | succ k ih =>
    have hc : canonical (iter k (fun n s => setStk n (stk s n).rowsClear s) s) = true := canonical_iter (fun _ _ h => canonical_setStk h) hs
    rw [iter_succ]
    obtain hlt | rfl | hlt := Nat.lt_trichotomy m k
    · rw [stk_setStk_other hc (by omega), ih, if_pos hlt, if_pos (by omega)]
    · rw [stk_setStk_same hc, ih, if_neg (by omega), if_pos (by omega)]
    · rw [stk_setStk_other hc (by omega), ih, if_neg (by omega), if_neg (by omega)]

theorem rowerrTableClear_serves (hs : canonical s = true) :
    ∃ t, exec .rowerrTableClear s = .next t ∧ (∀ m : StackId, stk t m.val = { stk s m.val with rowErr := [] })
      ∧ t.csr = s.csr ∧ memoriesStay s t := by
  have hclear : rowerrTableClear s = iter 24 (fun n s => setStk n (stk s n).rowsClear s) s := by
    simp only [rowerrTableClear, StackSt.rowsClear]
  have hcsr : (iter 24 (fun n s => setStk n (stk s n).rowsClear s) s).csr = s.csr :=
    iter_keeps (·.csr) (fun n s => setStk_csr s n _) 24 s
  have hoff : offRegs (iter 24 (fun n s => setStk n (stk s n).rowsClear s) s) = offRegs s :=
    iter_keeps offRegs (fun n s => offRegs_setStk n _ s) 24 s
  rw [exec_rowerrTableClear, hclear]
  refine ⟨_, rfl, fun m => ?_, hcsr, memoriesStay_of_offRegs hoff⟩
  rw [stk_iter_rowsClear 24 hs m.val, if_pos m.isLt, StackSt.rowsClear]

theorem selfrefEnter_serves (n : StackId) (hs : canonical s = true) (hp : powered s = true) (hrun : s.ssq.run = false) :
    ∃ t, exec (.selfrefEnter n) s = .next t ∧ bitOf (rd t (stkReg n.val 4)) 0 = true
      ∧ registersStay s t (fun a => a = stkReg n.val 4) ∧ t.stackSt = s.stackSt ∧ memoriesStay s t := by
  have henter : selfrefEnter n.val s = wrF (stkReg n.val 4) 0 1 1 s := by simp [selfrefEnter, hrun, hp]
  have hreg : regsWithin (· = stkReg n.val 4) s (wrF (stkReg n.val 4) 0 1 1 s) := regsWithin_wr rfl
  rw [exec_selfrefEnter, henter]
  exact ⟨_, rfl, bitOf_rd_wrF (csr_of_canonical hs) (by decide) (by decide), (hreg (csr_of_canonical hs)).2, rfl, rfl, rfl, rfl⟩

theorem selfrefEnter_of_running (n : StackId) (hrun : s.ssq.run = true) : exec (.selfrefEnter n) s = .next s := by
  rw [exec_selfrefEnter, selfrefEnter, if_pos (by simp [hrun])]

theorem stackWake_serves (n : StackId) (hs : canonical s = true) (hp : powered s = true) (hself : bitOf (rd s (stkReg n.val 4)) 0 = true) :
    ∃ t, exec (.stackWake n) s = .next t ∧ bitOf (rd t (stkReg n.val 4)) 0 = false
      ∧ counts s t (stkReg n.val 0x24) 1 ∧ t.stackSt = s.stackSt ∧ memoriesStay s t := by
  have hwake : stackWake n.val s = bump (stkReg n.val 0x24) 1 (wrF (stkReg n.val 4) 0 1 0 s) := by
    rw [stackWake, if_pos hp, wakeStack, if_pos ⟨n.isLt, hself⟩]
  have hne : stkReg n.val 4 ≠ stkReg n.val 0x24 := stkReg_ne (by decide) (by decide) (by decide)
  have hw : swf resetWord (wrF (stkReg n.val 4) 0 1 0 s).csr = true := swf_csr_wr (csr_of_canonical hs)
  rw [exec_stackWake, hwake]
  refine ⟨_, rfl, ?_, counts_bump hw (rd_wr_other (csr_of_canonical hs) hne.symm), rfl, rfl, rfl, rfl⟩
  rw [rd_bump_other hw hne]
  exact bitOf_rd_wrF (csr_of_canonical hs) (by decide) (by decide)

/-! ## Remapped rows (R227, R491) -/

/-- The bytes of an entry of the remap table. -/
def remapEntry (n bank row mode : Nat) : List Byte := leBytes 4 (n + bank * 2 ^ 5 + row * 2 ^ 14 + mode * 2 ^ 31)

theorem length_remapEntry (n bank row mode : Nat) : (remapEntry n bank row mode).length = 4 := length_leBytes ..

/-- The entry joins the table in flash, which changes in no other place, and nothing else does. -/
theorem flashRemap_writes {n bank row mode : Nat} (hs : canonical s = true) (ht : t = flashRemap n bank row mode s) :
    t.csr = s.csr ∧ t.stackSt = s.stackSt ∧ t.tarn = s.tarn ∧ t.mere = s.mere ∧
      (4 * remapEntries s < 2 ^ 20 → ∀ i, i < 4 →
        sget erased (0x010D0000 + 4 * remapEntries s + i) t.flash = (remapEntry n bank row mode).getD i 0) ∧
      ∀ a, a < 0x010D0000 ∨ 0x011D0000 ≤ a → sget erased a t.flash = sget erased a s.flash := by
  subst ht
  have hlen := length_remapEntry n bank row mode
  have hf := flash_of_canonical hs
  have hcases : flashRemap n bank row mode s = if 4 * remapEntries s < 2 ^ 20 then
      flashWrite (0x010D0000 + 4 * remapEntries s) (remapEntry n bank row mode) s else s := rfl
  rw [hcases]
  split
  · next hroom =>
    refine ⟨rfl, rfl, rfl, rfl, fun _ i hi => ?_, fun a ha => flashWrite_outside hf ?_⟩
    · rw [flashWrite_inside hf (hlen.symm ▸ hi), List.getD_eq_getElem _ _ (hlen.symm ▸ hi)]
    · rw [hlen]
      omega
  · next hfull => exact ⟨rfl, rfl, rfl, rfl, fun hroom => absurd hroom hfull, fun _ _ => rfl⟩

/-- The state but for the bytes of Mere and the free values that an undefined byte takes. -/
def offMere (s : State) : State := { s with mere := [], fresh := 0 }

theorem offMere_mereWrite (a : Nat) (l : List Byte) (s : State) : offMere (mereWrite a l s) = offMere s := rfl

theorem offMere_freeBytes (n : Nat) (s : State) : offMere (freeBytes n s).2 = offMere s := rfl

/-- The copy of a row notes errors and changes Mere only, and that only for units beyond correction. -/
theorem copyRow_copies (ecc : EccMap) (us : List Nat) (s : State) :
    offMere (copyRow ecc us s) = offMere (noteUnits ecc us s) ∧
      ((∀ u ∈ us, unitEcc ecc u ≠ .uncorrectable) → (copyRow ecc us s).mere = s.mere) := by
  constructor
  · refine foldl_keeps offMere (fun s u => ?_) us _
    split
    · rw [offMere_mereWrite, offMere_freeBytes]
    · rfl
  · intro hus
    have hcopy : copyRow ecc us s = noteUnits ecc us s := foldl_eq_self fun u hu => if_neg (hus u hu)
    rw [hcopy]
    exact (congrArg State.mere (noted_noteUnits ecc us s).off :)

/-- A row has been copied, and its entry has joined the table in flash. -/
def rowMoved (n bank row : Nat) (ecc : EccMap) (s : State) : State :=
  flashRemap n bank row 0 (copyRow ecc (rowUnits n bank row) (wakeStack n s))

/-- A stack with one more row remapped. -/
def StackSt.remapped (x : StackSt) (bank row : Nat) : StackSt := { x with remaps := x.remaps ++ [(bank, row)] }

theorem remapRow_eq {n bank row : Nat} {ecc : EccMap} (hrun : s.ssq.run = false) (hp : powered s = true)
    (hleft : sparesUsed (stk s n) bank < 64) (hu : u = rowMoved n bank row ecc s) : remapRow n bank row ecc s =
      checkBank n bank (stk u n) (wr (stkReg n 0x30) (Word.ofNat (rowDetail bank row))
        (wrF (stkReg n 0x34) 0 16 ((stk u n).remaps.length + 1) (setStk n ((stk u n).remapped bank row) u))) := by
  subst hu
  have hgo : (s.ssq.run || !powered s || decide (64 ≤ sparesUsed (stk s n) bank)) = false := by
    simp [hrun, hp, hleft]
  rw [remapRow, hgo, if_neg Bool.false_ne_true]
  rfl

/-- What moving a row leaves. -/
theorem rowMoved_moves {n bank row : Nat} {ecc : EccMap} (hs : canonical s = true) (hu : u = rowMoved n bank row ecc s) :
    canonical u = true ∧ u.tarn = s.tarn ∧ (stk u n).remaps = (stk s n).remaps ∧
      ((∀ x ∈ rowUnits n bank row, unitEcc ecc x ≠ .uncorrectable) → u.mere = s.mere) ∧
      (4 * remapEntries s < 2 ^ 20 → ∀ i, i < 4 →
        sget erased (0x010D0000 + 4 * remapEntries s + i) u.flash = (remapEntry n bank row 0).getD i 0) ∧
      ∀ a, a < 0x010D0000 ∨ 0x011D0000 ≤ a → sget erased a u.flash = sget erased a s.flash := by
  have hw : canonical (wakeStack n s) = true := canonical_wakeStack hs
  have hwoff := offRegs_wakeStack n s
  obtain ⟨hoff, hmere⟩ := copyRow_copies ecc (rowUnits n bank row) (wakeStack n s)
  have hnote := noted_noteUnits ecc (rowUnits n bank row) (wakeStack n s)
  have hc : canonical (copyRow ecc (rowUnits n bank row) (wakeStack n s)) = true := canonical_copyRow hw
  have hstack : (copyRow ecc (rowUnits n bank row) (wakeStack n s)).stackSt = (noteUnits ecc (rowUnits n bank row) (wakeStack n s)).stackSt :=
    (congrArg State.stackSt hoff :)
  have hentries : remapEntries (copyRow ecc (rowUnits n bank row) (wakeStack n s)) = remapEntries s :=
    (remapEntries_congr hstack).trans (hnote.remaps.trans (remapEntries_congr (wakeStack_stackSt n s)))
  obtain ⟨-, hst, htarn, hmere', hentry, hflash⟩ := flashRemap_writes hc hu
  rw [hentries] at hentry
  have hflash' : (copyRow ecc (rowUnits n bank row) (wakeStack n s)).flash = s.flash :=
    (congrArg State.flash hoff :).trans ((congrArg State.flash hnote.off :).trans (congrArg State.flash hwoff :))
  refine ⟨hu ▸ canonical_flashRemap hc, ?_, ?_, fun hclean => ?_, hentry, fun a ha => by rw [hflash a ha, hflash']⟩
  · exact htarn.trans ((congrArg State.tarn hoff :).trans ((congrArg State.tarn hnote.off :).trans (congrArg State.tarn hwoff :)))
  · rw [stk_congr (hst.trans hstack)]
    have hrep := hnote.repairs hw n
    rw [stk_congr (wakeStack_stackSt n s)] at hrep
    exact (congrArg StackSt.remaps hrep :)
  · exact hmere'.trans ((hmere hclean).trans (congrArg State.mere hwoff :))

/-- The clause of REMAP_ROW. -/
theorem remapRow_serves (n : StackId) (b : Fin 512) (row : Nat) (m : EccMap) (hs : canonical s = true) (hp : powered s = true)
    (hrun : s.ssq.run = false) (hleft : sparesUsed (stk s n.val) b.val < 64) :
    ∃ t, exec (.remapRow n b row m) s = .next t ∧ (stk t n.val).remaps = (stk s n.val).remaps ++ [(b.val, row)]
      ∧ rdF t (stkReg n.val 0x34) 0 16 = ((stk s n.val).remaps.length + 1) % 2 ^ 16 ∧ t.tarn = s.tarn
      ∧ ((∀ u ∈ rowUnits n.val b.val row, unitEcc m u ≠ .uncorrectable) → t.mere = s.mere)
      ∧ (4 * remapEntries s < 2 ^ 20 → ∀ i, i < 4 → sget erased (0x010D0000 + 4 * remapEntries s + i) t.flash =
          (leBytes 4 (n.val + b.val * 2 ^ 5 + row * 2 ^ 14)).getD i 0)
      ∧ ∀ a, a < 0x010D0000 ∨ 0x011D0000 ≤ a → sget erased a t.flash = sget erased a s.flash := by
  obtain ⟨u, hu⟩ : ∃ u, u = rowMoved n.val b.val row m s := ⟨_, rfl⟩
  obtain ⟨huc, htarn, hremaps, hmere, hentry, hflash⟩ := rowMoved_moves hs hu
  have hset : canonical (setStk n.val ((stk u n.val).remapped b.val row) u) = true := canonical_setStk huc
  obtain ⟨w, hw⟩ : ∃ w, w = wrF (stkReg n.val 0x34) 0 16 ((stk u n.val).remaps.length + 1)
    (setStk n.val ((stk u n.val).remapped b.val row) u) := ⟨_, rfl⟩
  have hwc : canonical w = true := hw ▸ canonical_wrF hset
  have hwoff : offRegs w = offRegs u := by rw [hw, offRegs_wrF, offRegs_setStk]
  have hwstk : stk w n.val = (stk u n.val).remapped b.val row := by
    rw [hw, stk_wrF]
    exact stk_setStk_same huc
  have hfin := offRegs_checkBank n.val b.val (stk u n.val) (wr (stkReg n.val 0x30) (Word.ofNat (rowDetail b.val row)) w)
  have hreg := ((regsWithin_wr (s := w) (v := Word.ofNat (rowDetail b.val row)) (p := fun a => a = stkReg n.val 0x30 ∨ degradeWord n.val a)
    (.inl rfl)).trans ((regsWithin_checkBank n.val b.val (stk u n.val) _).mono fun _ => .inr))
  rw [exec_remapRow, remapRow_eq hrun hp hleft hu, ← hw]
  obtain ⟨t, ht⟩ : ∃ t, t = checkBank n.val b.val (stk u n.val) (wr (stkReg n.val 0x30) (Word.ofNat (rowDetail b.val row)) w) := ⟨_, rfl⟩
  rw [← ht] at hfin hreg ⊢
  have hoff : offRegs t = offRegs u := hfin.trans hwoff
  have hmem := memoriesStay_of_offRegs hoff
  obtain ⟨ht1, ht2, ht3⟩ := hmem
  refine ⟨t, rfl, ?_, ?_, ht1.trans htarn, fun hclean => ht2.trans (hmere hclean), fun hroom i hi => ?_, fun a ha => ?_⟩
  · have hstk : stk t n.val = stk w n.val := by
      rw [ht, stk_congr (checkBank_stackSt ..), stk_wr]
    rw [hstk, hwstk, StackSt.remapped, hremaps]
  · have hkeep : rd t (stkReg n.val 0x34) = rd w (stkReg n.val 0x34) := by
      refine rd_of_regsWithin hreg (csr_of_canonical hwc) ?_
      rintro (h | h | h)
      · exact stkReg_ne (by decide) (by decide) (by decide) h
      · exact stkReg_ne (by decide) (by decide) (by decide) h
      · simp only [stkReg] at h
        omega
    rw [rdF, hkeep, ← rdF, hw, rdF_wrF_same (csr_of_canonical hset) (by decide), hremaps]
  · rw [ht3, hentry hroom i hi, remapEntry, Nat.zero_mul, Nat.add_zero]
  · rw [ht3, hflash a ha]

theorem remapRow_of_none_left (n : StackId) (b : Fin 512) (row : Nat) (m : EccMap)
    (h : s.ssq.run = true ∨ 64 ≤ sparesUsed (stk s n.val) b.val) : exec (.remapRow n b row m) s = .next s := by
  rw [exec_remapRow, remapRow, if_pos]
  obtain h | h := h <;> simp [h]

/-! ## The spare bank (R228, R229, R491) -/

/-- A stack is degraded once for each of a list. -/
def degrades (n : Nat) (l : List Nat) (s : State) : State := l.foldl (fun s _ => degrade n s) s

/-- DEGRADED stands in the stack's register and in the part's, and the fault is asserted; SPARING stays. -/
theorem degrade_shows {n : Nat} (hs : canonical s = true) :
    bitOf (rd (degrade n s) (stkReg n 0)) 2 = true ∧ bitOf (rd (degrade n s) 0x20044) 2 = true ∧
      asserts (degrade n s) (srcOf 1 n 3) 0x23 ∧ bitOf (rd (degrade n s) (stkReg n 0)) 1 = bitOf (rd s (stkReg n 0)) 1 := by
  have h1 : swf resetWord (setBit (stkReg n 0) 2 s).csr = true := csr_of_canonical (canonical_setBit hs)
  have hrd : ∀ a, rd (degrade n s) a = rd (setBit 0x20044 2 (setBit (stkReg n 0) 2 s)) a := fun a => by
    rw [rd, degrade_csr, rd]
  have hother : rd (setBit 0x20044 2 (setBit (stkReg n 0) 2 s)) (stkReg n 0) = rd (setBit (stkReg n 0) 2 s) (stkReg n 0) :=
    rd_wr_other h1 (by simp only [stkReg]; omega)
  refine ⟨?_, ?_, asserts_raise _ _ _, ?_⟩
  · rw [hrd, hother]
    exact bitOf_rd_wrF (csr_of_canonical hs) (by decide) (by decide)
  · rw [hrd]
    exact bitOf_rd_wrF h1 (by decide) (by decide)
  · rw [hrd, hother]
    exact bitOf_rd_wrF_other (csr_of_canonical hs) (by decide) (by decide)

theorem degrades_keeps (n : Nat) (l : List Nat) (s : State) :
    offRegs (degrades n l s) = offRegs s ∧ (degrades n l s).stackSt = s.stackSt ∧ regsWithin (degradeWord n) s (degrades n l s) :=
  ⟨foldl_keeps offRegs (fun s _ => offRegs_degrade n s) l s, foldl_keeps (·.stackSt) (fun s _ => degrade_stackSt n s) l s,
    regsWithin_foldl fun s _ _ => regsWithin_degrade n s⟩

theorem canonical_degrades {n : Nat} {l : List Nat} (hs : canonical s = true) : canonical (degrades n l s) = true :=
  canonical_foldl (fun _ _ h => canonical_degrade h) hs

theorem sparing_degrades {n : Nat} (l : List Nat) (hs : canonical s = true) :
    bitOf (rd (degrades n l s) (stkReg n 0)) 1 = bitOf (rd s (stkReg n 0)) 1 := by
  induction l generalizing s with
  | nil => rfl
  | cons x r ih =>
    obtain ⟨-, -, -, hkeep⟩ := degrade_shows (n := n) hs
    exact (ih (canonical_degrade hs)).trans hkeep

theorem degrades_shows {n x : Nat} {l : List Nat} (hx : x ∈ l) (hs : canonical s = true) :
    bitOf (rd (degrades n l s) (stkReg n 0)) 2 = true ∧ bitOf (rd (degrades n l s) 0x20044) 2 = true ∧
      asserts (degrades n l s) (srcOf 1 n 3) 0x23 := by
  obtain ⟨r, y, rfl⟩ := (List.eq_nil_or_concat' l).resolve_left (List.ne_nil_of_mem hx)
  have hlast : degrades n (r ++ [y]) s = degrade n (degrades n r s) := by
    rw [degrades, List.foldl_append, List.foldl_cons, List.foldl_nil, degrades]
  obtain ⟨h1, h2, h3, -⟩ := degrade_shows (n := n) (canonical_degrades (n := n) (l := r) hs)
  rw [hlast]
  exact ⟨h1, h2, h3⟩

/-- A stack whose copy of a bank begins. -/
def StackSt.copies (x : StackSt) (bank : Nat) : StackSt := { x with copying := some bank, copyLeft := 2 ^ 20 }

/-- The copy of a bank has begun. -/
def copyBegun (n bank : Nat) (s : State) : State :=
  wr (stkReg n 0x30) (Word.ofNat (bank + 2 ^ 26 + 2 ^ 31))
    (setBit (stkReg n 0) 1 (setStk n ((stk s n).copies bank) (wakeStack n s)))

theorem spareBank_eq {n bank : Nat} (hp : powered s = true) (hsp : (stk s n).spared = none) (hcp : (stk s n).copying = none) :
    spareBank n bank s =
      degrades n ((namedBanks (stk s n)).filter fun b => b != bank && qualifies (stk s n) b) (copyBegun n bank s) := by
  have hgo : (!powered s || (stk s n).spared.isSome || (stk s n).copying.isSome) = false := by
    rw [hp, hsp, hcp]
    rfl
  rw [spareBank, hgo, if_neg Bool.false_ne_true]
  rfl

/-- The clause of SPARE_BANK. -/
theorem spareBank_serves (n : StackId) (b : Fin 512) (hs : canonical s = true) (hp : powered s = true)
    (hsp : (stk s n.val).spared = none) (hcp : (stk s n.val).copying = none) :
    ∃ t, exec (.spareBank n b) s = .next t ∧ (stk t n.val).copying = some b.val ∧ copyRuns (stk t n.val) = true
      ∧ bitOf (rd t (stkReg n.val 0)) 1 = true ∧ rd t (stkReg n.val 0x30) = Word.ofNat (b.val + 2 ^ 26 + 2 ^ 31) ∧ memoriesStay s t
      ∧ ((∃ x ∈ namedBanks (stk s n.val), x ≠ b.val ∧ qualifies (stk s n.val) x = true) →
          bitOf (rd t (stkReg n.val 0)) 2 = true ∧ bitOf (rd t 0x20044) 2 = true ∧ asserts t (srcOf 1 n.val 3) 0x23) := by
  obtain ⟨l, hl⟩ : ∃ l, l = (namedBanks (stk s n.val)).filter fun x => x != b.val && qualifies (stk s n.val) x := ⟨_, rfl⟩
  have hw : canonical (wakeStack n.val s) = true := canonical_wakeStack hs
  have hset : canonical (setStk n.val ((stk s n.val).copies b.val) (wakeStack n.val s)) = true := canonical_setStk hw
  have hbit := csr_of_canonical (canonical_setBit (a := stkReg n.val 0) (i := 1) hset)
  obtain ⟨u, hu⟩ : ∃ u, u = copyBegun n.val b.val s := ⟨_, rfl⟩
  have huc : canonical u = true := hu ▸ canonical_wr (canonical_setBit hset)
  have huoff : offRegs u = offRegs s := by
    rw [hu, copyBegun, offRegs_wr, offRegs_setBit, offRegs_setStk, offRegs_wakeStack]
  have hustk : stk u n.val = (stk s n.val).copies b.val := by
    rw [hu, copyBegun, stk_wr, setBit, stk_wrF]
    exact stk_setStk_same hw
  have hu0 : bitOf (rd u (stkReg n.val 0)) 1 = true := by
    rw [hu, copyBegun, rd_wr_other hbit (stkReg_ne (by decide) (by decide) (by decide))]
    exact bitOf_rd_wrF (csr_of_canonical hset) (by decide) (by decide)
  have hu30 : rd u (stkReg n.val 0x30) = Word.ofNat (b.val + 2 ^ 26 + 2 ^ 31) := by
    rw [hu, copyBegun, rd_wr_same hbit]
  obtain ⟨hoff, hst, hreg⟩ := degrades_keeps n.val l u
  rw [exec_spareBank, spareBank_eq hp hsp hcp, ← hl, ← hu]
  refine ⟨_, rfl, ?_, ?_, ?_, ?_, memoriesStay_of_offRegs (hoff.trans huoff), ?_⟩
  · rw [stk_congr hst, hustk, StackSt.copies]
  · rw [stk_congr hst, hustk, StackSt.copies, copyRuns]
    rfl
  · rw [sparing_degrades l huc, hu0]
  · rw [rd_of_regsWithin hreg (csr_of_canonical huc), hu30]
    rintro (h | h)
    · exact stkReg_ne (by decide) (by decide) (by decide) h
    · simp only [stkReg] at h
      omega
  · rintro ⟨x, hx, hne, hq⟩
    exact degrades_shows (x := x) (hl ▸ List.mem_filter.mpr ⟨hx, by simp [hne, hq]⟩) huc

theorem spareBank_of_used (n : StackId) (b : Fin 512) (h : (stk s n.val).spared ≠ none ∨ (stk s n.val).copying ≠ none) :
    exec (.spareBank n b) s = .next s := by
  have hstop : (!powered s || (stk s n.val).spared.isSome || (stk s n.val).copying.isSome) = true := by
    rw [Option.ne_none_iff_isSome, Option.ne_none_iff_isSome] at h
    obtain h | h := h <;> simp [h]
  rw [exec_spareBank, spareBank, hstop, if_pos rfl]

/-- A stack whose spare bank serves a bank. -/
def StackSt.changed (x : StackSt) (bank : Nat) : StackSt :=
  { x with copying := none, spared := some bank, ueRows := x.ueRows.filter fun e => e.1 != bank }

/-- The clause of BANK_CHANGEOVER. -/
theorem bankChangeover_serves (n : StackId) (b : Fin 512) (hs : canonical s = true) (hp : powered s = true)
    (hcp : (stk s n.val).copying = some b.val) (hdone : (stk s n.val).copyLeft = 0) (hrun : s.ssq.run = false) :
    ∃ t, exec (.bankChangeover n) s = .next t ∧ (stk t n.val).copying = none ∧ (stk t n.val).spared = some b.val
      ∧ rdF t (stkReg n.val 0x34) 16 10 = b.val ∧ t.mere = s.mere ∧ t.tarn = s.tarn := by
  obtain ⟨u, hu⟩ : ∃ u, u = flashRemap n.val b.val 0 1 s := ⟨_, rfl⟩
  obtain ⟨-, -, htarn, hmere, -, -⟩ := flashRemap_writes hs hu
  have huc : canonical u = true := hu ▸ canonical_flashRemap hs
  have hset : canonical (setStk n.val ((stk u n.val).changed b.val) u) = true := canonical_setStk huc
  have hstk : stk (wrF (stkReg n.val 0x34) 16 10 b.val (setStk n.val ((stk u n.val).changed b.val) u)) n.val = (stk u n.val).changed b.val := by
    rw [stk_wrF]
    exact stk_setStk_same huc
  have hgo : (s.ssq.run || !powered s || (stk s n.val).copyLeft != 0) = false := by
    rw [hrun, hp, hdone]
    rfl
  have hexec : exec (.bankChangeover n) s =
      .next (wrF (stkReg n.val 0x34) 16 10 b.val (setStk n.val ((stk u n.val).changed b.val) u)) := by
    rw [exec_bankChangeover, bankChangeover, hcp]
    simp only [hgo, hu]
    rfl
  refine ⟨_, hexec, by rw [hstk, StackSt.changed], by rw [hstk, StackSt.changed], ?_, hmere, htarn⟩
  rw [rdF_wrF_same (csr_of_canonical hset) (by decide), Nat.mod_eq_of_lt (by omega)]

theorem bankChangeover_of_waiting (n : StackId) (h : s.ssq.run = true ∨ (stk s n.val).copyLeft ≠ 0) :
    exec (.bankChangeover n) s = .next s := by
  rw [exec_bankChangeover, bankChangeover]
  split
  · rfl
  · rw [if_pos]
    obtain h | h := h <;> simp [h]

/-- Settles O38, command by command: each changes its stack, its registers and what it asserts, and no memory but for a remapped row's
entry in flash and its units beyond correction. -/
theorem stacksServe : Obligations.StacksServe := by
  intro n b s hs hp st r
  exact ⟨fun _ _ _ => stackPortWindow_serves hs hp, fun l e => bankRefresh_serves l e hs hp, rowerrTableClear_serves hs,
    selfrefEnter_serves n hs hp, selfrefEnter_of_running n, stackWake_serves n hs hp,
    fun row m hrun hleft => remapRow_serves n b row m hs hp hrun hleft, fun row m h => remapRow_of_none_left n b row m h,
    fun hsp hcp => spareBank_serves n b hs hp hsp hcp, spareBank_of_used n b,
    fun hcp hdone hrun => bankChangeover_serves n b hs hp hcp hdone hrun, bankChangeover_of_waiting n⟩

end Sys2Proof.Machine
end

section
/-! LOESS. What the slot of LSE commands sends, and what an engine makes of a sub-command (R237, R240–R242, R246). -/

namespace Sys2Proof.Machine

variable {s t u : State} {c k op seq : Nat} {r : Run}

theorem exec_lseAttn (c : CoreId) (s : State) : exec (.lseAttn c) s = .next (inTurn (lseKey c.val) (lseAttn c.val) s) := rfl
theorem exec_lseMove (c : CoreId) (s : State) : exec (.lseMove c) s = .next (inTurn (lseKey c.val) (lseMove c.val) s) := rfl
theorem exec_subCommand (n : StackId) (ecc : EccMap) (s : State) : exec (.subCommand n ecc) s = .next (subCommand n.val ecc s) := rfl

theorem OnlyRuns.stackSt (h : OnlyRuns s t) : t.stackSt = s.stackSt := (congrArg State.stackSt h.off :)

theorem withSegs_of_ready {l : List Nat} (h : segsReady s c l) (f : State → State) : withSegs c l f s = f s := if_pos h

/-! ## Sub-commands go out (R237) -/

theorem onlyRuns_settleLse (c seq : Nat) (s : State) : OnlyRuns s (settleLse c seq s) := by
  rw [settleLse]
  split
  · exact .refl s
  · exact .ite ((onlyRuns_updRun ..).trans (onlyRuns_endIter ..)) (.refl s)

/-- Stacks and memories. -/
def stores (s : State) : Sparse StackSt × Sparse Byte × Sparse Byte := (s.stackSt, s.mere, s.tarn)

theorem OnlyRuns.stores (h : OnlyRuns s t) : Machine.stores t = Machine.stores s := by
  rw [Machine.stores, h.stackSt, h.mere, h.tarn, Machine.stores]

theorem stores_of_offLanding (h : offLanding t = offLanding s) : stores t = stores s := by
  have hst : t.stackSt = s.stackSt := (congrArg State.stackSt h :)
  rw [stores, hst, mere_of_offLanding h, tarn_of_offLanding h, stores]

theorem stores_meshCast (a : Nat) (ends : List MeshEnd) (n : Nat) (s : State) : stores (meshCast a ends n s) = stores s :=
  stores_of_offLanding (iter_keeps offLanding (fun _ s => offLanding_countFlits _ _ s) 12 s)

theorem stores_castQueries (c : Nat) (r : Run) (l : List Nat) (s : State) : stores (castQueries c r l s) = stores s := by
  simp only [castQueries]
  split
  · rfl
  · exact stores_meshCast ..

/-- A run sends its sub-command to a stack that has room. -/
def sendSub (c : Nat) (r : Run) (s : State) (st : Nat) : State :=
  if (stk s st).subs.length < 64 then
    updRun (lseKey c) r.q.seq (fun r => { r with unsent := r.unsent.erase st })
      (setStk st { stk s st with subs := (stk s st).subs ++ [subFor r st] } s)
  else s

theorem sendSubs_eq (c : Nat) (r : Run) (s : State) : sendSubs c r s = settleLse c r.q.seq
    (r.unsent.foldl (sendSub c r) (castQueries c r (r.unsent.filter fun st => decide ((stk s st).subs.length < 64)) s)) := rfl

theorem stk_sendSub {st : Nat} (hs : canonical s = true) (hroom : (stk s st).subs.length < 64) :
    (stk (sendSub c r s st) st).subs = (stk s st).subs ++ [subFor r st] ∧ ∀ n, n ≠ st → stk (sendSub c r s st) n = stk s n := by
  rw [sendSub, if_pos hroom]
  have hupd : ∀ (f : Run → Run) (w : State) (n : Nat), stk (updRun (lseKey c) r.q.seq f w) n = stk w n := fun _ _ _ => rfl
  refine ⟨?_, fun n hn => ?_⟩
  · rw [hupd, stk_setStk_same hs]
  · rw [hupd, stk_setStk_other hs hn]

theorem sendSub_keeps (st : Nat) (s : State) : (sendSub c r s st).mere = s.mere ∧ (sendSub c r s st).tarn = s.tarn := by
  rw [sendSub]
  split <;> exact ⟨rfl, rfl⟩

theorem canonical_sendSub {st : Nat} (hs : canonical s = true) : canonical (sendSub c r s st) = true :=
  canonical_ite (canonical_updRun (canonical_setStk hs)) hs

/-- Each stack of a list without repeats that has room gets one, behind those already there. -/
theorem subs_foldl_sendSub {l : List Nat} (hl : l.Nodup) (hs : canonical s = true) (hroom : ∀ st ∈ l, (stk s st).subs.length < 64)
    (n : Nat) : (stk (l.foldl (sendSub c r) s) n).subs = (stk s n).subs ++ if n ∈ l then [subFor r n] else [] := by
  induction l generalizing s with
  | nil => simp
  | cons st l ih =>
    obtain ⟨hst, hl'⟩ := List.nodup_cons.mp hl
    obtain ⟨hsame, hother⟩ := stk_sendSub (c := c) (r := r) hs (hroom st (by simp))
    have hroom' : ∀ x ∈ l, (stk (sendSub c r s st) x).subs.length < 64 := fun x hx => by
      rw [hother x fun e => hst (e ▸ hx)]
      exact hroom x (by simp [hx])
    rw [List.foldl_cons, ih hl' (canonical_sendSub hs) hroom']
    by_cases hn : n = st
    · subst hn
      simp [hsame, hst]
    · simp [hother n hn, hn]

/-- What sending leaves. -/
theorem sendSubs_sends (hs : canonical s = true) (hl : r.unsent.Nodup) (hroom : ∀ st ∈ r.unsent, (stk s st).subs.length < 64)
    (ht : t = sendSubs c r s) : t.mere = s.mere ∧ t.tarn = s.tarn ∧
      ∀ n, (stk t n).subs = (stk s n).subs ++ if n ∈ r.unsent then [subFor r n] else [] := by
  rw [sendSubs_eq] at ht
  obtain ⟨w, hw⟩ : ∃ w, w = castQueries c r (r.unsent.filter fun st => decide ((stk s st).subs.length < 64)) s := ⟨_, rfl⟩
  rw [← hw] at ht
  have hstores : stores w = stores s := hw ▸ stores_castQueries ..
  have hstk : ∀ n, stk w n = stk s n := stk_congr (congrArg Prod.fst hstores)
  have hwc : canonical w = true := hw ▸ canonical_castQueries hs
  have hlast : stores t = stores (r.unsent.foldl (sendSub c r) w) := ht ▸ (onlyRuns_settleLse ..).stores
  have hmere : t.mere = (r.unsent.foldl (sendSub c r) w).mere := congrArg (·.2.1) hlast
  have htarn : t.tarn = (r.unsent.foldl (sendSub c r) w).tarn := congrArg (·.2.2) hlast
  refine ⟨?_, ?_, fun n => ?_⟩
  · rw [hmere, foldl_keeps (·.mere) (fun s st => (sendSub_keeps st s).1)]
    exact congrArg (·.2.1) hstores
  · rw [htarn, foldl_keeps (·.tarn) (fun s st => (sendSub_keeps st s).2)]
    exact congrArg (·.2.2) hstores
  · rw [stk_congr (congrArg Prod.fst hlast), subs_foldl_sendSub hl hwc (fun st hst => hstk st ▸ hroom st hst), hstk]

/-! ## An iteration begins (R240, R241) -/

theorem nodup_lseNamed (q : QCmd) : (lseNamed q).Nodup := by
  rw [lseNamed]
  split
  · exact List.nodup_range.filter _
  · exact List.nodup_range

theorem lt_of_mem_lseNamed {q : QCmd} {n : Nat} (h : n ∈ lseNamed q) : n < 24 := by
  rw [lseNamed] at h
  split at h
  · exact List.mem_range.mp (List.mem_of_mem_filter h)
  · exact List.mem_range.mp h

/-- The run with every stack that it names still to be sent to. -/
def Run.toSend (r : Run) : Run := { r with unsent := lseNamed r.q }

theorem writePart_stackSt (c : Nat) (d : Desc) (row p : Nat) (v : List Word) (s : State) :
    (writePart c d row p v s).stackSt = s.stackSt := rfl

theorem writePart_mere (c : Nat) (d : Desc) (row p : Nat) (v : List Word) (s : State) : (writePart c d row p v s).mere = s.mere := rfl

/-- What goes before the sending changes no stack and no byte of Mere, and of Tarn only what an attention's empty partials take. -/
theorem beginLse_sends (he : r.empty = false) (hop : r.q.cmd.opcode = 0x10 ∨ r.q.cmd.opcode = 0x20) (hs : canonical s = true) :
    ∃ w, beginLse c r s = sendSubs c r.toSend w ∧ canonical w = true ∧ w.stackSt = s.stackSt ∧ w.mere = s.mere ∧
      (r.q.cmd.opcode = 0x20 → w.tarn = s.tarn) := by
  have hgo : (r.empty || r.q.cmd.opcode == 0) = false := by
    obtain h | h := hop <;> rw [he, h] <;> rfl
  have htake := (onlyRuns_takeWait (lseKey c) r s)
  have htakec := canonical_takeWait (k := lseKey c) (r := r) hs
  rw [beginLse, hgo, if_neg Bool.false_ne_true]
  extract_lets ops p b long s1 s2 s3
  have h1 : stores s1 = stores s ∧ canonical s1 = true := ⟨htake.stores, canonical_bump htakec⟩
  have h2 : canonical s2 = true ∧ s2.stackSt = s1.stackSt ∧ s2.mere = s1.mere ∧ (r.q.cmd.opcode = 0x20 → s2.tarn = s1.tarn) := by
    unfold s2
    split
    · next h =>
      refine ⟨canonical_foldl (fun _ _ h => canonical_iter (fun _ _ h => canonical_writePart h) h) h1.2,
        foldl_keeps (·.stackSt) (fun s _ => iter_keeps (·.stackSt) (fun _ s => writePart_stackSt ..) _ s) _ _,
        foldl_keeps (·.mere) (fun s _ => iter_keeps (·.mere) (fun _ s => writePart_mere ..) _ s) _ _, fun h20 => absurd h ?_⟩
      simp [h20]
    · exact ⟨h1.2, rfl, rfl, fun _ => rfl⟩
  obtain ⟨hc, hst, hmere, htarn⟩ := h2
  obtain ⟨hstores, -⟩ := h1
  exact ⟨s3, rfl, canonical_updRun hc, hst.trans (congrArg Prod.fst hstores), hmere.trans (congrArg (·.2.1) hstores),
    fun h20 => (htarn h20).trans (congrArg (·.2.2) hstores)⟩

/-- Which event goes on with a run whose iteration may begin. -/
theorem lseEvent_begins {prep : State → QCmd → Except Nat Prep} (heng : engines s = true) (hab : s.ssq.aborting = false)
    (hhead : headIs s (lseKey c) op = none)
    (hsent : (firstRun s (lseKey c) fun r => r.q.cmd.opcode == op && r.skipped == 0 && !r.unsent.isEmpty) = none)
    (hrun : (firstRun s (lseKey c) fun r => r.q.cmd.opcode == op && r.skipped == 0 && !r.open_ && iterReady s r) = some r) :
    lseEvent c op prep s = withSegs c (runSegs r r.it fun _ => true) (beginLse c r) s := by
  rw [lseEvent, if_neg (by simp [heng, hab])]
  simp only [hhead, hsent, hrun]

theorem opcode_of_firstRun {f : Run → Bool} (h : (firstRun s k fun r => r.q.cmd.opcode == op && f r) = some r) :
    r.q.cmd.opcode = op := by
  have hp := List.find?_some h
  simp only [Bool.and_eq_true, beq_iff_eq] at hp
  exact hp.2.1

/-- The clause of LSE.ATTN and LSE.MOVE. -/
theorem lse_sends (c : CoreId) (hs : canonical s = true) (heng : engines s = true) (hab : s.ssq.aborting = false)
    (hop : op = 0x10 ∨ op = 0x20) (hhead : headIs s (lseKey c.val) op = none) (hline : firstInLine s (lseKey c.val))
    (hsent : (firstRun s (lseKey c.val) fun r => r.q.cmd.opcode == op && r.skipped == 0 && !r.unsent.isEmpty) = none)
    (hrun : (firstRun s (lseKey c.val) fun r => r.q.cmd.opcode == op && r.skipped == 0 && !r.open_ && iterReady s r) = some r)
    (hsegs : segsReady s c.val (runSegs r r.it fun _ => true)) (he : r.empty = false)
    (hroom : ∀ n : StackId, (stk s n.val).subs.length < 64) :
    ∃ t, exec (if op = 0x10 then .lseAttn c else .lseMove c) s = .next t ∧ t.mere = s.mere
      ∧ (∀ n : StackId, (stk t n.val).subs = (stk s n.val).subs ++ if n.val ∈ lseNamed r.q then [subFor r n.val] else [])
      ∧ (op = 0x20 → t.tarn = s.tarn) := by
  have hcode : r.q.cmd.opcode = op :=
    opcode_of_firstRun (f := fun r => r.skipped == 0 && !r.open_ && iterReady s r) (by simpa only [Bool.and_assoc] using hrun)
  have hexec : exec (if op = 0x10 then .lseAttn c else .lseMove c) s = .next (beginLse c.val r s) := by
    have hbegin : ∀ prep, lseEvent c.val op prep s = beginLse c.val r s := fun prep => by
      rw [lseEvent_begins heng hab hhead hsent hrun, withSegs_of_ready hsegs]
    obtain rfl | rfl := hop
    · rw [if_pos rfl, exec_lseAttn, inTurn_eq_of_firstInLine hline, lseAttn, hbegin]
    · rw [if_neg (by decide), exec_lseMove, inTurn_eq_of_firstInLine hline, lseMove, hbegin]
  obtain ⟨w, hw, hwc, hst, hmere, htarn⟩ := beginLse_sends (c := c.val) he (hcode ▸ hop) hs
  have hstk : ∀ n, stk w n = stk s n := stk_congr hst
  obtain ⟨hm, ht, hsubs⟩ := sendSubs_sends (r := r.toSend) hwc (nodup_lseNamed r.q)
    (fun n hn => hstk n ▸ hroom ⟨n, lt_of_mem_lseNamed hn⟩) hw
  refine ⟨_, hexec, hm.trans hmere, fun n => ?_, fun h20 => ht.trans (htarn (hcode.trans h20))⟩
  rw [hsubs, hstk]
  rfl

/-! ## An engine at work (R241, R242, R246) -/

theorem StackSt.subs_of_offErrors {x y : StackSt} (h : x.offErrors = y.offErrors) : x.subs = y.subs := (congrArg StackSt.subs h :)

/-- From s to t an engine has served an entry: no queue of sub-commands has changed, and of the memories Mere has not by an
attention, Tarn not by a move. -/
structure Serves (attn : Bool) (s t : State) : Prop where
  canon : canonical s = true → canonical t = true
  subs : canonical s = true → ∀ n, (stk t n).subs = (stk s n).subs
  mere : attn = true → t.mere = s.mere
  tarn : attn = false → t.tarn = s.tarn

namespace Serves

variable {attn : Bool}

theorem refl (s : State) : Serves attn s s := ⟨id, fun _ _ => rfl, fun _ => rfl, fun _ => rfl⟩

theorem trans (h : Serves attn s t) (h' : Serves attn t u) : Serves attn s u :=
  ⟨h'.canon ∘ h.canon, fun hs n => (h'.subs (h.canon hs) n).trans (h.subs hs n), fun ha => (h'.mere ha).trans (h.mere ha),
    fun ha => (h'.tarn ha).trans (h.tarn ha)⟩

theorem ite {q : Prop} {_ : Decidable q} (ht : Serves attn s t) (hu : Serves attn s u) : Serves attn s (if q then t else u) := by
  split
  · exact ht
  · exact hu

theorem foldl {α : Type} {f : State → α → State} (hf : ∀ s x, Serves attn s (f s x)) (l : List α) (s : State) :
    Serves attn s (l.foldl f s) := by
  induction l generalizing s with
  | nil => exact .refl s
  | cons x r ih => exact (hf s x).trans (ih _)

theorem iter {f : Nat → State → State} (hf : ∀ i s, Serves attn s (f i s)) (n : Nat) (s : State) : Serves attn s (iter n f s) :=
  foldl (fun s i => hf i s) _ s

/-- Names the state that a later part of a proof goes on from. -/
theorem andThen (ht : Serves attn s t) (hu : Serves attn s t → Serves attn s u) : Serves attn s u := hu ht

/-- What leaves stacks and memories alone. -/
theorem of_stores (hc : canonical s = true → canonical t = true) (h : stores t = stores s) : Serves attn s t :=
  ⟨hc, fun _ n => by rw [stk_congr (congrArg Prod.fst h)], fun _ => congrArg (·.2.1) h, fun _ => congrArg (·.2.2) h⟩

theorem of_noted (h : Noted s t) : Serves attn s t :=
  ⟨h.canon, fun hs n => StackSt.subs_of_offErrors (h.repairs hs n), fun _ => (congrArg State.mere h.off :),
    fun _ => (congrArg State.tarn h.off :)⟩

theorem bump (a n : Nat) (s : State) : Serves attn s (Machine.bump a n s) := .of_stores (fun h => canonical_bump h) rfl

theorem fresh (n : Nat) (s : State) : Serves attn s { s with fresh := n } :=
  ⟨fun h => canonical_with_fresh h, fun _ _ => rfl, fun _ => rfl, fun _ => rfl⟩

theorem freeBytes (n : Nat) (s : State) : Serves attn s (Machine.freeBytes n s).2 := .of_stores (fun h => canonical_freeBytes h) rfl

theorem meshSend (a b : MeshEnd) (n : Nat) (s : State) : Serves attn s (Machine.meshSend a b n s) :=
  .of_stores (fun h => canonical_meshSend h) (stores_of_offLanding (offLanding_meshSend ..))

theorem wakeStack (n : Nat) (s : State) : Serves attn s (Machine.wakeStack n s) :=
  ⟨fun h => canonical_wakeStack h, fun _ _ => by rw [stk_congr (wakeStack_stackSt ..)],
    fun _ => mere_of_offRegs (offRegs_wakeStack ..), fun _ => tarn_of_offRegs (offRegs_wakeStack ..)⟩

theorem entryError (st slot : Nat) (s : State) : Serves attn s (Machine.entryError st slot s) := by
  have hwr : Serves attn s (wr (stkReg st 0x48) (Word.ofNat (slot % 2 ^ 17 + 2 ^ 31)) s) := .of_stores (fun h => canonical_wr h) rfl
  exact hwr.trans (.of_noted (noted_raise ..))

theorem updRun (k seq : Nat) (f : Run → Run) (s : State) : Serves attn s (Machine.updRun k seq f s) :=
  .of_stores (fun h => canonical_updRun h) (onlyRuns_updRun ..).stores

theorem settleLse (c seq : Nat) (s : State) : Serves attn s (Machine.settleLse c seq s) :=
  .of_stores (fun h => canonical_settleLse h) (onlyRuns_settleLse ..).stores

theorem tarnWrite (c a : Nat) (l : List Byte) (s : State) : Serves true s (Machine.tarnWrite c a l s) :=
  ⟨fun h => canonical_tarnWrite h, fun _ _ => rfl, fun _ => rfl, nofun⟩

theorem mereWrite (a : Nat) (l : List Byte) (s : State) : Serves false s (Machine.mereWrite a l s) :=
  ⟨fun h => canonical_mereWrite h, fun _ _ => rfl, nofun, fun _ => rfl⟩

end Serves

theorem serves_attnEntry (st : Nat) (x : Sub) (p : Pool) (b : Nat) (ecc : EccMap) (s : State) :
    Serves true s (attnEntry st x p b ecc s) := by
  unfold attnEntry
  extract_lets c t slot bad len win lo stripes0 order s1 found misses rows us ue s2 pages qd s3 s4 s5 s6
  have h1 : Serves true s s1 := .ite (.refl s) (.fresh ..)
  have h2 : Serves true s s2 := h1.trans (.of_noted (noted_noteUnits ..))
  have h3 : Serves true s s3 :=
    h2.trans (.iter (fun _ _ => .ite ((Serves.freeBytes ..).trans (.tarnWrite ..)) (.tarnWrite ..)) _ _)
  have h6 : Serves true s s6 := ((((h3.trans (.meshSend ..)).trans (.bump ..)).trans (.bump ..)).trans (.bump ..)).trans (.bump ..)
  exact .ite (h6.trans (.entryError ..)) h6

theorem serves_freePieces (l : List (Nat × Nat)) (s : State) : Serves false s (freePieces l s) :=
  .foldl (fun _ _ => (Serves.freeBytes ..).trans (.mereWrite ..)) l s

theorem serves_moveEntry (st : Nat) (x : Sub) (p : Pool) (restore : Bool) (b : Nat) (ecc : EccMap) (s : State) :
    Serves false s (moveEntry st x p restore b ecc s) := by
  unfold moveEntry
  extract_lets t slot len s0 cold all bad miss mine pt s1 misses s2
  have h1 : Serves false s s1 := .of_noted (noted_noteUnits ..)
  have h2 : Serves false s s2 := ((h1.trans (.bump ..)).trans (.bump ..)).trans (.bump ..)
  have h3 : ∀ img us, Serves false s (noteUnits ecc us (wakeStack (stackNo img) (wakeStack st s2))) := fun _ _ =>
    ((h2.trans (.wakeStack ..)).trans (.wakeStack ..)).trans (.of_noted (noted_noteUnits ..))
  refine .ite (h2.trans (.entryError ..)) (.ite h2 (Serves.andThen ?_ fun h4 =>
    .ite (((h4.trans (serves_freePieces ..)).trans (.updRun ..)).trans (.entryError ..)) h4))
  refine (h3 _ _).trans (.foldl (fun s gk => .iter (fun l s => ?_) _ s) _ _)
  extract_lets n fr im a1 src a2 d dst a3 f
  have ha2 : Serves false s a2 := (Serves.bump ..).trans (.meshSend ..)
  have hd : Serves false s d.2 := by
    unfold d
    split
    · exact ha2.trans (.freeBytes ..)
    · exact ha2
  have ha3 : Serves false s a3 := (hd.trans (.mereWrite ..)).trans (.bump ..)
  exact .ite ((ha3.trans (.freeBytes ..)).trans (.mereWrite ..)) ha3

theorem entryError_tarn (st slot : Nat) (s : State) : (entryError st slot s).tarn = s.tarn :=
  (tarn_of_offRegs (offRegs_raise ..) :)

theorem writePart_tarn (c : Nat) (d : Desc) (row p : Nat) (v : List Word) (s : State) : (writePart c d row p v s).tarn =
    ssetMany zero8 (tarnKey c (rowAddr d {} 0 0 row p 0)) (bytesOf v) s.tarn := rfl

theorem bump_tarn (a n : Nat) (s : State) : (bump a n s).tarn = s.tarn := rfl

theorem iter_one {α : Type} (f : Nat → α → α) (x : α) : iter 1 f x = f 0 x := rfl

/-- An attention's entry of length 0, for one query head, leaves an empty partial (R242). -/
theorem tarn_attnEntry_of_empty {st b : Nat} {x : Sub} {p : Pool} {ecc : EccMap} (hq : p.hq = 1)
    (hlen : leAt (tableEntry s x.core (x.ops.getD 1 {}) b) 4 4 = 0) :
    (attnEntry st x p b ecc s).tarn = (writePart x.core (x.ops.getD 2 {}) (b * 1) x.part (emptyPart p.d) s).tarn := by
  unfold attnEntry
  extract_lets c t slot bad len win lo stripes0 order s1 found misses rows us ue s2 pages qd s3 s4 s5 s6
  have hlen0 : len = 0 := by
    unfold len t c
    rw [hlen, Nat.zero_min]
  have hstripes : stripes0 = [] := by
    unfold stripes0
    rw [hlen0, takenStripes, if_pos rfl, ite_self]
  have horder : order = [] := by
    unfold order
    rw [hstripes, List.length_nil, freeOrderOf, ite_self]
  have hrows : rows = [] := by
    unfold rows found
    rw [horder, List.filterMap_nil, List.map_nil]
  have hus : us = [] := by
    unfold us
    rw [hstripes, hrows]
    rfl
  have hue : ¬ ue = true := by
    unfold ue
    rw [hus]
    exact Bool.false_ne_true
  have hpages : pages = [] := by
    unfold pages
    rw [hrows, List.map_nil]
  have h1 : s1.tarn = s.tarn := by
    unfold s1
    split <;> rfl
  have h2 : s2.tarn = s.tarn := (tarn_of_offRegs (noted_noteUnits ecc us s1).off).trans h1
  have h3 : s3 = writePart c (x.ops.getD 2 {}) (b * 1) x.part (emptyPart p.d) s2 := by
    unfold s3
    rw [hq, iter_one, if_neg hue, hpages]
    simp only [List.foldl_nil, Nat.add_zero, emptyPart, List.replicate_succ]
  have h4 : s4.tarn = s3.tarn := tarn_of_offLanding (offLanding_meshSend _ _ _ s3)
  have h6 : s6.tarn = s3.tarn := by
    unfold s6 s5
    rw [bump_tarn, bump_tarn, bump_tarn, bump_tarn, h4]
  have hlast : (if bad || misses != 0 || ue then entryError st slot s6 else s6).tarn = s3.tarn := by
    split
    · rw [entryError_tarn, h6]
    · rw [h6]
  rw [hlast, h3, writePart_tarn, h2, writePart_tarn]

/-! ## SUB_COMMAND -/

/-- What a format fixes is as before where the registers of formats in force are. -/
theorem poolOf_congr (h : ∀ a, 0x260000 ≤ a → cfg t a = cfg s a) (f : Nat) : poolOf t f = poolOf s f := by
  have hw : (fun i => cfg t (0x260000 + 0x20 * f + 4 * i)) = fun i => cfg s (0x260000 + 0x20 * f + 4 * i) :=
    funext fun i => h _ (by omega)
  unfold poolOf
  rw [hw]

theorem poolOf_wakeStack (n f : Nat) (hs : canonical s = true) : poolOf (wakeStack n s) f = poolOf s f := by
  have hoff := offRegs_wakeStack n s
  refine poolOf_congr (fun a ha => cfg_congr (ssq_of_offRegs hoff) (congrArg State.eff hoff :) ?_) f
  refine rd_of_regsWithin (regsWithin_wakeStack n s) (csr_of_canonical hs) ?_
  rintro ⟨m, h⟩
  simp only [stkReg] at h
  omega

/-- Entries of a sub-command. -/
def Sub.entries (x : Sub) : Nat := if x.attn then (x.ops.getD 1 {}).e 1 else (x.ops.getD 0 {}).e 1

/-- A sub-command has left the queue of its engine. -/
def takesSub (st : Nat) (rest : List Sub) (s : State) : State := setStk st { stk s st with subs := rest } (wakeStack st s)

theorem canonical_takesSub {st : Nat} {rest : List Sub} (hs : canonical s = true) : canonical (takesSub st rest s) = true :=
  canonical_setStk (canonical_wakeStack hs)

/-- An engine serves a sub-command of a usable format: entry by entry, as an attention or as a move one way. -/
theorem serveSub_eq {st : Nat} {x : Sub} {rest : List Sub} {ecc : EccMap} {p : Pool} (hs : canonical s = true)
    (hp : poolOf s x.fmt = some p) : ∃ restore, subCommand.serveSub st x rest ecc s = settleLse x.core x.seq
      (iter x.entries (fun b s => if x.attn then attnEntry st x p b ecc s else moveEntry st x p restore b ecc s)
        (takesSub st rest s)) := by
  have hp' : poolOf (takesSub st rest s) x.fmt = some p := (poolOf_wakeStack st x.fmt hs).trans hp
  rw [takesSub] at hp'
  unfold subCommand.serveSub
  extract_lets sub w n restore s2
  refine ⟨restore, ?_⟩
  have hs2 : s2 = iter n (fun b s => if x.attn then attnEntry st x p b ecc s else moveEntry st x p restore b ecc s) w := by
    unfold s2
    split
    · next h => exact absurd (hp'.symm.trans h) nofun
    · next q h =>
      obtain rfl : p = q := Option.some.inj (hp'.symm.trans h)
      rfl
  rw [hs2]
  rfl

/-- The clause of SUB_COMMAND. -/
theorem subCommand_serves (n : StackId) (ecc : EccMap) {x : Sub} {rest : List Sub} {p : Pool} (hs : canonical s = true)
    (heng : engines s = true) (hsub : (stk s n.val).subs = x :: rest) (hreach : subReaches s n.val x = true)
    (hsegs : segsReady s x.core (subSegs x)) (hp : poolOf s x.fmt = some p) :
    ∃ t, exec (.subCommand n ecc) s = .next t ∧ (stk t n.val).subs = rest
      ∧ (∀ m : StackId, m ≠ n → (stk t m.val).subs = (stk s m.val).subs)
      ∧ (x.attn = true → t.mere = s.mere) ∧ (x.attn = false → t.tarn = s.tarn)
      ∧ (x.attn = true → (x.ops.getD 1 {}).e 1 = 1 → p.hq = 1 →
          leAt (tableEntry s x.core (x.ops.getD 1 {}) 0) 4 4 = 0 →
          tarnRead t x.core (rowAddr (x.ops.getD 2 {}) {} 0 0 0 x.part 0) (4 * (p.d + 2)) = bytesOf (emptyPart p.d)) := by
  have hexec : exec (.subCommand n ecc) s = .next (subCommand.serveSub n.val x rest ecc s) := by
    rw [exec_subCommand, subCommand, if_neg (by simp [heng])]
    simp only [hsub, hreach, if_true]
    rw [withSegs_of_ready hsegs]
  obtain ⟨restore, heq⟩ := serveSub_eq (st := n.val) (rest := rest) (ecc := ecc) hs hp
  obtain ⟨w, hw⟩ : ∃ w, w = takesSub n.val rest s := ⟨_, rfl⟩
  obtain ⟨e, he⟩ : ∃ e, e = iter x.entries
      (fun b s => if x.attn then attnEntry n.val x p b ecc s else moveEntry n.val x p restore b ecc s) w :=
    ⟨_, rfl⟩
  rw [← hw, ← he] at heq
  have hwc : canonical w = true := hw ▸ canonical_takesSub hs
  have hwoff : offRegs w = offRegs s := by rw [hw, takesSub, offRegs_setStk, offRegs_wakeStack]
  have hentry : ∀ b s, Serves x.attn s
      (if x.attn then attnEntry n.val x p b ecc s else moveEntry n.val x p restore b ecc s) := fun b s => by
    cases ha : x.attn with
    | true =>
      rw [if_pos rfl]
      exact serves_attnEntry ..
    | false =>
      rw [if_neg Bool.false_ne_true]
      exact serves_moveEntry ..
  have hserve : Serves x.attn w e := he ▸ .iter hentry _ w
  have hall : Serves x.attn w (settleLse x.core x.seq e) := hserve.trans (.settleLse ..)
  rw [hexec, heq]
  refine ⟨_, rfl, ?_, fun m hm => ?_, fun ha => (hall.mere ha).trans (mere_of_offRegs hwoff),
    fun ha => (hall.tarn ha).trans (tarn_of_offRegs hwoff), fun ha hone hq hlen => ?_⟩
  · rw [hall.subs hwc, hw, takesSub, stk_setStk_same (canonical_wakeStack hs)]
  · rw [hall.subs hwc, hw, takesSub, stk_setStk_other (canonical_wakeStack hs) (Fin.val_ne_of_ne hm), stk_congr (wakeStack_stackSt ..)]
  · have hcount : x.entries = 1 := by rw [Sub.entries, if_pos ha, hone]
    have hone' : e = attnEntry n.val x p 0 ecc w := by rw [he, hcount, iter_one, if_pos ha]
    have htw : w.tarn = s.tarn := tarn_of_offRegs hwoff
    have hlen' : leAt (tableEntry w x.core (x.ops.getD 1 {}) 0) 4 4 = 0 := by
      rw [tableEntry, tarnRead_congr htw, ← tableEntry]
      exact hlen
    have htarn : (settleLse x.core x.seq e).tarn =
        (tarnWrite x.core (rowAddr (x.ops.getD 2 {}) {} 0 0 0 x.part 0) (bytesOf (emptyPart p.d)) w).tarn := by
      rw [(onlyRuns_settleLse x.core x.seq e).tarn, hone', tarn_attnEntry_of_empty hq hlen', Nat.zero_mul, writePart]
    have hbytes : (bytesOf (emptyPart p.d)).length = 4 * (p.d + 2) := by
      rw [length_bytesOf, emptyPart, List.length_cons, List.length_replicate]
    rw [tarnRead_congr htarn, ← hbytes]
    exact tarnRead_tarnWrite (tarn_of_canonical hwc)

/-- Settles O39: an iteration's sub-commands join their queues one each, and an engine takes the first of its own. -/
theorem loessServes : Obligations.LoessServes := by
  refine ⟨fun c r op s hs heng hab hop hhead hline hsent hrun hsegs he _ hroom _ => ?_,
    fun n ecc x rest p s hs heng hsub hreach hsegs hp _ => ?_⟩
  · exact lse_sends c hs heng hab hop hhead hline hsent hrun hsegs he hroom
  · obtain ⟨t, hexec, hn, hm, hmere, htarn, hempty⟩ := subCommand_serves n ecc hs heng hsub hreach hsegs hp
    exact ⟨t, hexec, hn, hm, hmere, htarn, fun ha hone hq _ hlen => hempty ha hone hq hlen⟩

end Sys2Proof.Machine
end

section
/-! SUPPORT. What sending leaves alone, and where a queued completion stands (R376, R379). -/

namespace Sys2Proof.Machine

variable {s t u : State} {q q' k n : Nat} {c : Completion}

/-! ## The rest of the state -/

/-- The state but for registers, queue pairs, vectors that fire, and what leaves the part. -/
def offSend (s : State) : State := { s with csr := [], qps := [], out := [], fired := [] }

theorem offSend_transmit (dest : Option (Nat × Nat)) (x : OutItem) (s : State) : offSend (transmit q dest x s) = offSend s := by
  cases dest <;> rfl

theorem offSend_flushOut (n : Nat) (s : State) : offSend (flushOut n q s) = offSend s := by
  induction n generalizing s with
  | zero => rfl
  | succ n ih =>
    rw [flushOut]
    split
    · rfl
    · split
      · exact (ih _).trans (offSend_transmit ..)
      · rfl

theorem offSend_pump (n : Nat) (s : State) : offSend (pump n q s) = offSend s := by
  induction n generalizing s with
  | zero => rfl
  | succ n ih =>
    have hflush := offSend_flushOut (q := q) 256 s
    simp only [pump]
    split
    · exact hflush
    · exact (ih _).trans ((offSend_transmit ..).trans hflush)

theorem offSend_sendItem (x : OutItem) (s : State) : offSend (sendItem q x s) = offSend s := by
  rw [sendItem]
  split
  · rfl
  · exact offSend_pump _ (updQp q _ s)

theorem offSend_fireVec (n v detail : Nat) (s : State) : offSend (fireVec n v detail s) = offSend s := by
  simp only [fireVec]
  split
  · rfl
  · split
    · rfl
    · exact offSend_sendItem _ (setBit _ _ _)

section
variable (h : offSend t = offSend s)
include h

theorem sess_of_offSend (k : Nat) : sess t k = sess s k := (congrArg (fun x : State => sess x k) h :)
theorem memoriesStay_of_offSend : memoriesStay s t :=
  ⟨(congrArg State.tarn h :), (congrArg State.mere h :), (congrArg State.flash h :)⟩
theorem ssq_of_offSend : t.ssq = s.ssq := (congrArg State.ssq h :)
theorem eff_of_offSend : t.eff = s.eff := (congrArg State.eff h :)

end

/-! ## Completions -/

theorem qps_of_canonical (h : canonical s = true) : swf (fun _ => {}) s.qps = true := by
  simp only [canonical, storesCanonical, Bool.and_eq_true] at h
  simp only [h]

/-- A completion waits at a queue pair, or stands in a message that it has sent. -/
def QpSt.holds (v : QpSt) (c : Completion) : Prop := c ∈ v.queued ∨ ∃ m ∈ v.sent, c ∈ m.item.comps

/-- The store of queue pairs keeps its form, and queue pair q what it holds of completion c. -/
def KeepsComp (q : Nat) (c : Completion) (s t : State) : Prop :=
  swf (fun _ => {}) s.qps = true → swf (fun _ => {}) t.qps = true ∧ ((qpOf s q).holds c → (qpOf t q).holds c)

theorem KeepsComp.of_qps (h : t.qps = s.qps) : KeepsComp q c s t := fun hs =>
  ⟨h ▸ hs, by rw [qpOf, qpOf, h]; exact id⟩

theorem KeepsComp.trans (h : KeepsComp q c s t) (h' : KeepsComp q c t u) : KeepsComp q c s u := fun hs =>
  have ⟨ht, hst⟩ := h hs
  have ⟨hu, htu⟩ := h' ht
  ⟨hu, htu ∘ hst⟩

/-- A queue pair that keeps what it holds. -/
theorem keepsComp_of_setQp {v : QpSt} (ht : t.qps = (setQp q' v s).qps) (hv : (qpOf s q').holds c → v.holds c) :
    KeepsComp q c s t := fun hs => by
  refine ⟨ht ▸ swf_sset hs, ?_⟩
  rw [qpOf, qpOf, ht]
  by_cases hq : q = q'
  · rw [hq, show sget _ q' (setQp q' v s).qps = v from sget_sset_same hs]
    exact hv
  · rw [show sget _ q (setQp q' v s).qps = sget _ q s.qps from sget_sset_other hs hq]
    exact id

theorem keepsComp_updQp {f : QpSt → QpSt} (hf : (qpOf s q').holds c → (f (qpOf s q')).holds c) :
    KeepsComp q c s (updQp q' f s) := keepsComp_of_setQp rfl hf

/-- What is sent joins the messages sent. -/
theorem qps_transmit (dest : Option (Nat × Nat)) (x : OutItem) (s : State) :
    ∃ (v : QpSt) (m : SentMsg), (transmit q dest x s).qps = (setQp q v s).qps ∧ v.queued = (qpOf s q).queued ∧
      v.sent = (qpOf s q).sent ++ [m] ∧ m.item = x := by
  cases dest <;> exact ⟨_, _, rfl, rfl, rfl, rfl⟩

theorem keepsComp_transmit (dest : Option (Nat × Nat)) (x : OutItem) (s : State) : KeepsComp q c s (transmit q' dest x s) := by
  obtain ⟨v, m, hqps, hqueued, hsent, -⟩ := qps_transmit (q := q') dest x s
  refine keepsComp_of_setQp hqps ?_
  rintro (h | ⟨y, hy, hc⟩)
  · exact .inl (hqueued ▸ h)
  · exact .inr ⟨y, hsent ▸ List.mem_append_left _ hy, hc⟩

/-- A queue pair whose completions of a list wait no more. -/
def QpSt.without (l : List Completion) (v : QpSt) : QpSt := { v with queued := v.queued.filter fun c => !(l.contains c) }

/-- Completions of a queue pair that a message takes leave it in that message. -/
theorem keepsComp_sendComps {l : List Completion} {dest : Option (Nat × Nat)} {x : OutItem} (hx : x.comps = l)
    (hw : t.qps = (updQp q' (.without l) s).qps) : KeepsComp q c s (transmit q' dest x t) := by
  obtain ⟨v, m, hqps, hqueued, hsent, hitem⟩ := qps_transmit (q := q') dest x t
  intro hs
  have ht : swf (fun _ => {}) t.qps = true := hw ▸ swf_sset (l := s.qps) hs
  refine ⟨hqps ▸ swf_sset (l := t.qps) ht, ?_⟩
  rw [qpOf, qpOf, hqps]
  by_cases hq : q = q'
  · have hwithout : qpOf t q' = (qpOf s q').without l := by
      rw [qpOf, hw]
      exact sget_sset_same hs
    rw [hq, show sget _ q' (setQp q' v t).qps = v from sget_sset_same ht]
    rintro (h | ⟨y, hy, hc⟩)
    · by_cases hl : c ∈ l
      · exact .inr ⟨m, by simp [hsent], by rwa [hitem, hx]⟩
      · refine .inl ?_
        rw [hqueued, hwithout]
        exact List.mem_filter.mpr ⟨h, by simpa using hl⟩
    · refine .inr ⟨y, ?_, hc⟩
      rw [hsent, hwithout]
      exact List.mem_append_left _ hy
  · have hother : sget (fun _ => {}) q t.qps = sget (fun _ => {}) q s.qps := by
      rw [hw]
      exact sget_sset_other hs hq
    rw [show sget _ q (setQp q' v t).qps = sget _ q t.qps from sget_sset_other ht hq, hother]
    exact id

theorem keepsComp_flushOut (n : Nat) (s : State) : KeepsComp q c s (flushOut n q' s) := by
  induction n generalizing s with
  | zero => exact .of_qps rfl
  | succ n ih =>
    rw [flushOut]
    split
    · exact .of_qps rfl
    · split
      · exact ((keepsComp_updQp id).trans (keepsComp_transmit _ _ _)).trans (ih _)
      · exact .of_qps rfl

theorem keepsComp_pump (n : Nat) (s : State) : KeepsComp q c s (pump n q' s) := by
  induction n generalizing s with
  | zero => exact .of_qps rfl
  | succ n ih =>
    have hflush := keepsComp_flushOut (q := q) (q' := q') (c := c) 256 s
    simp only [pump]
    split
    · exact hflush
    · refine (hflush.trans (keepsComp_sendComps rfl ?_)).trans (ih _)
      rfl

theorem keepsComp_sendItem (x : OutItem) (s : State) : KeepsComp q c s (sendItem q' x s) := by
  rw [sendItem]
  split
  · exact .of_qps rfl
  · exact (keepsComp_updQp id).trans (keepsComp_pump _ _)

theorem keepsComp_fireVec (n v detail : Nat) (s : State) : KeepsComp q c s (fireVec n v detail s) := by
  simp only [fireVec]
  split
  · exact .of_qps rfl
  · split
    · exact .of_qps rfl
    · refine .trans (.of_qps ?_) (keepsComp_sendItem _ _)
      rfl

/-- A completion that is queued waits at its queue pair or has been sent. -/
theorem completionOf_queueCompletion (hs : canonical s = true) : completionOf (queueCompletion c s) c.q c.cid c.status := by
  obtain ⟨d, hd⟩ : ∃ d : Completion, d = { c with tdone := timeCounter s % 2 ^ 32 } := ⟨_, rfl⟩
  obtain ⟨w, hw⟩ : ∃ w : State, w = updQp c.q (fun p => { p with queued := p.queued ++ [d] })
    (bump (statReg (qpTenant s c.q) (statusStat c.status)) 1 s) := ⟨_, rfl⟩
  have hqps : swf (fun _ => {}) w.qps = true := hw ▸ swf_sset (l := s.qps) (qps_of_canonical hs)
  have hin : (qpOf w c.q).holds d := by
    have : qpOf w c.q = { qpOf s c.q with queued := (qpOf s c.q).queued ++ [d] } := by
      rw [hw]
      exact sget_sset_same (l := s.qps) (qps_of_canonical hs)
    rw [this]
    exact .inl (by simp)
  have hkeep : KeepsComp c.q d w (queueCompletion c s) := by
    have heq : queueCompletion c s = pumpQp c.q (if rdF s (qctx c.q 0) 16 6 < 48 then
        fireVec (qpTenant s c.q) (rdF s (qctx c.q 0) 16 6) c.q w else w) := by
      rw [hw, hd]
      rfl
    rw [heq]
    split
    · exact (keepsComp_fireVec _ _ _ _).trans (keepsComp_pump _ _)
    · exact keepsComp_pump _ _
  obtain ⟨-, hheld⟩ := hkeep hqps
  refine ⟨d, ?_, ?_, ?_, hheld hin⟩ <;> rw [hd]

end Sys2Proof.Machine
end

section
/-! SUPPORT. How sessions expire, spill and move, and what that leaves alone (R246, R247, R385–R387). -/

namespace Sys2Proof.Machine

variable {s t u : State} {p : Pool} {k n m : Nat} {r : Request}

/-! ## Sessions and the words beside them -/

theorem sess_setSess_same {v : Session} (hs : canonical s = true) : sess (setSess k v s) k = v :=
  sget_sset_same (sessions_of_canonical hs)

theorem sess_setSess_other {v : Session} {k' : Nat} (hs : canonical s = true) (hk : k' ≠ k) : sess (setSess k v s) k' = sess s k' :=
  sget_sset_other (sessions_of_canonical hs) hk

/-- Statistics counters are no words of sending or of the stacks and the mesh. -/
theorem not_sendReg_statReg {n c : Nat} : ¬ sendReg (statReg n c) := by
  simp only [sendReg, statReg]
  omega

/-- Words of routers and stacks. -/
def moveReg (a : Nat) : Prop := a < 0x260000

theorem not_moveReg_statReg {n c : Nat} : ¬ moveReg (statReg n c) := by
  simp only [moveReg, statReg]
  omega

theorem moveReg_stkReg {n off : Nat} (hn : n < 24) (hoff : off < 0x4000) : moveReg (stkReg n off) := by
  simp only [moveReg, stkReg]
  omega

theorem moveReg_of_wakeWord {a : Nat} (h : wakeWord a) : moveReg a := by
  obtain ⟨n, rfl | rfl⟩ := h <;> exact moveReg_stkReg n.isLt (by decide)

theorem stackNo_lt {a : Nat} (h : a < 24 * 2 ^ 37) : stackNo a < 24 := Nat.div_lt_of_lt_mul (by omega)

/-! ## Packets on the mesh -/

theorem meshLink_lt {r p : Nat} {e : MeshEnd} (hr : r < 12) (h : meshLink r p = some e) : e.1 < 12 := by
  rcases p with _ | _ | _ | _ | p <;> simp [meshLink, hasMeshPort] at h
  all_goals
    obtain ⟨hport, rfl⟩ := h
    simp only
    omega

theorem meshHops_lt {b : MeshEnd} {h : Nat × Nat × Nat} (n : Nat) {a : MeshEnd} (ha : a.1 < 12)
    (hh : h ∈ meshHops a b n) : h.1 < 12 := by
  induction n generalizing a with
  | zero => simp [meshHops] at hh
  | succ n ih =>
    rw [meshHops] at hh
    split at hh
    · rw [List.mem_singleton.mp hh]
      exact ha
    · split at hh
      · simp at hh
      · next e he =>
        obtain rfl | hh := List.mem_cons.mp hh
        · exact ha
        · exact ih (meshLink_lt ha he) hh

theorem regsWithin_meshSend {a b : MeshEnd} (ha : a.1 < 12) (n : Nat) (s : State) : regsWithin moveReg s (meshSend a b n s) := by
  rw [meshSend]
  split
  · exact .of_csr rfl
  · refine regsWithin_foldl fun s h hh => regsWithin_bump ?_
    have := meshHops_lt 6 ha hh
    simp only [moveReg, meshReg]
    omega

/-! ## Rows that move, and frames that are released -/

/-- The state but for registers, Mere, and the free values drawn. -/
def offMoves (s : State) : State := { s with csr := [], mere := [], fresh := 0 }

theorem offMoves_wakeStack (n : Nat) (s : State) : offMoves (wakeStack n s) = offMoves s := by
  rw [wakeStack]
  split <;> rfl

theorem offMoves_meshSend (a b : MeshEnd) (n : Nat) (s : State) : offMoves (meshSend a b n s) = offMoves s := by
  rw [meshSend]
  split
  · rfl
  · refine foldl_keeps offMoves (fun s h => ?_) _ s
    rfl

/-- From s to t only words of routers and stacks, Mere, and the free values drawn change. -/
def Moves (s t : State) : Prop := offMoves t = offMoves s ∧ regsWithin moveReg s t

namespace Moves

theorem refl (s : State) : Moves s s := ⟨rfl, .of_csr rfl⟩

theorem trans (h : Moves s t) (h' : Moves t u) : Moves s u := ⟨h'.1.trans h.1, h.2.trans h'.2⟩

theorem iter {f : Nat → State → State} (hf : ∀ i s, Moves s (f i s)) (n : Nat) (s : State) : Moves s (iter n f s) :=
  ⟨iter_keeps offMoves (fun i s => (hf i s).1) n s, regsWithin_foldl fun s i _ => (hf i s).2⟩

theorem wakeStack (n : Nat) (s : State) : Moves s (wakeStack n s) :=
  ⟨offMoves_wakeStack n s, (regsWithin_wakeStack n s).mono fun _ => moveReg_of_wakeWord⟩

theorem meshSend {a : MeshEnd} (ha : a.1 < 12) (b : MeshEnd) (n : Nat) (s : State) : Moves s (meshSend a b n s) :=
  ⟨offMoves_meshSend a b n s, regsWithin_meshSend ha n s⟩

theorem mereWrite (a : Nat) (l : List Byte) (s : State) : Moves s (mereWrite a l s) := ⟨rfl, .of_csr rfl⟩

theorem freeBytes (n : Nat) (s : State) : Moves s (freeBytes n s).2 := ⟨rfl, .of_csr rfl⟩

theorem bump {a : Nat} (ha : moveReg a) (n : Nat) (s : State) : Moves s (bump a n s) := ⟨rfl, regsWithin_bump ha⟩

section
variable (h : Moves s t)
include h

theorem sess (k : Nat) : sess t k = sess s k := (congrArg (fun x : State => Machine.sess x k) h.1 :)
theorem tarn : t.tarn = s.tarn := (congrArg State.tarn h.1 :)
theorem flash : t.flash = s.flash := (congrArg State.flash h.1 :)
theorem requests : t.requests = s.requests := (congrArg State.requests h.1 :)
theorem now : t.now = s.now := (congrArg State.now h.1 :)

theorem poolOf (hs : canonical s = true) (f : Nat) : poolOf t f = poolOf s f := by
  have hssq : t.ssq = s.ssq := (congrArg State.ssq h.1 :)
  have heff : t.eff = s.eff := (congrArg State.eff h.1 :)
  refine poolOf_congr (fun a ha => cfg_congr hssq heff ?_) f
  exact rd_of_regsWithin h.2 (csr_of_canonical hs) (Nat.not_lt.mpr ha)

end

end Moves

/-- Entries of a session's page table become absent. -/
def entriesAbsent (p : Pool) (k s0 n : Nat) (s : State) : State :=
  iter n (fun g s => mereWrite (pteAt p k s0 g) (leBytes 4 0xFFFFFFFF) (wakeStack ((s0 + g) % 24) s)) s

theorem moves_entriesAbsent (p : Pool) (k s0 n : Nat) (s : State) : Moves s (entriesAbsent p k s0 n s) :=
  .iter (fun _ s => (Moves.wakeStack _ s).trans (.mereWrite ..)) n s

/-- Bytes of Mere apart from those entries stay. -/
theorem mereRead_entriesAbsent {s0 a m : Nat} (hs : swf zero8 s.mere = true)
    (ha : ∀ g < n, pteAt p k s0 g + 4 ≤ a ∨ a + m ≤ pteAt p k s0 g) :
    swf zero8 (entriesAbsent p k s0 n s).mere = true ∧ mereRead (entriesAbsent p k s0 n s) a m = mereRead s a m := by
  induction n with
  | zero => exact ⟨hs, rfl⟩
  | succ n ih =>
    obtain ⟨hswf, hread⟩ := ih fun g hg => ha g (by omega)
    have hwake : (wakeStack ((s0 + n) % 24) (entriesAbsent p k s0 n s)).mere = (entriesAbsent p k s0 n s).mere :=
      mere_of_offRegs (offRegs_wakeStack ..)
    rw [show entriesAbsent p k s0 (n + 1) s = mereWrite (pteAt p k s0 n) (leBytes 4 0xFFFFFFFF)
      (wakeStack ((s0 + n) % 24) (entriesAbsent p k s0 n s)) from iter_succ n _ s]
    refine ⟨swf_ssetMany (by rwa [hwake]), ?_⟩
    rw [← hread]
    refine (sgetMany_ssetMany_apart (by rwa [hwake]) ?_).trans (by rw [hwake]; rfl)
    rw [length_leBytes]
    exact (ha n (by omega)).symm

/-- A session that gives up its frames has none, and its entries are absent. -/
theorem releaseFrames_of_pool (hp : poolOf s (sess s k).fmt = some p) : releaseFrames k s =
    setSess k { sess s k with alloc := 0 } (entriesAbsent p k (sess s k).s0 (sess s k).alloc s) := by
  unfold releaseFrames
  dsimp only
  rw [hp]
  rfl

/-- Moving the rows of a session reads and writes Mere, and counts at stacks and routers. -/
theorem moves_moveRows (restore : Bool) (p : Pool) (hc : (sess s k).cold < 24 * 2 ^ 37) : Moves s (moveRows restore k p s) := by
  have hcold := stackNo_lt hc
  unfold moveRows
  extract_lets x
  refine Moves.iter (fun g s => ?_) _ s
  split
  · exact .refl s
  · extract_lets st n s1 src
    have hst : st < 24 := Nat.mod_lt _ (by decide)
    refine ((Moves.wakeStack st s).trans (.wakeStack _ _)).trans (Moves.iter (fun l s => ?_) _ _)
    have hsrc : src < 24 := by
      simp only [src]
      split
      exacts [hcold, hst]
    extract_lets a im s2 s3
    have hend : (stackEnd src).1 < 12 := by
      simp only [stackEnd]
      omega
    have h2 : Moves s s2 := (Moves.meshSend hend _ _ s).trans (.bump (moveReg_stkReg hsrc (by decide)) _ _)
    have h3 : Moves s s3 := h2.trans (.mereWrite ..)
    split
    · split
      · exact (h3.trans (.freeBytes ..)).trans (.mereWrite ..)
      · exact h3
    · exact h2.trans (.mereWrite ..)

/-- A park of one stripe of one layer is one copy from its frame to the image. -/
theorem moveRows_of_stripe {fr : Nat} (hnl : p.nl = 1) (h1 : 1 ≤ (sess s k).pos) (h16 : (sess s k).pos ≤ 16)
    (hf : frameOf s p k (sess s k).s0 0 = some fr) : ∃ u : State, u.mere = s.mere ∧
      moveRows false k p s = mereWrite (imageRow p (sess s k).cold (sess s k).pos 0 0)
        (mereRead u (rowAt p ((sess s k).s0 % 24) fr 0 0) ((sess s k).pos * p.rb)) u := by
  have hceil : ceilDiv (sess s k).pos 16 = 1 := by
    simp only [ceilDiv]
    omega
  have hmin : min 16 ((sess s k).pos - 16 * 0) = (sess s k).pos := by omega
  unfold moveRows
  extract_lets x
  rw [hceil, iter_one]
  simp only [x, hf, hnl, iter_one, hmin, Nat.add_zero, Nat.mul_zero, Bool.false_eq_true, if_false]
  refine ⟨_, ?_, rfl⟩
  rw [show ∀ (a n : Nat) (w : State), (bump a n w).mere = w.mere from fun _ _ _ => rfl,
    mere_of_offLanding (offLanding_meshSend ..), mere_of_offRegs (offRegs_wakeStack ..), mere_of_offRegs (offRegs_wakeStack ..)]

/-- The image of that session then holds the rows of its frame. -/
theorem mereRead_moveRows_of_stripe {fr : Nat} (hs : canonical s = true) (hnl : p.nl = 1) (h1 : 1 ≤ (sess s k).pos)
    (h16 : (sess s k).pos ≤ 16) (hf : frameOf s p k (sess s k).s0 0 = some fr) :
    mereRead (moveRows false k p s) (imageRow p (sess s k).cold (sess s k).pos 0 0) ((sess s k).pos * p.rb) =
      mereRead s (rowAt p ((sess s k).s0 % 24) fr 0 0) ((sess s k).pos * p.rb) := by
  obtain ⟨u, hu, heq⟩ := moveRows_of_stripe hnl h1 h16 hf
  obtain ⟨hread, -⟩ := mere_written (mere_of_canonical hs) hu (congrArg State.mere heq)
  rw [length_mereRead] at hread
  rw [hread, mereRead_congr hu]

/-! ## Sessions that expire -/

/-- Words that a spill changes: those of sending and of a stack that wakes. -/
def spillReg (a : Nat) : Prop := sendReg a ∨ wakeWord a

theorem not_spillReg_statReg {n c : Nat} : ¬ spillReg (statReg n c) := by
  rintro (h | h)
  · exact not_sendReg_statReg h
  · exact not_moveReg_statReg (moveReg_of_wakeWord h)

/-- A session whose spill begins, counted. -/
def spillBegun (k : Nat) (s : State) : State := bump (statReg (sess s k).tenant 12) 1 (setSess k { sess s k with st := 6 } s)

theorem keepsServed_wakeStack (n : Nat) (s : State) : KeepsServed wakeWord s (wakeStack n s) := by
  refine ⟨?_, regsWithin_wakeStack n s⟩
  rw [wakeStack]
  split <;> rfl

/-- What else the spill does is to wake a stack and to send. -/
theorem keepsServed_startSpill (k : Nat) (s : State) : KeepsServed spillReg (spillBegun k s) (startSpill k s) := by
  have hsend : ∀ {a : Nat} {x : OutItem} (w : State), KeepsServed spillReg w (sendItem (rdF (spillBegun k s) a 16 14) x w) :=
    fun w => (keepsServed_sendItem rdF_lt).mono fun _ => .inl
  unfold startSpill
  extract_lets x w q
  split
  · exact hsend w
  · exact .trans ((keepsServed_wakeStack _ w).mono fun _ => .inr) (keepsServed_iter fun w i _ => hsend w)

/-- A session that expires: its counter and its vector. -/
def expiring (stat k : Nat) (s : State) : State :=
  fireVec (sess s k).tenant 49 k (bump (statReg (sess s k).tenant stat) 1 s)

section
variable {stat : Nat}

theorem offSend_expiring : offSend (expiring stat k s) = offSend s := (offSend_fireVec ..).trans (rfl : offSend (bump _ 1 s) = offSend s)

theorem sess_expiring (k' : Nat) : sess (expiring stat k s) k' = sess s k' := sess_of_offSend offSend_expiring k'

theorem memoriesStay_expiring : memoriesStay s (expiring stat k s) := memoriesStay_of_offSend offSend_expiring

theorem canonical_expiring (hs : canonical s = true) : canonical (expiring stat k s) = true := canonical_fireVec (canonical_bump hs)

variable (hs : canonical s = true) (hn : (sess s k).tenant < 256)
include hs hn

theorem rd_expiring {a : Nat} (hsend : ¬ sendReg a) (hne : a ≠ statReg (sess s k).tenant stat) :
    rd (expiring stat k s) a = rd s a :=
  (rd_of_regsWithin (keepsServed_fireVec hn).2 (swf_csr_bump (csr_of_canonical hs)) hsend).trans
    (rd_bump_other (csr_of_canonical hs) hne)

theorem counts_expiring : counts s (expiring stat k s) (statReg (sess s k).tenant stat) 1 :=
  have hcsr := csr_of_canonical hs
  counts_after not_sendReg_statReg ((keepsServed_fireVec hn).2 (swf_csr_bump hcsr)).2 (rd_bump_same hcsr)

theorem tenCfg_expiring : tenCfg (expiring stat k s) (sess s k).tenant 0 = tenCfg s (sess s k).tenant 0 := by
  refine tenCfg_congr (ssq_of_offSend offSend_expiring) (eff_of_offSend offSend_expiring) (rd_expiring hs hn ?_ ?_)
  · simp only [sendReg, tenReg]
    omega
  · simp only [statReg, tenReg]
    omega

theorem expire_eq : expire stat k s =
    if bitOf (tenCfg s (sess s k).tenant 0) 1 then startSpill k (expiring stat k s) else clearSess k (expiring stat k s) := by
  rw [← tenCfg_expiring (stat := stat) hs hn]
  rfl

end

/-- A spill that begins leaves the memories, has the session SPILLING, and counts. -/
theorem startSpill_begins (hs : canonical s = true) (ht : t = startSpill k s) : memoriesStay s t ∧ (sess t k).st = 6 ∧
    counts s t (statReg (sess s k).tenant 12) 1 ∧ regsWithin (fun a => spillReg a ∨ a = statReg (sess s k).tenant 12) s t := by
  obtain ⟨hkeep, hreg⟩ := keepsServed_startSpill k s
  rw [← ht] at hkeep hreg
  have hcsr := csr_of_canonical hs
  have hsess : sess t k = { sess s k with st := 6 } :=
    (sess_of_sessions (congrArg Served.sessions hkeep) k).trans (sess_setSess_same hs)
  have hcount : counts s (spillBegun k s) (statReg (sess s k).tenant 12) 1 := rd_bump_same (s := setSess k _ s) hcsr
  have hbegun : regsWithin (fun a => spillReg a ∨ a = statReg (sess s k).tenant 12) s (spillBegun k s) :=
    regsWithin.trans (t := setSess k _ s) (.of_csr rfl) (regsWithin_bump (.inr rfl))
  refine ⟨⟨congrArg Served.tarn hkeep, congrArg Served.mere hkeep, congrArg Served.flash hkeep⟩, by rw [hsess],
    counts_after not_spillReg_statReg (hreg (hbegun hcsr).1).2 hcount, hbegun.trans (hreg.mono fun _ => .inl)⟩

/-! ## The clauses of O53 on parks and expiry -/

theorem exec_hotIdlePark (k : Nat) (s : State) : exec (.hotIdlePark k) s = .next (hotIdlePark k s) := rfl
theorem exec_sessionExpiry (k : Nat) (s : State) : exec (.sessionExpiry k) s = .next (sessionExpiry k s) := rfl
theorem exec_sessionMoveDone (k : Nat) (ok : Bool) (s : State) : exec (.sessionMoveDone k ok) s = .next (sessionMoveDone k ok s) := rfl
theorem exec_accountingBoundary (s : State) : exec .accountingBoundary s = .next (accountingBoundary s) := rfl

theorem makeRoom_of_place {fuel f size a : Nat} (h : coldPlace s f p size = some a) : makeRoom fuel f p size s = (some a, s) := by
  cases fuel with
  | zero => rw [makeRoom, h]
  | succ fuel => rw [makeRoom, h]

/-- A session that parks at a place of the cold pools. -/
def Session.parking (x : Session) (a deadline : Nat) : Session := { x with st := 3, cold := a, deadline := deadline }

theorem startPark_of_place {a : Nat} (hp : poolOf s (sess s k).fmt = some p)
    (ha : coldPlace s (sess s k).fmt p (imageSize p (sess s k).pos) = some a) :
    startPark k s = (true, setSess k ((sess s k).parking a (timeCounter s + ttlTicks s (sess s k).tenant (sess s k).ttl)) s) := by
  unfold startPark
  dsimp only
  rw [hp]
  dsimp only
  rw [makeRoom_of_place ha]
  rfl

section
variable (hs : canonical s = true) (hp : powered s = true) (hsil : s.recov.silent = false)
include hs hp hsil

theorem hotIdlePark_parks {a : Nat} (hst : (sess s k).st = 2)
    (hidle : (sess s k).idle + 1000000 * rdF s (tenReg (sess s k).tenant 12) 0 16 ≤ s.now) (hpool : poolOf s (sess s k).fmt = some p)
    (ha : coldPlace s (sess s k).fmt p (imageSize p (sess s k).pos) = some a) :
    ∃ t, exec (.hotIdlePark k) s = .next t ∧ memoriesStay s t ∧ t.csr = s.csr ∧
      sess t k = (sess s k).parking a (timeCounter s + ttlTicks s (sess s k).tenant (sess s k).ttl) ∧
      ∀ k', k' ≠ k → sess t k' = sess s k' := by
  have hpark : hotIdlePark k s = (startPark k s).2 := by
    simp [hotIdlePark, hp, hsil, hst, hidle]
  rw [exec_hotIdlePark, hpark, startPark_of_place hpool ha]
  exact ⟨_, rfl, ⟨rfl, rfl, rfl⟩, rfl, sess_setSess_same hs, fun k' hk => sess_setSess_other hs hk⟩

theorem sessionExpiry_expires (hn : (sess s k).tenant < 256) (hst : (sess s k).st = 4) (hd : (sess s k).deadline ≤ timeCounter s)
    (hb : boundBy s k = none) (hm : mayLeave s (sess s k).tenant = true) :
    ∃ t, exec (.sessionExpiry k) s = .next t ∧ counts s t (statReg (sess s k).tenant 10) 1 ∧ memoriesStay s t ∧
      (bitOf (tenCfg s (sess s k).tenant 0) 1 = false → sess t k = {}) ∧
      (bitOf (tenCfg s (sess s k).tenant 0) 1 = true → (sess t k).st = 6 ∧ counts s t (statReg (sess s k).tenant 12) 1) := by
  have hexp : sessionExpiry k s = expire 10 k s := by
    simp [sessionExpiry, hp, hsil, hst, hb, hm, Nat.not_lt.mpr hd]
  obtain ⟨w, hw⟩ : ∃ w, w = expiring 10 k s := ⟨_, rfl⟩
  have hcw : canonical w = true := hw ▸ canonical_expiring hs
  have hmem : memoriesStay s w := hw ▸ memoriesStay_expiring
  have hten : counts s w (statReg (sess s k).tenant 10) 1 := hw ▸ counts_expiring hs hn
  have hsess : sess w k = sess s k := hw ▸ sess_expiring k
  have htwelve : rd w (statReg (sess s k).tenant 12) = rd s (statReg (sess s k).tenant 12) := by
    rw [hw]
    refine rd_expiring hs hn not_sendReg_statReg ?_
    simp only [statReg]
    omega
  rw [exec_sessionExpiry, hexp, expire_eq hs hn, ← hw]
  cases hspill : bitOf (tenCfg s (sess s k).tenant 0) 1 with
  | false => exact ⟨_, rfl, hten, hmem, fun _ => sess_setSess_same hcw, nofun⟩
  | true =>
    obtain ⟨⟨htarn, hmere, hflash⟩, hsix, hcount, hreg⟩ := startSpill_begins (k := k) hcw rfl
    rw [hsess] at hcount hreg
    refine ⟨_, rfl, counts_after ?_ (hreg (csr_of_canonical hcw)).2 hten,
      ⟨htarn.trans hmem.1, hmere.trans hmem.2.1, hflash.trans hmem.2.2⟩, nofun, fun _ => ⟨hsix, counts_from htwelve hcount⟩⟩
    rintro (h | h)
    · exact not_spillReg_statReg h
    · simp only [statReg] at h
      omega

/-! ## The clauses on moves that end -/

theorem parkFailed (hst : (sess s k).st = 3) (hpool : poolOf s (sess s k).fmt = some p) :
    ∃ t, exec (.sessionMoveDone k false) s = .next t ∧ t.csr = s.csr ∧ memoriesStay s t ∧
      sess t k = { sess s k with st := 2, idle := s.now } := by
  have heq : sessionMoveDone k false s = setSess k { sess s k with st := 2, idle := s.now } s := by
    simp [sessionMoveDone, hp, hsil, hst, hpool]
  rw [exec_sessionMoveDone, heq]
  exact ⟨_, rfl, rfl, ⟨rfl, rfl, rfl⟩, sess_setSess_same hs⟩

end

/-- The session with its frames released, COLD. -/
def coldIn (k : Nat) (s : State) : State := setSess k { sess (releaseFrames k s) k with st := 4 } (releaseFrames k s)

theorem coldIn_keeps (hs : canonical s = true) (hpool : poolOf s (sess s k).fmt = some p) (ht : t = coldIn k s) :
    canonical t = true ∧ sess t k = { sess s k with st := 4, alloc := 0 } ∧ t.tarn = s.tarn ∧ t.flash = s.flash ∧
      t.requests = s.requests ∧ regsWithin moveReg s t ∧ t.mere = (entriesAbsent p k (sess s k).s0 (sess s k).alloc s).mere := by
  obtain ⟨w, hw⟩ : ∃ w, w = entriesAbsent p k (sess s k).s0 (sess s k).alloc s := ⟨_, rfl⟩
  have hmoves : Moves s w := hw ▸ moves_entriesAbsent ..
  have hrel : releaseFrames k s = setSess k { sess s k with alloc := 0 } w := hw ▸ releaseFrames_of_pool hpool
  have hc : canonical (releaseFrames k s) = true := canonical_releaseFrames hs
  have hcw : canonical w = true := by
    rw [hw]
    exact canonical_iter (fun _ _ h => canonical_mereWrite (canonical_wakeStack h)) hs
  have hsess : sess (releaseFrames k s) k = { sess s k with alloc := 0 } := by
    rw [hrel]
    exact sess_setSess_same hcw
  rw [ht, coldIn, hsess, ← hw]
  refine ⟨canonical_setSess hc, sess_setSess_same hc, ?_⟩
  rw [hrel]
  exact ⟨hmoves.tarn, hmoves.flash, hmoves.requests, hmoves.2.trans (.of_csr rfl), rfl⟩

/-- A move counted: one park or restore, and its units of Mere. -/
def moveCounted (n c units : Nat) (s : State) : State := bump (statReg n 13) units (bump (statReg n c) 1 s)

theorem moveCounted_counts {c units : Nat} (hc : c ≠ 13) (hs : swf resetWord s.csr = true) (ht : t = moveCounted n c units s) :
    counts s t (statReg n c) 1 ∧ counts s t (statReg n 13) units := by
  have hne : statReg n c ≠ statReg n 13 := by
    simp only [statReg]
    omega
  rw [ht, moveCounted]
  refine ⟨?_, counts_from (t := bump (statReg n c) 1 s) (rd_bump_other hs hne.symm) (rd_bump_same (swf_csr_bump hs))⟩
  rw [counts, rd_bump_other (swf_csr_bump hs) hne]
  exact rd_bump_same hs

/-- What becomes of a request whose session's restore failed. -/
def unrestored (k : Nat) (s : State) : State :=
  match boundBy s k with
  | some r => if r.st = 2 then endRequest r.acc 4 0 s else s
  | none => s

/-- The request of a session that is restored goes on to its prompt, or to its decodes. -/
def Request.goesOn (r : Request) : Request := if r.st = 2 then { r with st := if r.fed < r.toks.length then 3 else 4 } else r

/-- What becomes of a session that is restored: its request, or none. -/
def restored (k : Nat) (s : State) : State :=
  match boundBy s k with
  | some r => updReq r.acc Request.goesOn (setSess k { sess s k with st := 1 } s)
  | none => setSess k { sess s k with st := 2, idle := s.now } s

theorem unrestored_of_none (h : boundBy s k = none) : unrestored k s = s := by rw [unrestored, h]

theorem unrestored_of_some (h : boundBy s k = some r) (hst : r.st = 2) : unrestored k s = endRequest r.acc 4 0 s := by
  rw [unrestored, h]
  exact if_pos hst

theorem restored_of_none (h : boundBy s k = none) : restored k s = setSess k { sess s k with st := 2, idle := s.now } s := by
  rw [restored, h]

theorem restored_of_some (h : boundBy s k = some r) :
    restored k s = updReq r.acc Request.goesOn (setSess k { sess s k with st := 1 } s) := by rw [restored, h]

theorem boundBy_congr (h : t.requests = s.requests) (k : Nat) : boundBy t k = boundBy s k := by rw [boundBy, boundBy, h]

theorem boundBy_of_single (hr : s.requests = [r]) (hslot : r.slot = k) : boundBy s k = some r := by
  simp [boundBy, hr, hslot]

/-- A request whose session is COLD ends: its completion is queued, and the session stays. -/
theorem endRequest_of_cold {st mask : Nat} (hs : canonical s = true) (hr : s.requests = [r]) (hcold : (sess s r.slot).st = 4)
    (hq : r.q < 16384) : (endRequest r.acc st mask s).requests = [] ∧ completionOf (endRequest r.acc st mask s) r.q r.cid st ∧
      (endRequest r.acc st mask s).tarn = s.tarn := by
  obtain ⟨w, hw⟩ : ∃ w, w = { releaseUnits r s with requests := [] } := ⟨_, rfl⟩
  have hcw : canonical w = true := hw ▸ canonical_with_requests (canonical_releaseUnits hs)
  have heq : ∃ c : Completion, endRequest r.acc st mask s = queueCompletion c w ∧ c.q = r.q ∧ c.cid = r.cid ∧
      c.status = st := by
    have hfind : (s.requests.find? fun x => x.acc == r.acc) = some r := by simp [hr]
    have hfilter : ((releaseUnits r s).requests.filter fun x => x.acc != r.acc) = [] := by
      simp [releaseUnits, wr, updReq, hr]
    have hunbind : unbind r w = w := by
      have hst : (sess w r.slot).st = 4 := by
        rw [hw]
        exact hcold
      rw [unbind, hst, if_neg (by decide), if_neg (by decide)]
    rw [endRequest, hfind]
    simp only [hfilter, ← hw, hunbind]
    exact ⟨_, rfl, rfl, rfl, rfl⟩
  obtain ⟨c, hend, hcq, hcid, hstatus⟩ := heq
  obtain ⟨hkeep, -⟩ := keepsServed_queueCompletion (c := c) (s := w) (by omega)
  have hcompl := completionOf_queueCompletion (c := c) hcw
  rw [hcq, hcid, hstatus] at hcompl
  have hreqw : w.requests = [] := by rw [hw]
  have htarnw : w.tarn = s.tarn := by
    rw [hw]
    rfl
  rw [hend]
  exact ⟨(congrArg Served.requests hkeep).trans hreqw, hcompl, (congrArg Served.tarn hkeep).trans htarnw⟩

/-- The rows of a session have come back from its image, which is counted. -/
def rowsBack (k : Nat) (p : Pool) (s : State) : State :=
  moveCounted (sess s k).tenant 9 (imageSize p (sess s k).pos / 256) (moveRows true k p s)

theorem rowsBack_keeps (hs : canonical s = true) (hcold : (sess s k).cold < 24 * 2 ^ 37) (ht : t = rowsBack k p s) :
    canonical t = true ∧ sess t k = sess s k ∧ t.tarn = s.tarn ∧ t.requests = s.requests ∧ t.now = s.now ∧
      counts s t (statReg (sess s k).tenant 9) 1 := by
  have hmoves : Moves s (moveRows true k p s) := moves_moveRows true p hcold
  have hcm : canonical (moveRows true k p s) = true := canonical_moveRows hs
  obtain ⟨hone, -⟩ := moveCounted_counts (c := 9) (by decide) (csr_of_canonical hcm) ht
  refine ⟨ht ▸ canonical_bump (canonical_bump hcm), ?_, ?_, ?_, ?_,
    counts_before not_moveReg_statReg (hmoves.2 (csr_of_canonical hs)).2 hone⟩ <;> rw [ht]
  exacts [hmoves.sess k, hmoves.tarn, hmoves.requests, hmoves.now]

section
variable (hs : canonical s = true) (hp : powered s = true) (hsil : s.recov.silent = false)
  (hpool : poolOf s (sess s k).fmt = some p)
include hs hp hsil hpool

theorem parkDone (hn : (sess s k).tenant < 256) (hcold : (sess s k).cold < 24 * 2 ^ 37) (hst : (sess s k).st = 3)
    (hway : rowsReach false (sess s k) s = true) :
    ∃ t, exec (.sessionMoveDone k true) s = .next t ∧ t.tarn = s.tarn ∧ t.flash = s.flash ∧
      sess t k = { sess s k with st := 4, alloc := 0 } ∧ counts s t (statReg (sess s k).tenant 8) 1 ∧
      counts s t (statReg (sess s k).tenant 13) (imageSize p (sess s k).pos / 256) ∧
      t.mere = (entriesAbsent p k (sess s k).s0 (sess s k).alloc (moveRows false k p s)).mere := by
  obtain ⟨m, hm⟩ : ∃ m, m = moveRows false k p s := ⟨_, rfl⟩
  obtain ⟨w, hw⟩ : ∃ w, w = coldIn k m := ⟨_, rfl⟩
  obtain ⟨v, hv⟩ : ∃ v, v = moveCounted (sess s k).tenant 8 (imageSize p (sess s k).pos / 256) w := ⟨_, rfl⟩
  have hmoves : Moves s m := hm ▸ moves_moveRows false p hcold
  have hsess : sess m k = sess s k := hmoves.sess k
  have hcm : canonical m = true := hm ▸ canonical_moveRows hs
  have hpoolm : poolOf m (sess m k).fmt = some p := by rw [hsess, hmoves.poolOf hs, hpool]
  obtain ⟨hcw, hsessw, htarn, hflash, -, hreg, hmere⟩ := coldIn_keeps hcm hpoolm hw
  have heq : sessionMoveDone k true s = fireVec (sess s k).tenant 49 k v := by
    rw [hv, hw, hm]
    unfold sessionMoveDone
    extract_lets x units w1 w2
    rw [if_neg (by simp [hp, hsil, x, hst, hway]), hpool]
    dsimp only
    rw [if_pos hst, if_neg (by decide)]
    rfl
  have hregw := hmoves.2.trans hreg
  have hcsr := csr_of_canonical hs
  obtain ⟨hkeep, hsend⟩ := keepsServed_fireVec (s := v) (v := 49) (detail := k) hn
  obtain ⟨hone, hunits⟩ := moveCounted_counts (n := (sess s k).tenant) (c := 8) (by decide) (csr_of_canonical hcw) hv
  have hcsrv : swf resetWord v.csr = true := hv ▸ swf_csr_bump (swf_csr_bump (csr_of_canonical hcw))
  have hstat : ∀ {c n : Nat}, counts w v (statReg (sess s k).tenant c) n →
      counts s (fireVec (sess s k).tenant 49 k v) (statReg (sess s k).tenant c) n := fun h =>
    counts_after not_sendReg_statReg (hsend hcsrv).2 (counts_before not_moveReg_statReg (hregw hcsr).2 h)
  have hserved : served v = served w := hv ▸ rfl
  have hall := hkeep.trans hserved
  rw [exec_sessionMoveDone, heq]
  refine ⟨_, rfl, (congrArg Served.tarn hall).trans (htarn.trans hmoves.tarn),
    (congrArg Served.flash hall).trans (hflash.trans hmoves.flash), ?_, hstat hone, hstat hunits, ?_⟩
  · rw [sess_of_sessions (congrArg Served.sessions hall), hsessw, hsess]
  · rw [show (fireVec (sess s k).tenant 49 k v).mere = w.mere from congrArg Served.mere hall, hmere, hsess, hm]

section
variable (hst : (sess s k).st = 5)
include hst

omit hs in
theorem sessionMoveDone_of_unrestored : sessionMoveDone k false s = unrestored k (coldIn k s) := by
  unfold sessionMoveDone
  extract_lets x units w1 w2
  rw [if_neg (by simp [hp, hsil, x, hst]), hpool]
  dsimp only
  rw [if_neg (by simp [x, hst]), if_pos (by decide)]
  rfl

omit hs in
theorem sessionMoveDone_of_restored (hway : rowsReach true (sess s k) s = true) :
    sessionMoveDone k true s = restored k (rowsBack k p s) := by
  unfold sessionMoveDone
  extract_lets x units w1 w2
  rw [if_neg (by simp [hp, hsil, x, hst, hway]), hpool]
  dsimp only
  rw [if_neg (by simp [x, hst]), if_neg (by decide)]
  rfl

theorem restoreFailed (hb : boundBy s k = none) : ∃ t, exec (.sessionMoveDone k false) s = .next t ∧
    sess t k = { sess s k with st := 4, alloc := 0 } ∧ t.tarn = s.tarn := by
  obtain ⟨-, hsess, htarn, -, hreq, -⟩ := coldIn_keeps hs hpool rfl
  rw [exec_sessionMoveDone, sessionMoveDone_of_unrestored hp hsil hpool hst,
    unrestored_of_none ((boundBy_congr hreq k).trans hb)]
  exact ⟨_, rfl, hsess, htarn⟩

theorem restoreDone (hb : boundBy s k = none) (hcold : (sess s k).cold < 24 * 2 ^ 37)
    (hway : rowsReach true (sess s k) s = true) :
    ∃ t, exec (.sessionMoveDone k true) s = .next t ∧ sess t k = { sess s k with st := 2, idle := s.now } ∧ t.tarn = s.tarn ∧
      counts s t (statReg (sess s k).tenant 9) 1 := by
  obtain ⟨w, hw⟩ : ∃ w, w = rowsBack k p s := ⟨_, rfl⟩
  obtain ⟨hcw, hsess, htarn, hreq, hnow, hcount⟩ := rowsBack_keeps hs hcold hw
  rw [exec_sessionMoveDone, sessionMoveDone_of_restored hp hsil hpool hst hway, ← hw,
    restored_of_none ((boundBy_congr hreq k).trans hb), hsess, hnow]
  exact ⟨_, rfl, sess_setSess_same hcw, htarn, counts_congr rfl rfl hcount⟩

/-! ### With the one request held -/

variable (hr : s.requests = [r]) (hslot : r.slot = k) (hwait : r.st = 2)
include hr hslot hwait

theorem restoreFailed_of_request (hq : r.q < 16384) : ∃ t, exec (.sessionMoveDone k false) s = .next t ∧ t.requests = [] ∧
    completionOf t r.q r.cid 4 ∧ t.tarn = s.tarn := by
  obtain ⟨w, hw⟩ : ∃ w, w = coldIn k s := ⟨_, rfl⟩
  obtain ⟨hcw, hsess, htarn, -, hreq, -⟩ := coldIn_keeps hs hpool hw
  obtain ⟨hend, hcompl, hend_tarn⟩ := endRequest_of_cold (st := 4) (mask := 0) hcw (hreq.trans hr) (by rw [hslot, hsess]) hq
  rw [exec_sessionMoveDone, sessionMoveDone_of_unrestored hp hsil hpool hst, ← hw,
    unrestored_of_some ((boundBy_congr hreq k).trans (boundBy_of_single hr hslot)) hwait]
  exact ⟨_, rfl, hend, hcompl, hend_tarn.trans htarn⟩

theorem restoreDone_of_request (hcold : (sess s k).cold < 24 * 2 ^ 37) (hway : rowsReach true (sess s k) s = true) :
    ∃ t, exec (.sessionMoveDone k true) s = .next t ∧ sess t k = { sess s k with st := 1 } ∧ t.tarn = s.tarn ∧
      t.requests = [{ r with st := if r.fed < r.toks.length then 3 else 4 }] ∧ counts s t (statReg (sess s k).tenant 9) 1 := by
  obtain ⟨w, hw⟩ : ∃ w, w = rowsBack k p s := ⟨_, rfl⟩
  obtain ⟨hcw, hsess, htarn, hreq, -, hcount⟩ := rowsBack_keeps hs hcold hw
  have hon : (updReq r.acc Request.goesOn (setSess k { sess w k with st := 1 } w)).requests = [r.goesOn] :=
    updReq_of_single (s := setSess k { sess w k with st := 1 } w) (hreq.trans hr) _
  rw [exec_sessionMoveDone, sessionMoveDone_of_restored hp hsil hpool hst hway, ← hw,
    restored_of_some ((boundBy_congr hreq k).trans (boundBy_of_single hr hslot))]
  refine ⟨_, rfl, (sess_setSess_same hcw).trans (by rw [hsess]), htarn, ?_, counts_congr rfl rfl hcount⟩
  rw [hon, Request.goesOn, if_pos hwait]

end

end

/-! ## Runs of an operation over numbers, seen from one of them -/

/-- Where what each other number's operation keeps is kept by it in turn, a run is the operation of that number between
two that keep. -/
theorem iter_at {R : State → State → Prop} {f : Nat → State → State} {N : Nat} (hrefl : ∀ s, R s s)
    (htrans : ∀ {s t u}, R s t → R t u → R s u) (hf : ∀ m < N, m ≠ n → ∀ s, R s (f m s)) (hn : n < N) (s : State) :
    ∃ u, R s u ∧ R (f n u) (iter N f s) := by
  have hbefore : ∀ M ≤ n, R s (iter M f s) := by
    intro M hM
    induction M with
    | zero => exact hrefl s
    | succ M ih =>
      rw [iter_succ]
      exact htrans (ih (by omega)) (hf M (by omega) (by omega) _)
  refine ⟨iter n f s, hbefore n le_rfl, ?_⟩
  obtain ⟨d, rfl⟩ : ∃ d, N = n + 1 + d := ⟨N - (n + 1), by omega⟩
  induction d with
  | zero => exact iter_succ n f s ▸ hrefl _
  | succ d ih =>
    rw [← Nat.add_assoc, iter_succ]
    exact htrans (ih (fun m hm => hf m (by omega)) (by omega)) (hf _ (by omega) (by omega) _)

/-! ## Counters latched (R394) -/

/-- The words of one latched counter. -/
def latchWord (a b : Nat) : Prop := b = a ∨ b = a + 0x80

theorem regsWithin_latchStat (a : Nat) (s : State) : regsWithin (latchWord a) s (latchStat a s) :=
  regsWithin.trans (t := wr (a + 0x80) (rd s a) s) (regsWithin_wr (.inr rfl)) (regsWithin_wr (.inl rfl))

theorem rd_latchStat {a : Nat} (hs : swf resetWord s.csr = true) :
    rd (latchStat a s) (a + 0x80) = rd s a ∧ rd (latchStat a s) a = 0 :=
  ⟨(rd_wr_other (swf_csr_wr hs) (by omega)).trans (rd_wr_same hs), rd_wr_same (swf_csr_wr hs)⟩

/-- Every counter of a tenant is latched. -/
def latchStats (n : Nat) (s : State) : State := iter 16 (fun c s => latchStat (statReg n c) s) s

/-- The words of a tenant's counters and their latches. -/
def statWord (n a : Nat) : Prop := ∃ c < 16, latchWord (statReg n c) a

theorem statWord_range {a : Nat} (h : statWord n a) : 0x1000000 + 0x100 * n ≤ a ∧ a < 0x1000000 + 0x100 * n + 0xC0 := by
  obtain ⟨c, hc, h | h⟩ := h <;> simp only [statReg] at h <;> omega

theorem regsWithin_latchStats (n : Nat) (s : State) : regsWithin (statWord n) s (latchStats n s) :=
  regsWithin_foldl fun s c hc => (regsWithin_latchStat _ s).mono fun _ h => ⟨c, List.mem_range.mp hc, h⟩

theorem rd_latchStats {c : Nat} (hs : swf resetWord s.csr = true) (hc : c < 16) :
    rd (latchStats n s) (statReg n c + 0x80) = rd s (statReg n c) ∧ rd (latchStats n s) (statReg n c) = 0 := by
  obtain ⟨u, hsu, hend⟩ := iter_at (R := regsWithin fun a => ¬ latchWord (statReg n c) a) (n := c) (N := 16)
    (f := fun c s => latchStat (statReg n c) s) (fun s => .of_csr rfl) .trans
    (fun m hm hne s => (regsWithin_latchStat _ s).mono fun a h h' => by
      simp only [latchWord, statReg] at h h'
      omega) hc s
  have hu := hsu hs
  have hl := regsWithin_latchStat (statReg n c) u hu.1
  obtain ⟨hlatch, hzero⟩ := rd_latchStat (a := statReg n c) hu.1
  have hfin := (hend hl.1).2
  refine ⟨(hfin _ (not_not.mpr (.inr rfl))).trans (hlatch.trans (hu.2 _ (not_not.mpr (.inl rfl)))),
    (hfin _ (not_not.mpr (.inl rfl))).trans hzero⟩

/-! ## The boundary's work for a tenant -/

/-- The state but for registers, what sending changes, and the accounts of tenants. -/
def offAcct (s : State) : State := { offSend s with charged := [], refill := [] }

/-- The units that a tenant has from the boundary on. -/
def renewed (n : Nat) (s : State) : Nat := max (rd s (tenReg n 8)).toNat (rd s (tenReg n 6)).toNat

/-- A tenant's account renewed. -/
def renew (n : Nat) (s : State) : State :=
  wr (tenReg n 7) (Word.ofNat (renewed n s - (rd s (tenReg n 8)).toNat))
    { s with charged := sset (fun _ => 0) n 0 s.charged, refill := sset (fun _ => 0) n (renewed n s) s.refill }

theorem tenantBoundary_cases (n : Nat) (s : State) : ∃ d, tenantBoundary n s = renew n (latchStats n s) ∨
    tenantBoundary n s = fireVec n 48 d (renew n (latchStats n s)) := by
  refine ⟨renewed n (latchStats n s) - (rd (latchStats n s) (tenReg n 8)).toNat, ?_⟩
  simp only [tenantBoundary]
  split
  · exact .inr rfl
  · exact .inl rfl

theorem offAcct_fireVec (n v detail : Nat) (s : State) : offAcct (fireVec n v detail s) = offAcct s :=
  congrArg (fun s : State => { s with charged := [], refill := [] }) (offSend_fireVec n v detail s)

theorem offAcct_latchStat (a : Nat) (s : State) : offAcct (latchStat a s) = offAcct s := rfl

theorem offAcct_latchStats (n : Nat) (s : State) : offAcct (latchStats n s) = offAcct s := by
  rw [latchStats]
  exact iter_keeps offAcct (fun c s => offAcct_latchStat (statReg n c) s) 16 s

theorem offAcct_renew (n : Nat) (s : State) : offAcct (renew n s) = offAcct s := rfl

theorem offAcct_tenantBoundary (n : Nat) (s : State) : offAcct (tenantBoundary n s) = offAcct s := by
  have hrenew : offAcct (renew n (latchStats n s)) = offAcct s := (offAcct_renew ..).trans (offAcct_latchStats n s)
  obtain ⟨d, h | h⟩ := tenantBoundary_cases n s <;> rw [h]
  · exact hrenew
  · exact (offAcct_fireVec ..).trans hrenew

/-- Words that the boundary may change for a tenant. -/
def boundaryWord (n a : Nat) : Prop := statWord n a ∨ a = tenReg n 7 ∨ sendReg a

theorem regsWithin_renew (n : Nat) (s : State) : regsWithin (boundaryWord n) s (renew n s) :=
  regsWithin.trans (t := { s with charged := _, refill := _ }) (.of_csr rfl) (regsWithin_wr (.inr (.inl rfl)))

theorem regsWithin_tenantBoundary (hn : n < 256) (s : State) : regsWithin (boundaryWord n) s (tenantBoundary n s) := by
  have hrenew : regsWithin (boundaryWord n) s (renew n (latchStats n s)) :=
    ((regsWithin_latchStats n s).mono fun _ => .inl).trans (regsWithin_renew n _)
  obtain ⟨d, h | h⟩ := tenantBoundary_cases n s <;> rw [h]
  · exact hrenew
  · exact hrenew.trans ((keepsServed_fireVec hn).2.mono fun _ h => .inr (.inr h))

/-- What sending changes is none of the accounts. -/
theorem accounts_fireVec (n v detail : Nat) (s : State) :
    (fireVec n v detail s).charged = s.charged ∧ (fireVec n v detail s).refill = s.refill :=
  have hoff := offSend_fireVec n v detail s
  ⟨(congrArg State.charged hoff :), (congrArg State.refill hoff :)⟩

theorem accounts_latchStats (n : Nat) (s : State) : (latchStats n s).charged = s.charged ∧ (latchStats n s).refill = s.refill := by
  rw [latchStats]
  exact ⟨iter_keeps (·.charged) (fun c s => (rfl : (latchStat (statReg n c) s).charged = s.charged)) 16 s,
    iter_keeps (·.refill) (fun c s => (rfl : (latchStat (statReg n c) s).refill = s.refill)) 16 s⟩

theorem accounts_tenantBoundary (n : Nat) (s : State) :
    (tenantBoundary n s).charged = sset (fun _ => 0) n 0 s.charged ∧
      (tenantBoundary n s).refill = sset (fun _ => 0) n (renewed n (latchStats n s)) s.refill := by
  obtain ⟨hc, hr⟩ := accounts_latchStats n s
  have hrenew : (renew n (latchStats n s)).charged = sset (fun _ => 0) n 0 s.charged ∧
      (renew n (latchStats n s)).refill = sset (fun _ => 0) n (renewed n (latchStats n s)) s.refill :=
    ⟨congrArg (sset _ n 0) hc, congrArg (sset _ n _) hr⟩
  obtain ⟨d, h | h⟩ := tenantBoundary_cases n s <;> rw [h]
  · exact hrenew
  · obtain ⟨hc', hr'⟩ := accounts_fireVec n 48 d (renew n (latchStats n s))
    exact ⟨hc'.trans hrenew.1, hr'.trans hrenew.2⟩

/-- Words of a tenant's account and counters. -/
def accountWord (n a : Nat) : Prop := statWord n a ∨ a = tenReg n 6 ∨ a = tenReg n 7 ∨ a = tenReg n 8

theorem not_sendReg_of_accountWord {a : Nat} (h : accountWord n a) : ¬ sendReg a := by
  rcases h with h | rfl | rfl | rfl
  · have := statWord_range h
    simp only [sendReg]
    omega
  all_goals
    simp only [sendReg, tenReg]
    omega

theorem not_boundaryWord_of_accountWord {a : Nat} (hn : n < 256) (hm : m < 256) (hne : m ≠ n) (h : accountWord n a) :
    ¬ boundaryWord m a := by
  rintro (h' | h' | h')
  · have hm' := statWord_range h'
    rcases h with h | rfl | rfl | rfl
    · have := statWord_range h
      omega
    all_goals
      simp only [tenReg] at hm'
      omega
  · rcases h with h | rfl | rfl | rfl
    · have := statWord_range h
      simp only [tenReg] at h'
      omega
    all_goals
      simp only [tenReg] at h'
      omega
  · exact not_sendReg_of_accountWord h h'

/-- A tenant's account and counters, and that the stores keep their form: what the boundaries of other tenants keep. -/
def KeepsAccount (n : Nat) (s t : State) : Prop := canonical s = true → canonical t = true ∧
  (∀ a, accountWord n a → rd t a = rd s a) ∧
  chargedOf t n = chargedOf s n ∧ refillOf t n = refillOf s n

theorem KeepsAccount.refl (n : Nat) (s : State) : KeepsAccount n s s := fun h => ⟨h, fun _ _ => rfl, rfl, rfl⟩

theorem KeepsAccount.trans (h : KeepsAccount n s t) (h' : KeepsAccount n t u) : KeepsAccount n s u := fun hs =>
  have ⟨ht, hrd, hc, hr⟩ := h hs
  have ⟨hu, hrd', hc', hr'⟩ := h' ht
  ⟨hu, fun a ha => (hrd' a ha).trans (hrd a ha), hc'.trans hc, hr'.trans hr⟩

theorem refill_of_canonical (h : canonical s = true) : swf (fun _ => 0) s.refill = true := by
  simp only [canonical, storesCanonical, Bool.and_eq_true] at h
  simp only [h]

theorem keepsAccount_tenantBoundary (hm : m < 256) (hn : n < 256) (hne : m ≠ n) (s : State) :
    KeepsAccount n s (tenantBoundary m s) := fun hs => by
  obtain ⟨hc, hr⟩ := accounts_tenantBoundary m s
  refine ⟨canonical_tenantBoundary hs, fun a ha => ?_, ?_, ?_⟩
  · exact rd_of_regsWithin (regsWithin_tenantBoundary hm s) (csr_of_canonical hs) (not_boundaryWord_of_accountWord hn hm hne ha)
  · rw [chargedOf, hc]
    exact sget_sset_other (charged_of_canonical hs) hne.symm
  · rw [refillOf, hr]
    exact sget_sset_other (refill_of_canonical hs) hne.symm

theorem keepsAccount_fireVec (hm : m < 256) (v detail : Nat) (s : State) : KeepsAccount n s (fireVec m v detail s) := fun hs => by
  obtain ⟨hc, hr⟩ := accounts_fireVec m v detail s
  refine ⟨canonical_fireVec hs, fun a ha => ?_, by rw [chargedOf, hc, chargedOf], by rw [refillOf, hr, refillOf]⟩
  exact rd_of_regsWithin (keepsServed_fireVec hm).2 (csr_of_canonical hs) (not_sendReg_of_accountWord ha)

/-- What the boundary has done for a tenant: its counters are latched and cleared, nothing is charged, and its units are
renewed. -/
def AtBoundary (n : Nat) (s t : State) : Prop :=
  (∀ c, c < 16 → rd t (statReg n c + 0x80) = rd s (statReg n c) ∧ rd t (statReg n c) = 0) ∧ chargedOf t n = 0 ∧
    refillOf t n = renewed n s ∧ (rd t (tenReg n 7)).toNat = renewed n s - (rd s (tenReg n 8)).toNat ∧
    rd t (tenReg n 8) = rd s (tenReg n 8)

theorem accountWord_tenReg {w : Nat} (hw : w = 6 ∨ w = 7 ∨ w = 8) : accountWord n (tenReg n w) := by
  rcases hw with rfl | rfl | rfl
  exacts [.inr (.inl rfl), .inr (.inr (.inl rfl)), .inr (.inr (.inr rfl))]

/-- What is kept of the account before and after does not matter. -/
theorem AtBoundary.of_keeps {w : State} (hs : canonical s = true) (hst : KeepsAccount n s t)
    (hb : canonical t = true → canonical u = true ∧ AtBoundary n t u) (huw : KeepsAccount n u w) : AtBoundary n s w := by
  obtain ⟨hct, hrd, -, -⟩ := hst hs
  obtain ⟨hcu, hstats, hcharged, hrefill, hleft, hres⟩ := hb hct
  obtain ⟨-, hrd', hcharged', hrefill'⟩ := huw hcu
  have hrenewed : renewed n t = renewed n s := by
    rw [renewed, hrd _ (accountWord_tenReg (by simp)), hrd _ (accountWord_tenReg (by simp)), renewed]
  refine ⟨fun c hc => ?_, hcharged'.trans hcharged, hrefill'.trans (hrefill.trans hrenewed), ?_, ?_⟩
  · have hlive : accountWord n (statReg n c) := .inl ⟨c, hc, .inl rfl⟩
    have hlatched : accountWord n (statReg n c + 0x80) := .inl ⟨c, hc, .inr rfl⟩
    rw [hrd' _ hlive, hrd' _ hlatched, ← hrd _ hlive]
    exact hstats c hc
  · rw [hrd' _ (accountWord_tenReg (by simp)), hleft, hrenewed, hrd _ (accountWord_tenReg (by simp))]
  · rw [hrd' _ (accountWord_tenReg (by simp)), hres, hrd _ (accountWord_tenReg (by simp))]

theorem canonical_latchStats (hs : canonical s = true) : canonical (latchStats n s) = true :=
  canonical_iter (fun _ _ h => canonical_latchStat h) hs

theorem canonical_renew (hs : canonical s = true) : canonical (renew n s) = true :=
  canonical_wr (canonical_with_refill (canonical_with_charged hs swf_sset) swf_sset)

theorem charged_renew (n : Nat) (s : State) : (renew n s).charged = sset (fun _ => 0) n 0 s.charged := rfl

theorem refill_renew (n : Nat) (s : State) : (renew n s).refill = sset (fun _ => 0) n (renewed n s) s.refill := rfl

/-- LEFT is what REFILL leaves beside the units reserved; no other word changes. -/
theorem rd_renew (hs : swf resetWord s.csr = true) :
    rd (renew n s) (tenReg n 7) = Word.ofNat (renewed n s - (rd s (tenReg n 8)).toNat) ∧
      ∀ a, a ≠ tenReg n 7 → rd (renew n s) a = rd s a :=
  ⟨rd_wr_same (s := { s with charged := _, refill := _ }) hs,
    fun _ ha => rd_wr_other (s := { s with charged := _, refill := _ }) hs ha⟩

theorem renew_renews (hs : canonical s = true) : AtBoundary n s (renew n (latchStats n s)) := by
  have hcsr := csr_of_canonical hs
  have hc := canonical_latchStats (n := n) hs
  have hcsrl := csr_of_canonical hc
  obtain ⟨hcharged, hrefill⟩ := accounts_latchStats n s
  have hten : ∀ w ≤ 8, rd (latchStats n s) (tenReg n w) = rd s (tenReg n w) := fun w hw =>
    rd_of_regsWithin (regsWithin_latchStats n s) hcsr fun h => by
      have := statWord_range h
      simp only [tenReg] at this
      omega
  have hrenewed : renewed n (latchStats n s) = renewed n s := by rw [renewed, hten 8 le_rfl, hten 6 (by decide), renewed]
  obtain ⟨hleft, hother⟩ := rd_renew (n := n) hcsrl
  refine ⟨fun c hc => ?_, ?_, ?_, ?_, ?_⟩
  · rw [hother, hother]
    · exact rd_latchStats hcsr hc
    all_goals
      simp only [statReg, tenReg]
      omega
  · rw [chargedOf, charged_renew]
    exact sget_sset_same (charged_of_canonical hc)
  · rw [refillOf, refill_renew, hrenewed]
    exact sget_sset_same (refill_of_canonical hc)
  · rw [hleft, hrenewed, hten 8 le_rfl, Word.ofNat, BitVec.toNat_ofNat, Nat.mod_eq_of_lt]
    have := (rd s (tenReg n 8)).isLt
    have := (rd s (tenReg n 6)).isLt
    simp only [renewed]
    omega
  · rw [hother _ (tenReg_ne (by decide)), hten 8 le_rfl]

theorem tenantBoundary_renews (hn : n < 256) (hs : canonical s = true) : AtBoundary n s (tenantBoundary n s) := by
  have hrenew : canonical s = true → canonical (renew n (latchStats n s)) = true ∧ AtBoundary n s (renew n (latchStats n s)) :=
    fun hs => ⟨canonical_renew (canonical_latchStats hs), renew_renews hs⟩
  obtain ⟨d, h | h⟩ := tenantBoundary_cases n s <;> rw [h]
  · exact renew_renews hs
  · exact AtBoundary.of_keeps hs (KeepsAccount.refl n s) hrenew (keepsAccount_fireVec hn 48 d _)

/-! ## ACCOUNTING_BOUNDARY -/

/-- A period that begins: the accounts' time, the part's count of periods, and the part's own counter latched. -/
def periodBegun (s : State) : State :=
  latchStat 0x1010004 (addWrap 0x1010000 1 { s with acctP := acctPeriod s, acctAt := timeCounter s })

/-- The boundary's work for tenants below a number, and their vectors. -/
def boundaries (n : Nat) (s : State) : State := iter n tenantBoundary s
def boundaryVectors (n : Nat) (s : State) : State := iter n (fun n s => fireVec n 52 (rd s 0x1010000).toNat s) s

theorem accountingBoundary_eq (hp : powered s = true) (ht : timeCounter s % (s.acctP * 10 ^ 6) = 0) (hne : timeCounter s ≠ s.acctAt) :
    accountingBoundary s = boundaryVectors 256 (boundaries 256 (periodBegun s)) := by
  unfold accountingBoundary
  extract_lets x w1 w2
  rw [if_neg (by simpa [hp, x, hne] using ht)]
  rfl

theorem accountingBoundary_between (ht : timeCounter s % (s.acctP * 10 ^ 6) ≠ 0) : accountingBoundary s = s := by
  unfold accountingBoundary
  have hoff : (timeCounter s % (s.acctP * 10 ^ 6) != 0) = true := by simpa using ht
  dsimp only
  rw [if_pos (by rw [hoff, Bool.or_true, Bool.true_or])]

section
variable (hs : canonical s = true)
include hs

theorem canonical_periodBegun : canonical (periodBegun s) = true := canonical_latchStat (canonical_addWrap (by exact hs))

theorem periodBegun_counts : rd (periodBegun s) 0x1010000 = rd s 0x1010000 + 1 ∧ rd (periodBegun s) 0x1010084 = rd s 0x1010004 ∧
    rd (periodBegun s) 0x1010004 = 0 := by
  obtain ⟨w, hw⟩ : ∃ w, w = addWrap 0x1010000 1 { s with acctP := acctPeriod s, acctAt := timeCounter s } := ⟨_, rfl⟩
  have hcsr := csr_of_canonical hs
  have hcsrw : swf resetWord w.csr = true := hw ▸ swf_csr_wr hcsr
  have hadd : rd w 0x1010000 = rd s 0x1010000 + 1 := by
    rw [hw, addWrap, rd_wr_same (by exact hcsr), ofNat_toNat_add]
    rfl
  have hfour : rd w 0x1010004 = rd s 0x1010004 := by
    rw [hw, addWrap, rd_wr_other (by exact hcsr) (by decide)]
    rfl
  obtain ⟨hlatch, hzero⟩ := rd_latchStat (a := 0x1010004) hcsrw
  rw [periodBegun, ← hw]
  refine ⟨?_, hlatch.trans hfour, hzero⟩
  rw [rd_of_regsWithin (regsWithin_latchStat 0x1010004 w) hcsrw (by simp [latchWord]), hadd]

end

theorem keepsAccount_periodBegun (hn : n < 256) (s : State) : KeepsAccount n s (periodBegun s) := fun hs => by
  refine ⟨canonical_periodBegun hs, fun a ha => ?_, rfl, rfl⟩
  have hlt : a < 0x1010000 := by
    rcases ha with h | rfl | rfl | rfl
    · have := statWord_range h
      omega
    all_goals
      simp only [tenReg]
      omega
  have hreg : regsWithin (fun a => 0x1010000 ≤ a) s (periodBegun s) :=
    regsWithin.trans (t := addWrap 0x1010000 1 { s with acctP := acctPeriod s, acctAt := timeCounter s })
      (regsWithin.trans (t := { s with acctP := acctPeriod s, acctAt := timeCounter s }) (.of_csr rfl) (regsWithin_wr (by decide)))
      ((regsWithin_latchStat 0x1010004 _).mono fun a ha => by simp only [latchWord] at ha; omega)
  exact rd_of_regsWithin hreg (csr_of_canonical hs) (by omega)

/-- Each tenant's account is settled once. -/
theorem boundaries_settles (hn : n < 256) (hs : canonical s = true) : AtBoundary n s (boundaries 256 s) := by
  obtain ⟨u, hsu, hend⟩ := iter_at (R := KeepsAccount n) (f := tenantBoundary) (N := 256) (KeepsAccount.refl n) KeepsAccount.trans
    (fun m hm hne s => keepsAccount_tenantBoundary hm hn hne s) hn s
  exact AtBoundary.of_keeps hs hsu (fun hu => ⟨canonical_tenantBoundary hu, tenantBoundary_renews hn hu⟩) hend

theorem keepsAccount_boundaryVectors (s : State) : KeepsAccount n s (boundaryVectors 256 s) := by
  have hall : ∀ (l : List Nat) (s : State), (∀ m ∈ l, m < 256) →
      KeepsAccount n s (l.foldl (fun s m => fireVec m 52 (rd s 0x1010000).toNat s) s) := by
    intro l
    induction l with
    | nil => exact fun s _ => .refl n s
    | cons m l ih => exact fun s hl => (keepsAccount_fireVec (hl m (by simp)) 52 _ s).trans (ih _ fun x hx => hl x (by simp [hx]))
  exact hall _ s fun m hm => List.mem_range.mp hm

theorem offAcct_boundaries (N : Nat) (s : State) : offAcct (boundaries N s) = offAcct s :=
  iter_keeps offAcct (fun n s => offAcct_tenantBoundary n s) N s

theorem offAcct_boundaryVectors (N : Nat) (s : State) : offAcct (boundaryVectors N s) = offAcct s :=
  iter_keeps offAcct (fun n s => offAcct_fireVec n 52 _ s) N s

/-- The part's own words of the accounts. -/
def partWord (a : Nat) : Prop := a = 0x1010000 ∨ a = 0x1010004 ∨ a = 0x1010084

theorem not_boundaryWord_of_partWord {a : Nat} (hn : n < 256) (h : partWord a) : ¬ boundaryWord n a := by
  simp only [partWord] at h
  rintro (h' | h' | h')
  · have := statWord_range h'
    omega
  · simp only [tenReg] at h'
    omega
  · simp only [sendReg] at h'
    omega

theorem regsWithin_boundaries (s : State) : regsWithin (fun a => ¬ partWord a) s (boundaries 256 s) :=
  regsWithin_foldl fun s _ hm => (regsWithin_tenantBoundary (List.mem_range.mp hm) s).mono fun _ ha h =>
    not_boundaryWord_of_partWord (List.mem_range.mp hm) h ha

theorem regsWithin_boundaryVectors (s : State) : regsWithin (fun a => ¬ partWord a) s (boundaryVectors 256 s) :=
  regsWithin_foldl fun _ _ hm => (keepsServed_fireVec (List.mem_range.mp hm)).2.mono fun _ ha h =>
    not_boundaryWord_of_partWord (List.mem_range.mp hm) h (.inr (.inr ha))

theorem accountingBoundary_settles (hs : canonical s = true) (hp : powered s = true)
    (ht : timeCounter s % (s.acctP * 10 ^ 6) = 0) (hne : timeCounter s ≠ s.acctAt) :
    ∃ t, exec .accountingBoundary s = .next t ∧ memoriesStay s t ∧ t.acctAt = timeCounter s ∧ t.acctP = acctPeriod s ∧
      rd t 0x1010000 = rd s 0x1010000 + 1 ∧ rd t 0x1010084 = rd s 0x1010004 ∧ rd t 0x1010004 = 0 ∧
      ∀ n, n < 256 → AtBoundary n s t := by
  obtain ⟨w, hw⟩ : ∃ w, w = periodBegun s := ⟨_, rfl⟩
  obtain ⟨v, hv⟩ : ∃ v, v = boundaries 256 w := ⟨_, rfl⟩
  obtain ⟨t, htv⟩ : ∃ t, t = boundaryVectors 256 v := ⟨_, rfl⟩
  have heq : accountingBoundary s = t := by rw [accountingBoundary_eq hp ht hne, htv, hv, hw]
  have hcw : canonical w = true := hw ▸ canonical_periodBegun hs
  obtain ⟨hone, hlatch, hzero⟩ := hw ▸ periodBegun_counts hs
  have hoff : offAcct t = offAcct w := by rw [htv, offAcct_boundaryVectors, hv, offAcct_boundaries]
  have hregs : regsWithin (fun a => ¬ partWord a) w t := by
    rw [htv, hv]
    exact (regsWithin_boundaries w).trans (regsWithin_boundaryVectors _)
  have hpart : ∀ a, partWord a → rd t a = rd w a := fun a ha => rd_of_regsWithin hregs (csr_of_canonical hcw) (not_not.mpr ha)
  have htarn : t.tarn = w.tarn := (congrArg State.tarn hoff :)
  have hmere : t.mere = w.mere := (congrArg State.mere hoff :)
  have hflash : t.flash = w.flash := (congrArg State.flash hoff :)
  have hat : t.acctAt = w.acctAt := (congrArg State.acctAt hoff :)
  have hper : t.acctP = w.acctP := (congrArg State.acctP hoff :)
  have hkept : w.tarn = s.tarn ∧ w.mere = s.mere ∧ w.flash = s.flash ∧ w.acctAt = timeCounter s ∧ w.acctP = acctPeriod s := by
    rw [hw]
    exact ⟨rfl, rfl, rfl, rfl, rfl⟩
  obtain ⟨hwt, hwm, hwf, hwa, hwp⟩ := hkept
  refine ⟨t, by rw [exec_accountingBoundary, heq], ⟨htarn.trans hwt, hmere.trans hwm, hflash.trans hwf⟩, hat.trans hwa,
    hper.trans hwp, (hpart _ (.inl rfl)).trans hone, (hpart _ (.inr (.inr rfl))).trans hlatch,
    (hpart _ (.inr (.inl rfl))).trans hzero, fun n hn => ?_⟩
  refine AtBoundary.of_keeps hs (hw ▸ keepsAccount_periodBegun hn s) (fun hc => ?_) (htv ▸ keepsAccount_boundaryVectors v)
  rw [hv]
  exact ⟨canonical_iter (fun _ _ h => canonical_tenantBoundary h) hc, boundaries_settles hn hc⟩

/-! ## O53 -/

/-- Settles O53: each clause by the lemma on its command; an expiry is the counter and the vector before a spill or a free slot, a
move that ends is the rows moved and the frames released, and the boundary settles each tenant's account once. -/
theorem sessionsMove : Obligations.SessionsMove := by
  unfold Obligations.SessionsMove
  intro s hs hp
  refine ⟨fun k hsil => ?_, fun ht hne => ?_, fun ht => ?_⟩
  · intro x hn hcold
    refine ⟨fun hst hidle p a hpool ha => hotIdlePark_parks hs hp hsil hst hidle hpool ha,
      fun hst hd hb hm => sessionExpiry_expires hs hp hsil hn hst hd hb hm, fun p hpool => ⟨
        fun hst => parkFailed hs hp hsil hst hpool, fun hst hway => ?_,
        fun hst hb => ⟨restoreFailed hs hp hsil hpool hst hb,
          fun hway => restoreDone hs hp hsil hpool hst hb hcold hway⟩,
        fun r hst hr hslot hwait hq => ⟨restoreFailed_of_request hs hp hsil hpool hst hr hslot hwait hq,
          fun hway => restoreDone_of_request hs hp hsil hpool hst hr hslot hwait hcold hway⟩⟩⟩
    obtain ⟨t, hexec, htarn, hflash, hsess, hpark, hunits, hmere⟩ := parkDone hs hp hsil hpool hn hcold hst hway
    refine ⟨t, hexec, htarn, hflash, hsess, hpark, hunits, ?_⟩
    intro fr hnl h1 h16 hf im hapart
    rw [mereRead_congr hmere, (mereRead_entriesAbsent (mere_of_canonical (canonical_moveRows hs)) hapart).2]
    exact mereRead_moveRows_of_stripe hs hnl h1 h16 hf
  · exact accountingBoundary_settles hs hp ht hne
  · rw [exec_accountingBoundary, accountingBoundary_between ht]

end Sys2Proof.Machine
end
